-- ==== Sys2Proof/Word.lean ====
section
/-! DEFINITION. The machine's word types. -/

namespace Sys2Proof

/-- A byte of memory. -/
abbrev Byte := BitVec 8
/-- A 32-bit register or memory word (R39, R4). -/
abbrev Word := BitVec 32
/-- A 64-bit register or memory word (R44). -/
abbrev DWord := BitVec 64
/-- A mask with bit l for lane l (R52). -/
abbrev LaneMask := BitVec 64
/-- One instruction word (R84). -/
abbrev SlotWord := BitVec 96
/-- One fetch line (R18). -/
abbrev LineBits := BitVec 512

end Sys2Proof
end

