-- ==== Sys2Proof/Config.lean ====
section
/-! DEFINITION. What one part fixes (R9, R10, R40), and the free values the spec leaves open. -/

namespace Sys2Proof.Config

/-- W, the group width (R2, R52 `sr.gwidth`). -/
abbrev lanes : Nat := 64
/-- Compute dies (R9). -/
abbrev dies : Nat := 4
/-- Cores of one die (R9). -/
abbrev coresPerDie : Nat := 48
/-- Cores of the device (R9). -/
abbrev cores : Nat := 192
/-- Bytes of one core's team-shared memory (R9). -/
abbrev sharedBytes : Nat := 524288
/-- Bytes of one die's Yard (R9). -/
abbrev yardBytes : Nat := 100663296
/-- Bytes of one HBM region, 1 GiB (R362). -/
abbrev regionBytes : Nat := 1073741824
/-- HBM regions (R362). -/
abbrev regions : Nat := 432
/-- Instruction-buffer lines of one core (R36). -/
abbrev ibufLines : Nat := 512
/-- Monitor-table entries of one core (R168). -/
abbrev monEntries : Nat := 32
/-- Leave units of the pool, in thousandths (R15, R188). -/
abbrev leavePool : Nat := 1000000

/-- Core cycles that pass in one step of the model: a FREE VALUE for each step (log 3). -/
opaque elapsed : Nat → Nat
/-- How far one core's cycle count runs from the model's clock: a FREE VALUE for each core (log 9). -/
opaque cycleSkew : Nat → BitVec 64
/-- Data bytes the spec leaves undefined, such as those of a poisoned destination unit (R163):
a FREE VALUE for each use (log 15). -/
opaque freeByte : Nat → BitVec 8
/-- The result of the sweep function decay on `I32` where it leaves the range of the format (R213): a FREE VALUE for each
element and argument (log 23). -/
opaque decayOverflow : BitVec 32 → BitVec 32 → BitVec 32

/-- The frame that the loader takes for a page that it maps, and for a table on the way to it (R328): a FREE VALUE for each
use (log 29). -/
opaque loadFrame : Nat → Nat
/-- The digests of the images that the device was made with (R475), by the index of the measurement and the byte: FREE
VALUES (log 20). -/
opaque imageDigest : Nat → Nat → BitVec 8

/-- ECDSA on P-384 over a SHA-384 digest, against the key that is fused into the IOD (R471): whether a signature holds of a
digest, a FREE VALUE for each pair (log 66). -/
opaque verifies : List (BitVec 8) → List (BitVec 8) → Bool

/-- The certificate chain of the device's identity key (R475): FREE VALUES (log 66). -/
opaque certificateChain : List (List (BitVec 8))

/-- The request of a `GET_MEASUREMENTS`, which its transcript holds (R475): a FREE VALUE for each use (log 66). -/
opaque spdmRequest : Nat → List (BitVec 8)

/-- The signature of an answer to `GET_MEASUREMENTS` under the device's identity key (R475), byte by byte: a FREE VALUE for
each transcript (log 66). -/
opaque signature : List (List (BitVec 8)) → Nat → BitVec 8

/-- This device's number on the fabric (R445), which the switch gives it: a FREE VALUE (log 26). -/
opaque deviceNo : Nat

end Sys2Proof.Config
end

