-- ==== Sys2Proof/Machine/Sparse.lean ====
section
/-! DEFINITION. Finite maps as lists of pairs in one canonical form: keys strictly rising and, where a map has a
default, no entry that holds the default. -/

namespace Sys2Proof

/-- A finite map from numbers. -/
abbrev Sparse (α : Type) := List (Nat × α)

namespace Machine

variable {α : Type}

/-- The entry of key k, if there is one. -/
def sfind : Sparse α → Nat → Option α
  | [], _ => none
  | (k', v) :: t, k => if k = k' then some v else sfind t k

/-- The value of key k, or the default. -/
def sget (d : α) (m : Sparse α) (k : Nat) : α := (sfind m k).getD d

/-- The map with key k at v. -/
def sput : Sparse α → Nat → α → Sparse α
  | [], k, v => [(k, v)]
  | (k', v') :: t, k, v =>
    if k < k' then (k, v) :: (k', v') :: t
    else if k = k' then (k, v) :: t
    else (k', v') :: sput t k v

/-- The map without key k. -/
def sdel (m : Sparse α) (k : Nat) : Sparse α := m.filter fun e => e.1 ≠ k

/-- The map with key k at v, where writing the default removes the entry. -/
def sset [DecidableEq α] (d : α) (m : Sparse α) (k : Nat) (v : α) : Sparse α :=
  if v = d then sdel m k else sput m k v

/-- The map without the n keys from lo on. -/
def sclear (m : Sparse α) (lo n : Nat) : Sparse α := m.filter fun e => e.1 < lo ∨ lo + n ≤ e.1

/-- The map with the entry of key k changed by f, where it has one. -/
def supd (m : Sparse α) (k : Nat) (f : α → α) : Sparse α :=
  m.map fun e => if e.1 = k then (e.1, f e.2) else e

/-- Keys rise strictly. -/
def skeysRise : Sparse α → Bool
  | [] => true
  | [_] => true
  | a :: b :: t => a.1 < b.1 && skeysRise (b :: t)

/-- The canonical form of a map with a default. -/
def swf [DecidableEq α] (d : α) (m : Sparse α) : Bool := skeysRise m && m.all fun e => e.2 ≠ d

end Machine

end Sys2Proof
end

