-- ==== Sys2Proof/Syntax.lean ====
section
/-! DEFINITION. The instructions (R84, R86, R92) and the device steps, one constructor for each row of the opcode table. -/

namespace Sys2Proof

/-- Element formats (R57). -/
inductive Fmt
  | f32 | f16 | bf16 | f8a | f8b | i32 | i16 | i12 | i8 | u8 | i4 | rns34 | u32
  deriving DecidableEq, Repr

/-- Rounding modes (R64). -/
inductive Rnd
  | rn | rz | ru | rd
  deriving DecidableEq, Repr

/-- Memory spaces (R153, R259). -/
inductive Space
  | k | s | y | g
  deriving DecidableEq, Repr

/-- Orders of an atomic or a fence (R165, R170). -/
inductive Ord
  | rlx | acq | rel | ar
  deriving DecidableEq, Repr

/-- Scopes, from the narrowest to the widest (R165). -/
inductive Scope
  | grp | core | die | dev | dom | sys
  deriving DecidableEq, Repr

/-- The constants of the operand space (R87). -/
inductive Constant
  | zero | one | fone | lane | quad | qlane | gidx | tidx | gngx | tign | ngrp | ones | fnzero | finf | fnan
  deriving DecidableEq, Repr

/-- The status registers (R52). -/
inductive StatusReg
  | gwidth | ctx | place | alloc | amask | exited | helper | pstk | flagclr | cycle | wdog
  | sgkb | sgkl | sgsb | sgsl | sgyb | sgyl | pstep
  deriving DecidableEq, Repr

/-- What a 9-bit operand code names (R86). -/
inductive Opnd
  | v (n : Fin 256)
  | s (n : Fin 64)
  | p (n : Fin 8)
  | a (n : Fin 16)
  | m (n : Fin 16)
  | eta (n : Fin 4)
  | const (c : Constant)
  | sr (r : StatusReg)
  | imm
  deriving DecidableEq, Repr

/-- The guard (R84, R85). -/
structure Guard where
  neg : Bool
  pred : Fin 8
  deriving DecidableEq, Repr

/-- The fields that every instruction word has, but for `op` and the modifier (R84). -/
structure Fields where
  guard : Guard
  d : Opnd
  a : Opnd
  b : Opnd
  c : Opnd
  fs : BitVec 2
  imm : Word
  deriving DecidableEq, Repr

/-- The modifier of classes 0x1 to 0x4 (R91). -/
structure LaneMod where
  fmt : Fmt
  rnd : Rnd
  sat : Bool
  sub : BitVec 5
  deriving DecidableEq, Repr

/-- The modifier of class 0x5 (R140). -/
structure CrossMod where
  fmt : Fmt
  fn : BitVec 3
  w : Bool
  st : BitVec 4
  deriving DecidableEq, Repr

/-- The modifier of class 0x6 (R156). -/
structure LocalMod where
  sp : Space
  w : BitVec 2
  sx : Bool
  cnt : BitVec 4
  deriving DecidableEq, Repr

/-- The modifier of class 0x7 (R159). -/
structure CopyMod where
  lu : Bool
  ds : Space
  ss : Space
  es : BitVec 2
  deriving DecidableEq, Repr

/-- The modifier of class 0x8 (R165). Bit 0 of `aop` is `x` in `waitv` and `all` in `wake`. -/
structure AtomMod where
  sp : Space
  aop : BitVec 4
  sz : Bool
  ord : Ord
  scope : Scope
  deriving DecidableEq, Repr

/-- The modifier of `fence` (R170). -/
structure FenceMod where
  ord : Ord
  scope : Scope
  deriving DecidableEq, Repr

/-- The modifier of `mma` and `mmq` (R190). -/
structure MmaMod where
  residue : Bool
  z : Bool
  fin : Bool
  sg : BitVec 2
  deriving DecidableEq, Repr

/-- The modifier of `mrd` and `mwr` (R190); `mwr` uses `sp` alone. -/
structure TileMod where
  fmt : Fmt
  rnd : Rnd
  sat : Bool
  sp : Space
  deriving DecidableEq, Repr

/-- The modes of `cor` and `corq` (R199). -/
inductive CorMode
  | upd | rsp | add
  deriving DecidableEq, Repr

/-- The modifier of class 0xB (R199); `kn` is the number of keys less one. -/
structure CorMod where
  mode : CorMode
  es : BitVec 2
  kn : BitVec 4
  sp : Bool
  deriving DecidableEq, Repr

/-- The modifier of class 0xC (R205). -/
structure AttnMod where
  t : Bool
  sg : BitVec 2
  deriving DecidableEq, Repr

/-- The control registers of `srw` (R177). -/
inductive CtlReg
  | tvec | tscr | wdog
  deriving DecidableEq, Repr

/-- The forms of `tlbi` (R177). -/
inductive TlbForm
  | va | ctx | all
  deriving DecidableEq, Repr

/-- The forms of `amov` (R117) are in `LaneMod.sub`. -/
abbrev Bytes := List Byte

/-- A register that the debug port reads or writes (R442). -/
inductive PortReg
  | v (n lane : Nat) | s (n : Nat) | p (n : Nat) | a (n : Nat) | eta (n : Nat)
  | pm (n : Nat) | flag (n : Nat) | ctr (lane : Nat) | pc (slot : Nat) | mask (slot : Nat)
  | valid (slot : Nat) | sr (r : StatusReg) | tvec | tscr | tile (n i j : Nat)
  | seg (sp : Space) | pmValid (n : Nat) | tileName (n : Nat)
  deriving DecidableEq, Repr

/-- A register that has no device step of its own (R8): BAR0 (R474), a Crib page (R412), and what system software hands
to the Grooms: a context's root and pagers (R352, R359), a debug grant (R436), a launch queue (R335), an NVMe queue pair
(R454), a communicator (R164, R453) and a Crib's assignment (R409). -/
inductive DevReg
  | bar0 (off value : Nat)
  | cribPage (core off : Nat) (data : Bytes)
  | ctxRoot (ctx root : Nat)
  | pager (ctx n header : Nat)
  | debugGrant (ctx : Nat) (on : Bool)
  | launchQueue (n ctx header : Nat)
  | nvmePair (n ctx ns header : Nat)
  | communicator (n members rank : Nat)
  | cribAssign (crib ctx wmax : Nat) (frames : List Nat)
  deriving DecidableEq, Repr

/-- A string of bytes for each part of a firmware image (R475): the Groom firmware, the Shed kernels and the Paddock monitor. -/
structure FwParts where
  groom : Bytes
  shed : Bytes
  monitor : Bytes
  deriving DecidableEq, Repr

/-- How a start ends early (R471): a stage fails, or a thermal trip comes once some stages have run. -/
inductive StartFailure
  | stage (code : Nat)
  | trip (ran : Nat)
  deriving DecidableEq, Repr

/-- The bytes of a host write, with the 64-byte lines, counted from the write's first, whose PCIe flit CRC fails (R464). -/
structure HostData where
  bytes : Bytes
  crc : List Nat
  deriving DecidableEq, Repr

/-- An access that arrives over the fabric (R447), with its physical address and the attribute of its page. -/
inductive RemoteAccess
  | read (pa attr len : Nat)
  | write (pa attr : Nat) (data : Bytes)
  | atomic (pa attr : Nat) (cas : Bool) (aop : Nat) (wide : Bool) (x y : Nat)
  deriving DecidableEq, Repr

/-- The attribute of the page of such an access. -/
def RemoteAccess.attr : RemoteAccess → Nat
  | .read _ attr _ => attr
  | .write _ attr _ => attr
  | .atomic _ attr _ _ _ _ _ => attr

/-- A burst on the fabric link by its number: one of this device's, or one of the peer's (R449). -/
inductive Burst
  | own (seq : Nat)
  | peer (seq : Nat)
  deriving DecidableEq, Repr

/-- What goes wrong while an SSD's blocks come over: a media error ends them (R455), and the 64-byte lines whose flit CRC fails
(R464). -/
structure FlashFlaws where
  media : Bool
  crc : List Nat
  deriving DecidableEq, Repr

/-- A scrub read (R466): its pseudo-channel, and the lines of the row whose check finds an error, with whether it cannot be
corrected. -/
structure ScrubRead where
  channel : Nat
  found : List (Nat × Bool)
  deriving DecidableEq, Repr

/-- The instructions and the device steps.
An instruction takes its modifier and its fields; a device step takes the unit it concerns and what the outside brings. -/
inductive Instr
  | nop (o : Fields)
  | br (o : Fields)
  | brd (o : Fields)
  | brx (o : Fields)
  | call (o : Fields)
  | callx (o : Fields)
  | ret (o : Fields)
  | if_ (o : Fields)
  | else_ (o : Fields)
  | endif_ (o : Fields)
  | loop_ (o : Fields)
  | lbrk (lvl : BitVec 8) (o : Fields)
  | cont (lvl : BitVec 8) (o : Fields)
  | endl (o : Fields)
  | exit_ (o : Fields)
  | yield_ (wf : BitVec 12) (o : Fields)
  | ebrk (o : Fields)
  | grow (o : Fields)
  | shrink (o : Fields)
  | add (m : LaneMod) (o : Fields)
  | sub (m : LaneMod) (o : Fields)
  | mul (m : LaneMod) (o : Fields)
  | mulhi (m : LaneMod) (o : Fields)
  | mad (m : LaneMod) (o : Fields)
  | min_ (m : LaneMod) (o : Fields)
  | max_ (m : LaneMod) (o : Fields)
  | abs_ (m : LaneMod) (o : Fields)
  | neg (m : LaneMod) (o : Fields)
  | and_ (m : LaneMod) (o : Fields)
  | or_ (m : LaneMod) (o : Fields)
  | xor_ (m : LaneMod) (o : Fields)
  | not_ (m : LaneMod) (o : Fields)
  | shl (m : LaneMod) (o : Fields)
  | shr (m : LaneMod) (o : Fields)
  | sar (m : LaneMod) (o : Fields)
  | popc (m : LaneMod) (o : Fields)
  | clz (m : LaneMod) (o : Fields)
  | brev (m : LaneMod) (o : Fields)
  | bfe (m : LaneMod) (o : Fields)
  | bfi (m : LaneMod) (o : Fields)
  | icmp (m : LaneMod) (o : Fields)
  | aadd (m : LaneMod) (o : Fields)
  | aidx (m : LaneMod) (o : Fields)
  | fadd (m : LaneMod) (o : Fields)
  | fsub (m : LaneMod) (o : Fields)
  | fmul (m : LaneMod) (o : Fields)
  | fma (m : LaneMod) (o : Fields)
  | fmin (m : LaneMod) (o : Fields)
  | fmax (m : LaneMod) (o : Fields)
  | fabs (m : LaneMod) (o : Fields)
  | fneg (m : LaneMod) (o : Fields)
  | fcmp (m : LaneMod) (o : Fields)
  | fclass (m : LaneMod) (o : Fields)
  | frnd (m : LaneMod) (o : Fields)
  | hadd2 (m : LaneMod) (o : Fields)
  | hmul2 (m : LaneMod) (o : Fields)
  | hfma2 (m : LaneMod) (o : Fields)
  | hmin2 (m : LaneMod) (o : Fields)
  | hmax2 (m : LaneMod) (o : Fields)
  | hdot2 (m : LaneMod) (o : Fields)
  | mov (m : LaneMod) (o : Fields)
  | cvt (m : LaneMod) (o : Fields)
  | sel (m : LaneMod) (o : Fields)
  | plog (m : LaneMod) (o : Fields)
  | rdl (m : LaneMod) (o : Fields)
  | amov (m : LaneMod) (o : Fields)
  | pack (m : LaneMod) (o : Fields)
  | unpack (m : LaneMod) (o : Fields)
  | rcp (m : LaneMod) (o : Fields)
  | rsqrt (m : LaneMod) (o : Fields)
  | sqrt (m : LaneMod) (o : Fields)
  | ex2 (m : LaneMod) (o : Fields)
  | lg2 (m : LaneMod) (o : Fields)
  | sin (m : LaneMod) (o : Fields)
  | cos (m : LaneMod) (o : Fields)
  | tanh (m : LaneMod) (o : Fields)
  | exsm (m : LaneMod) (o : Fields)
  | fdiv (m : LaneMod) (o : Fields)
  | vote (m : CrossMod) (o : Fields)
  | shfl (m : CrossMod) (o : Fields)
  | lred (m : CrossMod) (o : Fields)
  | qx (m : CrossMod) (o : Fields)
  | pset (m : CrossMod) (o : Fields)
  | perm (m : CrossMod) (o : Fields)
  | bcast (m : CrossMod) (o : Fields)
  | ld (m : LocalMod) (o : Fields)
  | st (m : LocalMod) (o : Fields)
  | ldb (m : LocalMod) (o : Fields)
  | stb (m : LocalMod) (o : Fields)
  | cpy (m : CopyMod) (o : Fields)
  | cpyg (m : CopyMod) (o : Fields)
  | cpys (m : CopyMod) (o : Fields)
  | cpyf (m : CopyMod) (o : Fields)
  | coll (m : CopyMod) (o : Fields)
  | atom (m : AtomMod) (o : Fields)
  | cas (m : AtomMod) (o : Fields)
  | waitv (m : AtomMod) (o : Fields)
  | wake (m : AtomMod) (o : Fields)
  | fence (m : FenceMod) (o : Fields)
  | bar (o : Fields)
  | gbar (o : Fields)
  | phbarInit (o : Fields)
  | phbarArr (o : Fields)
  | phbarQuit (o : Fields)
  | phbarWait (o : Fields)
  | phbarTest (o : Fields)
  | phbarGen (o : Fields)
  | qfence (o : Fields)
  | mma (m : MmaMod) (o : Fields)
  | mmq (m : MmaMod) (o : Fields)
  | mrd (m : TileMod) (o : Fields)
  | mwr (m : TileMod) (o : Fields)
  | mclr (o : Fields)
  | cor (m : CorMod) (o : Fields)
  | corq (m : CorMod) (o : Fields)
  | gram (m : CorMod) (o : Fields)
  | trsv (m : CorMod) (o : Fields)
  | attn (m : AttnMod) (o : Fields)
  | kvalloc (m : AttnMod) (o : Fields)
  | kvcommit (m : AttnMod) (o : Fields)
  | kvrel (m : AttnMod) (o : Fields)
  | kvlink (m : AttnMod) (o : Fields)
  | kvchk (m : AttnMod) (o : Fields)
  | swarm (o : Fields)
  | swreq (o : Fields)
  | swcan (o : Fields)
  | swst (o : Fields)
  | shedj (o : Fields)
  | cbs (o : Fields)
  | cbr (o : Fields)
  | cbw (o : Fields)
  | segld (seg : Space) (o : Fields)
  | rte (o : Fields)
  | srw (reg : CtlReg) (o : Fields)
  | mapld (o : Fields)
  | tlbi (form : TlbForm) (o : Fields)
  | clauseStart
  | ifetchFill
  | yieldResume
  | loadReturn (id : Nat)
  | atomicPerform (id : Nat)
  | waitvTimeout (id : Nat)
  | engineCommandStart (id : Nat)
  | copyUnitWrite (id : Nat)
  | commandComplete (id : Nat)
  | quartetRendezvous (gid : Nat)
  | leaveGrant (id : Nat)
  | sideQueueHandover (core : Nat)
  | attnEngineHandoff (die : Nat)
  | attnHeaderArrival (engine : Nat)
  | attnBlockProcess (engine : Nat)
  | translationFault (id : Nat)
  | upcallPost (ctx pager : Nat)
  | pagerAnswer (ctx pager : Nat)
  | shootdownAck (key unit : Nat)
  | readBufferInvalidation (die line : Nat)
  | growGrant (core slice : Nat)
  | growDeny (core : Nat)
  | watchdogExpiry (gid : Nat)
  | groupRetire (gid : Nat)
  | teamRelease (grid gang team : Nat)
  | gridEnd (grid : Nat)
  | launchEntryConsume (queue : Nat)
  | fileLoad (queue : Nat)
  | gangPlace (grid gang : Nat)
  | preemptGang (grid gang : Nat)
  | gangRestore (grid gang : Nat)
  | contextSwitch (ctx : Nat)
  | contextTeardown (ctx : Nat)
  | refreshSlot (stack : Nat)
  | sweepInstall (key stack : Nat)
  | sweepArmPoint (key : Nat)
  | stackSensorSample (stack : Nat) (temp : Int)
  | selfRefreshEntry (stack : Nat)
  | selfRefreshExit (stack : Nat)
  | shedJobStart (stack core : Nat)
  | shedJobEnd (stack core : Nat)
  | cribStart (crib : Nat)
  | widen (crib : Nat)
  | cribIdleDiscard (crib : Nat)
  | txgo (core : Nat)
  | rxpop (core : Nat)
  | stepBudgetExpiry (core : Nat)
  | episodeFaultKill (core reason : Nat)
  | cbwTimeout (id : Nat)
  | breakpointHit
  | stop (ctx gid : Nat)
  | step (ctx gid : Nat) (focus : LaneMask) (n : Nat)
  | resume (ctx gid : Nat)
  | portRegRead (ctx gid : Nat) (reg : PortReg)
  | portRegWrite (ctx gid : Nat) (reg : PortReg) (mask : LaneMask) (value : Nat)
  | portMemRead (ctx gid : Nat) (sp : Space) (addr len : Nat)
  | portMemWrite (ctx gid : Nat) (sp : Space) (addr : Nat) (data : Bytes)
  | queueStopWrite (core value : Nat)
  | dbiWrite (core n : Nat) (value : BitVec 128)
  | registerWrite (reg : DevReg)
  | hostBar2Access (write : Bool) (pa len : Nat) (data : HostData)
  | fabricRemoteAccess (access : RemoteAccess)
  | burstReceive (burst : Burst) (data : Bytes)
  | burstCrcFail (lane : Nat) (burst : Burst)
  | laneRepair (lane : Nat)
  | linkDown (reason seq : Nat)
  | collContribution (comm chunk rank : Nat) (desc : Bytes) (data : Option Bytes)
  | nvmeRequest (pair : Nat) (data : Bytes) (flaws : FlashFlaws)
  | nvmeCompletion (pair : Nat)
  | patrolScrub (stack : Nat) (scan : ScrubRead)
  | rowRepair (row : Nat)
  | dieSensorSample (unit : Nat) (temp : Int)
  | stallSample (core slice : Nat)
  | sampleDrain (core slice : Nat)
  | deviceStart (failed : Option StartFailure) (dies : Nat)
  | mmexit
  | firmwareImageWrite (digests : FwParts) (version : Nat) (signatures : FwParts)
  | getMeasurements
  | contextLetBack (ctx : Nat)
  | fabricLinkRetrain (lanes : List Nat)
  | communicatorDestroy (comm : Nat)
  | launchQueueReset (queue : Nat)
  | paddockCoreHardError (core : Nat)
  deriving DecidableEq, Repr

end Sys2Proof
end

