-- ==== Sys2Proof/Machine/Bits.lean ====
section
/-! DEFINITION. Bit fields, sign extension and byte order (R4, R97). -/

namespace Sys2Proof.Machine

/-- Bits [hi:lo] of a number (R97). -/
def bits (x hi lo : Nat) : Nat := x / 2 ^ lo % 2 ^ (hi + 1 - lo)

/-- The value of an n-bit pattern read as signed (R97). -/
def sext (x n : Nat) : Int := if x % 2 ^ n < 2 ^ (n - 1) then (x % 2 ^ n : Nat) else ((x % 2 ^ n : Nat) : Int) - (2 ^ n : Nat)

/-- The n-bit pattern of an integer. -/
def wrap (x : Int) (n : Nat) : Nat := (x % ((2 ^ n : Nat) : Int)).toNat

/-- Ones among the low n bits of a number. -/
def countOnes : Nat → Nat → Nat
  | 0, _ => 0
  | n + 1, x => x % 2 + countOnes n (x / 2)

/-- The n bytes of a number, lowest first (R4). -/
def leBytes : Nat → Nat → Bytes
  | 0, _ => []
  | n + 1, x => BitVec.ofNat 8 x :: leBytes n (x / 256)

/-- The number that bytes hold, lowest first (R4). -/
def ofLe : Bytes → Nat
  | [] => 0
  | b :: t => b.toNat + 256 * ofLe t

/-- The lanes of a mask, in increasing order. -/
def maskLanes (m : LaneMask) : List Nat := (List.range Config.lanes).filter fun l => m.getLsbD l

/-- The field of n bytes at an offset. -/
def fieldAt (b : Bytes) (off n : Nat) : Nat := ofLe ((b.drop off).take n)

/-- The mask of the lanes that a test takes. -/
def laneSet (p : Nat → Bool) : LaneMask :=
  BitVec.ofNat 64 ((List.range Config.lanes).foldr (fun l acc => if p l then 1 + 2 * acc else 2 * acc) 0)

/-- Change the nth item of a list, where there is one. -/
def modNth {α : Type} : List α → Nat → (α → α) → List α
  | [], _, _ => []
  | a :: t, 0, f => f a :: t
  | a :: t, n + 1, f => a :: modNth t n f

end Sys2Proof.Machine
end

