-- ==== Sys2Proof/Machine/Forms.lean ====
section
/-! DEFINITION. What each opcode accepts: the kinds of its operand fields, the values of its modifier and its further
conditions at line entry (R86 to R93, R98, and the entries of chapters 06 to 09). -/

namespace Sys2Proof.Machine

/-- Operand kinds (R86); L is a lane-varying constant (R87) and Z the code of `zero` alone. -/
inductive Kind
  | V | S | P | A | M | E | C | L | T | I | Z
  deriving DecidableEq, Repr

/-- The kind of an operand (R86, R87). -/
def kindOf : Opnd → Kind
  | .v _ => .V
  | .s _ => .S
  | .p _ => .P
  | .a _ => .A
  | .m _ => .M
  | .eta _ => .E
  | .const .lane => .L
  | .const .quad => .L
  | .const .qlane => .L
  | .const _ => .C
  | .sr _ => .T
  | .imm => .I

/-- The unused value of an operand field (R89). -/
abbrev zeroOpnd : Opnd := .const .zero

/-- An operand of one of the listed kinds. -/
def accepts (ks : List Kind) (o : Opnd) : Bool :=
  ks.contains (kindOf o) || (o == zeroOpnd && ks.contains .Z)

/-- Pairing classes (R32). -/
inductive PairClass
  | P | X | N
  deriving DecidableEq, Repr

/-- What an opcode with its modifier accepts. A field with no kinds is unused. -/
structure Form where
  d : List Kind := []
  a : List Kind := []
  b : List Kind := []
  c : List Kind := []
  /-- `d` is a destination, so that kind S, A or E makes the instruction uniform (R42). -/
  dDest : Bool := true
  /-- A uniform form that may still read V and P sources (R142). -/
  readsLanes : Bool := false
  /-- `imm` has a meaning of its own (R89). -/
  ownImm : Bool := false
  unguarded : Bool := false
  /-- A modifier sub-field holds a reserved or unaccepted value (test 6). -/
  bad6 : Bool := false
  /-- A modifier sub-field that is unused is not zero (test 7). -/
  bad7 : Bool := false
  /-- How many registers from `d`, `a`, `b` and `c` on a V or S field names (R40, R100). -/
  dRun : Nat := 1
  aRun : Nat := 1
  bRun : Nat := 1
  cRun : Nat := 1
  /-- A V or S field that must be even (test 8). -/
  dEven : Bool := false
  aEven : Bool := false
  bEven : Bool := false
  cEven : Bool := false
  pair : PairClass := .N
  long : Bool := false
  /-- A condition of the modifier or the immediate that the entry tests at test 8. -/
  bad8 : Bool := false
  /-- Only a group of role 2 may issue it (R195, test 8). -/
  role2 : Bool := false

/-- Sets of R98. -/
def anyK : List Kind := [.V, .S, .P, .A, .E, .C, .L, .T, .I]
def dvK : List Kind := [.V, .S]
def dveK : List Kind := [.V, .S, .E]
def dpK : List Kind := [.P, .V, .S]
def sciK : List Kind := [.S, .C, .I]

/-- Bits [hi:lo] of a modifier. -/
def mf (m : BitVec 12) (hi lo : Nat) : Nat := bits m.toNat hi lo

/-- The modifier tests of a lane class (R91): accepted formats (none where `fmt` is unused), whether `rnd` and `sat`
are used, and the accepted values of `sub` (none where it is unused). Class 0x1 lists its `sub` values (R101), so a
value there that is not listed fails test 6 even where no value is listed. -/
def laneForm (cls1 : Bool) (m : BitVec 12) (fmts : Option (List Nat)) (rnd sat : Bool) (sub : Option (List Nat))
    (f : Form) : Form :=
  let sv := mf m 4 0
  { f with
    bad6 := (match fmts with | some l => !l.contains (mf m 11 8) | none => false)
      || (match sub with | some l => !l.contains sv | none => cls1 && sv != 0)
    bad7 := (fmts.isNone && mf m 11 8 != 0) || (!rnd && mf m 7 6 != 0) || (!sat && mf m 5 5 != 0)
      || (sub.isNone && !cls1 && sv != 0) }

/-- Class 0x0 (R127, R128, R176). -/
def formCtl (fn : Nat) (m : BitVec 12) : Option Form :=
  let r := m != 0
  match fn with
  | 0x00 => some { bad6 := r }
  | 0x01 => some { ownImm := true, bad6 := r }
  | 0x02 => some { ownImm := true, bad6 := r }
  | 0x03 => some { a := [.A], bad6 := r }
  | 0x04 => some { d := [.A], ownImm := true, bad6 := r }
  | 0x05 => some { d := [.A], a := [.A], bad6 := r }
  | 0x06 => some { a := [.A], bad6 := r }
  | 0x07 => some { ownImm := true, bad6 := r }
  | 0x08 => some { ownImm := true, unguarded := true, bad6 := r }
  | 0x09 => some { unguarded := true, bad6 := r }
  | 0x0A => some { ownImm := true, unguarded := true, bad6 := r }
  | 0x0B => some { ownImm := true, bad6 := mf m 11 8 != 0 || 254 ≤ mf m 7 0 }
  | 0x0C => some { ownImm := true, bad6 := mf m 11 8 != 0 || 254 ≤ mf m 7 0 }
  | 0x0D => some { ownImm := true, bad6 := r }
  | 0x0E => some { bad6 := r }
  | 0x0F => some { ownImm := true }
  | 0x10 => some { ownImm := true, bad6 := r }
  | 0x11 => some { a := sciK, unguarded := true, bad6 := r }
  | 0x12 => some { a := sciK, unguarded := true, bad6 := r }
  | _ => none

/-- Class 0x1 (R101). -/
def formInt (fn : Nat) (m : BitVec 12) : Option Form :=
  let iu := some [5, 12]
  let p2 : Form := { d := dvK, a := anyK, b := anyK, pair := .P }
  let p1 : Form := { d := dvK, a := anyK, pair := .P }
  let p3 : Form := { d := dvK, a := anyK, b := anyK, c := anyK, pair := .P }
  let sh := some (List.range 8)
  match fn with
  | 0x00 => some (laneForm true m iu false true none p2)
  | 0x01 => some (laneForm true m iu false true none p2)
  | 0x02 => some (laneForm true m iu false true none p2)
  | 0x03 => some (laneForm true m iu false false none p2)
  | 0x04 => some (laneForm true m iu false true none p3)
  | 0x05 => some (laneForm true m iu false false none p2)
  | 0x06 => some (laneForm true m iu false false none p2)
  | 0x07 => some (laneForm true m (some [5]) false true none p1)
  | 0x08 => some (laneForm true m (some [5]) false true none p1)
  | 0x09 => some (laneForm true m none false false none p2)
  | 0x0A => some (laneForm true m none false false none p2)
  | 0x0B => some (laneForm true m none false false none p2)
  | 0x0C => some (laneForm true m none false false none p1)
  | 0x0D => some (laneForm true m none false false (some [0, 1]) p2)
  | 0x0E => some (laneForm true m none false false (some [0, 1]) p2)
  | 0x0F => some (laneForm true m none false false (some [0, 1]) p2)
  | 0x10 => some (laneForm true m none false false none p1)
  | 0x11 => some (laneForm true m none false false none p1)
  | 0x12 => some (laneForm true m none false false none p1)
  | 0x13 => some (laneForm true m iu false false none p2)
  | 0x14 => some (laneForm true m none false false none p3)
  | 0x15 => some (laneForm true m iu false false (some (List.range 6)) { p2 with d := dpK })
  | 0x16 => some (laneForm true m none false false sh { d := [.A], a := [.A], b := [.S, .A, .C, .I], pair := .P })
  | 0x17 => some (laneForm true m iu false false sh
      { d := [.V], a := [.A], b := anyK, dRun := 2, dEven := true, pair := .P })
  | _ => none

/-- Class 0x2 (R106). -/
def formFloat (fn : Nat) (m : BitVec 12) : Option Form :=
  let f32 := some [0]
  let h := some [1, 2]
  let p1 : Form := { d := dveK, a := anyK, pair := .P }
  let p2 : Form := { p1 with b := anyK }
  let p3 : Form := { p2 with c := anyK }
  match fn with
  | 0x00 => some (laneForm false m f32 true true none p2)
  | 0x01 => some (laneForm false m f32 true true none p2)
  | 0x02 => some (laneForm false m f32 true true none p2)
  | 0x03 => some (laneForm false m f32 true true none p3)
  | 0x04 => some (laneForm false m f32 false false none p2)
  | 0x05 => some (laneForm false m f32 false false none p2)
  | 0x06 => some (laneForm false m f32 false false none p1)
  | 0x07 => some (laneForm false m f32 false false none p1)
  | 0x08 => some (laneForm false m f32 false false (some (List.range 8)) { p2 with d := dpK })
  | 0x09 => some (laneForm false m f32 false false none { p2 with d := dpK })
  | 0x0A => some (laneForm false m f32 true false none p1)
  | 0x0B => some (laneForm false m h true true none { p2 with d := dvK })
  | 0x0C => some (laneForm false m h true true none { p2 with d := dvK })
  | 0x0D => some (laneForm false m h true true none { p3 with d := dvK })
  | 0x0E => some (laneForm false m h false false none { p2 with d := dvK })
  | 0x0F => some (laneForm false m h false false none { p2 with d := dvK })
  | 0x10 => some (laneForm false m h true true none p3)
  | _ => none

/-- The greatest pair index that `pack` takes for a format code (R119). -/
def packTop (fmt : Nat) : Nat := if fmt = 10 then 3 else if fmt = 3 ∨ fmt = 4 ∨ fmt = 8 ∨ fmt = 9 then 1 else 0

/-- Class 0x3 (R114 to R120). An element index of `unpack` may name every element that `pack` can place (log 21). -/
def formMove (fn : Nat) (m : BitVec 12) (imm : Word) : Option Form :=
  let cvtF := [0, 1, 2, 3, 4, 5, 6, 7, 8, 9, 10, 12]
  let packF := [1, 2, 3, 4, 6, 7, 8, 9, 10]
  match fn with
  | 0x00 => some (laneForm false m none false false none { d := [.V, .S, .E, .P], a := anyK, pair := .P })
  | 0x01 => some (laneForm false m (some cvtF) true true (some cvtF) { d := dvK, a := anyK, pair := .X })
  | 0x02 => some (laneForm false m none false false none { d := dveK, a := anyK, b := anyK, c := anyK, pair := .P })
  | 0x03 => some (laneForm false m none false false none
      { d := [.P], a := [.P], b := [.P], c := [.P], ownImm := true, bad8 := 256 ≤ imm.toNat, pair := .P })
  | 0x04 => some (laneForm false m none false false none { d := [.P, .V], a := anyK, pair := .P })
  | 0x05 =>
    let f : Form := match mf m 4 0 with
      | 0 => { d := [.A], a := [.A, .S, .C, .T, .I], pair := .P }
      | 1 => { d := [.A], a := [.S], aRun := 2, aEven := true, pair := .P }
      | 2 => { d := [.S], a := [.A], dRun := 2, dEven := true, pair := .P }
      | _ => { d := [.A, .S], a := [.A, .S, .C, .T, .I], pair := .P }
    some (laneForm false m none false false (some [0, 1, 2]) f)
  | 0x06 => some (laneForm false m (some packF) true true (some (List.range (packTop (mf m 11 8) + 1)))
      { d := dvK, a := anyK, b := anyK, pair := .X })
  | 0x07 => some (laneForm false m (some packF) false false (some (List.range (2 * packTop (mf m 11 8) + 2)))
      { d := dvK, a := anyK, pair := .X })
  | _ => none

/-- Class 0x4 (R121). -/
def formTransc (fn : Nat) (m : BitVec 12) : Option Form :=
  let p1 : Form := { d := dveK, a := anyK, pair := .X }
  let s := some (laneForm false m (some [0]) true true none p1)
  let n := some (laneForm false m (some [0]) true false none p1)
  match fn with
  | 0x00 => s
  | 0x01 => s
  | 0x02 => n
  | 0x03 => s
  | 0x04 => n
  | 0x05 => n
  | 0x06 => n
  | 0x07 => n
  | 0x08 => some { laneForm false m (some [0]) true true none p1 with bad6 := mf m 11 8 != 0 || mf m 7 5 != 0 }
  | 0x09 => some (laneForm false m (some [0]) true true none { p1 with b := anyK })
  | _ => none

/-- Class 0x5 (R140, R141). -/
def formCross (fn : Nat) (m : BitVec 12) (d : Opnd) (a : Opnd) : Option Form :=
  let fmt := mf m 11 8
  let f := mf m 7 5
  let w := mf m 4 4
  let st := mf m 3 0
  let badSt := st != 0 && (st < 8 || st == 15)
  let mask : List Kind := [.A, .S, .C, .I]
  let lane : List Kind := [.V, .L]
  match fn with
  | 0x00 =>
    some { d := (match f with | 0 => dpK | 1 => dpK | 2 => [.A] | 3 => [.S, .V] | _ => .A :: dpK), a := .P :: lane, b := mask,
           readsLanes := true, bad6 := 4 ≤ f || badSt, bad7 := fmt != 0 || w != 0, pair := .P }
  | 0x01 => some { d := [.V], a := lane, b := anyK, c := mask, bad6 := 4 ≤ f || badSt, bad7 := fmt != 0, pair := .P }
  | 0x02 =>
    some { d := dveK, a := lane, readsLanes := true,
           bad6 := !([0, 5, 12].contains fmt) || 6 ≤ f || (fmt == 0 && 3 ≤ f) || (kindOf d == .E && fmt != 0),
           bad7 := w != 0 || st != 0, pair := .P }
  | 0x03 =>
    some { d := [.V], a := lane, b := if f = 3 then .L :: sciK else [], bad6 := 4 ≤ f,
           bad7 := fmt != 0 || w != 0 || st != 0, pair := .P }
  | 0x04 =>
    some { a := [.S], aRun := 11, bad6 := f != 0 || mf m 3 3 != 0, bad7 := fmt != 0 || w != 0,
           bad8 := (match a with | .s n => 54 ≤ n.val | _ => false) }
  | 0x05 => some { d := [.V], a := lane, bad6 := f != 0 || mf m 3 3 != 0, bad7 := fmt != 0 || w != 0, pair := .P }
  | 0x06 =>
    some { d := dveK, a := lane, b := sciK, readsLanes := true, bad6 := f != 0,
           bad7 := fmt != 0 || w != 0 || st != 0, pair := .P }
  | _ => none

/-- Class 0x6 (R156). -/
def formLocal (fn : Nat) (m : BitVec 12) : Option Form :=
  let w := mf m 9 8
  let low := mf m 2 0 != 0 || mf m 11 10 == 3
  let disp : List Kind := [.S, .C, .L, .I]
  match fn with
  | 0x00 =>
    some { d := if w = 3 then [.V, .A] else dvK, a := anyK, b := anyK, dRun := if w = 3 then 2 else 1, dEven := w == 3,
           bad6 := low || (mf m 7 7 == 1 && 2 ≤ w), bad7 := mf m 6 3 != 0, long := true }
  | 0x01 =>
    some { a := anyK, b := anyK, c := if w = 3 then [.V, .A, .I] else anyK, cRun := if w = 3 then 2 else 1,
           cEven := w == 3, bad6 := low || mf m 7 7 == 1, bad7 := mf m 6 3 != 0 }
  | 0x02 =>
    some { d := [.V], a := disp, b := disp, dRun := mf m 6 3 + 1, bad6 := low,
           bad7 := mf m 9 7 != 0, long := true }
  | 0x03 => some { a := disp, b := disp, c := if mf m 6 3 = 0 then [.V, .L] else [.V], cRun := mf m 6 3 + 1, bad6 := low, bad7 := mf m 9 7 != 0 }
  | _ => none

/-- Class 0x7 (R159). -/
def formCopy (fn : Nat) (m : BitVec 12) : Option Form :=
  let lu := mf m 11 11
  let ds := mf m 10 9
  let ss := mf m 8 7
  let es := mf m 6 5
  let low := mf m 4 0 != 0
  let bar : List Kind := [.S, .I, .Z]
  let addr (sp : Nat) : List Kind := if sp = 0 then [.A] else sciK
  match fn with
  | 0x00 =>
    some { d := bar, a := addr ds, b := addr ss, c := sciK, dDest := false, long := true,
           bad6 := low || ds == 3 || ss == 3, bad7 := es != 0, bad8 := lu == 1 && ds != 0 && ss != 0 }
  | 0x01 =>
    some { d := bar, a := [.V], b := anyK, aRun := 2, aEven := true, dDest := false, long := true,
           bad6 := low || ds == 3 || ss == 3, bad8 := ds == 0 || ss != 0 }
  | 0x02 =>
    some { a := [.V], b := anyK, aRun := 2, aEven := true, long := true,
           bad6 := low || ds == 3 || ss == 3, bad8 := ds != 0 || ss == 0 }
  | 0x03 =>
    some { d := bar, a := addr ds, b := sciK, c := sciK, dDest := false, long := true,
           bad6 := low || ds == 3, bad7 := es != 0 || ss != 0, bad8 := lu == 1 && ds != 0 }
  | 0x04 => some { a := [.A], long := true, bad6 := low, bad7 := mf m 11 5 != 0 }
  | _ => none

/-- Class 0x8 (R165 to R169). -/
def formAtom (fn : Nat) (m : BitVec 12) (a : Opnd) : Option Form :=
  let sp := mf m 11 10
  let aop := mf m 9 6
  let sz := mf m 5 5
  let ord := mf m 4 3
  let scope := mf m 2 0
  let addr : List Kind := if sp = 3 then [.A, .V] else anyK
  let uaddr : List Kind := if sp = 3 then [.A] else [.S, .A, .E, .C, .T, .I]
  let val : List Kind := if sz = 1 then [.V, .A, .I] else anyK
  let wide := sz == 1
  let gv := sp == 3 && kindOf a == .V
  let dk : List Kind := if sz = 1 then [.V, .A] else dvK
  let addrRun := if gv then 2 else 1
  match fn with
  | 0x00 =>
    some { d := dk, a := addr, b := if aop = 12 then [] else val, dRun := sz + 1, dEven := wide, aRun := addrRun,
           aEven := gv, bRun := sz + 1, bEven := wide, long := true,
           bad6 := 13 ≤ aop || 6 ≤ scope || (wide && [1, 4, 7].contains aop) }
  | 0x01 =>
    some { d := dk, a := addr, b := val, c := val, dRun := sz + 1, dEven := wide, aRun := addrRun, aEven := gv,
           bRun := sz + 1, cRun := sz + 1, bEven := wide, cEven := wide, long := true,
           bad6 := 6 ≤ scope, bad7 := aop != 0 }
  | 0x02 =>
    some { d := [.S], a := uaddr, b := if sz = 1 then [.A, .I] else [.S, .A, .E, .C, .T, .I], c := sciK, long := true,
           bad6 := sp == 0 || 2 ≤ ord || 6 ≤ scope, bad7 := mf m 9 7 != 0 }
  | 0x03 =>
    some { d := [.S], a := uaddr, long := true, bad6 := sp == 0 || scope < 1 || 3 < scope,
           bad7 := mf m 9 7 != 0 || sz != 0 || ord != 0 }
  | _ => none

/-- Class 0x9 (R170, R174, R175). -/
def formBar (fn : Nat) (m : BitVec 12) : Option Form :=
  let ord := mf m 4 3
  let sc := mf m 2 0
  let high := mf m 11 5 != 0
  match fn with
  | 0x00 => some { bad6 := high || ord == 0 || 6 ≤ sc }
  | 0x01 => some { unguarded := true, bad6 := high, bad7 := mf m 4 0 != 0 }
  | 0x02 => some { unguarded := true, bad6 := high, bad7 := mf m 4 0 != 0 }
  | 0x03 =>
    some { d := (match sc with | 4 => dpK | 5 => dvK | _ => []), a := sciK,
           b := if sc = 0 ∨ sc = 3 ∨ sc = 4 then sciK else [], unguarded := true,
           bad6 := high || 6 ≤ sc, bad7 := ord != 0 }
  | 0x04 => some { a := sciK, bad6 := high, bad7 := mf m 4 0 != 0 }
  | _ => none

/-- Class 0xA (R190, R195). -/
def formMat (fn : Nat) (m : BitVec 12) : Option Form :=
  let sp := mf m 4 3
  match fn with
  | 0x00 => some { d := [.M], a := sciK, b := [.V], c := sciK, dDest := false, long := true, bad6 := mf m 6 0 != 0 }
  | 0x01 =>
    some { d := [.M], a := sciK, b := [.V], c := sciK, dDest := false, long := true, role2 := true,
           bad6 := mf m 6 0 != 0 }
  | 0x02 =>
    some { a := [.M], b := sciK, dDest := false, long := true,
           bad6 := !([0, 1, 2].contains (mf m 11 8)) || sp == 0 || sp == 3 || mf m 2 0 != 0 }
  | 0x03 => some { d := [.M], a := sciK, dDest := false, long := true, bad6 := sp == 0 || sp == 3 || mf m 11 5 != 0 || mf m 2 0 != 0 }
  | 0x04 => some { d := [.M], dDest := false, long := true, bad6 := m != 0 }
  | _ => none

/-- Class 0xB (R199). -/
def formCor (fn : Nat) (m : BitVec 12) : Option Form :=
  let mode := mf m 11 10
  let n := mf m 7 4 + 1
  let low := mf m 2 0 != 0
  let lim : List Kind := if mode = 1 then [] else [.S, .C, .E, .I]
  let sp := mf m 3 3 == 1
  match fn with
  | 0x00 =>
    some { d := [.M], a := [.V], b := [.V], c := lim, aRun := n, bRun := n, dDest := false, long := true,
           bad6 := low || mode == 3, bad8 := sp && mode != 0 }
  | 0x01 =>
    some { d := [.M], a := [.V], b := [.V], c := lim, aRun := (n + 3) / 4, bRun := n, dDest := false, long := true,
           role2 := true, bad6 := low || mode == 3, bad8 := (sp && mode != 0) || n % 4 != 0 }
  | 0x02 =>
    some { d := [.V], a := [.V], dRun := n, aRun := n, long := true, bad6 := low,
           bad7 := mode != 0 || mf m 9 8 != 0 || sp }
  | 0x03 =>
    some { d := [.V], a := [.V], b := [.V], dRun := n, aRun := n, bRun := n, long := true, bad6 := low,
           bad7 := mode != 0 || sp }
  | _ => none

/-- Class 0xC (R205). -/
def formAttn (fn : Nat) (m : BitVec 12) : Option Form :=
  let mid := mf m 10 2 != 0
  let t := mf m 11 11 != 0
  let sg := mf m 1 0 != 0
  match fn with
  | 0x00 => some { d := [.S], a := sciK, long := true, bad6 := mid, bad7 := t }
  | 0x01 => some { d := [.A], a := [.A], long := true, bad6 := mid, bad7 := sg }
  | 0x02 => some { d := [.S], a := [.A], b := sciK, long := true, bad6 := mid, bad7 := sg }
  | 0x03 => some { d := [.S], a := [.A], b := [.A], long := true, bad6 := mid, bad7 := t || sg }
  | 0x04 => some { d := [.S], a := [.A], b := [.A, .Z], long := true, bad6 := mid, bad7 := t || sg }
  | 0x05 => some { d := [.S], a := [.A], long := true, bad6 := mid, bad7 := t || sg }
  | _ => none

/-- Class 0xD (R211): it has no modifier, so that `m` is an unused field (R89). -/
def formSide (fn : Nat) (m : BitVec 12) : Option Form :=
  let r := m != 0
  match fn with
  | 0x00 => some { d := [.S], a := sciK, long := true, bad7 := r }
  | 0x01 => some { d := [.S], a := sciK, long := true, bad7 := r }
  | 0x02 => some { d := [.S], a := sciK, long := true, bad7 := r }
  | 0x03 => some { d := [.S], a := sciK, long := true, bad7 := r }
  | 0x04 => some { d := [.S], a := [.A], b := sciK, long := true, bad7 := r }
  | 0x05 => some { d := [.S], a := sciK, b := sciK, long := true, bad7 := r }
  | 0x06 => some { d := [.S], a := sciK, b := sciK, long := true, bad7 := r }
  | 0x07 => some { d := [.S], a := sciK, c := sciK, long := true, bad7 := r }
  | _ => none

/-- Class 0xE (R177). -/
def formSys (fn : Nat) (m : BitVec 12) : Option Form :=
  let high := mf m 11 4 != 0
  let lo2 := mf m 1 0
  match fn with
  | 0x00 => some { a := if lo2 = 0 then [.A] else sciK, b := sciK, bad6 := high || lo2 == 3, bad7 := mf m 3 2 != 0 }
  | 0x01 => some { a := [.A], bad6 := high, bad7 := mf m 3 0 != 0 }
  | 0x02 => some { a := [.A, .S, .C, .I], bad6 := high || 3 ≤ mf m 3 0 }
  | 0x03 => some { d := [.S], a := [.A], b := sciK, bad6 := high, bad7 := mf m 3 0 != 0 }
  | 0x04 =>
    some { a := if lo2 = 0 then [.A] else [], b := if lo2 ≤ 1 then sciK else [], bad6 := high || lo2 == 3,
           bad7 := mf m 3 2 != 0 }
  | _ => none

/-- The form of an opcode (class × 64 + function) with its modifier, or none where the opcode is unassigned (R92). -/
def formOf (opc : Nat) (m : BitVec 12) (o : Fields) : Option Form :=
  let fn := opc % 64
  match opc / 64 with
  | 0x0 => formCtl fn m
  | 0x1 => formInt fn m
  | 0x2 => formFloat fn m
  | 0x3 => formMove fn m o.imm
  | 0x4 => formTransc fn m
  | 0x5 => formCross fn m o.d o.a
  | 0x6 => formLocal fn m
  | 0x7 => formCopy fn m
  | 0x8 => formAtom fn m o.a
  | 0x9 => formBar fn m
  | 0xA => formMat fn m
  | 0xB => formCor fn m
  | 0xC => formAttn fn m
  | 0xD => formSide fn m
  | 0xE => formSys fn m
  | _ => none

/-- What the tests of line entry read of the group: its blocks, its quota, its role and its privilege. -/
structure EntryEnv where
  vblocks : Nat
  tquota : Nat
  role : Nat
  priv : Bool
  deriving DecidableEq, Repr

/-- A field's registers lie within the allocation and the quota (R40, R45). -/
def within (e : EntryEnv) (o : Opnd) (run : Nat) : Bool :=
  match o with
  | .v n => n.val + run ≤ 16 * e.vblocks
  | .m n => n.val < e.tquota
  | _ => true

/-- A V or S register with an even number, or an operand that is neither. -/
def isEven (o : Opnd) : Bool :=
  match o with
  | .v n => n.val % 2 == 0
  | .s n => n.val % 2 == 0
  | _ => true

/-- An operand that differs by lane: a vector register, a predicate value or a lane-varying constant (R42, R87). -/
def perLane (o : Opnd) : Bool := [Kind.V, Kind.P, Kind.L].contains (kindOf o)

/-- A uniform form: its destination is a uniform scalar, an address register or a step-size register (R42). -/
def uniformForm (f : Form) (o : Fields) : Bool :=
  f.dDest && !f.d.isEmpty && [Kind.S, Kind.A, Kind.E].contains (kindOf o.d)

/-- Test 5 of R93; a field that the entry does not use is left to test 7, whatever register it names (log 57). -/
def test5 (e : EntryEnv) (f : Form) (o : Fields) : Bool :=
  let fld (ks : List Kind) (x : Opnd) (run : Nat) : Bool := ks.isEmpty || (accepts ks x && within e x run)
  let runs (x : Opnd) (run : Nat) : Nat := if kindOf x = .V then run else 1
  fld f.d o.d (runs o.d f.dRun) && fld f.a o.a (runs o.a f.aRun) && fld f.b o.b (runs o.b f.bRun)
    && fld f.c o.c (runs o.c f.cRun)
    && (!uniformForm f o || f.readsLanes
        || !((!f.a.isEmpty && perLane o.a) || (!f.b.isEmpty && perLane o.b) || (!f.c.isEmpty && perLane o.c)))

/-- Some used field names the immediate. -/
def namesImm (f : Form) (o : Fields) : Bool :=
  (!f.d.isEmpty && o.d == .imm) || (!f.a.isEmpty && o.a == .imm) || (!f.b.isEmpty && o.b == .imm)
    || (!f.c.isEmpty && o.c == .imm)

/-- Test 7 of R93: the unused fields hold their fixed values (R89). -/
def test7 (f : Form) (o : Fields) : Bool :=
  (!f.d.isEmpty || o.d == zeroOpnd) && (!f.a.isEmpty || o.a == zeroOpnd) && (!f.b.isEmpty || o.b == zeroOpnd)
    && (!f.c.isEmpty || o.c == zeroOpnd) && !f.bad7 && (f.ownImm || namesImm f o || o.imm == 0)

/-- Test 8 of R93: what the entries state for line entry. -/
def test8 (e : EntryEnv) (f : Form) (o : Fields) : Bool :=
  (!f.dEven || f.d.isEmpty || isEven o.d) && (!f.aEven || f.a.isEmpty || isEven o.a)
    && (!f.bEven || f.b.isEmpty || isEven o.b) && (!f.cEven || f.c.isEmpty || isEven o.c)
    && !f.bad8 && (!f.role2 || e.role == 2) && (!f.unguarded || o.guard == ⟨false, 7⟩)

/-- The first of the tests 5 to 9 of R93 that fails, or 0. -/
def firstOf5to9 (e : EntryEnv) (opc : Nat) (f : Form) (o : Fields) : Nat :=
  if !test5 e f o then 5
  else if f.bad6 then 6
  else if !test7 f o then 7
  else if !test8 e f o then 8
  else if opc / 64 == 0xE && !e.priv then 9
  else 0

end Sys2Proof.Machine
end

