-- ==== Sys2Proof/Machine/Encoding.lean ====
section
/-! DEFINITION. How operands, modifiers and opcodes stand in an instruction word (R84, R86, R92, and the modifier
tables of chapters 05 to 09). -/

namespace Sys2Proof.Machine

/-- The code of a format (R57). -/
def fmtCode : Fmt → Nat
  | .f32 => 0 | .f16 => 1 | .bf16 => 2 | .f8a => 3 | .f8b => 4 | .i32 => 5 | .i16 => 6 | .i12 => 7
  | .i8 => 8 | .u8 => 9 | .i4 => 10 | .rns34 => 11 | .u32 => 12

/-- The format of a code, none for the reserved codes (R57). -/
def fmtOf : Nat → Option Fmt
  | 0 => some .f32 | 1 => some .f16 | 2 => some .bf16 | 3 => some .f8a | 4 => some .f8b | 5 => some .i32
  | 6 => some .i16 | 7 => some .i12 | 8 => some .i8 | 9 => some .u8 | 10 => some .i4 | 11 => some .rns34
  | 12 => some .u32 | _ => none

/-- The code of a rounding mode (R64). -/
def rndCode : Rnd → Nat
  | .rn => 0 | .rz => 1 | .ru => 2 | .rd => 3

/-- The rounding mode of a code (R64). -/
def rndOf : Nat → Rnd
  | 0 => .rn | 1 => .rz | 2 => .ru | _ => .rd

/-- The code of an order (R165). -/
def ordCode : Ord → Nat
  | .rlx => 0 | .acq => 1 | .rel => 2 | .ar => 3

/-- The order of a code (R165). -/
def ordOf : Nat → Ord
  | 0 => .rlx | 1 => .acq | 2 => .rel | _ => .ar

/-- The code of a scope (R165, R260). -/
def scopeCode : Scope → Nat
  | .grp => 0 | .core => 1 | .die => 2 | .dev => 3 | .dom => 4 | .sys => 5

/-- The scope of a code, none for the reserved codes (R165). -/
def scopeOf : Nat → Option Scope
  | 0 => some .grp | 1 => some .core | 2 => some .die | 3 => some .dev | 4 => some .dom | 5 => some .sys | _ => none

/-- The code of a space in classes 0x6 and 0x8 (R156, R165). -/
def spaceCode : Space → Nat
  | .k => 0 | .s => 1 | .y => 2 | .g => 3

/-- The space of a code of classes 0x6 and 0x8. -/
def spaceOf : Nat → Space
  | 0 => .k | 1 => .s | 2 => .y | _ => .g

/-- The code of a space in class 0x7 (R159). -/
def cspaceCode : Space → Nat
  | .g => 0 | .s => 1 | .y => 2 | .k => 3

/-- The space of a code of class 0x7; code 3 is reserved. -/
def cspaceOf : Nat → Space
  | 0 => .g | 1 => .s | 2 => .y | _ => .k

/-- A bit as a number. -/
def bit (b : Bool) : Nat := if b then 1 else 0

/-- The bits of a lane modifier (R91). -/
def laneBits (m : LaneMod) : BitVec 12 :=
  BitVec.ofNat 12 (fmtCode m.fmt * 256 + rndCode m.rnd * 64 + bit m.sat * 32 + m.sub.toNat)
/-- The lane modifier of 12 bits, none where the format code is reserved. -/
def laneOf (b : BitVec 12) : Option LaneMod :=
  (fmtOf (mf b 11 8)).map fun f => ⟨f, rndOf (mf b 7 6), mf b 5 5 == 1, BitVec.ofNat 5 (mf b 4 0)⟩

/-- The bits of a cross-lane modifier (R140). -/
def crossBits (m : CrossMod) : BitVec 12 :=
  BitVec.ofNat 12 (fmtCode m.fmt * 256 + m.fn.toNat * 32 + bit m.w * 16 + m.st.toNat)
/-- The cross-lane modifier of 12 bits. -/
def crossOf (b : BitVec 12) : Option CrossMod :=
  (fmtOf (mf b 11 8)).map fun f => ⟨f, BitVec.ofNat 3 (mf b 7 5), mf b 4 4 == 1, BitVec.ofNat 4 (mf b 3 0)⟩

/-- The bits of a local-memory modifier (R156). -/
def localBits (m : LocalMod) : BitVec 12 :=
  BitVec.ofNat 12 (spaceCode m.sp * 1024 + m.w.toNat * 256 + bit m.sx * 128 + m.cnt.toNat * 8)
/-- The local-memory modifier of 12 bits, none where a reserved bit is set. -/
def localOf (b : BitVec 12) : Option LocalMod :=
  if mf b 2 0 = 0 then
    some ⟨spaceOf (mf b 11 10), BitVec.ofNat 2 (mf b 9 8), mf b 7 7 == 1, BitVec.ofNat 4 (mf b 6 3)⟩
  else none

/-- The bits of a copy modifier (R159). -/
def copyBits (m : CopyMod) : BitVec 12 :=
  BitVec.ofNat 12 (bit m.lu * 2048 + cspaceCode m.ds * 512 + cspaceCode m.ss * 128 + m.es.toNat * 32)
/-- The copy modifier of 12 bits, none where a reserved bit is set. -/
def copyOf (b : BitVec 12) : Option CopyMod :=
  if mf b 4 0 = 0 then
    some ⟨mf b 11 11 == 1, cspaceOf (mf b 10 9), cspaceOf (mf b 8 7), BitVec.ofNat 2 (mf b 6 5)⟩
  else none

/-- The bits of an atomic modifier (R165). -/
def atomBits (m : AtomMod) : BitVec 12 :=
  BitVec.ofNat 12 (spaceCode m.sp * 1024 + m.aop.toNat * 64 + bit m.sz * 32 + ordCode m.ord * 8 + scopeCode m.scope)
/-- The atomic modifier of 12 bits, none where the scope is reserved. -/
def atomOf (b : BitVec 12) : Option AtomMod :=
  (scopeOf (mf b 2 0)).map fun sc =>
    ⟨spaceOf (mf b 11 10), BitVec.ofNat 4 (mf b 9 6), mf b 5 5 == 1, ordOf (mf b 4 3), sc⟩

/-- The bits of a fence modifier (R170). -/
def fenceBits (m : FenceMod) : BitVec 12 := BitVec.ofNat 12 (ordCode m.ord * 8 + scopeCode m.scope)
/-- The fence modifier of 12 bits, none where a reserved bit is set or the scope is reserved. -/
def fenceOf (b : BitVec 12) : Option FenceMod :=
  if mf b 11 5 = 0 then (scopeOf (mf b 2 0)).map fun sc => ⟨ordOf (mf b 4 3), sc⟩ else none

/-- The bits of an `mma` modifier (R190). -/
def mmaBits (m : MmaMod) : BitVec 12 :=
  BitVec.ofNat 12 (bit m.residue * 2048 + bit m.z * 1024 + bit m.fin * 512 + m.sg.toNat * 128)
/-- The `mma` modifier of 12 bits, none where a reserved bit is set. -/
def mmaOf (b : BitVec 12) : Option MmaMod :=
  if mf b 6 0 = 0 then some ⟨mf b 11 11 == 1, mf b 10 10 == 1, mf b 9 9 == 1, BitVec.ofNat 2 (mf b 8 7)⟩ else none

/-- The bits of a tile modifier (R190). -/
def tileBits (m : TileMod) : BitVec 12 :=
  BitVec.ofNat 12 (fmtCode m.fmt * 256 + rndCode m.rnd * 64 + bit m.sat * 32 + spaceCode m.sp * 8)
/-- The tile modifier of 12 bits, none where a reserved bit is set or the format is reserved. -/
def tileOf (b : BitVec 12) : Option TileMod :=
  if mf b 2 0 = 0 then
    (fmtOf (mf b 11 8)).map fun f => ⟨f, rndOf (mf b 7 6), mf b 5 5 == 1, spaceOf (mf b 4 3)⟩
  else none

/-- The code of a correcting mode (R199). -/
def corModeCode : CorMode → Nat
  | .upd => 0 | .rsp => 1 | .add => 2
/-- The correcting mode of a code, none for the reserved code (R199). -/
def corModeOf : Nat → Option CorMode
  | 0 => some .upd | 1 => some .rsp | 2 => some .add | _ => none
/-- The bits of a correcting modifier (R199). -/
def corBits (m : CorMod) : BitVec 12 :=
  BitVec.ofNat 12 (corModeCode m.mode * 1024 + m.es.toNat * 256 + m.kn.toNat * 16 + bit m.sp * 8)
/-- The correcting modifier of 12 bits, none where a reserved bit is set or the mode is reserved. -/
def corOf (b : BitVec 12) : Option CorMod :=
  if mf b 2 0 = 0 then
    (corModeOf (mf b 11 10)).map fun md => ⟨md, BitVec.ofNat 2 (mf b 9 8), BitVec.ofNat 4 (mf b 7 4), mf b 3 3 == 1⟩
  else none

/-- The bits of an attention modifier (R205). -/
def attnBits (m : AttnMod) : BitVec 12 := BitVec.ofNat 12 (bit m.t * 2048 + m.sg.toNat)
/-- The attention modifier of 12 bits, none where a reserved bit is set. -/
def attnOf (b : BitVec 12) : Option AttnMod :=
  if mf b 10 2 = 0 then some ⟨mf b 11 11 == 1, BitVec.ofNat 2 (mf b 1 0)⟩ else none

/-- The bits of `segld`'s modifier (R177). -/
def segBits (sp : Space) : BitVec 12 := BitVec.ofNat 12 (spaceCode sp)
/-- The segment of 12 bits (R177); code 3 is reserved. -/
def segOf (b : BitVec 12) : Option Space := if b.toNat < 4 then some (spaceOf b.toNat) else none

/-- The bits of `srw`'s modifier (R177). -/
def ctlRegBits : CtlReg → BitVec 12
  | .tvec => 0 | .tscr => 1 | .wdog => 2
/-- The control register of 12 bits (R177). -/
def ctlRegOf (b : BitVec 12) : Option CtlReg :=
  match b.toNat with
  | 0 => some .tvec | 1 => some .tscr | 2 => some .wdog | _ => none

/-- The bits of `tlbi`'s modifier (R177). -/
def tlbFormBits : TlbForm → BitVec 12
  | .va => 0 | .ctx => 1 | .all => 2
/-- The form of 12 bits (R177). -/
def tlbFormOf (b : BitVec 12) : Option TlbForm :=
  match b.toNat with
  | 0 => some .va | 1 => some .ctx | 2 => some .all | _ => none

/-- The constants in the order of their codes from 0x170 on (R87). -/
def constTable : List Constant :=
  [.zero, .one, .fone, .lane, .quad, .qlane, .gidx, .tidx, .gngx, .tign, .ngrp, .ones, .fnzero, .finf, .fnan]

/-- The status registers in the order of their codes from 0x180 on (R52). -/
def statusTable : List StatusReg :=
  [.gwidth, .ctx, .place, .alloc, .amask, .exited, .helper, .pstk, .flagclr, .cycle, .wdog,
   .sgkb, .sgkl, .sgsb, .sgsl, .sgyb, .sgyl, .pstep]

/-- The offset of a constant's code from 0x170 (R87). -/
def constIdx : Constant → Nat
  | .zero => 0 | .one => 1 | .fone => 2 | .lane => 3 | .quad => 4 | .qlane => 5 | .gidx => 6 | .tidx => 7
  | .gngx => 8 | .tign => 9 | .ngrp => 10 | .ones => 11 | .fnzero => 12 | .finf => 13 | .fnan => 14

/-- The offset of a status register's code from 0x180 (R52). -/
def statusIdx : StatusReg → Nat
  | .gwidth => 0 | .ctx => 1 | .place => 2 | .alloc => 3 | .amask => 4 | .exited => 5 | .helper => 6 | .pstk => 7
  | .flagclr => 8 | .cycle => 9 | .wdog => 10 | .sgkb => 11 | .sgkl => 12 | .sgsb => 13 | .sgsl => 14 | .sgyb => 15
  | .sgyl => 16 | .pstep => 17

/-- The 9-bit code of an operand (R86). -/
def opndCode : Opnd → Nat
  | .v n => n.val
  | .s n => 0x100 + n.val
  | .p n => 0x140 + n.val
  | .a n => 0x148 + n.val
  | .m n => 0x158 + n.val
  | .eta n => 0x168 + n.val
  | .const c => 0x170 + constIdx c
  | .sr r => 0x180 + statusIdx r
  | .imm => 0x1FF

/-- The operand of a 9-bit code, none for a reserved code (R86). -/
def opndOf (x : Nat) : Option Opnd :=
  if h : x < 0x100 then some (.v ⟨x, h⟩)
  else if h : x - 0x100 < 0x40 then some (.s ⟨x - 0x100, h⟩)
  else if h : x - 0x140 < 8 then some (.p ⟨x - 0x140, h⟩)
  else if h : x - 0x148 < 16 then some (.a ⟨x - 0x148, h⟩)
  else if h : x - 0x158 < 16 then some (.m ⟨x - 0x158, h⟩)
  else if h : x - 0x168 < 4 then some (.eta ⟨x - 0x168, h⟩)
  else if x < 0x170 then none
  else if x < 0x180 then (constTable[x - 0x170]?).map .const
  else if x < 0x1C0 then (statusTable[x - 0x180]?).map .sr
  else if x = 0x1FF then some .imm
  else none

/-- The raw fields of an instruction word (R84). -/
structure Raw where
  opc : Nat
  g : Nat
  d : Nat
  a : Nat
  b : Nat
  c : Nat
  fs : Nat
  m : BitVec 12
  imm : Nat

/-- The fields of a word (R84). -/
def rawOf (w : SlotWord) : Raw :=
  let x := w.toNat
  { opc := bits x 95 86, g := bits x 85 82, d := bits x 81 73, a := bits x 72 64, b := bits x 63 55, c := bits x 54 46,
    fs := bits x 45 44, m := BitVec.ofNat 12 (bits x 43 32), imm := bits x 31 0 }

/-- The word of an opcode, a modifier and fields (R84). -/
def packWord (opc : Nat) (m : BitVec 12) (o : Fields) : SlotWord :=
  BitVec.ofNat 96 (opc * 2 ^ 86 + (bit o.guard.neg * 8 + o.guard.pred.val) * 2 ^ 82 + opndCode o.d * 2 ^ 73
    + opndCode o.a * 2 ^ 64 + opndCode o.b * 2 ^ 55 + opndCode o.c * 2 ^ 46 + o.fs.toNat * 2 ^ 44 + m.toNat * 2 ^ 32
    + o.imm.toNat)

/-- The opcode (R92), the modifier bits and the fields of an instruction; none for a device step, which has no word
(log 7). -/
def partsOf : Instr → Option (Nat × BitVec 12 × Fields)
  | .nop o => some (0x000, 0, o)
  | .br o => some (0x001, 0, o)
  | .brd o => some (0x002, 0, o)
  | .brx o => some (0x003, 0, o)
  | .call o => some (0x004, 0, o)
  | .callx o => some (0x005, 0, o)
  | .ret o => some (0x006, 0, o)
  | .if_ o => some (0x007, 0, o)
  | .else_ o => some (0x008, 0, o)
  | .endif_ o => some (0x009, 0, o)
  | .loop_ o => some (0x00A, 0, o)
  | .lbrk lvl o => some (0x00B, lvl.setWidth 12, o)
  | .cont lvl o => some (0x00C, lvl.setWidth 12, o)
  | .endl o => some (0x00D, 0, o)
  | .exit_ o => some (0x00E, 0, o)
  | .yield_ wf o => some (0x00F, wf, o)
  | .ebrk o => some (0x010, 0, o)
  | .grow o => some (0x011, 0, o)
  | .shrink o => some (0x012, 0, o)
  | .add m o => some (0x040, laneBits m, o)
  | .sub m o => some (0x041, laneBits m, o)
  | .mul m o => some (0x042, laneBits m, o)
  | .mulhi m o => some (0x043, laneBits m, o)
  | .mad m o => some (0x044, laneBits m, o)
  | .min_ m o => some (0x045, laneBits m, o)
  | .max_ m o => some (0x046, laneBits m, o)
  | .abs_ m o => some (0x047, laneBits m, o)
  | .neg m o => some (0x048, laneBits m, o)
  | .and_ m o => some (0x049, laneBits m, o)
  | .or_ m o => some (0x04A, laneBits m, o)
  | .xor_ m o => some (0x04B, laneBits m, o)
  | .not_ m o => some (0x04C, laneBits m, o)
  | .shl m o => some (0x04D, laneBits m, o)
  | .shr m o => some (0x04E, laneBits m, o)
  | .sar m o => some (0x04F, laneBits m, o)
  | .popc m o => some (0x050, laneBits m, o)
  | .clz m o => some (0x051, laneBits m, o)
  | .brev m o => some (0x052, laneBits m, o)
  | .bfe m o => some (0x053, laneBits m, o)
  | .bfi m o => some (0x054, laneBits m, o)
  | .icmp m o => some (0x055, laneBits m, o)
  | .aadd m o => some (0x056, laneBits m, o)
  | .aidx m o => some (0x057, laneBits m, o)
  | .fadd m o => some (0x080, laneBits m, o)
  | .fsub m o => some (0x081, laneBits m, o)
  | .fmul m o => some (0x082, laneBits m, o)
  | .fma m o => some (0x083, laneBits m, o)
  | .fmin m o => some (0x084, laneBits m, o)
  | .fmax m o => some (0x085, laneBits m, o)
  | .fabs m o => some (0x086, laneBits m, o)
  | .fneg m o => some (0x087, laneBits m, o)
  | .fcmp m o => some (0x088, laneBits m, o)
  | .fclass m o => some (0x089, laneBits m, o)
  | .frnd m o => some (0x08A, laneBits m, o)
  | .hadd2 m o => some (0x08B, laneBits m, o)
  | .hmul2 m o => some (0x08C, laneBits m, o)
  | .hfma2 m o => some (0x08D, laneBits m, o)
  | .hmin2 m o => some (0x08E, laneBits m, o)
  | .hmax2 m o => some (0x08F, laneBits m, o)
  | .hdot2 m o => some (0x090, laneBits m, o)
  | .mov m o => some (0x0C0, laneBits m, o)
  | .cvt m o => some (0x0C1, laneBits m, o)
  | .sel m o => some (0x0C2, laneBits m, o)
  | .plog m o => some (0x0C3, laneBits m, o)
  | .rdl m o => some (0x0C4, laneBits m, o)
  | .amov m o => some (0x0C5, laneBits m, o)
  | .pack m o => some (0x0C6, laneBits m, o)
  | .unpack m o => some (0x0C7, laneBits m, o)
  | .rcp m o => some (0x100, laneBits m, o)
  | .rsqrt m o => some (0x101, laneBits m, o)
  | .sqrt m o => some (0x102, laneBits m, o)
  | .ex2 m o => some (0x103, laneBits m, o)
  | .lg2 m o => some (0x104, laneBits m, o)
  | .sin m o => some (0x105, laneBits m, o)
  | .cos m o => some (0x106, laneBits m, o)
  | .tanh m o => some (0x107, laneBits m, o)
  | .exsm m o => some (0x108, laneBits m, o)
  | .fdiv m o => some (0x109, laneBits m, o)
  | .vote m o => some (0x140, crossBits m, o)
  | .shfl m o => some (0x141, crossBits m, o)
  | .lred m o => some (0x142, crossBits m, o)
  | .qx m o => some (0x143, crossBits m, o)
  | .pset m o => some (0x144, crossBits m, o)
  | .perm m o => some (0x145, crossBits m, o)
  | .bcast m o => some (0x146, crossBits m, o)
  | .ld m o => some (0x180, localBits m, o)
  | .st m o => some (0x181, localBits m, o)
  | .ldb m o => some (0x182, localBits m, o)
  | .stb m o => some (0x183, localBits m, o)
  | .cpy m o => some (0x1C0, copyBits m, o)
  | .cpyg m o => some (0x1C1, copyBits m, o)
  | .cpys m o => some (0x1C2, copyBits m, o)
  | .cpyf m o => some (0x1C3, copyBits m, o)
  | .coll m o => some (0x1C4, copyBits m, o)
  | .atom m o => some (0x200, atomBits m, o)
  | .cas m o => some (0x201, atomBits m, o)
  | .waitv m o => some (0x202, atomBits m, o)
  | .wake m o => some (0x203, atomBits m, o)
  | .fence m o => some (0x240, fenceBits m, o)
  | .bar o => some (0x241, 0, o)
  | .gbar o => some (0x242, 0, o)
  | .phbarInit o => some (0x243, 0, o)
  | .phbarArr o => some (0x243, 1, o)
  | .phbarQuit o => some (0x243, 2, o)
  | .phbarWait o => some (0x243, 3, o)
  | .phbarTest o => some (0x243, 4, o)
  | .phbarGen o => some (0x243, 5, o)
  | .qfence o => some (0x244, 0, o)
  | .mma m o => some (0x280, mmaBits m, o)
  | .mmq m o => some (0x281, mmaBits m, o)
  | .mrd m o => some (0x282, tileBits m, o)
  | .mwr m o => some (0x283, tileBits m, o)
  | .mclr o => some (0x284, 0, o)
  | .cor m o => some (0x2C0, corBits m, o)
  | .corq m o => some (0x2C1, corBits m, o)
  | .gram m o => some (0x2C2, corBits m, o)
  | .trsv m o => some (0x2C3, corBits m, o)
  | .attn m o => some (0x300, attnBits m, o)
  | .kvalloc m o => some (0x301, attnBits m, o)
  | .kvcommit m o => some (0x302, attnBits m, o)
  | .kvrel m o => some (0x303, attnBits m, o)
  | .kvlink m o => some (0x304, attnBits m, o)
  | .kvchk m o => some (0x305, attnBits m, o)
  | .swarm o => some (0x340, 0, o)
  | .swreq o => some (0x341, 0, o)
  | .swcan o => some (0x342, 0, o)
  | .swst o => some (0x343, 0, o)
  | .shedj o => some (0x344, 0, o)
  | .cbs o => some (0x345, 0, o)
  | .cbr o => some (0x346, 0, o)
  | .cbw o => some (0x347, 0, o)
  | .segld seg o => some (0x380, segBits seg, o)
  | .rte o => some (0x381, 0, o)
  | .srw reg o => some (0x382, ctlRegBits reg, o)
  | .mapld o => some (0x383, 0, o)
  | .tlbi form o => some (0x384, tlbFormBits form, o)
  | .clauseStart => none
  | .ifetchFill => none
  | .yieldResume => none
  | .loadReturn _ => none
  | .atomicPerform _ => none
  | .waitvTimeout _ => none
  | .engineCommandStart _ => none
  | .copyUnitWrite _ => none
  | .commandComplete _ => none
  | .quartetRendezvous _ => none
  | .leaveGrant _ => none
  | .sideQueueHandover _ => none
  | .attnEngineHandoff _ => none
  | .attnHeaderArrival _ => none
  | .attnBlockProcess _ => none
  | .translationFault _ => none
  | .upcallPost _ _ => none
  | .pagerAnswer _ _ => none
  | .shootdownAck _ _ => none
  | .readBufferInvalidation _ _ => none
  | .growGrant _ _ => none
  | .growDeny _ => none
  | .watchdogExpiry _ => none
  | .groupRetire _ => none
  | .teamRelease _ _ _ => none
  | .gridEnd _ => none
  | .launchEntryConsume _ => none
  | .fileLoad _ => none
  | .gangPlace _ _ => none
  | .preemptGang _ _ => none
  | .gangRestore _ _ => none
  | .contextSwitch _ => none
  | .contextTeardown _ => none
  | .refreshSlot _ => none
  | .sweepInstall _ _ => none
  | .sweepArmPoint _ => none
  | .stackSensorSample _ _ => none
  | .selfRefreshEntry _ => none
  | .selfRefreshExit _ => none
  | .shedJobStart _ _ => none
  | .shedJobEnd _ _ => none
  | .cribStart _ => none
  | .widen _ => none
  | .cribIdleDiscard _ => none
  | .txgo _ => none
  | .rxpop _ => none
  | .stepBudgetExpiry _ => none
  | .episodeFaultKill _ _ => none
  | .cbwTimeout _ => none
  | .breakpointHit => none
  | .stop _ _ => none
  | .step _ _ _ _ => none
  | .resume _ _ => none
  | .portRegRead _ _ _ => none
  | .portRegWrite _ _ _ _ _ => none
  | .portMemRead _ _ _ _ _ => none
  | .portMemWrite _ _ _ _ _ => none
  | .queueStopWrite _ _ => none
  | .dbiWrite _ _ _ => none
  | .registerWrite _ => none
  | .hostBar2Access _ _ _ _ => none
  | .fabricRemoteAccess _ => none
  | .burstReceive _ _ => none
  | .burstCrcFail _ _ => none
  | .laneRepair _ => none
  | .linkDown _ _ => none
  | .collContribution _ _ _ _ _ => none
  | .nvmeRequest _ _ _ => none
  | .nvmeCompletion _ => none
  | .patrolScrub _ _ => none
  | .rowRepair _ => none
  | .dieSensorSample _ _ => none
  | .stallSample _ _ => none
  | .sampleDrain _ _ => none
  | .deviceStart _ _ => none
  | .mmexit => none
  | .firmwareImageWrite _ _ _ => none
  | .getMeasurements => none
  | .contextLetBack _ => none
  | .fabricLinkRetrain _ => none
  | .communicatorDestroy _ => none
  | .launchQueueReset _ => none
  | .paddockCoreHardError _ => none

/-- The instruction of an opcode, modifier bits and fields; none where the opcode is unassigned or the modifier holds a
reserved value. -/
def buildInstr (opc : Nat) (m : BitVec 12) (o : Fields) : Option Instr :=
  match opc with
  | 0x000 => some (.nop o)
  | 0x001 => some (.br o)
  | 0x002 => some (.brd o)
  | 0x003 => some (.brx o)
  | 0x004 => some (.call o)
  | 0x005 => some (.callx o)
  | 0x006 => some (.ret o)
  | 0x007 => some (.if_ o)
  | 0x008 => some (.else_ o)
  | 0x009 => some (.endif_ o)
  | 0x00A => some (.loop_ o)
  | 0x00B => some (.lbrk (m.setWidth 8) o)
  | 0x00C => some (.cont (m.setWidth 8) o)
  | 0x00D => some (.endl o)
  | 0x00E => some (.exit_ o)
  | 0x00F => some (.yield_ m o)
  | 0x010 => some (.ebrk o)
  | 0x011 => some (.grow o)
  | 0x012 => some (.shrink o)
  | 0x040 => (laneOf m).map fun x => .add x o
  | 0x041 => (laneOf m).map fun x => .sub x o
  | 0x042 => (laneOf m).map fun x => .mul x o
  | 0x043 => (laneOf m).map fun x => .mulhi x o
  | 0x044 => (laneOf m).map fun x => .mad x o
  | 0x045 => (laneOf m).map fun x => .min_ x o
  | 0x046 => (laneOf m).map fun x => .max_ x o
  | 0x047 => (laneOf m).map fun x => .abs_ x o
  | 0x048 => (laneOf m).map fun x => .neg x o
  | 0x049 => (laneOf m).map fun x => .and_ x o
  | 0x04A => (laneOf m).map fun x => .or_ x o
  | 0x04B => (laneOf m).map fun x => .xor_ x o
  | 0x04C => (laneOf m).map fun x => .not_ x o
  | 0x04D => (laneOf m).map fun x => .shl x o
  | 0x04E => (laneOf m).map fun x => .shr x o
  | 0x04F => (laneOf m).map fun x => .sar x o
  | 0x050 => (laneOf m).map fun x => .popc x o
  | 0x051 => (laneOf m).map fun x => .clz x o
  | 0x052 => (laneOf m).map fun x => .brev x o
  | 0x053 => (laneOf m).map fun x => .bfe x o
  | 0x054 => (laneOf m).map fun x => .bfi x o
  | 0x055 => (laneOf m).map fun x => .icmp x o
  | 0x056 => (laneOf m).map fun x => .aadd x o
  | 0x057 => (laneOf m).map fun x => .aidx x o
  | 0x080 => (laneOf m).map fun x => .fadd x o
  | 0x081 => (laneOf m).map fun x => .fsub x o
  | 0x082 => (laneOf m).map fun x => .fmul x o
  | 0x083 => (laneOf m).map fun x => .fma x o
  | 0x084 => (laneOf m).map fun x => .fmin x o
  | 0x085 => (laneOf m).map fun x => .fmax x o
  | 0x086 => (laneOf m).map fun x => .fabs x o
  | 0x087 => (laneOf m).map fun x => .fneg x o
  | 0x088 => (laneOf m).map fun x => .fcmp x o
  | 0x089 => (laneOf m).map fun x => .fclass x o
  | 0x08A => (laneOf m).map fun x => .frnd x o
  | 0x08B => (laneOf m).map fun x => .hadd2 x o
  | 0x08C => (laneOf m).map fun x => .hmul2 x o
  | 0x08D => (laneOf m).map fun x => .hfma2 x o
  | 0x08E => (laneOf m).map fun x => .hmin2 x o
  | 0x08F => (laneOf m).map fun x => .hmax2 x o
  | 0x090 => (laneOf m).map fun x => .hdot2 x o
  | 0x0C0 => (laneOf m).map fun x => .mov x o
  | 0x0C1 => (laneOf m).map fun x => .cvt x o
  | 0x0C2 => (laneOf m).map fun x => .sel x o
  | 0x0C3 => (laneOf m).map fun x => .plog x o
  | 0x0C4 => (laneOf m).map fun x => .rdl x o
  | 0x0C5 => (laneOf m).map fun x => .amov x o
  | 0x0C6 => (laneOf m).map fun x => .pack x o
  | 0x0C7 => (laneOf m).map fun x => .unpack x o
  | 0x100 => (laneOf m).map fun x => .rcp x o
  | 0x101 => (laneOf m).map fun x => .rsqrt x o
  | 0x102 => (laneOf m).map fun x => .sqrt x o
  | 0x103 => (laneOf m).map fun x => .ex2 x o
  | 0x104 => (laneOf m).map fun x => .lg2 x o
  | 0x105 => (laneOf m).map fun x => .sin x o
  | 0x106 => (laneOf m).map fun x => .cos x o
  | 0x107 => (laneOf m).map fun x => .tanh x o
  | 0x108 => (laneOf m).map fun x => .exsm x o
  | 0x109 => (laneOf m).map fun x => .fdiv x o
  | 0x140 => (crossOf m).map fun x => .vote x o
  | 0x141 => (crossOf m).map fun x => .shfl x o
  | 0x142 => (crossOf m).map fun x => .lred x o
  | 0x143 => (crossOf m).map fun x => .qx x o
  | 0x144 => (crossOf m).map fun x => .pset x o
  | 0x145 => (crossOf m).map fun x => .perm x o
  | 0x146 => (crossOf m).map fun x => .bcast x o
  | 0x180 => (localOf m).map fun x => .ld x o
  | 0x181 => (localOf m).map fun x => .st x o
  | 0x182 => (localOf m).map fun x => .ldb x o
  | 0x183 => (localOf m).map fun x => .stb x o
  | 0x1C0 => (copyOf m).map fun x => .cpy x o
  | 0x1C1 => (copyOf m).map fun x => .cpyg x o
  | 0x1C2 => (copyOf m).map fun x => .cpys x o
  | 0x1C3 => (copyOf m).map fun x => .cpyf x o
  | 0x1C4 => (copyOf m).map fun x => .coll x o
  | 0x200 => (atomOf m).map fun x => .atom x o
  | 0x201 => (atomOf m).map fun x => .cas x o
  | 0x202 => (atomOf m).map fun x => .waitv x o
  | 0x203 => (atomOf m).map fun x => .wake x o
  | 0x240 => (fenceOf m).map fun x => .fence x o
  | 0x241 => some (.bar o)
  | 0x242 => some (.gbar o)
  | 0x243 =>
    match m.toNat with
    | 0 => some (.phbarInit o)
    | 1 => some (.phbarArr o)
    | 2 => some (.phbarQuit o)
    | 3 => some (.phbarWait o)
    | 4 => some (.phbarTest o)
    | 5 => some (.phbarGen o)
    | _ => none
  | 0x244 => some (.qfence o)
  | 0x280 => (mmaOf m).map fun x => .mma x o
  | 0x281 => (mmaOf m).map fun x => .mmq x o
  | 0x282 => (tileOf m).map fun x => .mrd x o
  | 0x283 => (tileOf m).map fun x => .mwr x o
  | 0x284 => some (.mclr o)
  | 0x2C0 => (corOf m).map fun x => .cor x o
  | 0x2C1 => (corOf m).map fun x => .corq x o
  | 0x2C2 => (corOf m).map fun x => .gram x o
  | 0x2C3 => (corOf m).map fun x => .trsv x o
  | 0x300 => (attnOf m).map fun x => .attn x o
  | 0x301 => (attnOf m).map fun x => .kvalloc x o
  | 0x302 => (attnOf m).map fun x => .kvcommit x o
  | 0x303 => (attnOf m).map fun x => .kvrel x o
  | 0x304 => (attnOf m).map fun x => .kvlink x o
  | 0x305 => (attnOf m).map fun x => .kvchk x o
  | 0x340 => some (.swarm o)
  | 0x341 => some (.swreq o)
  | 0x342 => some (.swcan o)
  | 0x343 => some (.swst o)
  | 0x344 => some (.shedj o)
  | 0x345 => some (.cbs o)
  | 0x346 => some (.cbr o)
  | 0x347 => some (.cbw o)
  | 0x380 => (segOf m).map fun x => .segld x o
  | 0x381 => some (.rte o)
  | 0x382 => (ctlRegOf m).map fun x => .srw x o
  | 0x383 => some (.mapld o)
  | 0x384 => (tlbFormOf m).map fun x => .tlbi x o
  | _ => none

end Sys2Proof.Machine
end

