-- ==== Sys2Proof/WellFormed.lean ====
section
/-! DEFINITION. The instructions that the hardware takes: those whose word passes every test of R93 in a group with the
given allocation, role and privilege. A device step has no word and is always well formed. -/

namespace Sys2Proof

/-- The instruction passes the tests 3 to 9 of R93 (tests 1 and 2 hold of every constructor). -/
def wellFormed (e : Machine.EntryEnv) (i : Instr) : Bool :=
  match Machine.partsOf i with
  | none => true
  | some (opc, m, o) =>
    o.guard != ⟨true, 7⟩
      && match Machine.formOf opc m o with
        | none => false
        | some f => Machine.firstOf5to9 e opc f o == 0

end Sys2Proof
end

