-- ==== Sys2Proof/Decode.lean ====
section
/-! DEFINITION. Decoding one slot by the nine tests of R93, and the encoder. -/

namespace Sys2Proof

open Machine

/-- A slot that a test of R93 refuses, by the test's number. -/
inductive DecodeError
  | failed (test : Nat)
  deriving DecidableEq, Repr

/-- The operands of the four fields, or none where one holds a reserved code (R86). -/
def fieldsOf (r : Raw) : Option Fields :=
  match opndOf r.d, opndOf r.a, opndOf r.b, opndOf r.c with
  | some d, some a, some b, some c =>
    some { guard := ⟨8 ≤ r.g, ⟨r.g % 8, Nat.mod_lt _ (by decide)⟩⟩, d := d, a := a, b := b, c := c,
           fs := BitVec.ofNat 2 r.fs, imm := BitVec.ofNat 32 r.imm }
  | _, _, _, _ => none

/-- Fields that stand for a word whose operands are not yet known, to ask whether its opcode is assigned. -/
def noFields : Fields := ⟨⟨false, 7⟩, zeroOpnd, zeroOpnd, zeroOpnd, zeroOpnd, 0, 0⟩

/-- Decode one slot for a group (R93): the instruction, or the number of the first test that fails. -/
def decodeSlot (e : EntryEnv) (w : SlotWord) : Except DecodeError Instr :=
  let r := rawOf w
  if r.opc / 64 = 0xF then .error (.failed 1)
  else if (formOf r.opc r.m noFields).isNone then .error (.failed 2)
  else if r.g = 15 then .error (.failed 3)
  else match fieldsOf r with
    | none => .error (.failed 4)
    | some o =>
      match formOf r.opc r.m o with
      | none => .error (.failed 2)
      | some f =>
        match firstOf5to9 e r.opc f o with
        | 0 =>
          match buildInstr r.opc r.m o with
          | some i => .ok i
          | none => .error (.failed 6)
        | n => .error (.failed n)

/-- The word of an instruction; a device step has none (log 7). -/
def encode (i : Instr) : Option SlotWord :=
  (partsOf i).map fun p => packWord p.1 p.2.1 p.2.2

/-- The environment in which `decodeTableWord` decodes: all 16 blocks, all 16 tile names, role 2, privileged. -/
def widestEnv : EntryEnv := ⟨16, 16, 2, true⟩

/-- The instruction that the decoder reads from a word given as bits (R84, 96 bits to an instruction). -/
def decodeTableWord (nbits w : Nat) : Option Instr :=
  match decodeSlot widestEnv (BitVec.ofNat 96 (w % 2 ^ min nbits 96)) with
  | .ok i => some i
  | .error _ => none

end Sys2Proof
end

