-- ==== Sys2Proof/Machine/Float.lean ====
section
/-! DEFINITION. Number formats and exact arithmetic (R57 to R68, R78, R79, R107 to R109): values are read exactly,
computed exactly and rounded once. -/

namespace Sys2Proof.Machine

/-- An exact value: NaN, an infinity, or (-1)^neg * man * 2^exp, where a zero keeps its sign. -/
inductive Ext
  | nan
  | inf (neg : Bool)
  | fin (neg : Bool) (man : Nat) (exp : Int)
  deriving DecidableEq, Repr

/-- The layout of a float format (R59). -/
structure FloatFmt where
  expBits : Nat
  manBits : Nat
  bias : Int
  /-- The code of the largest finite value without its sign. -/
  maxFin : Nat
  hasInf : Bool
  canonNaN : Nat
  deriving DecidableEq, Repr

/-- The float formats (R59); the integer formats have none. -/
def floatFmt : Fmt → Option FloatFmt
  | .f32 => some ⟨8, 23, 127, 0x7F7FFFFF, true, 0x7FC00000⟩
  | .f16 => some ⟨5, 10, 15, 0x7BFF, true, 0x7E00⟩
  | .bf16 => some ⟨8, 7, 127, 0x7F7F, true, 0x7FC0⟩
  | .f8a => some ⟨4, 3, 7, 0x7E, false, 0x7F⟩
  | .f8b => some ⟨5, 2, 15, 0x7B, true, 0x7E⟩
  | _ => none

/-- `F32` (R59). -/
def F32 : FloatFmt := ⟨8, 23, 127, 0x7F7FFFFF, true, 0x7FC00000⟩
/-- `BF16` (R59). -/
def BF16 : FloatFmt := ⟨8, 7, 127, 0x7F7F, true, 0x7FC0⟩

/-- Bits of an element of a format (R57); `I12` stands in a 16-bit container. -/
def fmtBits : Fmt → Nat
  | .f32 => 32 | .f16 => 16 | .bf16 => 16 | .f8a => 8 | .f8b => 8 | .i32 => 32 | .i16 => 16 | .i12 => 16
  | .i8 => 8 | .u8 => 8 | .i4 => 4 | .rns34 => 64 | .u32 => 32

/-- The value of a float pattern (R59). -/
def floatVal (F : FloatFmt) (x : Nat) : Ext :=
  let w := F.expBits + F.manBits
  let neg := bits x w w == 1
  let e := bits x (w - 1) F.manBits
  let m := x % 2 ^ F.manBits
  if F.maxFin < x % 2 ^ w then
    if F.hasInf ∧ m = 0 then .inf neg else .nan
  else if e = 0 then .fin neg m (1 - F.bias - F.manBits)
  else .fin neg (2 ^ F.manBits + m) (e - F.bias - F.manBits)

/-- The sign bit of a pattern of a float format. -/
def signBit (F : FloatFmt) (neg : Bool) : Nat := if neg then 2 ^ (F.expBits + F.manBits) else 0

/-- The pattern of an infinity; a format without infinities gives its NaN (R65). -/
def infBits (F : FloatFmt) (neg : Bool) : Nat :=
  if F.hasInf then (2 ^ F.expBits - 1) * 2 ^ F.manBits + signBit F neg else F.canonNaN

/-- What an overflowed result becomes (R65). -/
def overflowBits (F : FloatFmt) (r : Rnd) (sat neg : Bool) : Nat :=
  let big := F.maxFin + signBit F neg
  if sat then big
  else match r, neg with
    | .rn, n => infBits F n
    | .rz, _ => big
    | .ru, false => infBits F false
    | .ru, true => big
    | .rd, false => big
    | .rd, true => infBits F true

/-- Whether a kept significand goes up, given whether its last bit is odd and the part dropped against one unit of
the last place (R64). -/
def roundsUp (r : Rnd) (neg odd : Bool) (rem unit : Nat) (sticky : Bool) : Bool :=
  match r with
  | .rn => unit < 2 * rem || (unit == 2 * rem && (sticky || odd))
  | .rz => false
  | .ru => !neg && (rem != 0 || sticky)
  | .rd => neg && (rem != 0 || sticky)

/-- The magnitude man * 2^exp, with something under 2^exp more where `sticky`, rounded to a multiple of 2^q. -/
def roundQ (r : Rnd) (neg : Bool) (man : Nat) (exp q : Int) (sticky : Bool) : Nat :=
  if q ≤ exp then
    let k := man * 2 ^ (exp - q).toNat
    if roundsUp r neg (k % 2 == 1) 0 2 sticky then k + 1 else k
  else
    let u := 2 ^ (q - exp).toNat
    let k := man / u
    if roundsUp r neg (k % 2 == 1) (man % u) u sticky then k + 1 else k

/-- A finite magnitude rounded into a float format (R64, R65). -/
def roundFin (F : FloatFmt) (r : Rnd) (sat neg : Bool) (man : Nat) (exp : Int) (sticky : Bool) : Nat :=
  let qmin := 1 - F.bias - F.manBits
  let q := max (exp + (Nat.log2 man : Int) - F.manBits) qmin
  let k := roundQ r neg man exp q sticky
  let code :=
    if k < 2 ^ F.manBits then k
    else ((q - qmin + 1).toNat - 1) * 2 ^ F.manBits + k
  if F.maxFin < code then overflowBits F r sat neg else code + signBit F neg

/-- An exact value rounded once into a float format (R64, R65, R107). An infinity that is exact stays one. -/
def roundExt (F : FloatFmt) (r : Rnd) (sat : Bool) : Ext → Nat
  | .nan => F.canonNaN
  | .inf n => infBits F n
  | .fin n 0 _ => signBit F n
  | .fin n m e => roundFin F r sat n m e false

/-- Conversion between float formats (R65, R66): an infinity into a narrower format is treated as an overflow. -/
def convFloat (G F : FloatFmt) (r : Rnd) (sat : Bool) (x : Ext) : Nat :=
  let top (H : FloatFmt) : Ext := floatVal H H.maxFin
  let narrower : Bool := match top F, top G with
    | .fin _ m e, .fin _ m' e' =>
      let lo := min e e'
      m * 2 ^ (e - lo).toNat < m' * 2 ^ (e' - lo).toNat
    | _, _ => false
  match x with
  | .inf n => if narrower then overflowBits F r sat n else infBits F n
  | y => roundExt F r sat y

/-- The signed integer behind a finite value at a common exponent. -/
def signedAt (neg : Bool) (man : Nat) (exp lo : Int) : Int :=
  let k : Int := (man * 2 ^ (exp - lo).toNat : Nat)
  if neg then -k else k

/-- A finite value from a signed integer and an exponent; zero takes the given sign. -/
def ofSigned (zneg : Bool) (x : Int) (exp : Int) : Ext :=
  if x = 0 then .fin zneg 0 exp else .fin (x < 0) x.natAbs exp

/-- The sign of an exact zero sum (R108): like signs keep theirs; unlike signs give -0 in `rd` alone. -/
def zeroSign (r : Rnd) (a b : Bool) : Bool := if a = b then a else r == .rd

/-- Exact addition (R108). -/
def addExt (r : Rnd) : Ext → Ext → Ext
  | .nan, _ => .nan
  | _, .nan => .nan
  | .inf a, .inf b => if a = b then .inf a else .nan
  | .inf a, .fin _ _ _ => .inf a
  | .fin _ _ _, .inf b => .inf b
  | .fin a m e, .fin b m' e' =>
    let lo := min e e'
    ofSigned (if m = 0 ∧ m' = 0 then zeroSign r a b else r == .rd) (signedAt a m e lo + signedAt b m' e' lo) lo

/-- The value with its sign inverted. -/
def negExt : Ext → Ext
  | .nan => .nan
  | .inf a => .inf !a
  | .fin a m e => .fin (!a) m e

/-- Exact multiplication (R108). -/
def mulExt : Ext → Ext → Ext
  | .nan, _ => .nan
  | _, .nan => .nan
  | .inf a, .inf b => .inf (a != b)
  | .inf a, .fin b m _ => if m = 0 then .nan else .inf (a != b)
  | .fin a m _, .inf b => if m = 0 then .nan else .inf (a != b)
  | .fin a m e, .fin b m' e' => .fin (a != b) (m * m') (e + e')

/-- The value times a power of two. -/
def scaleExt (x : Ext) (n : Int) : Ext :=
  match x with
  | .fin a m e => .fin a m (e + n)
  | y => y

/-- The magnitude is zero. -/
def isZero : Ext → Bool
  | .fin _ m _ => m == 0
  | _ => false

/-- NaN or an infinity. -/
def isExc : Ext → Bool
  | .nan => true
  | .inf _ => true
  | .fin _ _ _ => false

/-- The exact sum of an accumulator and products (R78, R79, R113): NaN and infinities first, then the sum, where a zero
is -0 if every term is -0 and otherwise +0, or -0 where `rdNeg` says that the entry rounds under `rd` (R113). -/
def sumExt (rdNeg : Bool) (acc : Ext) (ts : List Ext) : Ext :=
  let all := acc :: ts
  if all.any (fun t => t == .nan) then .nan
  else
    let pos := all.any fun t => t == .inf false
    let neg := all.any fun t => t == .inf true
    if pos && neg then .nan
    else if pos then .inf false
    else if neg then .inf true
    else
      let lo := all.foldl (fun (l : Int) t => match t with | .fin _ 0 _ => l | .fin _ _ e => min l e | _ => l) 0
      let s := all.foldl (fun (x : Int) t => match t with | .fin _ 0 _ => x | .fin n m e => x + signedAt n m e lo | _ => x) 0
      let allNeg := all.all fun t => match t with | .fin true 0 _ => true | _ => false
      ofSigned (allNeg || rdNeg) s lo

/-- Order of finite and infinite values: -1, 0 or 1; NaN compares as 0 and is tested before. -/
def cmpExt : Ext → Ext → Int
  | .inf a, .inf b => if a = b then 0 else if a then -1 else 1
  | .inf a, .fin _ _ _ => if a then -1 else 1
  | .fin _ _ _, .inf b => if b then 1 else -1
  | .fin a m e, .fin b m' e' =>
    let lo := min e e'
    let d := signedAt a m e lo - signedAt b m' e' lo
    if d < 0 then -1 else if d = 0 then 0 else 1
  | _, _ => 0

/-- An `F32` pattern as a value. -/
def f32 (w : Word) : Ext := floatVal F32 w.toNat
/-- A value rounded to `F32` under `rn` (R97). -/
def rnF32 (x : Ext) : Word := BitVec.ofNat 32 (roundExt F32 .rn false x)
/-- round_rn_f32(x + y) of two patterns. -/
def faddRn (x y : Word) : Word := rnF32 (addExt .rn (f32 x) (f32 y))
/-- round_rn_f32(x - y) of two patterns. -/
def fsubRn (x y : Word) : Word := rnF32 (addExt .rn (f32 x) (negExt (f32 y)))
/-- round_rn_f32(x * y) of two patterns. -/
def fmulRn (x y : Word) : Word := rnF32 (mulExt (f32 x) (f32 y))

/-- Multiplication and addition with one rounding (R108): infinity × 0 gives NaN whatever z holds. -/
def fmaExt (r : Rnd) (x y z : Ext) : Ext := addExt r (mulExt x y) z
/-- fma_rn_f32 of three patterns (R97). -/
def fmaRn (x y z : Word) : Word := rnF32 (fmaExt .rn (f32 x) (f32 y) (f32 z))

/-- The lesser (or greater) of two patterns of a float format (R109): -0 below +0, one NaN gives the other operand. -/
def fminmax (F : FloatFmt) (wantMax : Bool) (x y : Nat) : Nat :=
  let vx := floatVal F x
  let vy := floatVal F y
  match vx, vy with
  | .nan, .nan => F.canonNaN
  | .nan, _ => y
  | _, .nan => x
  | _, _ =>
    let neg (v : Nat) : Bool := bits v (F.expBits + F.manBits) (F.expBits + F.manBits) == 1
    let c := cmpExt vx vy
    let less : Bool := c < 0 || (c == 0 && neg x && !neg y)
    if wantMax then (if less then y else x) else (if less then x else y)

/-- The least value of an integer format (R62). -/
def intMin : Fmt → Int
  | .i32 => -2147483648 | .i16 => -32768 | .i12 => -2048 | .i8 => -128 | .i4 => -8 | _ => 0
/-- The greatest value of an integer format (R62). -/
def intMax : Fmt → Int
  | .i32 => 2147483647 | .u32 => 4294967295 | .i16 => 32767 | .i12 => 2047 | .i8 => 127 | .u8 => 255 | .i4 => 7 | _ => 0
/-- The value bits of an integer format: `I12` has 12 (R63). -/
def intBits : Fmt → Nat
  | .i12 => 12 | f => fmtBits f
/-- A format is signed (R57). -/
def isSigned : Fmt → Bool
  | .i32 => true | .i16 => true | .i12 => true | .i8 => true | .i4 => true | _ => false

/-- The integer that a pattern holds in an integer format (R62, R63). -/
def intVal (f : Fmt) (x : Nat) : Int :=
  if isSigned f then sext x (intBits f) else (x % 2 ^ intBits f : Nat)

/-- An integer brought into a format: clamped with `sat`, else taken modulo (R67, R68). -/
def intInto (f : Fmt) (sat : Bool) (k : Int) : Int :=
  if sat then max (intMin f) (min (intMax f) k) else intVal f (wrap k (intBits f))

/-- A finite value rounded to an integer (R67). -/
def roundInt (r : Rnd) (neg : Bool) (man : Nat) (exp : Int) : Int :=
  let k : Int := roundQ r neg man exp 0 false
  if neg then -k else k

/-- Conversion from float to integer (R67). -/
def floatToInt (f : Fmt) (r : Rnd) (sat : Bool) : Ext → Int
  | .nan => 0
  | .inf false => intMax f
  | .inf true => intMin f
  | .fin n m e => intInto f sat (roundInt r n m e)

/-- One element converted from format G to format F (R66, R67, R68); the result is the element's own pattern. -/
def convElem (G F : Fmt) (r : Rnd) (sat : Bool) (x : Nat) : Nat :=
  let x := x % 2 ^ fmtBits G
  match floatFmt G, floatFmt F with
  | some g, some f => convFloat g f r sat (floatVal g x)
  | some g, none => wrap (floatToInt F r sat (floatVal g x)) (fmtBits F)
  | none, some f => roundExt f r sat (ofSigned false (intVal G x) 0)
  | none, none => wrap (intInto F sat (intVal G x)) (fmtBits F)

/-- An element's pattern spread over 32 bits as `cvt` does (R118). -/
def widen (F : Fmt) (x : Nat) : Word :=
  match floatFmt F with
  | some _ => BitVec.ofNat 32 x
  | none => BitVec.ofInt 32 (intVal F x)

end Sys2Proof.Machine
end

