-- ==== Sys2Proof/Machine/GroupState.lean ====
section
/-! DEFINITION. The state of one group (R39) and of the operations that it has issued (R24, R254). -/

namespace Sys2Proof.Machine

/-- A program-counter slot (R51), with the flags of a `yield` park (R138), and the copy of its line that it points into:
0 for the fresh one, or the number of a stale one (R38). -/
structure PcSlot where
  pc : DWord
  mask : LaneMask
  valid : Bool
  park : Option (BitVec 12)
  copy : Nat
  deriving DecidableEq, Repr

/-- A segment register (R47). -/
structure Seg where
  base : Nat
  limit : Nat
  deriving DecidableEq, Repr

/-- Where a chain's scales lie (R192): the last command's format block, with the `sg.s` base in the core's memory and the
limit. -/
structure ScaleSrc where
  hsa : Bool
  hsb : Bool
  sao : Nat
  sbo : Nat
  segB : Nat
  segL : Nat
  deriving DecidableEq, Repr

/-- An accumulator tile with its chain state (R193, R286); the residue partial holds R69 containers. `turned` is the
command that turned its name away from it, while the partial that it then leaves behind has not been dropped (R289). -/
structure Tile where
  acc : Sparse Word
  res : Sparse (BitVec 34)
  residue : Bool
  fa : Fmt
  fb : Fmt
  kb : Nat
  kpos : Nat
  site : Nat
  loaded : Bool
  scales : ScaleSrc
  turned : Option Nat
  /-- A row segment has shown an uncorrectable error, and a command that reads it ends with status 2 (R460). -/
  bad : Bool
  deriving DecidableEq, Repr

/-- A register that an instruction names (R24). -/
inductive RegRef
  | v (n : Nat) | s (n : Nat) | p (n : Nat) | a (n : Nat) | eta (n : Nat) | pm (n : Nat)
  deriving DecidableEq, Repr

/-- The stall reasons (R432). -/
inductive Stall
  | ifetch | flagwait | yield_ | regwait | flagfull | xlate | desc | oplog | fence | barwait | grow
  | quartet | tilewait | sys | stopped
  deriving DecidableEq, Repr

/-- A taken entry of the failure ring (R247, R255): its place, whether it was raised, and what the per-lane entries of
its trap take from the instruction. -/
structure RingEntry where
  idx : Nat
  raised : Bool
  status : Nat
  opc : Nat
  faddr : Nat
  lmask : LaneMask
  space : Nat
  size : Nat
  kind : Nat
  replica : Bool
  /-- The tile name of a diverged update (R202). -/
  tile : Option Nat
  deriving DecidableEq, Repr

/-- What a group that arrived at `bar` or `gbar` waits for (R172). -/
inductive BarState
  | none | team | gang | released
  deriving DecidableEq, Repr

/-- A `grow` request of a group (R176, R228, R229): the blocks, the cycle of the request, and the step that made it, which
orders the requests of one slice. -/
inductive GrowState
  | none | asked (n : Nat) (at_ : Nat) (step : Nat) | granted | denied
  deriving DecidableEq, Repr

/-- The format block of a matrix command (R192). -/
structure FormatBlock where
  fa : Fmt
  fb : Fmt
  kb : Nat
  site : Nat
  src : ScaleSrc
  deriving DecidableEq, Repr

/-- The operands of an `mma` or `mmq` as read at issue (R184, R193): the place of A in the core's memory, the rows of B,
64 lanes to a register, and the rows lo to hi - 1 of B that the group itself holds (R198). A is read when the command
starts (R197). -/
structure MmaWork where
  name : Nat
  residue : Bool
  z : Bool
  fin : Bool
  sg : Nat
  fb : FormatBlock
  aAt : Nat
  a : Bytes
  b : List Word
  k : Nat
  lo : Nat
  hi : Nat
  tile : Nat
  /-- The command renames the tile's name (R285). -/
  fresh : Bool
  deriving DecidableEq, Repr

/-- The operands of a `cor` or `corq` as read at issue (R200). -/
structure CorWork where
  name : Nat
  mode : CorMode
  eta : Word
  lim : Word
  n : Nat
  split : Bool
  keys : List Word
  vals : List Word
  vreg : Nat
  /-- The lanes that receive a register result (R184). -/
  mask : LaneMask
  tile : Option Nat
  build : Option Nat
  deriving DecidableEq, Repr

/-- What a group held at a rendezvous brings (R195, R291). -/
inductive Rdv
  | mmq (w : MmaWork) (o : Fields)
  | corq (w : CorWork) (o : Fields)
  /-- The rendezvous is off: the cause of `QUARTET_SPLIT`. -/
  | split (cause : Nat)
  deriving DecidableEq, Repr

/-- The fields of an `attn` descriptor (R206). -/
structure AttnDesc where
  q : Nat
  kv : Nat
  out : Nat
  rs : Nat
  scale : Word
  qpos0 : Nat
  maxtok : Nat
  nq : Nat
  dh : Nat
  cb : Bool
  causal : Bool
  ob : Bool
  site : Nat
  deriving DecidableEq, Repr

/-- The fields of a sweep descriptor (R212). -/
structure SweepDesc where
  base : Nat
  len : Nat
  fn : Nat
  et : Nat
  rep : Bool
  fsc : Nat
  arg : Word
  flag : Nat
  /-- A reserved bit of the descriptor was set. -/
  bad : Bool
  deriving DecidableEq, Repr

/-- One lane of a load or of a per-lane command. -/
structure LaneOp where
  lane : Nat
  /-- Address or offset as the instruction gave it, for the fault entries (R245). -/
  at_ : Nat
  /-- Where the bytes lie: a virtual address, or the place in the core's or the die's memory. -/
  loc : Nat
  x : Nat
  y : Nat
  deriving DecidableEq, Repr

/-- Where a result goes. -/
inductive Dest
  | none | v (n : Nat) (wide : Bool) | s (n : Nat) | a (n : Nat) | eta (n : Nat)
  deriving DecidableEq, Repr

/-- The work of an outstanding operation, with every operand that it read at issue. -/
inductive Work
  /-- A load (R157, R158): the values read and where each goes (register, lane, value). -/
  | load (space size : Nat) (writes : List (RegRef × Nat × DWord)) (bad : List LaneOp)
  /-- `atom` and `cas` (R166, R167): a lane's x is b and its y is c. -/
  | atomic (sp : Space) (cas : Bool) (aop : Nat) (wide : Bool) (ord : Ord) (scope : Scope) (dst : Dest) (lanes : List LaneOp)
  /-- `waitv` (R168). -/
  | wait (sp : Space) (x : Bool) (wide : Bool) (ord : Ord) (scope : Scope) (dst : Nat) (loc at_ limit : Nat)
  /-- `wake` (R169). -/
  | wake (sp : Space) (all : Bool) (scope : Scope) (dst : Nat) (loc at_ : Nat)
  /-- `cpy` (R161): byte ranges, and the barrier's place in the core's memory. -/
  | copy (ds ss : Space) (lu : Bool) (dst src count : Nat) (bar : Option Nat)
  /-- `cpyf` (R161). -/
  | fill (ds : Space) (lu : Bool) (dst : Nat) (pat : Word) (count : Nat) (bar : Option Nat)
  /-- `cpyg` (R162): a lane's x is its source address and its loc the destination. -/
  | gather (ds : Space) (lu : Bool) (size : Nat) (lanes : List LaneOp) (bar : Option Nat)
  /-- `cpys` (R162): a lane's x is its source place and its loc the destination address. -/
  | scatter (ss : Space) (lu : Bool) (size : Nat) (lanes : List LaneOp)
  /-- `coll` (R164): the place of its descriptor, the descriptor once it is read, and the pieces still to be written. -/
  | coll (at_ : Nat) (desc : Bytes) (todo : List Nat)
  | mma (w : MmaWork)
  /-- `mrd` (R196). -/
  | mrd (name : Nat) (tile : Option Nat) (fmt : Fmt) (rnd : Rnd) (sat : Bool) (sp : Space) (dst : Nat)
  /-- `mwr` (R196). -/
  | mwr (name tile : Nat) (sp : Space) (src : Nat)
  | mclr (name : Nat) (tile : Option Nat)
  | cor (w : CorWork)
  /-- `gram` (R203) and `trsv` (R204). -/
  | gram (n d : Nat) (mask : LaneMask) (keys : List Word)
  | trsv (n d : Nat) (mask : LaneMask) (eta : Word) (rows rhs : List Word)
  | attn (dst : Nat) (sg : Nat) (desc : AttnDesc)
  /-- The key-value commands (R209): `fn` is the function code of R205. -/
  | kv (fn : Nat) (t : Bool) (dst : Dest) (blk arg : Nat)
  /-- `swarm` (R214) with its descriptor and the place of the descriptor, where `hdl` is written. -/
  | swarm (dst : Nat) (desc : SweepDesc) (loc : Nat)
  /-- `swreq`, `swcan`, `swst` (R215), by function code. -/
  | sweep (fn : Nat) (dst : Nat) (hdl : Nat)
  | shedj (dst : Nat) (card stack : Nat)
  | cbs (dst : Nat) (crib : Nat) (msg : Bytes)
  | cbr (dst : Nat) (crib : Nat) (loc : Nat)
  | cbw (dst : Nat) (crib : Nat) (limit : Nat)
  deriving DecidableEq, Repr

/-- Where an outstanding operation stands. -/
inductive Phase
  /-- In its queue, or on its way where it uses no queue. -/
  | queued
  /-- At the head of its queue, waiting for leave (R15). -/
  | leave
  /-- Started on its engine or unit. -/
  | running
  /-- In the operand log of its group after a translation fault (R248). -/
  | logged
  /-- Saved with its gang by a pre-emption (R347). -/
  | saved
  /-- Its work is over; its completion record is still to be written (R185). -/
  | ended
  /-- Its record waits for a free entry of the failure ring (R255). -/
  | heldBack
  deriving DecidableEq, Repr

/-- A translation that an operation holds (R182, R252): a 64 KiB granule and its place, propagation attribute and
permissions. -/
structure Xl where
  granule : Nat
  pa : Nat
  attr : Nat
  r : Bool
  w : Bool
  deriving DecidableEq, Repr

/-- A write of the debug port that waits for a load (R443). -/
structure Deferred where
  reg : RegRef
  mask : LaneMask
  value : DWord
  deriving DecidableEq, Repr

/-- An operation that has been issued and has not yet completed (R23, R254). -/
structure Op where
  gid : Nat
  ctx : Nat
  core : Nat
  grid : Nat
  team : Nat
  /-- `sr.place`[13:0] of the issuer. -/
  place : Nat
  opc : Nat
  /-- Its queue by the bits of R175, or 6 for an access of the group itself. -/
  queue : Nat
  pc : DWord
  seq : Nat
  flags : BitVec 12
  dests : List RegRef
  phase : Phase
  progress : Nat
  grant : Nat
  replayed : Bool
  xl : List Xl
  work : Work
  status : Nat
  faddr : Nat
  lmask : LaneMask
  done : Nat
  /-- A uniform result that the completion writes. -/
  result : DWord
  /-- Results for registers (register, lane, value) that the completion writes. -/
  outs : List (RegRef × Nat × DWord)
  deferred : List Deferred
  /-- The operations that form one command with this one (R291). -/
  mates : List Nat
  /-- The granules for which this operation was once upcalled, each with its pager as granule * 2048 + pager (R361 step 6). -/
  upcalled : List Nat
  /-- Granules whose page was refused to an `attn`, with the status (R304, R361). -/
  refused : List (Nat × Nat)
  /-- It was issued while its group was in its trap handler (R240). -/
  handler : Bool
  /-- The cycle of issue or of hand-over, for the limits of R168 and R217. -/
  since : Nat
  replica : Bool
  /-- Census events to count at its completion: site, kind and the counts (R296, R434). -/
  census : List (Nat × Nat × List Nat)
  /-- 0, or the step of its return to the head of its queue, after a pager's answer or a restore: the later, the nearer to the
  head (R249, R348). -/
  lead : Nat
  deriving DecidableEq, Repr

/-- One group (R39) with its placement and its run-time conditions. -/
structure Group where
  gid : Nat
  grid : Nat
  ctx : Nat
  gngx : Nat
  tign : Nat
  gidx : Nat
  ngrp : Nat
  tpg : Nat
  launched : LaneMask
  die : Nat
  core : Nat
  slice : Nat
  gslot : Nat
  resident : Bool
  v : Sparse Word
  s : Sparse Word
  p : Sparse LaneMask
  a : Sparse DWord
  eta : Sparse Word
  pm : Sparse (BitVec 352)
  /-- The cycle from which a permutation register is valid again (R149), or none where the debug port has made it invalid
  (R442); one that is not listed is valid. -/
  pmReady : Sparse (Option Nat)
  flags : Sparse Nat
  slot0 : PcSlot
  slot1 : PcSlot
  /-- The issuing slot (R223). -/
  issue1 : Bool
  ctr : Sparse (BitVec 8)
  exited : LaneMask
  pstk : Nat
  sgk : Seg
  sgs : Seg
  sgy : Seg
  vblocks : Nat
  tquota : Nat
  role : Nat
  budget : Nat
  /-- Blocks that leave at the next line entry (R41). -/
  shrink : Nat
  priv : Bool
  tvec : DWord
  tscr : DWord
  wdog : Nat
  wdogOn : Bool
  /-- The watchdog count has reached zero: the group is about to end (R233). -/
  expired : Bool
  busy : Bool
  /-- The ring entry of the deferred trap that the handler serves (R244). -/
  serving : Option Nat
  ring : List RingEntry
  /-- Physical tiles by name * 2 + index (R284), and for each bound name the index of its live tile. -/
  tiles : Sparse Tile
  liveTile : Sparse Nat
  mmqCount : Nat
  corqCount : Nat
  /-- The group has entered a line and issues its slots (R25). -/
  inClause : Bool
  line : LineBits
  /-- The lines that the slots have entered, whose checks have passed and whose clauses have not started (R25, R34). -/
  wait0 : Option LineBits
  wait1 : Option LineBits
  /-- The group has not yet entered its launch entry point (R28). -/
  fresh : Bool
  stall : Option Stall
  bar : BarState
  grow : GrowState
  rdv : Option Rdv
  /-- The `tlbi` that holds the group (R177). -/
  shoot : Option Nat
  stopped : Bool
  /-- A STOP that takes effect at the next issue opportunity (R437). -/
  stopReq : Bool
  /-- A RESUME while the group was off the core: its invalid slots are filled when it is back (R441). -/
  refill : Bool
  stepLeft : Nat
  /-- The focus mask of its STEP (R439). -/
  focus : LaneMask
  /-- The point of the breakpoint at which the group stopped, and the lanes that have not issued from it since (R436, R437). -/
  bpPassed : Option (DWord × LaneMask)
  lastIssue : Nat
  /-- The cycle of its last issue, and how many cycles in a row it has issued in (R342). -/
  issuedAt : Option Nat
  /-- The point of its last issue (R431). -/
  lastPc : DWord
  runLen : Nat
  /-- Operations that failed while no ring entry was free, in order (R255). -/
  waitingRecs : List Nat
  deriving DecidableEq, Repr

/-- A group that is not there: no lane, no slot (log 5). -/
def Group.vacant : Group :=
  { gid := 0, grid := 0, ctx := 0, gngx := 0, tign := 0, gidx := 0, ngrp := 1, tpg := 1, launched := 0, die := 0,
    core := 0, slice := 0, gslot := 0, resident := false, v := [], s := [], p := [], a := [], eta := [], pm := [],
    pmReady := [], flags := [], slot0 := ⟨0, 0, false, none, 0⟩, slot1 := ⟨0, 0, false, none, 0⟩, issue1 := false, ctr := [],
    exited := BitVec.allOnes 64, pstk := 0, sgk := ⟨0, 0⟩, sgs := ⟨0, 0⟩, sgy := ⟨0, 0⟩, vblocks := 0, tquota := 0,
    role := 0, budget := 0, shrink := 0, priv := false, tvec := 0, tscr := 0, wdog := 0, wdogOn := false, expired := false, busy := false,
    serving := none, ring := [], tiles := [], liveTile := [], mmqCount := 0, corqCount := 0, inClause := false, line := 0,
    wait0 := none, wait1 := none, fresh := false, stall := none, bar := .none, grow := .none, rdv := none, shoot := none, stopped := false,
    stopReq := false, refill := false, stepLeft := 0, focus := 0, bpPassed := none, lastIssue := 0, issuedAt := none, lastPc := 0, runLen := 0, waitingRecs := [] }

end Sys2Proof.Machine
end

