-- ==== Sys2Proof/Machine/DeviceState.lean ====
section
/-! DEFINITION. The state of the device's units: memories, translation, engines, stacks, Sheds, Paddock, launch,
links, debug port, profilers and management. -/

namespace Sys2Proof.Machine

/-- The bytes of a memory: an address with its byte, where an unlisted address reads 0 (log 4). -/
abbrev Mem := Sparse Byte

/-- The memories (R259, R351), by DRAM location, by core * 2^19 + offset and by die * 2^27 + offset; the poisoned units
of each (R460); the region matrices that are not the identity (R362); the core-held blocks with their owners (R266);
and the lines in the die read buffers, by die * 2^46 + line (R265). -/
structure Memories where
  hbm : Mem
  shared : Mem
  yard : Mem
  hbmPsn : Sparse Bool
  sharedPsn : Sparse Bool
  yardPsn : Sparse Bool
  matrix : Sparse (List Nat)
  held : Sparse Nat
  rbuf : Sparse (BitVec 512 × Bool)
  deriving DecidableEq, Repr

/-- Memory after reset: nothing written (log 4), every region's matrix the identity (R362). -/
def Memories.reset : Memories := ⟨[], [], [], [], [], [], [], [], []⟩

/-- A page-table leaf as a translation unit caches it (R353, R356): its context, size code, virtual page and entry. -/
structure TlbEntry where
  ctx : Nat
  size : Nat
  page : Nat
  entry : Nat
  deriving DecidableEq, Repr

/-- One core's translation unit (R357), most recently used first; a walk-cache entry's `page` is the index path. -/
structure Tlb where
  small : List TlbEntry
  large : List TlbEntry
  walk : List TlbEntry
  deriving DecidableEq, Repr

/-- A context that system software has set up (R352, R359, R436, R350). -/
structure Ctx where
  root : Nat
  /-- Pager queue headers by pager number. -/
  pagers : Sparse Nat
  debugGrant : Bool
  switchedOut : Bool
  deriving DecidableEq, Repr

/-- An outstanding upcall (R361): its message number once it is posted. -/
structure Upcall where
  ctx : Nat
  pager : Nat
  granule : Nat
  uid : Nat
  src : Nat
  read : Bool
  write : Bool
  msg : Option Nat
  ops : List Nat
  /-- The pinned leaves around the granule when the message was posted: address, level and entry (R357). -/
  pins : List (Nat × Nat × Nat)
  deriving DecidableEq, Repr

/-- Translation: the cores' units, the contexts and the upcalls. -/
structure Translation where
  tlb : Sparse Tlb
  ctxs : Sparse Ctx
  upcalls : List Upcall
  nextUid : Sparse Nat
  deriving DecidableEq, Repr

/-- No context registered, every translation unit empty (log 20). -/
def Translation.reset : Translation := ⟨[], [], [], []⟩

/-- A line of an instruction buffer (R36, R38), most recently entered first in its core's list; `copy` is 0 for a fresh
entry, and the number of the launch that made it stale otherwise. -/
structure IbufLine where
  line : Nat
  ctx : Nat
  data : LineBits
  copy : Nat
  deriving DecidableEq, Repr

/-- A `qfence` entry (R175): commands numbered above `id` in its queues wait for those below. -/
structure QFence where
  /-- The group that issued it: after a restore the entry holds on its gang's new core (R349). -/
  gid : Nat
  core : Nat
  mask : Nat
  id : Nat
  /-- As an operation's: 0, or the step of its group's restore (R348). -/
  lead : Nat
  deriving DecidableEq, Repr

/-- A shoot-down in progress (R182): what it covers, and the cores that have acknowledged. -/
structure Shoot where
  gid : Nat
  form : TlbForm
  va : Nat
  size : Nat
  ctx : Nat
  acked : List Nat
  deriving DecidableEq, Repr

/-- A monitor-table entry (R168). -/
structure MonEntry where
  core : Nat
  space : Space
  block : Nat
  x : Bool
  scope : Scope
  op : Nat
  grid : Nat
  deriving DecidableEq, Repr

/-- Where a row of an `attn` stands (R303): it takes tokens, its output is due, its row-status byte is due, or it is
over. -/
inductive RowPhase
  | running | output | status (st : Nat) | over (st : Nat)
  deriving DecidableEq, Repr

/-- One row of a running `attn` (R81, R207, R303). -/
structure AttnRow where
  q : List Word
  mx : Word
  den : Word
  cmp : Word
  acc : List Word
  rownan : Bool
  phase : RowPhase
  deriving DecidableEq, Repr

/-- What a payload read of an `attn` gave (R304): the key rows and the value rows, or the status of its failure. -/
inductive AttnPay
  | rows (k v : Bytes) | bad (st : Nat)
  deriving DecidableEq, Repr

/-- A block header that the prefetcher has read (R304): its address and fields, or the status that made it unreadable. -/
structure AttnBlock where
  va : Nat
  count : Nat
  cap : Nat
  succ : Nat
  /-- The block is free, has another head dimension, or counts more than its capacity (R207). -/
  broken : Bool
  unreadable : Option Nat
  /-- Its payload, once it has been read (R304). -/
  pay : Option AttnPay
  deriving DecidableEq, Repr

/-- What an `attn` has done (R303, R306). -/
structure AttnRun where
  op : Nat
  rows : List AttnRow
  /-- Headers read and not yet consumed, in chain order. -/
  window : List AttnBlock
  /-- The next header to read, or 0 at the end of the chain. -/
  next : Nat
  p : Nat
  /-- Blocks taken since the command started or resumed (R205). -/
  blocks : Nat
  started : Bool
  deriving DecidableEq, Repr

/-- The attention engines by die * 16 + number, the saved progress of split commands, and the core each die's arbiter
served last (R302). -/
structure AttnState where
  engines : Sparse AttnRun
  saved : Sparse AttnRun
  last : Sparse Nat
  deriving DecidableEq, Repr

/-- Every engine free; the arbiters start at core 0 (log 20). -/
def AttnState.reset : AttnState := ⟨[], [], []⟩

/-- The power manager's pool (R15, R344, R467), and the dies whose hot reading has shrunk it. -/
structure LeavePool where
  size : Nat
  free : Int
  /-- Requests in the order they were made. -/
  waiting : List Nat
  hot : List Nat
  deriving DecidableEq, Repr

/-- The whole pool free (R15). -/
def LeavePool.reset : LeavePool := ⟨1000000, 1000000, [], []⟩

/-- What a check finds wrong with a unit of storage (R460), at the access that follows; `fatal` where the check cannot correct
it, and the context that reads it (R465). The agenda says when, as it does for every agent (logs 1, 63). -/
inductive Upset
  /-- A 64-byte line of HBM, by DRAM location / 64. -/
  | hbm (line : Nat) (fatal : Bool) (ctx : Nat)
  /-- A 32-byte word of a Yard, whose parity corrects nothing. -/
  | yard (word ctx : Nat)
  /-- An 8-byte word of a team-shared memory. -/
  | shared (word : Nat) (fatal : Bool) (ctx : Nat)
  /-- An element of a register of a group. -/
  | reg (gid : Nat) (r : RegRef) (fatal : Bool)
  /-- A row segment of a physical tile of a group, by the key of `Group.tiles`. -/
  | tile (gid key : Nat) (fatal : Bool)
  /-- A bit of a line in an instruction buffer, which the line's parity finds at the next entry (R30). -/
  | ibuf (core line bit : Nat)
  /-- Entry n of a list of a translation unit: 0 the small pages, 1 the large ones, 2 the walk cache. -/
  | xlat (core list n : Nat)
  /-- A word of a Paddock core's local memory. -/
  | padd (core word : Nat) (fatal : Bool)
  /-- A word of message n of a Crib's queue, outbound or inbound. -/
  | crib (crib : Nat) (out : Bool) (n : Nat) (fatal : Bool)
  /-- A Shed core's own state (R470). -/
  | shed (stack core : Nat)
  deriving DecidableEq, Repr

/-- Who moves next (log 1): a group issues, a slice issues from the group that it chooses (R342), the episode on a Paddock
core runs an instruction (R407), a device step happens, a matrix command goes on to its next granule (R189, log 13), a
check finds an error (R460), a zero-length read of a release completes on a link (R448), or a request for the certificate chain
arrives (R475). -/
inductive Turn
  | issue (gid : Nat)
  | slice (core slice : Nat)
  | hart (core : Nat)
  | event (i : Instr)
  | granule (op : Nat)
  | upset (u : Upset)
  | linkRead (key link : Nat)
  | certificates
  deriving DecidableEq, Repr

/-- Where a sweep registration stands (R214, R215). -/
inductive SweepPhase
  | installing | armed | complete | failed | cancelled
  deriving DecidableEq, Repr

/-- A sweep registration with its table entries (R370): covered DRAM rows, applied rows, and the rounds of each entry. -/
structure SweepReg where
  hdl : Nat
  ctx : Nat
  grid : Nat
  /-- Its `swarm`: the operation, and what an orphan record takes from it (R254). -/
  op : Nat
  gid : Nat
  place : Nat
  pc : DWord
  seq : Nat
  core : Nat
  /-- The place of the descriptor in the core's memory. -/
  loc : Nat
  desc : SweepDesc
  /-- The physical 1 KiB blocks of its region in ascending virtual order, and the DRAM row of each: as the mapping stood at the
  install of the row's stack (R388). -/
  blocks : List Nat
  rows : List Nat
  /-- The propagation attributes of the pages of its blocks, in the same order (R379). -/
  attrs : List Nat
  /-- Table entries: pseudo-channel of the device and first row number of the span (R370). -/
  entries : List (Nat × Nat)
  app : Sparse Bool
  /-- Rounds of each entry, by its pseudo-channel and first row number (`entryKey`). -/
  rnd : Sparse Nat
  phase : SweepPhase
  /-- Stacks whose controllers have installed the entries (R372 step 4). -/
  installed : List Nat
  badRow : Bool
  /-- Rows whose application has failed: they stay untransformed (R387). -/
  failed : Sparse Bool
  /-- The place of its arm point in the order of arm points (R371), and the cycle of it. -/
  order : Nat
  armedAt : Nat
  /-- Self-refresh time of each stack since the arm point, in cycles (R381). -/
  ext : Sparse Nat
  deriving DecidableEq, Repr

/-- A stack's controller (R367, R383). -/
structure StackCtl where
  /-- The period k and the bank whose slot comes next (R367). -/
  period : Nat
  bank : Nat
  hot : Bool
  /-- In self-refresh. -/
  asleep : Bool
  /-- The closing notice has been sent (R383). -/
  closing : Bool
  cool : Nat
  temp : Int
  /-- The cycle at which self-refresh was entered. -/
  since : Nat
  scrubRow : Sparse Nat
  spares : Sparse Nat
  /-- The errors that rows have shown, by row number (R469): the times of the corrected ones, and whether there was an
  uncorrectable one. -/
  rowErrs : Sparse (List Nat × Bool)
  /-- A sample has fallen on the other side of 85 °C: the regime changes at the end of the period (R368). -/
  change : Bool
  /-- Operations issued before the closing notice, whose accesses the drain performs (R383). -/
  drain : List Nat
  /-- What waits for the stack in arrival order: the first 4,096 in the hold buffer, the others at the die boundary (R383). -/
  hold : List Turn
  deriving DecidableEq, Repr

/-- A controller after reset: cold, awake, period 0 (log 20). -/
def StackCtl.reset : StackCtl := ⟨0, 0, false, false, false, 0, 25, 0, [], [], [], false, [], []⟩

/-- A write that follows an application (R381, R382, R387): the flag of a registration, or one record on the orphan
list of its grid. -/
inductive SweepDue
  | flag (reg : Nat)
  | orphan (reg : Nat) (status : Nat) (faddr : Nat) (done : Nat)
  deriving DecidableEq, Repr

/-- Sweep registrations by context * 2^32 + handle, the next handle of each context (R214), the stacks' controllers and
the writes that are due. -/
structure SweepState where
  regs : Sparse SweepReg
  nextHdl : Sparse Nat
  nextOrder : Nat
  ctls : Sparse StackCtl
  due : List SweepDue
  /-- Stacks that serve no request and that the present turn has reached: the turn is held (R383). -/
  touched : List Nat
  deriving DecidableEq, Repr

/-- No registration. -/
def SweepState.reset : SweepState := ⟨[], [], 1, [], [], []⟩

/-- A job card that a Shed queue holds (R396), with its issuer and what an orphan record takes from its `shedj` (R254). -/
structure ShedCard where
  ctx : Nat
  grid : Nat
  gid : Nat
  place : Nat
  pc : DWord
  seq : Nat
  core : Nat
  bytes : Bytes
  deriving DecidableEq, Repr

/-- Where a job stands (R394, R395): it waits for leave, it runs, or it waits for a pager. -/
inductive ShedPhase
  | leave | running | paging
  deriving DecidableEq, Repr

/-- A job on a Shed core (R394, R399): its number among the operations, the elements it has written, its status and address once it
has failed, and the granules upcalled and refused (R361). -/
structure ShedJob where
  id : Nat
  card : ShedCard
  phase : ShedPhase
  since : Nat
  grant : Nat
  progress : Nat
  status : Nat
  faddr : Nat
  upcalled : List Nat
  refused : List (Nat × Nat)
  deriving DecidableEq, Repr

/-- The Shed queues by stack, the jobs by stack * 8 + core, and the retired cores (R394, R470). -/
structure ShedState where
  queues : Sparse (List ShedCard)
  jobs : Sparse ShedJob
  retired : Sparse Bool
  deriving DecidableEq, Repr

/-- Every Shed queue empty and every Shed core idle. -/
def ShedState.reset : ShedState := ⟨[], [], []⟩

/-- A Crib (R217, R409 to R419). -/
structure Crib where
  ctx : Nat
  wmax : Nat
  /-- The 64 KiB frames of the window, by number. -/
  frames : List Nat
  /-- The queues; an entry that a check has found uncorrectable is empty (R463). -/
  out : List Bytes
  inb : List Bytes
  seqOut : Nat
  seqIn : Nat
  epno : Nat
  closed : Bool
  /-- The cycle at which the head outbound message reached the head (R414). -/
  headAt : Nat
  /-- The image of a START that has passed its check and waits for a core (R414). -/
  image : Option Bytes
  deriving DecidableEq, Repr

/-- An episode on a Paddock core (R407 to R419). -/
structure Episode where
  crib : Nat
  wlen : Nat
  budget : Nat
  straddle : Bool
  straddled : Bool
  startTag : Nat
  tag : Nat
  /-- Cycles left in the open step, where one is open (R417). -/
  open_ : Option Nat
  /-- Its counter reached zero in an earlier cycle: the episode is killed (R417, R418). -/
  overdue : Bool
  /-- The message that opened the step has been popped. -/
  popped : Bool
  txbuf : Bytes
  txst : Nat
  mem : Mem
  x : Sparse DWord
  f : Sparse DWord
  fcsr : Nat
  /-- The address that `lr` has reserved (log 30). -/
  resv : Option Nat
  pc : DWord
  cycle : Nat
  instret : Nat
  deriving DecidableEq, Repr

/-- The Cribs, the episodes by Paddock core and the retired cores. -/
structure PaddockState where
  cribs : Sparse Crib
  eps : Sparse Episode
  retired : Sparse Bool
  /-- Cribs that the loader has taken for a file's symbols (R325). -/
  taken : List Nat
  deriving DecidableEq, Repr

/-- No Crib assigned, every Paddock core free. -/
def PaddockState.reset : PaddockState := ⟨[], [], [], []⟩

/-- A registered launch queue (R335): the context and the address of its header. -/
structure LaunchQueue where
  ctx : Nat
  header : Nat
  /-- Launches of this queue that have not yet ended, by grid. -/
  running : List Nat
  /-- Its place in the order of registration (R337). -/
  reg : Nat
  /-- The entries that have been stamped and not yet consumed, with the cycles of their stamps (R429). -/
  seen : List (Nat × Nat)
  deriving DecidableEq, Repr

/-- A launch descriptor (R327). -/
structure LaunchDesc where
  entry : DWord
  tvec : DWord
  kbase : Nat
  ksize : Nat
  shared : Nat
  yard : Nat
  lanes : Nat
  groups : Nat
  teams : Nat
  gangs : Nat
  monlim : Nat
  priv : Bool
  dies : Nat
  roles : List Nat
  vblk : List Nat
  vbud : List Nat
  tq : List Nat
  wdog : Nat
  fmask : Nat
  sarg : List Word
  aarg : List DWord
  deriving DecidableEq, Repr

/-- The counts of one census entry (R434). -/
structure Census where
  site : Nat
  kind : Nat
  counts : List Nat
  deriving DecidableEq, Repr

/-- A grid (R218, R425, R426): its launch, its record area, its counts and its intervals. -/
structure Grid where
  ctx : Nat
  queue : Nat
  desc : LaunchDesc
  /-- The format-block images that the descriptor names, in index order (R322). -/
  blocks : List (Nat × Bytes)
  prio : Nat
  /-- Its place in the order of consumed entries (R340). -/
  order : Nat
  rec_ : Nat
  cw : Nat
  cv : Nat
  irq : Option Nat
  /-- Gangs not yet released (R237). -/
  gangsLeft : Nat
  /-- Shed jobs of its cards that have not yet set their flags (R237). -/
  jobs : Nat
  fails : Nat
  xfail : Nat
  orphs : Nat
  xorph : Nat
  census : List Census
  xsite : Nat
  speriod : Nat
  sbuf : Nat
  slen : Nat
  sused : Nat
  sdrop : Nat
  tbuf : Nat
  tlen : Nat
  tused : Nat
  tdrop : Nat
  /-- The cycles of its posting, its first placement and its end (R237), and the spans of R429. -/
  posted : Nat
  placed : Option Nat
  endedAt : Option Nat
  ifault : Nat
  iio : Nat
  ended : Bool
  aborted : Bool
  deriving DecidableEq, Repr

/-- A team of a placed gang (R220, R235): its core and its window. -/
structure Team where
  core : Nat
  shBase : Nat
  shLen : Nat
  tiles : Nat
  released : Bool
  deriving DecidableEq, Repr

/-- A gang that is placed (R222), pending or saved. -/
structure Gang where
  grid : Nat
  gngx : Nat
  die : Nat
  yBase : Nat
  teams : List Team
  /-- The order of placements, for R345. -/
  since : Nat
  /-- It is being taken off: its groups stop at their next clause boundary (R346). -/
  leaving : Bool
  deriving DecidableEq, Repr

/-- A gang that pre-emption has taken off (R346 to R349): its groups, its teams as they stood, and the bytes and poison
of its windows by offset. -/
structure SavedGang where
  grid : Nat
  gngx : Nat
  groups : List Group
  teams : List Team
  yBase : Nat
  shared : List (Mem × Sparse Bool)
  yard : Mem × Sparse Bool
  deriving DecidableEq, Repr

/-- Launching (R335 to R350): the queues by number, the grids, the pending gangs as (grid, gang index), the placed and
the saved gangs. -/
structure LaunchState where
  queues : Sparse LaunchQueue
  grids : Sparse Grid
  pending : List (Nat × Nat)
  gangs : List Gang
  saved : List SavedGang
  /-- Retired groups of teams that have not yet released: their tiles drain (R235). -/
  retired : List Group
  nextOrder : Nat
  /-- The queue served last of each priority, by its place in the order of registration, and the next place (R337). -/
  served : Sparse Nat
  nextReg : Nat
  /-- The format-block table of a loaded file, offset and image in index order, for each of its launch descriptors by
  context * 2^54 + address (R322). -/
  fmtBlocks : Sparse (List (Nat × Bytes))
  /-- The names of the census sites of loaded files, by context * 2^16 + site (R326). -/
  sites : Sparse Bytes
  deriving DecidableEq, Repr

/-- No queue registered and no grid. -/
def LaunchState.reset : LaunchState := ⟨[], [], [], [], [], [], 1, [], 1, [], []⟩

/-- A communicator (R164, R453): members by rank, and this device's rank. -/
structure Communicator where
  members : Nat
  rank : Nat
  deriving DecidableEq, Repr

/-- A contribution to a chunk of a collective, by rank (R453). -/
structure Contribution where
  comm : Nat
  chunk : Nat
  rank : Nat
  desc : Bytes
  bytes : Bytes
  deriving DecidableEq, Repr

/-- A lane of the fabric port (R449, R450). -/
structure FabricLane where
  active : Bool
  /-- No new burst is assigned to it (R450 step 1). -/
  closing : Bool
  /-- The numbers of the unacknowledged bursts in its replay buffer, at most 16. -/
  replay : List Nat
  /-- Times of its CRC errors within the last millisecond. -/
  errors : List Nat
  deriving DecidableEq, Repr

/-- What a group has written to another device (R448): the device, and the numbers of the bursts that have not yet been
acknowledged. -/
structure FabricWrite where
  gid : Nat
  device : Nat
  open_ : List Nat
  deriving DecidableEq, Repr

/-- The zero-length reads that a `.sys` release of a group has sent (R448): the release, and the links on which a read is
outstanding, 0 for the host's and n + 1 for the one to device n. -/
structure LinkReads where
  key : Nat
  open_ : List Nat
  deriving DecidableEq, Repr

/-- The fabric port (R449 to R451), the communicators, and the contributions that wait for earlier ranks. -/
structure FabricState where
  up : Bool
  lanes : Sparse FabricLane
  /-- The number of the next burst, and the bursts that wait for room in their lane's replay buffer (R449, log 77). -/
  sendSeq : Nat
  waiting : Nat
  /-- A repair has changed the lane map since the port was trained (R450). -/
  remapped : Bool
  /-- The number of the peer's burst that is delivered next, and the later ones that have arrived. -/
  recvSeq : Nat
  early : Sparse Bytes
  /-- CRC failures by the number of the burst: of this device's bursts, and of the peer's. -/
  replays : Sparse Nat
  asked : Sparse Nat
  writes : List FabricWrite
  reads : List LinkReads
  comms : Sparse Communicator
  contribs : List Contribution
  deriving DecidableEq, Repr

/-- A lane of the port after training: active, nothing to replay (log 20). -/
def FabricLane.fresh : FabricLane := ⟨true, false, [], []⟩

/-- The port up with all 72 lanes (log 20). -/
def FabricState.reset : FabricState := ⟨true, [], 0, 0, false, 0, [], [], [], [], [], [], []⟩

/-- A request of an NVMe queue pair that has been consumed (R455). -/
structure NvmeReq where
  pair : Nat
  index : Nat
  ctx : Nat
  tag : Nat
  status : Nat
  written : Nat
  deriving DecidableEq, Repr

/-- A registered queue pair (R454): its context, its namespace and the address of its header, and the requests that the
initiator has consumed (log 78). -/
structure NvmePair where
  ctx : Nat
  ns : Nat
  header : Nat
  taken : Nat
  deriving DecidableEq, Repr

/-- The NVMe initiator (R454): registered pairs by number, and requests in flight. -/
structure NvmeState where
  pairs : Sparse NvmePair
  reqs : List NvmeReq
  deriving DecidableEq, Repr

/-- No queue pair registered. -/
def NvmeState.reset : NvmeState := ⟨[], []⟩

/-- The debug port (R436, R438): breakpoint registers by core * 8 + n and the queue-stop registers by core, with the stopped
heads that have been reported, by core, queue and `seq`. -/
structure DebugState where
  dbi : Sparse (BitVec 128)
  qstop : Sparse Nat
  told : List (Nat × Nat × Nat)
  deriving DecidableEq, Repr

/-- Every breakpoint register 0 (R436); every queue-stop register 0 (log 20). -/
def DebugState.reset : DebugState := ⟨[], [], []⟩

/-- A stall-sample record that waits in its slice's queue (R433). -/
structure Sample where
  grid : Nat
  bytes : Bytes
  deriving DecidableEq, Repr

/-- Sampling (R431, R433): the slices' queues by core * 4 + slice, and for each grid on a slice its first issue and the
number of its next sample. -/
structure ProfileState where
  queues : Sparse (List Sample)
  first : List (Nat × Nat × Nat)
  next : List (Nat × Nat × Nat)
  deriving DecidableEq, Repr

/-- Every slice queue empty. -/
def ProfileState.reset : ProfileState := ⟨[], [], []⟩

/-- A firmware image of a bank (R476): the digests of its parts with their signatures (R471, R475), where it was written through
the management interface, and its version (R474 `fwver`). -/
structure FwImage where
  signed : Option (FwParts × FwParts)
  version : Nat
  deriving DecidableEq, Repr

/-- A retired unit (R470, R474): its kind (0 compute core, 1 Shed core, 2 Paddock core, log 31), its die and its number. -/
structure Retired where
  kind : Nat
  die : Nat
  unit : Nat
  deriving DecidableEq, Repr

/-- Management (R465, R470 to R476). -/
structure MgmtState where
  mode : Nat
  dies : Nat
  /-- The boot record, BAR0 0x00 to 0x0F, and the retirement list as the start wrote them (R474). -/
  boot : Bytes
  bootList : List Retired
  /-- The measurements that the start's stages took (R475); none stands for an image that the device was made with. -/
  measured : List (Option Bytes)
  mmexit : Bool
  fwver : Nat
  /-- The failure counter in non-volatile storage, and the failure codes of failed starts, newest first (R472, R474). -/
  nvCount : Nat
  lastf : List Nat
  /-- The counters of R465, by index: corrected and uncorrectable. -/
  corr : Sparse Nat
  uncorr : Sparse Nat
  retired : List Retired
  /-- Uncorrectable register and tile errors of compute cores with their times (R470). -/
  regErrs : List (Nat × Nat)
  /-- Core cycles before the last start, so that 24 hours can span one (R469, R470, log 63). -/
  base : Nat
  /-- The image that runs, the one of the other bank, and whether that one becomes active at the next start (R476). -/
  active : FwImage
  other : FwImage
  fresh : Bool
  log : List Bytes
  /-- A thermal trip has stopped the device (R467). -/
  tripped : Bool
  temps : Sparse Int
  deriving DecidableEq, Repr

/-- The boot record (R474). -/
def bootBytes (fwver mode dies fcnt : Nat) (lastf : List Nat) (nret : Nat) : Bytes :=
  leBytes 4 0x94125A01 ++ leBytes 1 0xB0 ++ leBytes 2 fwver ++ leBytes 1 0 ++ leBytes 1 (mode + dies * 4 + min fcnt 3 * 64)
    ++ ((List.range 3).map fun i => BitVec.ofNat 8 (lastf.getD i 0)) ++ leBytes 2 nret ++ leBytes 2 0

/-- Management after a full start: mode 0, all four dies, no failure (R471, R474); firmware major 3 (R1), minor 0
(log 20). -/
def MgmtState.reset : MgmtState :=
  { mode := 0, dies := 15, boot := bootBytes 0x0300 0 15 0 [] 0, bootList := [], mmexit := false, fwver := 0x0300,
    measured := [none, none, none, some (bootBytes 0x0300 0 15 0 [] 0)],
    nvCount := 0, lastf := [], corr := [], uncorr := [], retired := [], regErrs := [], base := 0, active := ⟨none, 0x0300⟩,
    other := ⟨none, 0x0300⟩, fresh := false, log := [], tripped := false, temps := [] }

/-- What the device sends to the outside. -/
inductive Output
  /-- An MSI-X vector (R339). -/
  | msix (vec : Nat)
  /-- An answer or an event of the debug port: a code and its data (R437 to R444). -/
  | port (code : Nat) (data : List Nat)
  /-- An answer to a host or fabric access, or a refusal of one (R446, R447, R472). -/
  | access (status : Nat) (data : Bytes)
  /-- The device's certificate chain (R475). -/
  | certificates (chain : List Bytes)
  /-- Measurement blocks and the signature over the transcript (R475). -/
  | spdm (blocks : List Bytes) (signature : Bytes)
  /-- The logical blocks that an NVMe request asks an SSD for: namespace, first block and count (R455). -/
  | flash (ns lba nlb : Nat)
  /-- A zero-length read on the host link, which a `.sys` release sends (R448). -/
  | zeroRead
  /-- Traffic of the fabric port: 0 a burst delivered, 1 a request to send one again, 2 a chunk, 3 a burst sent, 4 one sent
  again, 5 a zero-length read (R448, R449, R453). -/
  | fabric (code : Nat) (data : List Nat)
  deriving DecidableEq, Repr
end Sys2Proof.Machine
end

