-- ==== Sys2Proof/Machine/State.lean ====
section
/-! DEFINITION. The state of the device: its groups, memories, queues, units and tables, and the outcomes of a step. -/

namespace Sys2Proof.Machine

/-- Why a step stops with a fault. -/
inductive Fault
  /-- A device step was asked for in a state in which the spec does not let it happen; raised by the meanings of the
  device steps. Safe: the model takes no step where the hardware takes none (log 8). -/
  | notEnabled
  deriving DecidableEq, Repr

/-- Why an instruction has no meaning. -/
inductive Refusal
  /-- The instruction has no meaning in the model yet; raised by the dispatch alone. Safe. -/
  | notModelled (mnemonic : String)
  deriving DecidableEq, Repr

/-- The state of the device. -/
structure State where
  /-- The group that holds the issue (log 5), and every other group by its number. -/
  cur : Group
  others : Sparse Group
  /-- Who moves next, from the front (log 1). -/
  agenda : List Turn
  /-- Core cycles since reset (log 3). -/
  now : Nat
  /-- Steps taken, to which the free elapsed time is applied (log 3). -/
  steps : Nat
  /-- Free values drawn so far (log 15). -/
  free : Nat
  nextId : Nat
  mem : Memories
  xlate : Translation
  ibuf : Sparse (List IbufLine)
  ops : Sparse Op
  seqs : Sparse Nat
  qfences : List QFence
  shoots : Sparse Shoot
  mon : List MonEntry
  attn : AttnState
  leave : LeavePool
  sweep : SweepState
  shed : ShedState
  pad : PaddockState
  launch : LaunchState
  fabric : FabricState
  nvme : NvmeState
  dbg : DebugState
  prof : ProfileState
  mgmt : MgmtState
  outbox : List Output
  deriving DecidableEq, Repr

/-- The device right after reset (R471, R474): no group is resident, every queue is empty, and each register stands at
the value that its rule gives or that log 20 names. -/
def State.reset : State :=
  { cur := Group.vacant, others := [], agenda := [], now := 0, steps := 0, free := 0, nextId := 1,
    mem := Memories.reset, xlate := Translation.reset, ibuf := [], ops := [], seqs := [], qfences := [], shoots := [],
    mon := [], attn := AttnState.reset, leave := LeavePool.reset, sweep := SweepState.reset, shed := ShedState.reset,
    pad := PaddockState.reset, launch := LaunchState.reset, fabric := FabricState.reset, nvme := NvmeState.reset,
    dbg := DebugState.reset, prof := ProfileState.reset, mgmt := MgmtState.reset, outbox := [] }

end Sys2Proof.Machine
end

