-- ==== Sys2Proof/Machine/Ops.lean ====
section
/-! DEFINITION. The named operations over groups, lanes, registers and program-counter values. -/

namespace Sys2Proof.Machine

/-! ### Groups -/

/-- The group of a number, where it is on the device. -/
def State.findGroup (s : State) (gid : Nat) : Option Group :=
  if s.cur.gid = gid then some s.cur else sfind s.others gid

/-- The saved gang with one of its groups changed. -/
def SavedGang.modGroup (sg : SavedGang) (gid : Nat) (f : Group → Group) : SavedGang :=
  { sg with groups := sg.groups.map fun g => if g.gid = gid then f g else g }

/-- The state with a group changed, whether it is on the device, saved by a pre-emption (R21) or retired (R235). -/
def State.modGroup (s : State) (gid : Nat) (f : Group → Group) : State :=
  let here (g : Group) : Group := if g.gid = gid then f g else g
  if s.cur.gid = gid then { s with cur := f s.cur }
  else if (sfind s.others gid).isSome then { s with others := supd s.others gid f }
  else { s with launch := { s.launch with saved := s.launch.saved.map fun sg => sg.modGroup gid f,
                                          retired := s.launch.retired.map here } }

/-- The state with the issuing group changed. -/
def State.modCur (s : State) (f : Group → Group) : State := { s with cur := f s.cur }

/-- The state in which a group holds the issue (log 5). -/
def State.focus (s : State) (gid : Nat) : State :=
  if s.cur.gid = gid then s
  else match sfind s.others gid with
    | none => s
    | some g =>
      let rest := sdel s.others gid
      { s with cur := g, others := if s.cur.gid = 0 then rest else sput rest s.cur.gid s.cur }

/-- Every group on the device, the issuing one first. -/
def State.groups (s : State) : List Group :=
  (if s.cur.gid = 0 then [] else [s.cur]) ++ s.others.map (·.2)

/-- The global number of a group's core, 0 to 191. -/
def Group.coreNo (g : Group) : Nat := g.die * Config.coresPerDie + g.core

/-- The die of a core by its global number. -/
def dieOfCore (core : Nat) : Nat := core / Config.coresPerDie

/-- `sr.place` (R53). -/
def Group.place (g : Group) : Nat := g.die + g.core * 4 + g.slice * 256 + g.gslot * 1024

/-- What line entry reads of a group (R40, R45, R54). -/
def Group.env (g : Group) : EntryEnv := ⟨g.vblocks, g.tquota, g.role, g.priv⟩

/-! ### Program-counter values (R27, R130) -/

/-- A 64-bit value is a program-counter value (R27). -/
def isPc (x : DWord) : Bool := bits x.toNat 63 54 == 0 && bits x.toNat 5 3 == 0 && bits x.toNat 2 0 < 5

/-- The line address of a program-counter value. -/
def pcLine (x : DWord) : Nat := bits x.toNat 53 6 * 64

/-- The slot of a program-counter value. -/
def pcSlot (x : DWord) : Nat := bits x.toNat 2 0

/-- The program-counter value of a slot of a line; the line address wraps modulo 2^54 (R90, R130). -/
def mkPc (line slot : Nat) : DWord := BitVec.ofNat 64 (line % 2 ^ 54 / 64 * 64 + slot)

/-- The next point of an instruction (R130). -/
def nextPoint (x : DWord) : DWord :=
  if pcSlot x < 4 then mkPc (pcLine x) (pcSlot x + 1) else mkPc (pcLine x + 64) 0

/-- The target that `imm` encodes relative to the instruction's line (R90). -/
def directTarget (x : DWord) (imm : Word) : DWord :=
  let n := sext (bits imm.toNat 31 3) 29
  mkPc (((pcLine x : Int) + 64 * n) % (2 ^ 54 : Nat)).toNat (bits imm.toNat 2 0)

/-- The issuing slot (R124, R223). -/
def Group.slot (g : Group) : PcSlot := if g.issue1 then g.slot1 else g.slot0

/-- The slot that does not issue. -/
def Group.otherSlot (g : Group) : PcSlot := if g.issue1 then g.slot0 else g.slot1

/-- The group with its issuing slot replaced. -/
def Group.setSlot (g : Group) (p : PcSlot) : Group := if g.issue1 then { g with slot1 := p } else { g with slot0 := p }

/-- The group with its other slot replaced. -/
def Group.setOther (g : Group) (p : PcSlot) : Group := if g.issue1 then { g with slot0 := p } else { g with slot1 := p }

/-- The program-counter value of the issuing slot. -/
def Group.pc (g : Group) : DWord := g.slot.pc

/-! ### Lanes (R124, R125) -/

/-- Lane l's depth counter (R50). -/
def Group.ctrOf (g : Group) (l : Nat) : BitVec 8 := sget 0 g.ctr l

/-- The lanes whose depth counter is zero. -/
def Group.zeroCtr (g : Group) : LaneMask := laneSet fun l => g.ctrOf l = 0

/-- The lanes of the issuing slot that have not exited. -/
def Group.pathMask (g : Group) : LaneMask := g.slot.mask &&& ~~~g.exited

/-- The live lanes of an issue (R124). -/
def Group.live (g : Group) : LaneMask := g.pathMask &&& g.zeroCtr

/-- The helper lanes of an issue: exited lanes with a live lane in their quad (R125). -/
def Group.helpers (g : Group) : LaneMask :=
  laneSet fun l => g.exited.getLsbD l && bits g.live.toNat (l / 4 * 4 + 3) (l / 4 * 4) != 0

/-- Predicate n over the lanes; `p7` is true in every lane (R43). -/
def Group.readP (g : Group) (n : Nat) : LaneMask := if n = 7 then BitVec.allOnes 64 else sget 0 g.p n

/-- The lanes whose guard is true (R85). -/
def Group.guardMask (g : Group) (gd : Guard) : LaneMask :=
  if gd.neg then ~~~g.readP gd.pred.val else g.readP gd.pred.val

/-- The lanes that take effect (R85). -/
def Group.effect (g : Group) (gd : Guard) : LaneMask := g.live &&& g.guardMask gd

/-- The computing lanes whose guard is true (R97, R98, R125). -/
def Group.computing (g : Group) (gd : Guard) : LaneMask := (g.live ||| g.helpers) &&& g.guardMask gd

/-- Some lane takes effect. -/
def Group.acts (g : Group) (gd : Guard) : Bool := g.effect gd != 0

/-- The lanes that have not exited. -/
def Group.present (g : Group) : LaneMask := ~~~g.exited

/-! ### Registers (R39 to R46) -/

def Group.readV (g : Group) (n l : Nat) : Word := sget 0 g.v (n * 64 + l)
def Group.readS (g : Group) (n : Nat) : Word := sget 0 g.s n
def Group.readA (g : Group) (n : Nat) : DWord := sget 0 g.a n
def Group.readEta (g : Group) (n : Nat) : Word := sget 0 g.eta n

def Group.writeS (g : Group) (n : Nat) (x : Word) : Group := { g with s := sset 0 g.s n x }
def Group.writeA (g : Group) (n : Nat) (x : DWord) : Group := { g with a := sset 0 g.a n x }
def Group.writeEta (g : Group) (n : Nat) (x : Word) : Group := { g with eta := sset 0 g.eta n x }
def Group.writeVLane (g : Group) (n l : Nat) (x : Word) : Group := { g with v := sset 0 g.v (n * 64 + l) x }

/-- A vector register written in the lanes of a mask; f reads the state before the write (R97). -/
def Group.writeV (g : Group) (n : Nat) (m : LaneMask) (f : Nat → Word) : Group :=
  { g with v := (maskLanes m).foldl (fun v l => sset 0 v (n * 64 + l) (f l)) g.v }

/-- A predicate written in the lanes of a mask; a write to `p7` is discarded (R43). -/
def Group.writeP (g : Group) (n : Nat) (m : LaneMask) (x : LaneMask) : Group :=
  if n = 7 then g else { g with p := sset 0 g.p n ((g.readP n &&& ~~~m) ||| (x &&& m)) }

/-- The identity setting of a permutation register is every switch straight (R49). -/
def Group.readPm (g : Group) (n : Nat) : BitVec 352 := sget 0 g.pm n

/-- The group with depth counters changed in the lanes of a mask. -/
def Group.mapCtr (g : Group) (m : LaneMask) (f : Nat → Nat) : Group :=
  { g with ctr := (maskLanes m).foldl (fun c l => sset 0 c l (BitVec.ofNat 8 (f (g.ctrOf l).toNat))) g.ctr }

/-- A register result of a completed operation: a lane of a vector register, or a uniform register. -/
def Group.writeReg (g : Group) (r : RegRef) (l : Nat) (x : DWord) : Group :=
  match r with
  | .v n => g.writeVLane n l (x.setWidth 32)
  | .s n => g.writeS n (x.setWidth 32)
  | .a n => g.writeA n x
  | .eta n => g.writeEta n (x.setWidth 32)
  | .p n => g.writeP n (BitVec.ofNat 64 (2 ^ l)) (if x = 0 then 0 else BitVec.allOnes 64)
  | .pm _ => g

/-! ### The tables of operations -/

/-- The outstanding operations of a group, in the order of their issue. -/
def State.opsOf (s : State) (gid : Nat) : List (Nat × Op) := s.ops.filter fun e => e.2.gid = gid

/-- The state with an operation changed. -/
def State.modOp (s : State) (id : Nat) (f : Op → Op) : State := { s with ops := supd s.ops id f }

/-- A register of the group waits for an outstanding operation (R24) or for a `pset` (R149). -/
def State.pending (s : State) (g : Group) (r : RegRef) : Bool :=
  (s.ops.any fun e => e.2.gid = g.gid && e.2.dests.contains r)
    || match r with
      | .pm n => (match sfind g.pmReady n with | some (some t) => s.now < t | some none => true | none => false)
      | _ => false

/-- A free byte that the spec leaves undefined, and the state that has drawn it (log 15). -/
def State.drawByte (s : State) : Byte × State := (Config.freeByte s.free, { s with free := s.free + 1 })

/-- n free bytes (log 15). -/
def State.drawBytes : Nat → State → Bytes × State
  | 0, s => ([], s)
  | n + 1, s =>
    let (b, s) := s.drawByte
    let (bs, s) := State.drawBytes n s
    (b :: bs, s)

/-- A message to the outside. -/
def State.emit (s : State) (o : Output) : State := { s with outbox := s.outbox ++ [o] }

/-- A record of the management log (R465). -/
def State.logLine (s : State) (b : Bytes) : State := { s with mgmt := { s.mgmt with log := s.mgmt.log ++ [b] } }

/-- An error counted in the block of R465, saturating. -/
def State.countError (s : State) (level : Nat) (fatal : Bool) : State :=
  let up (t : Sparse Nat) : Sparse Nat := sput t level (min (2 ^ 32 - 1) (sget 0 t level + 1))
  if fatal then { s with mgmt := { s.mgmt with uncorr := up s.mgmt.uncorr } }
  else { s with mgmt := { s.mgmt with corr := up s.mgmt.corr } }

/-- The record of an uncorrectable event (R465): the level, the unit and the context that read it. -/
def State.logError (s : State) (level unit ctx : Nat) : State := s.logLine (leBytes 1 level ++ leBytes 8 unit ++ leBytes 2 ctx)

/-- An error counted; an uncorrectable one writes its record as well (R465). -/
def State.noteError (s : State) (level : Nat) (fatal : Bool) (unit ctx : Nat) : State :=
  let s := s.countError level fatal
  if fatal then s.logError level unit ctx else s

/-- The levels of the counter block (R465). -/
def levelHbm : Nat := 0
def levelYard : Nat := 1
def levelShared : Nat := 2
def levelRegs : Nat := 3
def levelIbuf : Nat := 4
def levelXlat : Nat := 5
def levelPadd : Nat := 6
def levelScrub : Nat := 7
/-- The levels that the log names and no counter counts: a Shed core's own state, and a line that arrives over PCIe (log 63). -/
def levelShed : Nat := 8
def levelFlit : Nat := 9

/-- The time by which errors of different starts are compared, in core cycles (R469, R470, log 63). -/
def State.wall (s : State) : Nat := s.mgmt.base + s.now

/-- Core cycles of 24 hours at 3.6 GHz (R469, R470). -/
def dayCycles : Nat := 311040000000000

/-- A core's cycle count (R52 `sr.cycle`, log 9). -/
def State.cycle (s : State) (core : Nat) : DWord := BitVec.ofNat 64 s.now + Config.cycleSkew core

end Sys2Proof.Machine
end

