-- ==== Sys2Proof/Machine/Flags.lean ====
section
/-! DEFINITION. Completion flags (R21, R22) and the fields of a line word (R19, R30, R31). -/

namespace Sys2Proof.Machine

/-- The line word of a line (R18, R19). -/
def lineWord (x : LineBits) : Nat := bits x.toNat 511 480

def lineWait (x : LineBits) : Nat := bits (lineWord x) 11 0
def lineSfa (x : LineBits) : Nat := bits (lineWord x) 15 12
def lineSfb (x : LineBits) : Nat := bits (lineWord x) 19 16
def linePair (x : LineBits) : Nat := bits (lineWord x) 27 25
/-- Slot n may be a branch target. -/
def lineTgt (x : LineBits) (n : Nat) : Bool := bits (lineWord x) (20 + n) (20 + n) == 1
/-- The word of slot n (R18). -/
def lineSlot (x : LineBits) (n : Nat) : SlotWord := BitVec.ofNat 96 (bits x.toNat (96 * n + 95) (96 * n))

/-- The four parity bits hold (R30). -/
def lineParity (x : LineBits) : Bool :=
  (List.range 4).all fun q =>
    (countOnes 120 (bits x.toNat (120 * q + 119) (120 * q)) + bits (lineWord x) (28 + q) (28 + q)) % 2 == 0

/-- Slot pairs that a template names, by their first slot (R31). -/
def pairFirsts : Nat → List Nat
  | 1 => [0] | 2 => [1] | 3 => [2] | 4 => [3] | 5 => [0, 2] | 6 => [0, 3] | 7 => [1, 3] | _ => []

/-- The mask of one set-flag field; 0xF and the reserved codes name no flag (R19). -/
def flagBit (n : Nat) : Nat := if n < 12 then 2 ^ n else 0

/-- The flags that a value of `fs` selects in a line (R22). -/
def flagsOf (x : LineBits) (fs : BitVec 2) : BitVec 12 :=
  match fs.toNat with
  | 1 => BitVec.ofNat 12 (flagBit (lineSfa x))
  | 2 => BitVec.ofNat 12 (flagBit (lineSfb x))
  | 3 => BitVec.ofNat 12 (flagBit (lineSfa x) ||| flagBit (lineSfb x))
  | _ => 0

/-- The pending count of a flag (R21). -/
def Group.flagCount (g : Group) (n : Nat) : Nat := sget 0 g.flags n

/-- Every flag of a mask is clear. -/
def Group.flagsClear (g : Group) (m : BitVec 12) : Bool :=
  (List.range 12).all fun n => !m.getLsbD n || g.flagCount n == 0

/-- Some flag of a mask has the count 63 (R21). -/
def Group.flagsFull (g : Group) (m : BitVec 12) : Bool :=
  (List.range 12).any fun n => m.getLsbD n && g.flagCount n == 63

/-- Each flag of a mask one higher (R21). -/
def Group.raise (g : Group) (m : BitVec 12) : Group :=
  let step (fl : Sparse Nat) (n : Nat) : Sparse Nat := if m.getLsbD n then sset 0 fl n (min 63 (sget 0 fl n + 1)) else fl
  { g with flags := (List.range 12).foldl step g.flags }

/-- Each flag of a mask one lower (R21). -/
def Group.lower (g : Group) (m : BitVec 12) : Group :=
  let step (fl : Sparse Nat) (n : Nat) : Sparse Nat := if m.getLsbD n then sset 0 fl n (sget 0 fl n - 1) else fl
  { g with flags := (List.range 12).foldl step g.flags }

/-- `sr.flagclr` (R52). -/
def Group.flagClr (g : Group) : Nat :=
  (List.range 12).foldl (fun x n => if g.flagCount n = 0 then x + 2 ^ n else x) 0

end Sys2Proof.Machine
end

