-- ==== Sys2Proof/Machine/Operands.lean ====
section
/-! DEFINITION. What an operand reads (R86 to R88, R52) and where a 32-bit result goes (R98). -/

namespace Sys2Proof.Machine

/-- The value of a constant in lane l (R87). -/
def constVal (g : Group) (l : Nat) : Constant → Nat
  | .zero => 0
  | .one => 1
  | .fone => 0x3F800000
  | .lane => l
  | .quad => l / 4
  | .qlane => l % 4
  | .gidx => g.gidx
  | .tidx => g.gngx * g.tpg + g.tign
  | .gngx => g.gngx
  | .tign => g.tign
  | .ngrp => g.ngrp
  | .ones => 0xFFFFFFFF
  | .fnzero => 0x80000000
  | .finf => 0x7F800000
  | .fnan => 0x7FC00000

/-- The value of a status register, 64 bits wide or zero-extended from 32 (R52 to R54). -/
def statusVal (s : State) : StatusReg → DWord
  | .gwidth => 64
  | .ctx => BitVec.ofNat 64 (s.cur.ctx % 65536)
  | .place => BitVec.ofNat 64 s.cur.place
  | .alloc => BitVec.ofNat 64 (s.cur.vblocks + s.cur.tquota * 32 + s.cur.role * 1024)
  | .amask => s.cur.live
  | .exited => s.cur.exited
  | .helper => s.cur.helpers
  | .pstk => BitVec.ofNat 64 s.cur.pstk
  | .flagclr => BitVec.ofNat 64 s.cur.flagClr
  | .cycle => s.cycle s.cur.coreNo
  | .wdog => if s.cur.wdogOn then BitVec.ofNat 64 s.cur.wdog else BitVec.allOnes 64
  | .sgkb => BitVec.ofNat 64 (bits s.cur.sgk.base 53 8 * 256)
  | .sgkl => BitVec.ofNat 64 s.cur.sgk.limit
  | .sgsb => BitVec.ofNat 64 s.cur.sgs.base
  | .sgsl => BitVec.ofNat 64 s.cur.sgs.limit
  | .sgyb => BitVec.ofNat 64 s.cur.sgy.base
  | .sgyl => BitVec.ofNat 64 s.cur.sgy.limit
  | .pstep => 0xB0

/-- A 64-bit operand in lane l (R88): 32-bit kinds are zero-extended, the immediate is sign-extended. -/
def val64 (s : State) (imm : Word) (x : Opnd) (l : Nat) : DWord :=
  match x with
  | .v n => (s.cur.readV n.val l).setWidth 64
  | .s n => (s.cur.readS n.val).setWidth 64
  | .p n => if (s.cur.readP n.val).getLsbD l then 1 else 0
  | .a n => s.cur.readA n.val
  | .m _ => 0
  | .eta n => (s.cur.readEta n.val).setWidth 64
  | .const c => BitVec.ofNat 64 (constVal s.cur l c)
  | .sr r => statusVal s r
  | .imm => imm.signExtend 64

/-- A 32-bit operand in lane l: the low half of a 64-bit register (R42, R88). -/
def val (s : State) (imm : Word) (x : Opnd) (l : Nat) : Word := (val64 s imm x l).setWidth 32

/-- A 64-bit value operand of a vector pair, an address register or the immediate (R88, R157, R165). -/
def valPair (s : State) (imm : Word) (x : Opnd) (l : Nat) : DWord :=
  match x with
  | .v n => (s.cur.readV (n.val + 1) l).setWidth 64 <<< 32 ||| (s.cur.readV n.val l).setWidth 64
  | x => val64 s imm x l

/-- A 32-bit result written to its destination (R42, R98): a uniform register once, where some lane takes effect; a
vector register in the computing lanes whose guard is true; a predicate as a truth value in the lanes that take effect. -/
def writeResult (s : State) (o : Fields) (f : Nat → Word) : State :=
  match o.d with
  | .v n => s.modCur fun g => g.writeV n.val (g.computing o.guard) f
  | .s n => if s.cur.acts o.guard then s.modCur fun g => g.writeS n.val (f 0) else s
  | .eta n => if s.cur.acts o.guard then s.modCur fun g => g.writeEta n.val (f 0) else s
  | .p n => s.modCur fun g => g.writeP n.val (g.effect o.guard) (laneSet fun l => f l ≠ 0)
  | _ => s

/-- A 64-bit result written once to an address register (R42). -/
def writeAddr (s : State) (o : Fields) (x : DWord) : State :=
  match o.d with
  | .a n => if s.cur.acts o.guard then s.modCur fun g => g.writeA n.val x else s
  | _ => s

/-- A truth value as a 32-bit result (R98). -/
def truth (b : Bool) : Word := if b then 1 else 0

/-- The register that an operand names, if it is one that an operation can make pending (R24). -/
def regOf : Opnd → Option RegRef
  | .v n => some (.v n.val)
  | .s n => some (.s n.val)
  | .p n => some (.p n.val)
  | .a n => some (.a n.val)
  | .eta n => some (.eta n.val)
  | _ => none

end Sys2Proof.Machine
end

