-- ==== Sys2Proof/Machine/Finish.lean ====
section
/-! DEFINITION. The end of an outstanding operation: flags lowered, registers freed, deferred debugger writes applied
(R21, R24, R443); and the waits that a write or a `wake` ends (R168, R169). -/

namespace Sys2Proof.Machine

/-- A register write of the debug port in a group (R442, R443). -/
def Group.portWrite (g : Group) (d : Deferred) : Group :=
  match d.reg with
  | .v n => g.writeV n d.mask fun _ => d.value.setWidth 32
  | .p n => g.writeP n d.mask (if d.value = 0 then 0 else BitVec.allOnes 64)
  | r => g.writeReg r 0 d.value

/-- The code of the event that a deferred write sends (R443). -/
def portDeferredDone : Nat := 1

/-- A register as the port names it in its answers: a kind and a number. -/
def regNumber : RegRef → List Nat
  | .v n => [0, n] | .s n => [1, n] | .p n => [2, n] | .a n => [3, n] | .eta n => [4, n] | .pm n => [5, n]

/-- A register that holds a value for each lane: a write of it carries a lane mask (R442). -/
def RegRef.carriesMask : RegRef → Bool
  | .v _ => true | .p _ => true | _ => false

/-- The event of a deferred write: the group, the register, the mask, and the discarded values of the masked lanes with
their lanes; no value is the marker that the operation wrote nothing there (R443). -/
def deferredEvent (op : Op) (d : Deferred) : Output :=
  let vals := (op.outs.filter fun w => w.1 = d.reg && (!d.reg.carriesMask || d.mask.getLsbD w.2.1)).map fun w => [w.2.1, w.2.2.toNat]
  .port portDeferredDone ([op.gid] ++ regNumber d.reg ++ [d.mask.toNat] ++ vals.flatten)

/-- The operation is over: its results are written, its flags lowered, its entry removed and the debugger's deferred
writes applied, each with an event (R24, R185, R443). An issuer that has retired receives nothing. A value for a vector
register whose block has been given up and granted again stands in the new block (log 70). -/
def State.endOp (s : State) (id : Nat) : State :=
  match sfind s.ops id with
  | none => s
  | some op =>
    let s := { s with ops := sdel s.ops id }
    let write (g : Group) : Group :=
      let g := op.outs.foldl (fun g w => g.writeReg w.1 w.2.1 w.2.2) g
      let g := g.lower op.flags
      op.deferred.foldl (fun g d => g.portWrite d) g
    let s := s.modGroup op.gid write
    op.deferred.foldl (fun s d => s.emit (deferredEvent op d)) s

/-- A wait ends with a result in s(d): its monitor entry is freed (R168). -/
def State.endWait (s : State) (id : Nat) (code : Nat) : State :=
  match sfind s.ops id with
  | some op =>
    match op.work with
    | .wait _ _ _ _ _ dst _ _ _ =>
      let s := s.modOp id fun op => { op with outs := [(.s dst, 0, BitVec.ofNat 64 code)] }
      { s.endOp id with mon := s.mon.filter fun e => e.op ≠ id }
    | _ => s
  | none => s

/-- The entries watch the same 64-byte block. -/
def MonEntry.watches (e : MonEntry) (sp : Space) (unit block : Nat) : Bool :=
  e.space = sp && e.block = block
    && match sp with
      | .s => e.core = unit
      | .y => dieOfCore e.core = unit
      | _ => true

/-- The numbers of the n-byte units that a range of bytes touches. -/
def unitsOf (n lo len : Nat) : List Nat :=
  if len = 0 then [] else (List.range ((lo + len - 1) / n - lo / n + 1)).map fun i => lo / n + i

end Sys2Proof.Machine
end

