-- ==== Sys2Proof/Machine/Location.lean ====
section
/-! DEFINITION. Where a physical address lies (R351, R362, R445), and the die read buffers with the orders that act on them
(R263, R265, R268). -/

namespace Sys2Proof.Machine

/-- Who accesses: the core (by global number), the die and the context, and the group whose access it is (R448). -/
structure Agent where
  core : Option Nat
  die : Option Nat
  ctx : Nat
  gid : Option Nat
  deriving DecidableEq, Repr

/-- A physical address below the apertures (R351). -/
def isDram (pa : Nat) : Bool := pa < Config.regions * Config.regionBytes

/-- Where a fabric aperture starts, and what one device takes of it (R445). -/
def fabricBase : Nat := 2 ^ 49
def fabricSpan : Nat := 2 ^ 39

/-- A physical address in the host aperture, and one in the fabric aperture that names a device's memory (R445). -/
def inHost (pa : Nat) : Bool := 2 ^ 40 ≤ pa && pa < 2 ^ 41
def inFabric (pa : Nat) : Bool :=
  fabricBase ≤ pa && pa < fabricBase + 1024 * fabricSpan && isDram ((pa - fabricBase) % fabricSpan)

/-- The address that a fabric access to the device's own number names in its memory (R445). -/
def homePa (pa : Nat) : Nat :=
  if inFabric pa ∧ (pa - fabricBase) / fabricSpan = Config.deviceNo then (pa - fabricBase) % fabricSpan else pa

/-- y = M·x over GF(2), the rows of M as words (R362, R363). -/
def matVec (rows : List Nat) (x : Nat) : Nat :=
  (rows.zipIdx).foldl (fun y e => y + countOnes 30 (e.1 &&& x) % 2 * 2 ^ e.2) 0

/-- The DRAM location of a physical address: region * 2^30 + M·x (R362); an address of another device or of the host
stands for itself (log 27). -/
def State.dramLoc (s : State) (pa : Nat) : Nat :=
  let pa := homePa pa
  if isDram pa then
    match sfind s.mem.matrix (pa / Config.regionBytes) with
    | none => pa
    | some rows => pa / Config.regionBytes * Config.regionBytes + matVec rows (pa % Config.regionBytes)
  else pa

/-- The locations of a run of physical addresses. -/
def State.locs (s : State) (pa n : Nat) : List Nat := (List.range n).map fun i => s.dramLoc (pa + i)

/-- Poison among locations (R460). -/
def State.hbmPoison (s : State) (locs : List Nat) : Bool := locs.any fun l => sget false s.mem.hbmPsn (l / 64)

/-- A line of a die's read buffer with its poison, as home holds it. -/
def State.homeLine (s : State) (line : Nat) : BitVec 512 × Bool :=
  let locs := s.locs (line * 64) 64
  (BitVec.ofNat 512 (ofLe (locs.map fun l => sget 0 s.mem.hbm l)), s.hbmPoison locs)

/-- Read-buffer key of a die and a physical line (R265). -/
def rbufKey (die line : Nat) : Nat := die * 2 ^ 46 + line

/-- A release at `.dev` or wider: every read-buffer line that home has overwritten is gone (R265). -/
def State.dropStale (s : State) : State :=
  { s with mem := { s.mem with rbuf := s.mem.rbuf.filter fun e => e.2 = s.homeLine (e.1 % 2 ^ 46) } }

/-- An acquire at `.die` or wider: the die's read-buffer lines are older and are passed over (R265). -/
def State.dropDie (s : State) (die : Nat) : State :=
  { s with mem := { s.mem with rbuf := s.mem.rbuf.filter fun e => e.1 / 2 ^ 46 ≠ die } }

/-- Physical lines leave the read buffers of the dies that a test takes. -/
def State.dropLines (s : State) (die : Nat → Bool) (lines : List Nat) : State :=
  { s with mem := { s.mem with rbuf := s.mem.rbuf.filter fun e => !(lines.contains (e.1 % 2 ^ 46) && die (e.1 / 2 ^ 46)) } }

/-- The order is a release, and it is an acquire (R167). -/
def isRel (ord : Ord) : Bool := ord = .rel || ord = .ar
def isAcq (ord : Ord) : Bool := ord = .acq || ord = .ar

/-- The release half of an order at a scope (R263, R265): at `.dev` or wider no read buffer keeps a line that home has
overwritten. At `.sys` a zero-length read goes out on the host link (R448, log 72). -/
def State.releaseAt (s : State) (ord : Ord) (scope : Scope) : State :=
  if isRel ord && (scope = .dev || scope = .dom || scope = .sys) then
    let s := s.dropStale
    if scope = .sys then s.emit .zeroRead else s
  else s

/-- The acquire half of an order at a scope, on a die (R263, R265). -/
def State.acquireAt (s : State) (ord : Ord) (scope : Scope) (die : Nat) : State :=
  if isAcq ord && !(scope = .grp || scope = .core) then s.dropDie die else s

/-- The effect of an order at a scope on the read buffers (R263, R265). -/
def State.order (s : State) (ord : Ord) (scope : Scope) (die : Nat) : State := (s.releaseAt ord scope).acquireAt ord scope die

/-- The scope at which an access of a space acts (R167, R259): at most `.grp`, `.core` and `.die` outside `.g`. -/
def scopeWithin (scope : Scope) : Space → Scope
  | .k => .grp
  | .s => if scope = .grp then .grp else .core
  | .y => if scope = .grp || scope = .core then scope else .die
  | .g => scope

end Sys2Proof.Machine
end

