-- ==== Sys2Proof/Machine/Frames.lean ====
section
/-! DEFINITION. The page tables as memory holds them (R352, R353): the frames that they name, and the attributes of the pages
there. -/

namespace Sys2Proof.Machine

/-- A vector reduced by others over GF(2), each with the combination that it stands for. -/
def gf2Reduce (basis : List (Nat × Nat)) (v : Nat × Nat) : Nat × Nat :=
  basis.foldl (fun v b => if v.1.testBit b.1.log2 then (v.1 ^^^ b.1, v.2 ^^^ b.2) else v) v

/-- The columns of a matrix of full rank in echelon form, with their combinations. -/
def gf2Echelon (rows : List Nat) : List (Nat × Nat) :=
  (List.range 30).foldl (fun l j =>
    let r := gf2Reduce l (matVec rows (2 ^ j), 2 ^ j)
    if r.1 = 0 then l else l ++ [r]) []

/-- The physical addresses of the bytes of a region that are not 0 (R362), whatever matrix it has. -/
def State.regionBytesOf (s : State) (n : Nat) : List Nat :=
  let l := ((s.mem.hbm.map (·.1)).filter fun l => l / Config.regionBytes = n)
  match sfind s.mem.matrix n with
  | none => l
  | some rows =>
    let basis := gf2Echelon rows
    l.map fun y => n * Config.regionBytes + (gf2Reduce basis (y % Config.regionBytes, 0)).2

/-- The page size of a size code (R352). -/
def pageBytes : Nat → Nat
  | 0 => 2 ^ 16 | 1 => 2 ^ 21 | 2 => 2 ^ 30 | _ => 2 ^ 36

/-- The alignment of the table that an entry of a level names. -/
def tableAlign : Nat → Nat
  | 1 => 256 | 2 => 4096 | _ => 512

/-- The bytes of the table of a level (R352). -/
def tableBytes : Nat → Nat
  | 3 => 2 ^ 21 | l => tableAlign (l + 1)

/-- The entries of a table that are not 0 (R353). -/
def State.tableEntries (s : State) (table size : Nat) : List Nat :=
  let pas := (s.regionBytesOf (table / Config.regionBytes)).filter fun a => table ≤ a && a < table + size
  (pas.map (· / 8)).eraseDups.map fun i => ofLe ((s.locs (8 * i) 8).map fun l => sget 0 s.mem.hbm l)

/-- A piece of memory that page tables name: its address and size, and the attribute of the page where a leaf maps it there;
none for a table, for the replicas of a `REPLICA` page beside CD0's, and for what an aperture's leaf names. -/
structure Frame where
  pa : Nat
  size : Nat
  attr : Option Nat
  deriving DecidableEq, Repr

/-- The frames that a leaf at a level maps: four for a `REPLICA` page (R355). -/
def leafFrames (level e : Nat) : List Frame :=
  let pa := bits e 51 16 * 65536
  (List.range (if bits e 6 5 = 2 then 4 else 1)).map fun d =>
    ⟨homePa pa + 3 * d * Config.regionBytes, pageBytes level, if d = 0 ∧ isDram pa then some (bits e 6 5) else none⟩

/-- The table of a level and everything that its valid entries name. -/
def State.framesBelow (s : State) : Nat → Nat → List Frame
  | 0, table =>
    let t := homePa table
    ⟨t, tableBytes 0, none⟩ :: (((s.tableEntries t (tableBytes 0)).filter fun e => bits e 1 0 = 3).map (leafFrames 0)).flatten
  | l + 1, table =>
    let t := homePa table
    ⟨t, tableBytes (l + 1), none⟩ :: (((s.tableEntries t (tableBytes (l + 1))).filter fun e => bits e 0 0 = 1).map fun e =>
      if bits e 1 1 = 1 then leafFrames (l + 1) e else s.framesBelow l (bits e 51 8 * 256)).flatten

/-- What the tables of every context name (R352). -/
def State.mappedFrames (s : State) : List Frame := (s.xlate.ctxs.map fun e => s.framesBelow 3 e.2.root).flatten

/-- The memory in use: what the tables name, the tables themselves, and the frames of the Cribs (R217). -/
def State.framesInUse (s : State) : List Frame :=
  s.mappedFrames ++ (s.pad.cribs.map fun e => e.2.frames.map fun f => (⟨f * 65536, 65536, none⟩ : Frame)).flatten

/-- A range meets one of a list of frames. -/
def meetsAny (l : List Frame) (a n : Nat) : Bool := l.any fun f => a < f.pa + f.size && f.pa < a + n

/-- The attribute of the page of the device's memory that an address lies in, as the tables map it; `ATOMIC` where none does
(R447, log 26). -/
def State.frameAttr (s : State) (pa : Nat) : Nat :=
  ((s.mappedFrames.find? fun f => f.attr.isSome && f.pa ≤ pa && pa < f.pa + f.size).bind (·.attr)).getD 0

end Sys2Proof.Machine
end

