-- ==== Sys2Proof/Machine/SweepRow.lean ====
section
/-! DEFINITION. Sweep functions on elements (R213) and their application to a row at an activation (R375, R376). -/

namespace Sys2Proof.Machine

/-- The element types of a sweep by their format codes (R57, R212): bytes of an element. -/
def sweepEtBytes : Nat → Option Nat
  | 0 => some 4 | 2 => some 2 | 5 => some 4 | 9 => some 1 | 12 => some 4 | _ => none

/-- The function takes the element type (R213). -/
def sweepAccepts (fn et : Nat) : Bool :=
  (sweepEtBytes et).isSome && fn < 8 && ((fn != 1 && fn != 2) || et == 5 || et == 9 || et == 12)

/-- The integer format of a type code. -/
def sweepInt : Nat → Option Fmt
  | 5 => some .i32 | 9 => some .u8 | 12 => some .u32 | _ => none

/-- A shift left by n, or right by -n, of a w-bit pattern; `arith` shifts in copies of the sign (R213, R103). -/
def sweepShift (arith : Bool) (w : Nat) (x : Nat) (n : Int) : Nat :=
  if 0 ≤ n then (if 32 ≤ n then 0 else x * 2 ^ n.toNat % 2 ^ w)
  else
    let k := (-n).toNat
    if arith then wrap (sext x w / (2 ^ min k 32 : Nat)) w else (if 32 ≤ k then 0 else x / 2 ^ k)

/-- A sweep function of one element (R213). For `decay` on `I32` R213 names no result where the value leaves the format, nor
for x = 0: there both of its formulas give 0 where the argument is not negative, and a negative one leaves the free value
(log 23). -/
def sweepElem (fn et : Nat) (arg : Word) (x : Nat) : Nat :=
  let w := 8 * (sweepEtBytes et).getD 4
  let a := arg.toNat % 2 ^ w
  let n := sext (bits arg.toNat 7 0) 8
  match fn with
  | 4 => a
  | 5 => x &&& a
  | 6 => x ||| a
  | 7 => x ^^^ a
  | _ =>
    match sweepInt et with
    | some f =>
      let vx := intVal f x
      let va := intVal f a
      match fn with
      | 0 => (x + a) % 2 ^ w
      | 1 => wrap (intInto f true (vx + va)) w
      | 2 =>
        if isSigned f then
          let t := if 0 < vx then max 0 (vx - va) else if vx < 0 then min 0 (vx + va) else 0
          if intMin f ≤ t ∧ t ≤ intMax f ∧ (vx ≠ 0 ∨ 0 ≤ va) then wrap t w
          else (Config.decayOverflow (BitVec.ofNat 32 x) arg).toNat
        else if va < vx then wrap (vx - va) w else 0
      | _ => sweepShift (isSigned f) w x n
    | none =>
      let F := if et = 2 then BF16 else F32
      let vx := floatVal F x
      roundExt F .rn false (if fn = 0 then addExt .rn vx (floatVal F a) else scaleExt vx n)

/-- Every element of a run of bytes transformed (R375). -/
def sweepBytes (fn et : Nat) (arg : Word) : Nat → Bytes → Bytes
  | 0, _ => []
  | n + 1, b =>
    let w := (sweepEtBytes et).getD 4
    leBytes w (sweepElem fn et arg (ofLe (b.take w))) ++ sweepBytes fn et arg n (b.drop w)

/-- The stack of a DRAM row number (R351). -/
def rowStack (row : Nat) : Nat := row / 2 ^ 20 % 12

/-- A line of the row is poisoned (R387). -/
def rowPoisoned (s : State) (row : Nat) : Bool :=
  (List.range 16).any fun i => sget false s.mem.hbmPsn (row * 16 + i)

/-- The lines of a row leave the read buffers. -/
def State.dropRow (s : State) (row : Nat) : State :=
  { s with mem := { s.mem with rbuf := s.mem.rbuf.filter fun e =>
      !((s.locs (e.1 % 2 ^ 46 * 64) 64).any fun l => l / 1024 = row) } }

/-- The row's bytes transformed in DRAM. On a `NONATOMIC` page, of attribute 1, the read buffers may keep what they were; on
any other none does (R265, R379). -/
def transformRow (s : State) (row attr : Nat) (d : SweepDesc) : State :=
  let old := (List.range 1024).map fun i => sget 0 s.mem.hbm (row * 1024 + i)
  let new := sweepBytes d.fn d.et d.arg (1024 / (sweepEtBytes d.et).getD 4) old
  let hbm := (new.zipIdx).foldl (fun m e => sset 0 m (row * 1024 + e.2) e.1) s.mem.hbm
  let s : State := { s with mem := { s.mem with hbm := hbm } }
  if attr = 1 then s else s.dropRow row

/-- The entry of a registration is live in the controller of the row's stack (R370 `armt`, R372). -/
def SweepReg.liveAt (r : SweepReg) (row : Nat) : Bool :=
  r.rows.contains row
    && match r.phase with
      | .armed => true
      | .installing => r.installed.contains (rowStack row)
      | _ => false

/-- The pseudo-channel of a row among those of the device, and its row number q (R351, R362, R370). -/
def rowChannel (row : Nat) : Nat := rowStack row * 64 + bits row 9 4
def rowQ (row : Nat) : Nat := 16 * (1024 * (row / 2 ^ 20 / 12) + bits row 19 10) + bits row 3 0

/-- A table entry as a key: its pseudo-channel and its first row number. -/
def entryKey (e : Nat × Nat) : Nat := e.1 * 2 ^ 20 + e.2

/-- The entry of a row among the entries of its registration. -/
def SweepReg.entryOf (r : SweepReg) (row : Nat) : Nat :=
  match r.entries.find? fun e => e.1 = rowChannel row && e.2 ≤ rowQ row && rowQ row < e.2 + 65536 with
  | some e => entryKey e
  | none => 0

/-- The smallest number of rounds of the entries (R376). -/
def SweepReg.rounds (r : SweepReg) : Nat :=
  match r.entries.map fun e => sget 0 r.rnd (entryKey e) with
  | [] => 0
  | x :: t => t.foldl min x

/-- A `ONCE` registration whose rows have all been applied is complete, or failed (R214, R387). -/
def SweepReg.close (r : SweepReg) : SweepReg :=
  if !r.desc.rep ∧ (r.rows.all fun x => sget false r.app x) ∧ r.phase = .armed then
    { r with phase := if r.badRow then .failed else .complete }
  else r

/-- The registration with its row's bit set (R375, R376, R387): a round of an entry ends when all its rows are set. -/
def SweepReg.mark (r : SweepReg) (row : Nat) (bad : Bool) : SweepReg :=
  let r := { r with app := sput r.app row true, badRow := r.badRow || bad, failed := if bad then sput r.failed row true else r.failed }
  if r.desc.rep then
    let e := r.entryOf row
    let mine := r.rows.filter fun x => r.entryOf x = e
    if mine.all fun x => sget false r.app x then
      { r with app := r.app.filter fun x => !mine.contains x.1, rnd := sput r.rnd e (sget 0 r.rnd e + 1) }
    else r
  else r.close

/-- One application of a registration to a row (R375, R376, R387), with the writes that it makes due (R381). -/
def applyReg (s : State) (key : Nat) (r : SweepReg) (row : Nat) : State :=
  let bad := rowPoisoned s row || sget false r.failed row
  let s := if bad then s else transformRow s row (r.attrs.getD (r.rows.idxOf row) 0) r.desc
  let r' := r.mark row bad
  let first := bad && !r.badRow
  let due := (if first then [SweepDue.orphan key 2 (r.desc.base + 1024 * r.rows.idxOf row) r.app.length] else [])
    ++ (if r'.phase ≠ r.phase ∨ (r.desc.rep ∧ (first ∨ r.rounds < r'.rounds) ∧ r.phase = .armed) then [SweepDue.flag key]
        else [])
  { s with sweep := { s.sweep with regs := sput s.sweep.regs key r', due := s.sweep.due ++ due } }

/-- Registrations in the order of their arm points (R371); one that is not yet armed comes last. -/
def sweepOrder (s : State) (l : List (Nat × SweepReg)) : List (Nat × SweepReg) :=
  let rank (r : SweepReg) : Nat := if r.phase = .installing then s.sweep.nextOrder else r.order
  l.foldr (fun e acc => (acc.takeWhile fun x => rank x.2 < rank e.2) ++ e :: acc.dropWhile fun x => rank x.2 < rank e.2) []

/-- A demand activation of a row: every live `ONCE` entry that has not yet applied is applied, the earliest first
(R371, R375). -/
def touchRow (s : State) (row : Nat) : State :=
  let l := s.sweep.regs.filter fun e => !e.2.desc.rep && e.2.liveAt row && !sget false e.2.app row
  (sweepOrder s l).foldl (fun s e => applyReg s e.1 e.2 row) s

/-- A refresh slot of a row (R367, R376): every live entry is applied, but for a `ONCE` one that has been. -/
def refreshRow (s : State) (row : Nat) : State :=
  let l := s.sweep.regs.filter fun e => e.2.liveAt row && (e.2.desc.rep || !sget false e.2.app row)
  (sweepOrder s l).foldl (fun s e => applyReg s e.1 e.2 row) s

/-- Demand activations of several rows. -/
def touchRows (s : State) (rows : List Nat) : State :=
  if s.sweep.regs.isEmpty then s else rows.foldl touchRow s

end Sys2Proof.Machine
end

