-- ==== Sys2Proof/Machine/PhysMem.lean ====
section
/-! DEFINITION. Memory by its place: device memory through the mapping matrices (R351, R362), team-shared memory and the
Yard, with poison (R460, R461), core-held blocks (R266), die read buffers (R265) and the wake of waiters (R168). -/

namespace Sys2Proof.Machine

/-- A group as an agent. -/
def Group.agent (g : Group) : Agent := ⟨some g.coreNo, some g.die, g.ctx, some g.gid⟩
/-- The issuer of an operation as an agent (R260). -/
def Op.agent (op : Op) : Agent := ⟨some op.core, some (dieOfCore op.core), op.ctx, some op.gid⟩
/-- An agent that belongs to no compute die (R355). -/
def outside (ctx : Nat) : Agent := ⟨none, none, ctx, none⟩

/-- Bytes read, and whether poison was met. -/
structure Got where
  bytes : Bytes
  psn : Bool
  deriving DecidableEq, Repr

/-- The stack of a physical address (R351). -/
def stackOf (pa : Nat) : Nat := pa / Config.regionBytes % 12

/-- The stack's controller. -/
def State.stackCtl (s : State) (n : Nat) : StackCtl := (sfind s.sweep.ctls n).getD StackCtl.reset

/-- A stack is in use: its die is (R472). -/
def State.stackUsed (s : State) (n : Nat) : Bool := s.mgmt.dies.testBit (n / 3)

/-- An address lies in the device's memory, in a stack that is not in use (R472). -/
def State.unused (s : State) (pa : Nat) : Bool := isDram (homePa pa) && !s.stackUsed (stackOf (homePa pa))

/-- A physical address can be reached (R445, R451): it names memory, and on the fabric the link is up. -/
def State.reaches (s : State) (pa : Nat) : Bool := isDram pa || inHost pa || (inFabric pa && s.fabric.up)

/-- The replica's physical address on a die (R355); an agent of no die uses the one of CD0. -/
def replicaPa (ag : Agent) (attr pa : Nat) : Nat :=
  if attr = 2 then pa + 3 * ag.die.getD 0 * Config.regionBytes else pa

/-- Core-held blocks of a range that another core owns are promoted (R266): the owner's writes are performed at `.dev`
first, so that no read buffer keeps what they have overwritten. -/
def State.promote (s : State) (ag : Agent) (pa n : Nat) : State :=
  if s.mem.held.isEmpty then s
  else
    let bs := unitsOf 64 pa n
    if s.mem.held.any fun e => bs.contains e.1 && some e.2 ≠ ag.core then
      { s with mem := { s.mem with held := s.mem.held.filter fun e => !(bs.contains e.1 && some e.2 ≠ ag.core) } }.dropStale
    else s

/-- A stack serves no new request (R383): its closing notice has been sent, or it is in self-refresh. -/
def StackCtl.shut (c : StackCtl) : Bool := c.closing || c.asleep

/-- The turn has reached stacks that serve no request (R383): it is held, and what it did is undone. -/
def State.noteShut (s : State) (locs : List Nat) : State :=
  if s.sweep.ctls.any fun e => e.2.shut then
    { s with sweep := { s.sweep with touched := s.sweep.touched ++
        ((locs.filter isDram).map fun l => rowStack (l / 1024)).filter fun n => (s.stackCtl n).shut } }
  else s

/-- The demand activations of an access (R375), in a stack that serves it (R383, R384). -/
def State.activate (s : State) (locs : List Nat) : State :=
  let s := s.noteShut locs
  if s.sweep.regs.isEmpty then s else touchRows s ((locs.map (· / 1024)).eraseDups)

/-- A `NONATOMIC` read places the line in the reading die's buffer (R265), poisoned where home's is (R464). -/
def State.fillRbuf (s : State) (die line : Nat) : State :=
  match sfind s.mem.rbuf (rbufKey die line) with
  | some _ => s
  | none => { s with mem := { s.mem with rbuf := sput s.mem.rbuf (rbufKey die line) (s.homeLine line) } }

/-- A byte as the die's read buffer returns it. -/
def State.rbufByte (s : State) (die pa : Nat) : Byte :=
  match sfind s.mem.rbuf (rbufKey die (pa / 64)) with
  | some (x, _) => BitVec.ofNat 8 (bits x.toNat (pa % 64 * 8 + 7) (pa % 64 * 8))
  | none => sget 0 s.mem.hbm (s.dramLoc pa)

/-- Poison in a line as the die's read buffer holds it (R464). -/
def State.rbufPoison (s : State) (die line : Nat) : Bool := ((sfind s.mem.rbuf (rbufKey die line)).getD (s.homeLine line)).2

/-! ### Bursts to other devices (R449) -/

/-- Lanes of the fabric port (R449). -/
def fabricLanes : Nat := 72

def FabricState.lane (f : FabricState) (n : Nat) : FabricLane := (sfind f.lanes n).getD FabricLane.fresh

/-- The lane map (R449): the active lanes in order. -/
def FabricState.map (f : FabricState) : List Nat := (List.range fabricLanes).filter fun n => (f.lane n).active

/-- Waiting bursts are sent in order (R449): each goes to the lane that the map gives its number, unless that lane takes no
new burst (R450) or its replay buffer holds 16. -/
def State.pump : Nat → State → State
  | 0, s => s
  | n + 1, s =>
    let f := s.fabric
    let k := f.map.getD (f.sendSeq % f.map.length) fabricLanes
    let l := f.lane k
    if f.waiting = 0 ∨ f.map.isEmpty ∨ l.closing ∨ 16 ≤ l.replay.length then s
    else
      let f := { f with sendSeq := f.sendSeq + 1, waiting := f.waiting - 1,
                        lanes := sput f.lanes k { l with replay := l.replay ++ [f.sendSeq] } }
      State.pump n ({ s with fabric := f }.emit (.fabric 3 [s.fabric.sendSeq, k]))

/-- Room has come free in the replay buffers, or the lane map has changed: what waits is sent (R449). -/
def State.pumpFabric (s : State) : State := s.pump s.fabric.waiting

/-- The device that a fabric address names (R445). -/
def fabricDevice (pa : Nat) : Nat := (pa - fabricBase) / fabricSpan

/-- A group's write to another device, with the numbers that its bursts will take (R448). -/
def FabricState.note (f : FabricState) (gid device : Nat) (seqs : List Nat) : FabricState :=
  if f.writes.any fun w => w.gid = gid && w.device = device then
    { f with writes := f.writes.map fun w => if w.gid = gid ∧ w.device = device then { w with open_ := w.open_ ++ seqs } else w }
  else { f with writes := f.writes ++ [⟨gid, device, seqs⟩] }

/-- Bursts that carry n bytes enter the port: one for each 2,048 bytes (R449, log 77). -/
def State.burstsOf (s : State) (n : Nat) : State :=
  { s with fabric := { s.fabric with waiting := s.fabric.waiting + (n + 2047) / 2048 } }.pumpFabric

/-- The bursts that an access over the fabric sends, to the device's own number too (R445, R449). -/
def State.sendBursts (s : State) (ag : Agent) (write : Bool) (pa n : Nat) : State :=
  if inFabric pa then
    let f := s.fabric
    let seqs := (List.range ((n + 2047) / 2048)).map fun i => f.sendSeq + f.waiting + i
    let s := match ag.gid with
      | some gid => if write then { s with fabric := f.note gid (fabricDevice pa) seqs } else s
      | none => s
    s.burstsOf n
  else s

/-- A fabric write of the group has not yet been acknowledged by its remote home (R448). -/
def State.fabricOwes (s : State) (gid : Nat) : Bool := s.fabric.writes.any fun w => w.gid = gid && !w.open_.isEmpty

/-- The names of a group's `fence` and of an operation as releases (R448). -/
def fenceKey (gid : Nat) : Nat := 2 * gid
def opKey (id : Nat) : Nat := 2 * id + 1

/-- The links on which a release's zero-length reads are outstanding, once it has sent them (R448). -/
def State.readsOf (s : State) (key : Nat) : Option (List Nat) := (s.fabric.reads.find? fun r => r.key = key).map (·.open_)

/-- A group's release at a scope has to wait (R448): for the acknowledgements of its fabric writes, and at `.sys` for the
zero-length reads that follow them. -/
def State.relWaits (s : State) (gid key : Nat) (ord : Ord) (scope : Scope) : Bool :=
  isRel ord && (scope = .dom || scope = .sys) && (s.fabricOwes gid || (scope = .sys && s.readsOf key != some []))

/-- A group's `.sys` release sends its zero-length reads (R448), once every fabric write of the group is acknowledged: on the
host link, and on the link to each device that the group has written. -/
def State.sendReads (s : State) (gid key : Nat) (ord : Ord) (scope : Scope) : State :=
  if isRel ord && scope = .sys && !s.fabricOwes gid && (s.readsOf key).isNone then
    let ds := if s.fabric.up then (s.fabric.writes.filter fun w => w.gid = gid).map (·.device) else []
    let s := ds.foldl (fun s d => (s.burstsOf 1).emit (.fabric 5 [d])) (s.emit .zeroRead)
    { s with fabric := { s.fabric with reads := s.fabric.reads ++ [⟨key, 0 :: ds.map (· + 1)⟩] } }
  else s

/-- The release is performed: its reads are over. -/
def State.endReads (s : State) (key : Nat) : State :=
  { s with fabric := { s.fabric with reads := s.fabric.reads.filter fun r => r.key ≠ key } }

/-- The scope at which a group's release acts on the read buffers once its zero-length reads are over. -/
def flushedScope (scope : Scope) : Scope := if scope = .sys then .dom else scope

/-- An address of the fabric aperture that names the device's own memory (R445). -/
def ownNumber (pa : Nat) : Bool := homePa pa != pa

/-- The attribute under which an access to a leaf's place is served: that of the remote page, where the place is the device's own
memory in the fabric aperture (R447, log 26). -/
def State.servedAttr (s : State) (attr pa : Nat) : Nat := if ownNumber pa then s.frameAttr (homePa pa) else attr

/-- The agent of an access as its memory sees it: one through the fabric belongs to no core and no die (R355). -/
def servedAgent (ag : Agent) (pa : Nat) : Agent := if ownNumber pa then outside ag.ctx else ag

/-- Bytes read at a physical address under a page's attribute (R264, R265, R355). A die whose agent has read at home no
longer reads an older line in its buffer (R264). -/
def State.readPa (s : State) (ag : Agent) (attr pa n : Nat) : Got × State :=
  let s := s.sendBursts ag false pa n
  let attr := s.servedAttr attr pa
  let ag := servedAgent ag pa
  let pa := homePa (replicaPa ag attr pa)
  let s := s.promote ag pa n
  let locs := s.locs pa n
  let s := s.activate locs
  match attr, ag.die with
  | 1, some d =>
    let s := (unitsOf 64 pa n).foldl (fun s l => s.fillRbuf d l) s
    (⟨(List.range n).map fun i => s.rbufByte d (pa + i), (unitsOf 64 pa n).any (s.rbufPoison d)⟩, s)
  | _, _ =>
    (⟨locs.map fun l => sget 0 s.mem.hbm l, s.hbmPoison locs⟩, s.dropLines (fun d => some d = ag.die) (unitsOf 64 pa n))

/-- Lines that a write covers whole lose their poison (R461). -/
def clearCovered (unit : Nat) (psn : Sparse Bool) (locs : List Nat) : Sparse Bool :=
  if psn.isEmpty then psn
  else
    let us := (locs.map (· / unit)).eraseDups
    us.foldl (fun p u => if (List.range unit).all fun i => locs.contains (u * unit + i) then sdel p u else p) psn

/-- Bytes stored at locations, in order. -/
def storeAt (m : Mem) : List Nat → Bytes → Mem
  | l :: ls, b :: bs => storeAt (sset 0 m l b) ls bs
  | _, _ => m

/-- A waiter is woken (R168, R268): what its wait acquires, it acquires now. -/
def State.wakeWaiter (s : State) (e : MonEntry) : State :=
  match sfind s.ops e.op with
  | some op =>
    match op.work with
    | .wait sp _ _ ord scope _ _ _ _ => (s.acquireAt ord (scopeWithin scope sp) (dieOfCore op.core)).endWait e.op 0
    | _ => s
  | none => s

/-- A write of a block is performed: every waiter without `.x` on it is woken (R168), and the write is performed at each
wait's scope first (R268). `unit` is the core for `.s`, the die for `.y`. -/
def State.wakeBlock (s : State) (sp : Space) (unit block : Nat) : State :=
  let l := s.mon.filter fun e => !e.x && e.watches sp unit block
  if l.isEmpty then s
  else l.foldl State.wakeWaiter (if sp = .g then s.dropLines (fun _ => true) [block] else s)

/-- A write of a range is performed (R168). -/
def State.wakeRange (s : State) (sp : Space) (unit lo len : Nat) : State :=
  if s.mon.isEmpty then s else (unitsOf 64 lo len).foldl (fun s b => s.wakeBlock sp unit b) s

/-- Bytes written into one frame (R264, R265): the lines leave the writer's read buffer, and every die's where the
page is not `NONATOMIC`. -/
def State.writeFrame (s : State) (ag : Agent) (attr pa : Nat) (b : Bytes) : State :=
  let n := b.length
  let s := s.promote ag pa n
  let locs := s.locs pa n
  let s := s.activate locs
  let m := s.mem
  let s := { s with mem := { m with hbm := storeAt m.hbm locs b, hbmPsn := clearCovered 64 m.hbmPsn locs } }
  (s.dropLines (fun d => attr ≠ 1 || some d = ag.die) (unitsOf 64 pa n)).wakeRange .g 0 pa n

/-- Bytes written at a physical address under a page's attribute: a `REPLICA` page takes them in its four frames
(R265, R355, log 16). -/
def State.writePa (s : State) (ag : Agent) (attr pa : Nat) (b : Bytes) : State :=
  let s := s.sendBursts ag true pa b.length
  let attr := s.servedAttr attr pa
  let ag := servedAgent ag pa
  let pa := homePa pa
  if attr = 2 then (List.range 4).foldl (fun s d => s.writeFrame ag attr (pa + 3 * d * Config.regionBytes) b) s
  else s.writeFrame ag attr pa b

/-- The lines of a range marked poisoned (R163, R464). -/
def State.poisonPa (s : State) (attr pa n : Nat) : State :=
  let attr := s.servedAttr attr pa
  let pa := homePa pa
  let one (s : State) (pa : Nat) : State :=
    { s with mem := { s.mem with
        hbmPsn := ((s.locs pa n).map (· / 64)).eraseDups.foldl (fun p l => sput p l true) s.mem.hbmPsn } }
  if attr = 2 then (List.range 4).foldl (fun s d => one s (pa + 3 * d * Config.regionBytes)) s else one s pa

/-! ### Team-shared memory and the Yard -/

/-- The place of an offset in a core's team-shared memory, and in a die's Yard. -/
def sharedAt (core off : Nat) : Nat := core * Config.sharedBytes + off
def yardAt (die off : Nat) : Nat := die * 2 ^ 27 + off

/-- Bytes at an offset of the core's memory or the die's Yard; `unit` is the core or the die. -/
def State.readLocal (s : State) (sp : Space) (unit off n : Nat) : Got :=
  match sp with
  | .s =>
    ⟨(List.range n).map fun i => sget 0 s.mem.shared (sharedAt unit (off + i)),
      (unitsOf 8 (sharedAt unit off) n).any fun u => sget false s.mem.sharedPsn u⟩
  | _ =>
    ⟨(List.range n).map fun i => sget 0 s.mem.yard (yardAt unit (off + i)),
      (unitsOf 32 (yardAt unit off) n).any fun u => sget false s.mem.yardPsn u⟩

/-- Bytes written at an offset of the core's memory or the die's Yard (R155, R168, R461). -/
def State.writeLocal (s : State) (sp : Space) (unit off : Nat) (b : Bytes) : State :=
  let m := s.mem
  match sp with
  | .s =>
    let ls := (List.range b.length).map fun i => sharedAt unit (off + i)
    let s := { s with mem := { m with shared := storeAt m.shared ls b, sharedPsn := clearCovered 8 m.sharedPsn ls } }
    s.wakeRange .s unit off b.length
  | _ =>
    let ls := (List.range b.length).map fun i => yardAt unit (off + i)
    let s := { s with mem := { m with yard := storeAt m.yard ls b, yardPsn := clearCovered 32 m.yardPsn ls } }
    s.wakeRange .y unit off b.length

/-- The words of a range marked poisoned (R163, R464). -/
def State.poisonLocal (s : State) (sp : Space) (unit off n : Nat) : State :=
  let m := s.mem
  match sp with
  | .s => { s with mem := { m with
      sharedPsn := (unitsOf 8 (sharedAt unit off) n).foldl (fun p u => sput p u true) m.sharedPsn } }
  | _ => { s with mem := { m with
      yardPsn := (unitsOf 32 (yardAt unit off) n).foldl (fun p u => sput p u true) m.yardPsn } }

/-- The core, or the die, whose memory a group's `.s` or `.y` space is. -/
def spaceUnit (sp : Space) (core : Nat) : Nat := if sp = .s then core else dieOfCore core

end Sys2Proof.Machine
end

