-- ==== Sys2Proof/Machine/Translate.lean ====
section
/-! DEFINITION. Address translation: page-table walks, the translation units' caches, and access by virtual address
(R352 to R358). -/

namespace Sys2Proof.Machine

/-- What an access needs of its page (R354). -/
inductive Acc
  | read | write | fetch | both
  deriving DecidableEq, Repr

/-- Why a translation fails (R354). A poisoned table entry is reported as poison (log 24). -/
inductive TrFault
  | notPresent (pgr : Nat) | malformed | permission | poison
  deriving DecidableEq, Repr

/-- What a translation gives: a place with its attribute and permissions, or a fault. -/
inductive Tr
  | ok (pa attr : Nat) (r w : Bool)
  | fault (f : TrFault)
  deriving DecidableEq, Repr

/-- The index into the table of a level (R352). -/
def vaIndex (va : Nat) : Nat → Nat
  | 0 => bits va 20 16 | 1 => bits va 29 21 | 2 => bits va 35 30 | _ => bits va 53 36

def State.tlb (s : State) (core : Nat) : Tlb := (sfind s.xlate.tlb core).getD ⟨[], [], []⟩

def State.setTlb (s : State) (core : Nat) (t : Tlb) : State :=
  { s with xlate := { s.xlate with tlb := sput s.xlate.tlb core t } }

/-- An entry put in front of a list of at most n entries (R357). -/
def lruPut (n : Nat) (e : TlbEntry) (l : List TlbEntry) : List TlbEntry :=
  (e :: l.filter fun x => !(x.ctx = e.ctx && x.size = e.size && x.page = e.page)).take n

/-- The entry of a page in a list. -/
def tlbFind (l : List TlbEntry) (ctx size page : Nat) : Option TlbEntry :=
  l.find? fun e => e.ctx = ctx && e.size = size && e.page = page

/-- An entry of a page table: one `.dev` read (R356). -/
def State.readPte (s : State) (pa : Nat) : Option Nat × State :=
  let (x, s) := s.readPa (outside 0) 0 pa 8
  (if x.psn then none else some (ofLe x.bytes), s)

/-- The conditions of a leaf at a level (R354, R355): a page of an aperture is `ATOMIC` (R447). -/
def leafOk (level e : Nat) : Bool :=
  bits e 15 8 == 0 && bits e 63 52 == 0 && bits e 51 16 * 65536 % pageBytes level == 0 && bits e 6 5 != 3
    && (bits e 6 5 == 0 || isDram (bits e 51 16 * 65536))
    && (bits e 6 5 != 2 || (level ≤ 2 && bits e 51 16 * 65536 / Config.regionBytes % 12 < 3))

/-- The place that a leaf gives for an access (R354): a frame in a stack that is not in use is malformed, and so is a
`REPLICA` leaf while a die is not (R472), through the fabric's own number too (R447); an address that names nothing fails as a
permission does (R445, R451). -/
def leafPlace (s : State) (level e va : Nat) (k : Acc) : Tr :=
  let pa := bits e 51 16 * 65536 + va % pageBytes level
  let r := bits e 2 2 == 1
  let w := bits e 3 3 == 1
  let x := bits e 4 4 == 1
  let ok := match k with | .read => r | .write => w | .fetch => x | .both => r && w
  if s.unused pa || (s.servedAttr (bits e 6 5) pa == 2 && s.mgmt.dies != 15) then .fault .malformed
  else if ok && s.reaches pa then .ok pa (bits e 6 5) r w else .fault .permission

/-- What a walk finds: a leaf with its level, or a fault. -/
inductive WalkRes
  | leaf (level entry : Nat) | fault (f : TrFault)

/-- A walk from a level's table (R354), which keeps the non-leaf entries that it reads in the walk cache (R357). A table in a
stack that is not in use, or at an address that names nothing, makes it malformed (R445, R472, log 24). -/
def walkFrom (core : Option Nat) (ctx va : Nat) : Nat → Nat → State → WalkRes × State
  | level, table, s =>
    let path := va / pageBytes level
    let cached := match core with
      | some c => tlbFind (s.tlb c).walk ctx level path
      | none => none
    match cached with
    | some e =>
      let s := match core with
        | some c => s.setTlb c { s.tlb c with walk := lruPut 256 e (s.tlb c).walk }
        | none => s
      match level with
      | 0 => (.fault .malformed, s)
      | l + 1 => walkFrom core ctx va l (bits e.entry 51 8 * 256) s
    | none =>
      if s.unused table || !s.reaches table then (.fault .malformed, s)
      else match s.readPte (table + 8 * vaIndex va level) with
      | (none, s) => (.fault .poison, s)
      | (some e, s) =>
        if bits e 0 0 = 0 then (.fault (.notPresent (bits e 11 1)), s)
        else if bits e 1 1 = 1 then
          if leafOk level e then (.leaf level e, s) else (.fault .malformed, s)
        else
          match level with
          | 0 => (.fault .malformed, s)
          | l + 1 =>
            if bits e 7 2 = 0 ∧ bits e 63 52 = 0 ∧ bits e 51 8 * 256 % tableAlign (l + 1) = 0 then
              let s := match core with
                | some c =>
                  let t := s.tlb c
                  s.setTlb c { t with walk := lruPut 256 ⟨ctx, l + 1, path, e⟩ t.walk }
                | none => s
              walkFrom core ctx va l (bits e 51 8 * 256) s
            else (.fault .malformed, s)

/-- The cached leaf of an address in a core's translation unit. -/
def tlbLookup (t : Tlb) (ctx va : Nat) : Option TlbEntry :=
  let go (l : List TlbEntry) (size : Nat) := tlbFind l ctx size (va / pageBytes size)
  (go t.small 0).or ((go t.small 1).or ((go t.large 2).or (go t.large 3)))

/-- A leaf used: it becomes the most recent of its list (R357). -/
def State.useLeaf (s : State) (core : Nat) (e : TlbEntry) : State :=
  let t := s.tlb core
  s.setTlb core (if e.size < 2 then { t with small := lruPut 1024 e t.small } else { t with large := lruPut 64 e t.large })

/-- A translation for an access (R354). A core looks in its translation unit first; an agent without a core walks. -/
def State.translate (s : State) (core : Option Nat) (ctx va : Nat) (k : Acc) : Tr × State :=
  let done (s : State) (level e : Nat) : Tr × State := (leafPlace s level e va k, s)
  let hit := match core with
    | some c => tlbLookup (s.tlb c) ctx va
    | none => none
  if 2 ^ 54 ≤ va then (.fault (.notPresent 0), s)
  else match hit, core with
  | some e, some c => done (s.useLeaf c e) e.size e.entry
  | _, _ =>
    match sfind s.xlate.ctxs ctx with
    | none => (.fault (.notPresent 0), s)
    | some c =>
      match walkFrom core ctx va 3 c.root s with
      | (.leaf level e, s) =>
        let s := match core with
          | some cn => s.useLeaf cn ⟨ctx, level, va / pageBytes level, e⟩
          | none => s
        done s level e
      | (.fault f, s) => (.fault f, s)

/-- The parts of a range of virtual addresses that lie in one 64 KiB granule each (R357). -/
def granuleParts (va n : Nat) : List (Nat × Nat) :=
  (unitsOf 65536 va n).map fun g =>
    let lo := max va (g * 65536)
    (lo, min (va + n) ((g + 1) * 65536) - lo)

/-- What an access by virtual address gives. -/
inductive VaRes
  | ok (x : Got) | fault (va : Nat) (f : TrFault)
  deriving DecidableEq, Repr

/-- Bytes read at a virtual address, granule by granule (R357). -/
def readParts (ag : Agent) : List (Nat × Nat) → Got → State → VaRes × State
  | [], acc, s => (.ok acc, s)
  | (va, n) :: t, acc, s =>
    match s.translate ag.core ag.ctx va .read with
    | (.ok pa attr _ _, s) =>
      let (x, s) := s.readPa ag attr pa n
      readParts ag t ⟨acc.bytes ++ x.bytes, acc.psn || x.psn⟩ s
    | (.fault f, s) => (.fault va f, s)

def State.readVa (s : State) (ag : Agent) (va n : Nat) : VaRes × State := readParts ag (granuleParts va n) ⟨[], false⟩ s

/-- The places of a range for a write, or the first that fails. -/
def writePlaces (ag : Agent) : List (Nat × Nat) → State → Except (Nat × TrFault) (List (Nat × Nat × Nat)) × State
  | [], s => (.ok [], s)
  | (va, n) :: t, s =>
    match s.translate ag.core ag.ctx va .write with
    | (.ok pa attr _ _, s) =>
      match writePlaces ag t s with
      | (.ok l, s) => (.ok ((pa, attr, n) :: l), s)
      | r => r
    | (.fault f, s) => (.error (va, f), s)

/-- Bytes written at a virtual address, once every granule has been translated. -/
def State.writeVa (s : State) (ag : Agent) (va : Nat) (b : Bytes) : VaRes × State :=
  match writePlaces ag (granuleParts va b.length) s with
  | (.ok l, s) =>
    let step (a : State × Bytes) (p : Nat × Nat × Nat) : State × Bytes :=
      (a.1.writePa ag p.2.1 p.1 (a.2.take p.2.2), a.2.drop p.2.2)
    (.ok ⟨[], false⟩, (l.foldl step (s, b)).1)
  | (.error (va, f), s) => (.fault va f, s)

/-- An address is canonical (R44). -/
def canonical (va : Nat) : Bool := va < 2 ^ 54

end Sys2Proof.Machine
end

