-- ==== Sys2Proof/Machine/Fetch.lean ====
section
/-! DEFINITION. Fetching an instruction line through the core's instruction buffer (R36 to R38). -/

namespace Sys2Proof.Machine

/-- The instruction buffer of a core, the most recently entered line first. -/
def State.ibufOf (s : State) (core : Nat) : List IbufLine := (sfind s.ibuf core).getD []

def State.setIbuf (s : State) (core : Nat) (l : List IbufLine) : State := { s with ibuf := sput s.ibuf core l }

/-- A slot points into a copy of a line (R36, R38). -/
def PcSlot.pointsInto (p : PcSlot) (line copy : Nat) : Bool := p.valid && pcLine p.pc = line && p.copy = copy

/-- The entry's reference count is not zero: a valid slot of a group of the core points into it (R36). -/
def State.lineHeld (s : State) (core : Nat) (e : IbufLine) : Bool :=
  s.groups.any fun g => g.coreNo = core && g.ctx = e.ctx
    && (g.slot0.pointsInto e.line e.copy || g.slot1.pointsInto e.line e.copy)

/-- The fresh entry of a line (R38). -/
def State.ibufFind (s : State) (core ctx line : Nat) : Option IbufLine :=
  (s.ibufOf core).find? fun e => e.line = line && e.ctx = ctx && e.copy = 0

/-- The line becomes the most recently entered (R36). -/
def State.ibufEnter (s : State) (core : Nat) (e : IbufLine) : State :=
  s.setIbuf core (e :: (s.ibufOf core).filter fun x => x ≠ e)

/-- The entries that stay when one is filled: stale entries without a reference go, and of 512 entries the least
recently entered one without a reference (R36, R38); at most 128 references are live, so that there is one. -/
def State.ibufRoom (s : State) (core : Nat) : List IbufLine :=
  let l := (s.ibufOf core).filter fun e => e.copy = 0 || s.lineHeld core e
  if l.length < Config.ibufLines then l
  else
    match (l.zipIdx).reverse.find? fun e => !s.lineHeld core e.1 with
    | some (_, i) => l.eraseIdx i
    | none => l

/-- What a fetch gives: the line, or the cause of `PAGE_ERR` (R37). -/
abbrev FetchRes := Except Nat LineBits

/-- The 64 bytes of a line read from memory through translation (R36, R37). -/
def State.fillLine (s : State) (ag : Agent) (line : Nat) : FetchRes × State :=
  match s.translate ag.core ag.ctx line .fetch with
  | (.fault .poison, s) => (.error 3, s)
  | (.fault _, s) => (.error 1, s)
  | (.ok pa attr _ _, s) =>
    let (x, s) := s.readPa ag attr pa 64
    if x.psn then (.error 3, s) else (.ok (BitVec.ofNat 512 (ofLe x.bytes)), s)

/-- A line through the instruction buffer: from its fresh entry, or filled from memory (R36). A line that is filled for a
check of its `tgt` bits and not entered counts as entered at its fill (log 57). -/
def State.fetchLine (s : State) (g : Group) (line : Nat) : FetchRes × State :=
  let core := g.coreNo
  match s.ibufFind core g.ctx line with
  | some e => (.ok e.data, s)
  | none =>
    match s.fillLine g.agent line with
    | (.ok x, s) => (.ok x, s.setIbuf core (⟨line, g.ctx, x, 0⟩ :: s.ibufRoom core))
    | r => r

/-- What the check of a transfer's target gives (R27, R28, R37): the trap's code and cause where it fails. -/
abbrev TargetRes := Except (Nat × Nat) Unit

/-- The check of a transfer's target. -/
def State.checkTarget (s : State) (g : Group) (target : DWord) : TargetRes × State :=
  if !isPc target then (.error (3, 1), s)
  else match s.fetchLine g (pcLine target) with
    | (.error c, s) => (.error (12, c), s)
    | (.ok x, s) => if lineTgt x (pcSlot target) then (.ok (), s) else (.error (3, 0), s)

/-- The check of a transfer of the issuing slot (R28, R37): its line has to be there, and the `tgt` bit is tested but for a
transfer to the next in sequence. -/
def State.checkTransfer (s : State) (target : DWord) : TargetRes × State :=
  match s.checkTarget s.cur target with
  | (.error (3, 0), t) => if target = nextPoint s.cur.pc then (.ok (), t) else (.error (3, 0), t)
  | r => r

end Sys2Proof.Machine
end

