-- ==== Sys2Proof/Machine/Records.lean ====
section
/-! DEFINITION. What the device writes about a run: `.k` accesses of its own, completion records (R254), the launch
record's lists (R425 to R428), and the end of a group without a handler (R233, R240). -/

namespace Sys2Proof.Machine

/-- Bytes of a group's `.k` segment, read or written by the device; none where a page has no translation. -/
def State.kRead (s : State) (g : Group) (off n : Nat) : VaRes × State :=
  if canonical (g.sgk.base + off + n - 1) then s.readVa g.agent (g.sgk.base + off) n
  else (.fault (g.sgk.base + off) (.notPresent 0), s)

def State.kWrite (s : State) (g : Group) (off : Nat) (b : Bytes) : Bool × State :=
  if canonical (g.sgk.base + off + b.length - 1) then
    match s.writeVa g.agent (g.sgk.base + off) b with
    | (.ok _, s) => (true, s)
    | (.fault _ _, s) => (false, s)
  else (false, s)

/-- A grid of the device. -/
def State.gridOf (s : State) (n : Nat) : Option Grid := sfind s.launch.grids n

def State.modGrid (s : State) (n : Nat) (f : Grid → Grid) : State :=
  { s with launch := { s.launch with grids := supd s.launch.grids n f } }

/-- A write of the Groom into a grid's record area; one that faults is dropped (R425). -/
def State.recWrite (s : State) (n off : Nat) (b : Bytes) : State :=
  match s.gridOf n with
  | none => s
  | some gr => if gr.rec_ = 0 then s else (s.writeVa (outside gr.ctx) (gr.rec_ + off) b).2

/-- A completion record (R254). -/
def recordBytes (status opc queue rflg gslot : Nat) (pc : DWord) (seq faddr : Nat) (lmask : LaneMask) (done : Nat) : Bytes :=
  leBytes 2 status ++ leBytes 2 (opc % 1024) ++ leBytes 1 queue ++ leBytes 1 rflg ++ leBytes 2 (gslot % 16384)
    ++ leBytes 8 pc.toNat ++ leBytes 8 seq ++ leBytes 8 faddr ++ leBytes 8 lmask.toNat ++ leBytes 8 done ++ leBytes 16 0

/-- The record of an operation; the queue of a group's own access is written as 0 (log 25). -/
def Op.record (op : Op) (exited : Bool) : Bytes :=
  recordBytes op.status op.opc (op.queue % 6) ((if exited then 1 else 0) + (if op.replayed then 2 else 0)) op.place op.pc
    op.seq op.faddr op.lmask op.done

/-- A record on the orphan list of a grid (R425, R427): stored while there is room, else counted. After the grid's end
the header's counts are written with it. -/
def State.addOrphan (s : State) (n : Nat) (rec : Bytes) : State :=
  match s.gridOf n with
  | none => s
  | some gr =>
    let s := if gr.ended then s.releaseAt .rel .sys else s
    let s := if gr.orphs < 256 then s.recWrite n (0xA500 + 64 * gr.orphs) rec else s
    let gr' := if gr.orphs < 256 then { gr with orphs := gr.orphs + 1 } else { gr with xorph := gr.xorph + 1 }
    let s := s.modGrid n fun _ => gr'
    if gr.ended then s.recWrite n 0x38 (leBytes 4 gr'.orphs ++ leBytes 4 gr'.xorph) else s

/-- A failure entry of a grid (R425, R428). -/
def State.addFailure (s : State) (n : Nat) (entry : Bytes) : State :=
  match s.gridOf n with
  | none => s
  | some gr =>
    let s := if gr.fails < 32 then s.recWrite n (0x1100 + 1184 * gr.fails) entry else s
    s.modGrid n fun gr => if gr.fails < 32 then { gr with fails := gr.fails + 1 } else { gr with xfail := gr.xfail + 1 }

/-! ### The census (R296, R434) -/

/-- Counts added to counts, saturating. -/
def addCounts : List Nat → List Nat → List Nat
  | x :: xs, y :: ys => min (2 ^ 32 - 1) (x + y) :: addCounts xs ys
  | xs, _ => xs

/-- The counts of one pair added to a census table: its entry, a new one while there is room, or none. -/
def censusAdd (l : List Census) (site kind : Nat) (counts : List Nat) : Option (List Census) :=
  if l.any fun c => c.site = site && c.kind = kind then
    some (l.map fun c => if c.site = site ∧ c.kind = kind then { c with counts := addCounts c.counts counts } else c)
  else if l.length < 128 then some (l ++ [⟨site, kind, addCounts (List.replicate 7 0) counts⟩])
  else none

/-- The events of one command counted in its grid's table; a pair without an entry counts once in `xsite` (R434). -/
def State.count (s : State) (grid : Nat) (evs : List (Nat × Nat × List Nat)) : State :=
  if evs.isEmpty then s
  else s.modGrid grid fun g =>
    let step (a : List Census × Bool) (e : Nat × Nat × List Nat) : List Census × Bool :=
      match censusAdd a.1 e.1 e.2.1 e.2.2 with
      | some l => (l, a.2)
      | none => (a.1, true)
    let (l, lost) := evs.foldl step (g.census, false)
    { g with census := l, xsite := if lost then g.xsite + 1 else g.xsite }

/-! ### Ends of groups -/

/-- Bytes 0x20 to 0x41 of the trap record, which stand in a failure entry too (R243, R428): a slot that is not valid is
written as zero. -/
def slotBytes (g : Group) : Bytes :=
  let one (p : PcSlot) : Bytes := if p.valid then leBytes 8 p.pc.toNat ++ leBytes 8 p.mask.toNat else leBytes 16 0
  one g.slot0 ++ one g.slot1
    ++ leBytes 1 ((if g.slot0.valid then 1 else 0) + (if g.slot1.valid then 2 else 0)) ++ leBytes 1 g.pstk

/-- The depth counters, one byte a lane. -/
def ctrBytes (g : Group) : Bytes := (List.range 64).map fun l => g.ctrOf l

/-- The spilled entries from the top of the stack (R428): one that cannot be read is zero and sets `ff`[2]. -/
def spilledBytes (g : Group) : Nat → State → Bytes × Bool × State
  | 0, s => ([], false, s)
  | k + 1, s =>
    match s.kRead g (g.sgk.limit - 16 * (k + 1)) 16 with
    | (.ok x, s) =>
      let (b, bad, s) := spilledBytes g k s
      (if x.psn then (leBytes 16 0 ++ b, true, s) else (x.bytes ++ b, bad, s))
    | (.fault _ _, s) =>
      let (b, _, s) := spilledBytes g k s
      (leBytes 16 0 ++ b, true, s)

/-- Why a group ends without a handler (R428); `lost` where a record of its failure ring could not be written (R240,
R255). -/
structure EndInfo where
  code : Nat
  cause : Nat
  nested : Bool
  lost : Bool
  tpc : Nat
  xarg : Nat
  fmask : LaneMask
  deriving DecidableEq, Repr

/-- The failure entry of a group (R428). -/
def failureEntry (g : Group) (e : EndInfo) (paths : Bytes) (badPath : Bool) : Bytes :=
  let bit (b : Bool) (n : Nat) : Nat := if b then n else 0
  leBytes 2 e.code ++ leBytes 2 e.cause ++ leBytes 1 (bit e.nested 1 + bit e.lost 2 + bit badPath 4) ++ leBytes 1 g.gidx
    ++ leBytes 2 (g.place % 16384) ++ leBytes 4 (g.gngx * g.tpg + g.tign) ++ leBytes 4 0 ++ slotBytes g ++ leBytes 6 0
    ++ leBytes 8 g.exited.toNat ++ ctrBytes g ++ leBytes 32 0 ++ paths ++ leBytes (992 - paths.length) 0
    ++ leBytes 8 e.tpc ++ leBytes 8 e.xarg ++ leBytes 8 e.fmask.toNat ++ leBytes 8 0

/-- A group after its last lane has exited: no slot, no hold (R226, R233). -/
def Group.ended (g : Group) : Group :=
  { g with exited := BitVec.allOnes 64, slot0 := { g.slot0 with mask := 0, valid := false, park := none },
           slot1 := { g.slot1 with mask := 0, valid := false, park := none }, pstk := 0, busy := false, inClause := false,
           wait0 := none, wait1 := none, stall := none, bar := .none, grow := .none, rdv := none, shoot := none,
           wdogOn := false, expired := false }

/-- A group wherever it stands: on the device, or saved by a pre-emption. -/
def State.anyGroup (s : State) (gid : Nat) : Option Group :=
  (s.findGroup gid).or ((s.launch.saved.map (·.groups)).flatten.find? fun g => g.gid = gid)

/-- A partner of a held rendezvous has exited, retired or trapped: each held group of its team will trap with
`QUARTET_SPLIT` cause 2 (R195). -/
def State.partnerGone (s : State) (g : Group) : State :=
  let off (h : Group) : Group :=
    if h.gid ≠ g.gid ∧ h.grid = g.grid ∧ h.gngx = g.gngx ∧ h.tign = g.tign then
      match h.rdv with
      | some (.mmq _ _) => { h with rdv := some (.split 2) }
      | some (.corq _ _) => { h with rdv := some (.split 2) }
      | _ => h
    else h
  if g.role = 2 then { s with cur := off s.cur, others := s.others.map fun e => (e.1, off e.2) } else s

/-- A group ends without a handler (R233, R240): its failure entry, then every lane exits. One that `WATCHDOG` ended keeps
that, for its barriers (R172). -/
def State.endGroupOf (s : State) (gid : Nat) (e : EndInfo) : State :=
  match s.anyGroup gid with
  | none => s
  | some g =>
    let (paths, bad, s) := spilledBytes g g.pstk s
    let s := s.addFailure g.grid (failureEntry g e paths bad)
    (s.modGroup gid fun g => { g.ended with expired := e.code = 9 }).partnerGone g

/-- The issuing group ends without a handler. -/
def State.endGroup (s : State) (e : EndInfo) : State := s.endGroupOf s.cur.gid e

end Sys2Proof.Machine
end

