-- ==== Sys2Proof/Machine/Traps.lean ====
section
/-! DEFINITION. Taking a trap (R239 to R245): the one operation that every trap of a group goes through. -/

namespace Sys2Proof.Machine

/-- A per-lane fault entry (R245). -/
structure LaneFault where
  lane : Nat
  addr : Nat
  lcode : Nat
  lcause : Nat
  space : Nat
  size : Nat
  kind : Nat
  deriving DecidableEq, Repr

/-- A trap about to be taken (R238, R243). -/
structure TrapInfo where
  code : Nat
  cause : Nat
  step : Nat := 0
  test : Nat := 0
  slot : Nat
  /-- The trapping instruction or the entry point. -/
  tpc : DWord
  /-- Where the issuing slot resumes (R241). -/
  resume : DWord
  xarg : Nat := 0
  lanes : List LaneFault := []
  /-- The ring entry of a deferred trap (R247), or a `DIVERGE` whose record was held back (R202). -/
  ring : Option Nat := none
  deferred : Bool := false
  held : Bool := false

/-- The lanes that hold a per-lane entry. -/
def TrapInfo.fmask (t : TrapInfo) : LaneMask := laneSet fun l => t.lanes.any fun f => f.lane = l

/-- A record of the group is held back (R255). -/
def State.heldBack (s : State) (gid : Nat) : Bool := !(match s.findGroup gid with | some g => g.waitingRecs.isEmpty | none => true)

/-- The header of the trap record and the depth counters, offsets 0x00 to 0xBF (R242, R243). -/
def trapHeader (s : State) (g : Group) (t : TrapInfo) : Bytes :=
  let flg := 1 + (if t.deferred then 2 else 0) + (if t.held || s.heldBack g.gid then 4 else 0)
  leBytes 2 t.code ++ leBytes 2 t.cause ++ leBytes 1 t.step ++ leBytes 1 t.test ++ leBytes 1 t.slot ++ leBytes 1 flg
    ++ leBytes 8 t.tpc.toNat ++ leBytes 8 t.xarg ++ leBytes 8 t.fmask.toNat ++ slotBytes g ++ leBytes 6 0
    ++ leBytes 8 g.sgk.base ++ leBytes 8 g.exited.toNat ++ leBytes 40 0 ++ ctrBytes g

/-- A per-lane fault entry (R245). -/
def laneEntry (f : LaneFault) : Bytes :=
  leBytes 8 f.addr ++ leBytes 1 f.lane ++ leBytes 1 f.lcode ++ leBytes 1 f.lcause ++ leBytes 1 f.space ++ leBytes 1 f.size
    ++ leBytes 1 f.kind ++ leBytes 2 0

/-- Every page of the record area can be written (R240). -/
def State.recordWritable (s : State) (g : Group) : Bool × State :=
  let ok (off : Nat) (s : State) : Bool × State :=
    if canonical (g.sgk.base + off) then
      match s.translate (some g.coreNo) g.ctx (g.sgk.base + off) .write with
      | (.ok _ _ _ _, s) => (true, s)
      | (.fault _, s) => (false, s)
    else (false, s)
  match ok 0 s with
  | (true, s) => ok 0x7FF s
  | r => r

/-- The trap record written into the group's record area (R239 step 2). -/
def State.writeRecord (s : State) (t : TrapInfo) : State :=
  let (_, s) := s.kWrite s.cur 0 (trapHeader s s.cur t)
  t.lanes.foldl (fun s f => (s.kWrite s.cur (0x100 + 16 * f.lane) (laneEntry f)).2) s

/-- Every lane that has not exited joins one path in slot 0 at the trap vector (R239 steps 3 and 4). A trap during a STEP
stops the group before the handler's first issue (R440), as a STOP that is due would (R437). -/
def Group.enterHandler (g : Group) (ring : Option Nat) : Group :=
  { g with slot0 := ⟨g.tvec, g.present, true, none, 0⟩, slot1 := ⟨0, 0, false, none, 0⟩, issue1 := false,
           ctr := g.ctr.filter fun e => g.exited.getLsbD e.1,
           busy := true, serving := ring, inClause := false, wait0 := none, wait1 := none,
           stall := if 0 < g.stepLeft then some .stopped else none,
           stopped := g.stopped || 0 < g.stepLeft,
           stopReq := g.stopReq && g.stepLeft = 0, stepLeft := 0 }

/-- The ring entry that the trap raises. -/
def Group.markRaised (g : Group) (ring : Option Nat) : Group :=
  { g with ring := g.ring.map fun e => if some e.idx = ring then { e with raised := true } else e }

/-- The group as the trap finds it: the issuing slot stands where it will resume (R241). -/
def Group.atTrap (g : Group) (t : TrapInfo) : Group :=
  { (g.setSlot { g.slot with pc := t.resume }).markRaised t.ring with
    stall := none, bar := .none, grow := .none, rdv := none, shoot := none, shrink := g.shrink }

/-- The code of the event that reports a trap during a STEP (R440). -/
def portTrap : Nat := 9

/-- A trap of the issuing group is taken (R239), or the group ends without a handler (R240, R244). -/
def State.takeTrap (s : State) (t : TrapInfo) : State :=
  let nested := s.cur.busy
  let fin (s : State) : State :=
    s.endGroup ⟨t.code, t.cause, nested, false, t.tpc.toNat, t.xarg, t.fmask⟩
  let s := (s.modCur fun g => g.atTrap t).partnerGone s.cur
  if nested ∨ (t.code = 1 ∧ (t.cause = 11 ∨ t.cause = 13)) ∨ s.cur.tvec = 0 then fin s
  else
    match s.recordWritable s.cur with
    | (false, s) => fin s
    | (true, s) =>
      let s := s.writeRecord t
      match s.checkTarget s.cur s.cur.tvec with
      | (.error _, s) => fin s
      | (.ok _, s) =>
        let s := if 0 < s.cur.stepLeft then s.emit (.port portTrap [s.cur.gid, t.code, t.cause]) else s
        s.modCur fun g => g.enterHandler t.ring

/-- A trap of the issued instruction, which resumes at its next point (R241). -/
def State.trap (s : State) (code cause : Nat) (lanes : List LaneFault := []) (xarg : Nat := 0) : State :=
  let pc := s.cur.pc
  s.takeTrap { code := code, cause := cause, slot := pcSlot pc, tpc := pc, resume := nextPoint pc, xarg := xarg, lanes := lanes }

/-- A trap of the issued instruction, which resumes at the instruction itself (R241). -/
def State.trapHere (s : State) (code cause : Nat) (xarg : Nat := 0) : State :=
  let pc := s.cur.pc
  s.takeTrap { code := code, cause := cause, slot := pcSlot pc, tpc := pc, resume := pc, xarg := xarg }

/-- A transfer whose target fails its check (R28, R29, R37): `xarg` holds the target. -/
def State.trapTarget (s : State) (e : Nat × Nat) (target : DWord) : State := s.trapHere e.1 e.2 target.toNat

/-- A trap at a line entry (R34, R37). -/
def State.trapEntry (s : State) (code cause step test slot : Nat) : State :=
  let pc := s.cur.pc
  s.takeTrap { code := code, cause := cause, step := step, test := test, slot := slot, tpc := pc, resume := pc }

end Sys2Proof.Machine
end

