-- ==== Sys2Proof/Machine/Paths.lean ====
section
/-! DEFINITION. How a group's paths move: the next point, transfers, the merge of slots (R224), the pending-path stack
(R48, R225, R477) and the change of the issuing slot's mask. -/

namespace Sys2Proof.Machine

/-- The masks of two slots that stand together are joined into the lower-numbered slot; a park stays (R224, R138). -/
def Group.merge (g : Group) : Group :=
  let park := match g.slot0.park with | some w => some w | none => g.slot1.park
  { g with slot0 := ⟨g.slot0.pc, g.slot0.mask ||| g.slot1.mask, true, park, 0⟩, slot1 := ⟨0, 0, false, none, 0⟩, issue1 := false,
           wait0 := none, wait1 := none }

/-- The two slots stand at the same point. -/
def Group.together (g : Group) : Bool := g.slot0.valid && g.slot1.valid && g.slot0.pc == g.slot1.pc

/-- The top entry of the pending-path stack, as the slot that it becomes, less the lanes that have exited since; a failed read
gives the cause of `PAGE_ERR` (R48, R225, R477). -/
def State.topPath (s : State) : Except Nat PcSlot × State :=
  match s.kRead s.cur (s.cur.sgk.limit - 16 * s.cur.pstk) 16 with
  | (.fault _ _, s) => (.error 1, s)
  | (.ok x, s) =>
    if x.psn then (.error 3, s)
    else (.ok ⟨BitVec.ofNat 64 (ofLe (x.bytes.take 8)), BitVec.ofNat 64 (ofLe (x.bytes.drop 8)) &&& ~~~s.cur.exited, true, none, 0⟩, s)

/-- A path in the invalid slot. -/
def Group.seatPath (g : Group) (p : PcSlot) : Group := if g.slot0.valid then { g with slot1 := p } else { g with slot0 := p }

/-- At most n pops, until one brings a lane. -/
def popPaths : Nat → State → State
  | 0, s => s
  | n + 1, s =>
    if s.cur.pstk = 0 then s
    else
      match s.topPath with
      | (.error c, s) => s.endGroup ⟨12, c, s.cur.busy, false, 0, 0, 0⟩
      | (.ok p, s) =>
        let s := s.modCur fun g => { g with pstk := g.pstk - 1 }
        if p.mask = 0 then popPaths n s else s.modCur fun g => g.seatPath p

/-- A slot that has become invalid takes the top of a stack that is not empty (R225), and the next one where every lane of that
has exited; a pop that cannot be read ends the group (R477). A stored value that is no program-counter value is entered as it
stands: R27 speaks of transfers only (log 82). -/
def State.popPath (s : State) : State := popPaths 64 s

/-- The group's slots after an entry: they merge where they stand together, and each merge pops a path, which is an entry
again (R224, R225). During a STEP nothing merges (R439). -/
def settleSlots : Nat → State → State
  | 0, s => s
  | n + 1, s =>
    if s.cur.together ∧ s.cur.stepLeft = 0 then settleSlots n (s.modCur Group.merge).popPath else s

/-- The clause is over and the issuing slot stands at an entry point. -/
def State.enterLine (s : State) (pc : DWord) : State :=
  settleSlots 64 (s.modCur fun g => { g.setSlot { g.slot with pc := pc, copy := 0 } with inClause := false, stall := none })

/-- The instruction is done and the issuing slot goes on to the next point (R130): within the line, or by flow into the
next line. -/
def State.advance (s : State) : State :=
  let pc := s.cur.pc
  if pcSlot pc < 4 then s.modCur fun g => { g.setSlot { g.slot with pc := nextPoint pc } with stall := none }
  else s.enterLine (nextPoint pc)

/-- A taken transfer of the whole issuing slot to a checked target (R28 to R31): `before` is what the instruction
writes once the check has passed. -/
def State.transfer (s : State) (target : DWord) (before : State → State) : State :=
  match s.checkTransfer target with
  | (.error e, s) => s.trapTarget e target
  | (.ok _, s) => (before s).enterLine target

/-- A path pushed onto the pending-path stack (R48, R477): none where the page cannot be written. -/
def State.pushPath (s : State) (pc : DWord) (m : LaneMask) : Bool × State :=
  let off := s.cur.sgk.limit - 16 * (s.cur.pstk + 1)
  match s.kWrite s.cur off (leBytes 8 pc.toNat ++ leBytes 8 m.toNat) with
  | (true, s) => (true, s.modCur fun g => { g with pstk := g.pstk + 1 })
  | (false, s) => (false, s)

/-- The issuing slot is no longer valid (R137, R225). -/
def State.dropSlot (s : State) : State :=
  settleSlots 64 (s.modCur fun g =>
    { g.setSlot { g.slot with mask := 0, valid := false, park := none } with inClause := false, stall := none }).popPath

/-- Each invalid slot takes the top of the stack (R441), merging under R224; a path whose lanes stand in a slot already
belongs to the state that a trap saved (R239) and stays. -/
def refillSlots : Nat → State → State
  | 0, s => s
  | n + 1, s =>
    if s.cur.pstk = 0 ∨ (s.cur.slot0.valid ∧ s.cur.slot1.valid) then s
    else match s.topPath with
      | (.ok p, _) =>
        let here := (if s.cur.slot0.valid then s.cur.slot0.mask else 0) ||| (if s.cur.slot1.valid then s.cur.slot1.mask else 0)
        if p.mask &&& here ≠ 0 then s else refillSlots n (settleSlots 64 s.popPath)
      | (.error _, _) => settleSlots 64 s.popPath

/-- The invalid slots of a resumed group filled before its first issue (R441). -/
def State.refillGroup (s : State) (gid : Nat) : State :=
  let home := s.cur.gid
  (refillSlots 64 ((s.focus gid).modCur fun g => { g with refill := false })).focus home

/-- The issuing group waits at its instruction with a stall reason (R432). -/
def State.hold (s : State) (r : Stall) : State := s.modCur fun g => { g with stall := some r }

/-- Every lane that has not exited is live (R172, R179, R183). -/
def Group.converged (g : Group) : Bool := g.present &&& ~~~g.live == 0

end Sys2Proof.Machine
end

