-- ==== Sys2Proof/Machine/Control.lean ====
section
/-! DEFINITION. Control instructions, class 0x0 (R127 to R139, R176). -/

namespace Sys2Proof.Machine

/-- What a meaning answers. -/
abbrev Out := Host.Outcome State Fault Refusal

/-- The whole-path rule (R129): some lane takes effect and no live lane has a false guard. -/
def Group.wholePath (g : Group) (gd : Guard) : Bool := g.acts gd && g.live &&& ~~~g.guardMask gd == 0

/-- A transfer under the whole-path rule, with what it writes (R129, R131). -/
def State.pathTransfer (s : State) (o : Fields) (target : DWord) (before : State → State) : State :=
  if s.cur.wholePath o.guard then s.transfer target before else s.advance

/-- The link write of a call (R131). -/
def linkWrite (o : Fields) (link : DWord) (s : State) : State :=
  match o.d with
  | .a n => s.modCur fun g => g.writeA n.val link
  | _ => s

/-- `nop` (R135). -/
def execNop (_o : Fields) (s : State) : Out := .next s.advance

/-- `br` (R131). -/
def execBr (o : Fields) (s : State) : Out := .next (s.pathTransfer o (directTarget s.cur.pc o.imm) id)

/-- `brx` (R131). -/
def execBrx (o : Fields) (s : State) : Out := .next (s.pathTransfer o (val64 s o.imm o.a 0) id)

/-- `call` (R131). -/
def execCall (o : Fields) (s : State) : Out :=
  .next (s.pathTransfer o (directTarget s.cur.pc o.imm) (linkWrite o (nextPoint s.cur.pc)))

/-- `callx` (R131): A(a) is read before A(d) is written. -/
def execCallx (o : Fields) (s : State) : Out :=
  .next (s.pathTransfer o (val64 s o.imm o.a 0) (linkWrite o (nextPoint s.cur.pc)))

/-- `ret` (R131). -/
def execRet (o : Fields) (s : State) : Out := .next (s.pathTransfer o (val64 s o.imm o.a 0) id)

/-- The split of a path (R132), both of whose points have been checked: the lanes of T go to the target, the others
stay at the next point, in the other slot or on the pending-path stack (R48, R240, R477). Where the stack would overflow,
the failure entry leaves the issuing slot at the `brd` (log 70). -/
def State.split (s : State) (target next : DWord) (T F : LaneMask) : State :=
  let go (s : State) : State := (s.modCur fun g => g.setSlot { g.slot with mask := T }).enterLine target
  if !s.cur.otherSlot.valid then go (s.modCur fun g => g.setOther ⟨next, F, true, none, 0⟩)
  else if 62 ≤ s.cur.pstk then s.trapHere 1 13
  else
    match s.pushPath next F with
    | (true, s) => go s
    | (false, s) => s.trapHere 12 1 (s.cur.sgk.limit - 16 * (s.cur.pstk + 1))

/-- `brd` (R132). -/
def execBrd (o : Fields) (s : State) : Out :=
  let T := s.cur.effect o.guard
  let F := s.cur.pathMask &&& ~~~T
  let target := directTarget s.cur.pc o.imm
  let next := nextPoint s.cur.pc
  if T = 0 then .next s.advance
  else if F = 0 then .next (s.transfer target id)
  else
    match s.checkTransfer target with
    | (.error e, s) => .next (s.trapTarget e target)
    | (.ok _, s) =>
      match s.checkTarget s.cur next with
      | (.error e, s) => .next (s.trapTarget e next)
      | (.ok _, s) => .next (s.split target next T F)

/-- The depth counters with f applied in the lanes of a mask. -/
def Group.newCtr (g : Group) (m : LaneMask) (f : Nat → Nat → Nat) : Sparse (BitVec 8) :=
  (maskLanes m).foldl (fun c l => sset 0 c l (BitVec.ofNat 8 (f l (g.ctrOf l).toNat))) g.ctr

/-- Some counter would pass 255 (R50, R134). -/
def Group.overflows (g : Group) (m : LaneMask) (f : Nat → Nat → Nat) : Bool :=
  (maskLanes m).any fun l => 255 < f l (g.ctrOf l).toNat

/-- Some lane of the path has the counter zero. -/
def Group.someZero (g : Group) (c : Sparse (BitVec 8)) : Bool :=
  (maskLanes g.pathMask).any fun l => sget 0 c l = 0

/-- A structured instruction (R134): the counters of the lanes of m change, and where no lane of the path has the counter
zero the slot skips to the target. -/
def State.structured (s : State) (m : LaneMask) (f : Nat → Nat → Nat) (target : Option DWord) : State :=
  if s.cur.overflows m f then s.trap 1 1
  else
    let c := s.cur.newCtr m f
    let set (s : State) : State := s.modCur fun g => { g with ctr := c }
    match target with
    | some t => if s.cur.someZero c then (set s).advance else s.transfer t set
    | none => (set s).advance

/-- `if` (R134). -/
def execIf (o : Fields) (s : State) : Out :=
  let gm := s.cur.guardMask o.guard
  .next (s.structured s.cur.pathMask (fun l c => if 0 < c then c + 1 else if gm.getLsbD l then 0 else 1)
    (some (directTarget s.cur.pc o.imm)))

/-- `else` (R134). -/
def execElse (o : Fields) (s : State) : Out :=
  .next (s.structured s.cur.pathMask (fun _ c => if c = 0 then 1 else if c = 1 then 0 else c)
    (some (directTarget s.cur.pc o.imm)))

/-- `endif` (R134). -/
def execEndif (_o : Fields) (s : State) : Out := .next (s.structured s.cur.pathMask (fun _ c => c - 1) none)

/-- `loop` (R134). -/
def execLoop (o : Fields) (s : State) : Out :=
  .next (s.structured s.cur.pathMask (fun _ c => if 0 < c then c + 2 else 0) (some (directTarget s.cur.pc o.imm)))

/-- `lbrk` (R134). -/
def execLbrk (lvl : BitVec 8) (o : Fields) (s : State) : Out :=
  .next (s.structured (s.cur.effect o.guard) (fun _ _ => lvl.toNat + 2) (some (directTarget s.cur.pc o.imm)))

/-- `cont` (R134). -/
def execCont (lvl : BitVec 8) (o : Fields) (s : State) : Out :=
  .next (s.structured (s.cur.effect o.guard) (fun _ _ => lvl.toNat + 1) (some (directTarget s.cur.pc o.imm)))

/-- `endl` (R134). -/
def execEndl (o : Fields) (s : State) : Out :=
  let gm := s.cur.guardMask o.guard
  let f (l c : Nat) : Nat := if c = 0 then (if gm.getLsbD l then 0 else 2) else if c = 1 then 0 else c
  let c := s.cur.newCtr s.cur.pathMask f
  if s.cur.someZero c then
    .next (s.transfer (directTarget s.cur.pc o.imm) fun s => s.modCur fun g => { g with ctr := c })
  else
    .next (s.modCur fun g => { g with ctr := g.newCtr g.pathMask fun l x => f l x - 2 }).advance

/-- `exit` (R137). -/
def execExit (o : Fields) (s : State) : Out :=
  let T := s.cur.effect o.guard
  let s := s.modCur fun g => { g.setSlot { g.slot with mask := g.slot.mask &&& ~~~T } with exited := g.exited ||| T }
  let s := if s.cur.present = 0 then s.partnerGone s.cur else s
  if s.cur.pathMask = 0 then .next s.dropSlot else .next s.advance

/-- `yield` (R138): the slot stands at its target and is parked until the flags of `wf` are clear; a `wf` of zero parks
it for no time. -/
def execYield (wf : BitVec 12) (o : Fields) (s : State) : Out :=
  let target := directTarget s.cur.pc o.imm
  if !s.cur.wholePath o.guard then .next s.advance
  else
    match s.checkTransfer target with
    | (.error e, s) => .next (s.trapTarget e target)
    | (.ok _, s) =>
      if wf = 0 then .next (s.enterLine target)
      else .next (s.modCur fun g =>
        { g.setSlot { g.slot with pc := target, park := some wf, copy := 0 } with inClause := false, stall := none })

/-- `ebrk` (R139). -/
def execEbrk (o : Fields) (s : State) : Out :=
  if s.cur.acts o.guard then .next (s.trap 13 0 [] o.imm.toNat) else .next s.advance

/-! ### Register grow and shrink (R41, R176, R227 to R229) -/

/-- Vector blocks of a slice that no group holds (R40, R221). -/
def State.freeBlocks (s : State) (core slice : Nat) : Nat :=
  64 - ((s.groups.filter fun g => g.coreNo = core && g.slice = slice).map (·.vblocks)).sum

/-- The waiting requests of a slice; that of a group whose watchdog has run out waits no more (R233). -/
def State.growWaiters (s : State) (core slice : Nat) : List Group :=
  s.groups.filter fun g => g.coreNo = core && g.slice = slice && !g.expired && match g.grow with | .asked _ _ _ => true | _ => false

/-- n blocks granted at the top of a group's range; they read zero (R41). -/
def Group.grant (g : Group) (n : Nat) : Group :=
  { g with vblocks := g.vblocks + n, v := sclear g.v (g.vblocks * 16 * 64) (n * 16 * 64) }

/-- `grow` (R176): granted at once where no request of the slice waits and the blocks are free (R228). -/
def execGrow (o : Fields) (s : State) : Out :=
  let n := (val s o.imm o.a 0).toNat
  if !s.cur.acts o.guard || n = 0 then .next s.advance
  else
    match s.cur.grow with
    | .granted => .next (s.modCur fun g => { g with grow := .none }).advance
    | .denied => .next (s.trapHere 8 1)
    | .asked _ _ _ => .next (s.hold .grow)
    | .none =>
      if 16 < s.cur.vblocks + n ∨ s.cur.budget < s.cur.vblocks + n then .next (s.trapHere 8 0)
      else if (s.growWaiters s.cur.coreNo s.cur.slice).isEmpty ∧ n ≤ s.freeBlocks s.cur.coreNo s.cur.slice then
        .next (s.modCur fun g => g.grant n).advance
      else .next ((s.modCur fun g => { g with grow := .asked n s.now s.steps }).hold .grow)

/-- `shrink` (R176): the blocks leave at the next line entry. -/
def execShrink (o : Fields) (s : State) : Out :=
  let n := (val s o.imm o.a 0).toNat
  if !s.cur.acts o.guard || n = 0 then .next s.advance
  else if s.cur.vblocks - s.cur.shrink ≤ n then .next (s.trap 1 5)
  else .next (s.modCur fun g => { g with shrink := g.shrink + n }).advance

end Sys2Proof.Machine
end

