-- ==== Sys2Proof/Machine/IntArith.lean ====
section
/-! DEFINITION. Integer and address instructions, class 0x1 (R101 to R105). -/

namespace Sys2Proof.Machine

/-- A lane instruction: its result in each lane goes to the destination (R98), and the slot goes on. -/
def laneStep (s : State) (o : Fields) (f : Nat → Word) : Out := .next (writeResult s o f).advance

/-- A lane instruction of one source. -/
def lane1 (s : State) (o : Fields) (f : Word → Word) : Out := laneStep s o fun l => f (val s o.imm o.a l)

/-- A lane instruction of two sources. -/
def lane2 (s : State) (o : Fields) (f : Word → Word → Word) : Out :=
  laneStep s o fun l => f (val s o.imm o.a l) (val s o.imm o.b l)

/-- A lane instruction of three sources. -/
def lane3 (s : State) (o : Fields) (f : Word → Word → Word → Word) : Out :=
  laneStep s o fun l => f (val s o.imm o.a l) (val s o.imm o.b l) (val s o.imm o.c l)

/-- An exact integer brought to 32 bits: clamped to the format with `.sat`, else taken modulo 2^32 (R102). -/
def intResult (f : Fmt) (sat : Bool) (t : Int) : Word :=
  BitVec.ofInt 32 (if sat then max (intMin f) (min (intMax f) t) else t)

/-- A source read as an integer of the format (R102). -/
def ival (f : Fmt) (x : Word) : Int := intVal f x.toNat

/-- The arithmetic functions of R102 on 32-bit patterns. -/
def addOp (f : Fmt) (sat : Bool) (x y : Word) : Word := intResult f sat (ival f x + ival f y)
def subOp (f : Fmt) (sat : Bool) (x y : Word) : Word := intResult f sat (ival f x - ival f y)
def mulOp (f : Fmt) (sat : Bool) (x y : Word) : Word := intResult f sat (ival f x * ival f y)
def madOp (f : Fmt) (sat : Bool) (x y z : Word) : Word := intResult f sat (ival f x * ival f y + ival f z)
def mulhiOp (f : Fmt) (x y : Word) : Word := intResult f false (ival f x * ival f y / 2 ^ 32)
def minOp (f : Fmt) (x y : Word) : Word := if ival f x < ival f y then x else y
def maxOp (f : Fmt) (x y : Word) : Word := if ival f y < ival f x then x else y
def absOp (sat : Bool) (x : Word) : Word := intResult .i32 sat (if ival .i32 x < 0 then -ival .i32 x else ival .i32 x)
def negOp (sat : Bool) (x : Word) : Word := intResult .i32 sat (-ival .i32 x)

/-- A shift count: the whole word, or its residue modulo 32 with `.m32` (R103). -/
def shiftCount (m : LaneMod) (y : Word) : Nat := if m.sub.getLsbD 0 then y.toNat % 32 else y.toNat

def shlOp (n : Nat) (x : Word) : Word := if 32 ≤ n then 0 else x <<< n
def shrOp (n : Nat) (x : Word) : Word := if 32 ≤ n then 0 else x >>> n
def sarOp (n : Nat) (x : Word) : Word := x.sshiftRight (min n 31)

/-- Zeros above the highest one of a word (R103). -/
def clzOp (x : Word) : Word := BitVec.ofNat 32 (if x = 0 then 32 else 31 - x.toNat.log2)

/-- The bits of a word in reverse order (R103). -/
def brevOp (x : Word) : Word :=
  BitVec.ofNat 32 ((List.range 32).foldl (fun r i => if x.getLsbD i then r + 2 ^ (31 - i) else r) 0)

/-- A field descriptor: position and length, both cut to the word (R103). -/
def fieldDesc (y : Word) : Nat × Nat :=
  let pos := min (bits y.toNat 7 0) 32
  (pos, min (bits y.toNat 15 8) (32 - pos))

def bfeOp (f : Fmt) (x y : Word) : Word :=
  let (pos, len) := fieldDesc y
  if len = 0 then 0
  else
    let v := x.toNat / 2 ^ pos % 2 ^ len
    if isSigned f then BitVec.ofInt 32 (sext v len) else BitVec.ofNat 32 v

def bfiOp (x y z : Word) : Word :=
  let (pos, len) := fieldDesc z
  let m := (2 ^ len - 1) * 2 ^ pos
  (x &&& ~~~BitVec.ofNat 32 m) ||| (BitVec.ofNat 32 (y.toNat % 2 ^ len * 2 ^ pos))

/-- The condition codes of `icmp` (R104). -/
def intCond (c : Nat) (x y : Int) : Bool :=
  match c with
  | 0 => x == y | 1 => x != y | 2 => x < y | 3 => x ≤ y | 4 => y < x | _ => y ≤ x

/-- `add` (R102). -/
def execAdd (m : LaneMod) (o : Fields) (s : State) : Out := lane2 s o (addOp m.fmt m.sat)
/-- `sub` (R102). -/
def execSub (m : LaneMod) (o : Fields) (s : State) : Out := lane2 s o (subOp m.fmt m.sat)
/-- `mul` (R102). -/
def execMul (m : LaneMod) (o : Fields) (s : State) : Out := lane2 s o (mulOp m.fmt m.sat)
/-- `mulhi` (R102). -/
def execMulhi (m : LaneMod) (o : Fields) (s : State) : Out := lane2 s o (mulhiOp m.fmt)
/-- `mad` (R102). -/
def execMad (m : LaneMod) (o : Fields) (s : State) : Out := lane3 s o (madOp m.fmt m.sat)
/-- `min` (R102). -/
def execMin (m : LaneMod) (o : Fields) (s : State) : Out := lane2 s o (minOp m.fmt)
/-- `max` (R102). -/
def execMax (m : LaneMod) (o : Fields) (s : State) : Out := lane2 s o (maxOp m.fmt)
/-- `abs` (R102). -/
def execAbs (m : LaneMod) (o : Fields) (s : State) : Out := lane1 s o (absOp m.sat)
/-- `neg` (R102). -/
def execNeg (m : LaneMod) (o : Fields) (s : State) : Out := lane1 s o (negOp m.sat)
/-- `and` (R103). -/
def execAnd (_m : LaneMod) (o : Fields) (s : State) : Out := lane2 s o fun x y => x &&& y
/-- `or` (R103). -/
def execOr (_m : LaneMod) (o : Fields) (s : State) : Out := lane2 s o fun x y => x ||| y
/-- `xor` (R103). -/
def execXor (_m : LaneMod) (o : Fields) (s : State) : Out := lane2 s o fun x y => x ^^^ y
/-- `not` (R103). -/
def execNot (_m : LaneMod) (o : Fields) (s : State) : Out := lane1 s o fun x => ~~~x
/-- `shl` (R103). -/
def execShl (m : LaneMod) (o : Fields) (s : State) : Out := lane2 s o fun x y => shlOp (shiftCount m y) x
/-- `shr` (R103). -/
def execShr (m : LaneMod) (o : Fields) (s : State) : Out := lane2 s o fun x y => shrOp (shiftCount m y) x
/-- `sar` (R103). -/
def execSar (m : LaneMod) (o : Fields) (s : State) : Out := lane2 s o fun x y => sarOp (shiftCount m y) x
/-- `popc` (R103). -/
def execPopc (_m : LaneMod) (o : Fields) (s : State) : Out := lane1 s o fun x => BitVec.ofNat 32 (countOnes 32 x.toNat)
/-- `clz` (R103). -/
def execClz (_m : LaneMod) (o : Fields) (s : State) : Out := lane1 s o clzOp
/-- `brev` (R103). -/
def execBrev (_m : LaneMod) (o : Fields) (s : State) : Out := lane1 s o brevOp
/-- `bfe` (R103). -/
def execBfe (m : LaneMod) (o : Fields) (s : State) : Out := lane2 s o (bfeOp m.fmt)
/-- `bfi` (R103). -/
def execBfi (_m : LaneMod) (o : Fields) (s : State) : Out := lane3 s o bfiOp
/-- `icmp` (R104). -/
def execIcmp (m : LaneMod) (o : Fields) (s : State) : Out :=
  lane2 s o fun x y => truth (intCond m.sub.toNat (ival m.fmt x) (ival m.fmt y))

/-- `aadd` (R105). -/
def execAadd (m : LaneMod) (o : Fields) (s : State) : Out :=
  .next (writeAddr s o (val64 s o.imm o.a 0 + val64 s o.imm o.b 0 <<< (m.sub.toNat % 8))).advance

/-- `aidx` (R105): the low half goes to v(d), the high half to v(d+1). -/
def execAidx (m : LaneMod) (o : Fields) (s : State) : Out :=
  let q (l : Nat) : DWord :=
    val64 s o.imm o.a l + BitVec.ofInt 64 (ival m.fmt (val s o.imm o.b l) * (2 ^ (m.sub.toNat % 8) : Nat))
  match o.d with
  | .v n =>
    let cm := s.cur.computing o.guard
    .next (s.modCur fun g =>
      (g.writeV n.val cm fun l => (q l).setWidth 32).writeV (n.val + 1) cm fun l => (q l >>> 32).setWidth 32).advance
  | _ => .next s.advance

end Sys2Proof.Machine
end

