-- ==== Sys2Proof/Machine/FloatArith.lean ====
section
/-! DEFINITION. Floating-point instructions, class 0x2 (R106 to R113). -/

namespace Sys2Proof.Machine

/-- A value rounded to `F32` under the modifier (R107). -/
def fround (m : LaneMod) (x : Ext) : Word := BitVec.ofNat 32 (roundExt F32 m.rnd m.sat x)

def faddOp (m : LaneMod) (x y : Word) : Word := fround m (addExt m.rnd (f32 x) (f32 y))
def fsubOp (m : LaneMod) (x y : Word) : Word := fround m (addExt m.rnd (f32 x) (negExt (f32 y)))
def fmulOp (m : LaneMod) (x y : Word) : Word := fround m (mulExt (f32 x) (f32 y))
def fmaOp (m : LaneMod) (x y z : Word) : Word := fround m (fmaExt m.rnd (f32 x) (f32 y) (f32 z))
def fminOp (x y : Word) : Word := BitVec.ofNat 32 (fminmax F32 false x.toNat y.toNat)
def fmaxOp (x y : Word) : Word := BitVec.ofNat 32 (fminmax F32 true x.toNat y.toNat)
/-- A sign operation; a NaN gives the canonical NaN (R109). -/
def signOp (f : Word → Word) (x : Word) : Word := if f32 x = .nan then 0x7FC00000 else f x
def fabsOp (x : Word) : Word := signOp (fun x => x &&& 0x7FFFFFFF) x
def fnegOp (x : Word) : Word := signOp (fun x => x ^^^ 0x80000000) x

/-- The condition codes of `fcmp` (R109). -/
def floatCond (c : Nat) (x y : Ext) : Bool :=
  let un := x == .nan || y == .nan
  let r := cmpExt x y
  match c with
  | 0 => !un && r == 0 | 1 => un || r != 0 | 2 => !un && r < 0 | 3 => !un && r ≤ 0 | 4 => !un && 0 < r
  | 5 => !un && 0 ≤ r | 6 => un | _ => !un

/-- The one-hot class word of an `F32` pattern (R110). -/
def classWord (x : Word) : Word :=
  let neg := x.getLsbD 31
  let e := bits x.toNat 30 23
  let f := bits x.toNat 22 0
  if e = 255 then (if f ≠ 0 then 256 else if neg then 1 else 128)
  else if e = 0 then (if f = 0 then (if neg then 8 else 16) else if neg then 4 else 32)
  else if neg then 2 else 64

/-- Rounding to an integral `F32` value (R111). -/
def frndOp (r : Rnd) (x : Word) : Word :=
  match f32 x with
  | .nan => 0x7FC00000
  | .inf _ => x
  | .fin _ 0 _ => x
  | .fin n man exp =>
    if 0 ≤ exp then x
    else
      let k := roundInt r false man exp
      let k := if n then -(roundInt r true man exp) else k
      BitVec.ofNat 32 (roundExt F32 .rn false (.fin n k.toNat 0))

/-- A packed operation on both halves (R112). -/
def packed2 (f : Nat → Nat → Nat) (x y : Word) : Word :=
  BitVec.ofNat 32 (f (x.toNat % 65536) (y.toNat % 65536) + 65536 * f (x.toNat / 65536) (y.toNat / 65536))
def packed3 (f : Nat → Nat → Nat → Nat) (x y z : Word) : Word :=
  BitVec.ofNat 32 (f (x.toNat % 65536) (y.toNat % 65536) (z.toNat % 65536)
    + 65536 * f (x.toNat / 65536) (y.toNat / 65536) (z.toNat / 65536))

/-- The half format of a packed function. -/
def halfFmt (m : LaneMod) : FloatFmt := (floatFmt m.fmt).getD F32

def hadd2Op (m : LaneMod) : Word → Word → Word :=
  let H := halfFmt m
  packed2 fun x y => roundExt H m.rnd m.sat (addExt m.rnd (floatVal H x) (floatVal H y))
def hmul2Op (m : LaneMod) : Word → Word → Word :=
  let H := halfFmt m
  packed2 fun x y => roundExt H m.rnd m.sat (mulExt (floatVal H x) (floatVal H y))
def hfma2Op (m : LaneMod) : Word → Word → Word → Word :=
  let H := halfFmt m
  packed3 fun x y z => roundExt H m.rnd m.sat (fmaExt m.rnd (floatVal H x) (floatVal H y) (floatVal H z))

/-- The two products and the accumulator summed exactly and rounded once (R113). -/
def hdot2Op (m : LaneMod) (x y z : Word) : Word :=
  let H := halfFmt m
  let p (i : Nat) : Ext := mulExt (floatVal H (x.toNat / 65536 ^ i % 65536)) (floatVal H (y.toNat / 65536 ^ i % 65536))
  fround m (sumExt (m.rnd == .rd) (f32 z) [p 0, p 1])

/-- `fadd` (R107, R108). -/
def execFadd (m : LaneMod) (o : Fields) (s : State) : Out := lane2 s o (faddOp m)
/-- `fsub` (R107, R108). -/
def execFsub (m : LaneMod) (o : Fields) (s : State) : Out := lane2 s o (fsubOp m)
/-- `fmul` (R107, R108). -/
def execFmul (m : LaneMod) (o : Fields) (s : State) : Out := lane2 s o (fmulOp m)
/-- `fma` (R107, R108). -/
def execFma (m : LaneMod) (o : Fields) (s : State) : Out := lane3 s o (fmaOp m)
/-- `fmin` (R109). -/
def execFmin (_m : LaneMod) (o : Fields) (s : State) : Out := lane2 s o fminOp
/-- `fmax` (R109). -/
def execFmax (_m : LaneMod) (o : Fields) (s : State) : Out := lane2 s o fmaxOp
/-- `fabs` (R109). -/
def execFabs (_m : LaneMod) (o : Fields) (s : State) : Out := lane1 s o fabsOp
/-- `fneg` (R109). -/
def execFneg (_m : LaneMod) (o : Fields) (s : State) : Out := lane1 s o fnegOp
/-- `fcmp` (R109). -/
def execFcmp (m : LaneMod) (o : Fields) (s : State) : Out :=
  lane2 s o fun x y => truth (floatCond m.sub.toNat (f32 x) (f32 y))
/-- `fclass` (R110). -/
def execFclass (_m : LaneMod) (o : Fields) (s : State) : Out := lane2 s o fun x y => classWord x &&& y
/-- `frnd` (R111). -/
def execFrnd (m : LaneMod) (o : Fields) (s : State) : Out := lane1 s o (frndOp m.rnd)
/-- `hadd2` (R112). -/
def execHadd2 (m : LaneMod) (o : Fields) (s : State) : Out := lane2 s o (hadd2Op m)
/-- `hmul2` (R112). -/
def execHmul2 (m : LaneMod) (o : Fields) (s : State) : Out := lane2 s o (hmul2Op m)
/-- `hfma2` (R112). -/
def execHfma2 (m : LaneMod) (o : Fields) (s : State) : Out := lane3 s o (hfma2Op m)
/-- `hmin2` (R112). -/
def execHmin2 (m : LaneMod) (o : Fields) (s : State) : Out := lane2 s o (packed2 (fminmax (halfFmt m) false))
/-- `hmax2` (R112). -/
def execHmax2 (m : LaneMod) (o : Fields) (s : State) : Out := lane2 s o (packed2 (fminmax (halfFmt m) true))
/-- `hdot2` (R113). -/
def execHdot2 (m : LaneMod) (o : Fields) (s : State) : Out := lane3 s o (hdot2Op m)

end Sys2Proof.Machine
end

