-- ==== Sys2Proof/Machine/Transc.lean ====
section
/-! DEFINITION. The transcendental functions (R121 to R123) and the exponential of the soft-maximum stage (R80).
Values that no finite pattern holds exactly are enclosed to 640 fractional bits and rounded once (log 11). -/

namespace Sys2Proof.Machine

/-- The scale of the fixed-point enclosures. -/
abbrev fixP : Nat := 640

/-- floor(2^800 * pi/2). -/
def halfPi800 : Nat :=
  0x1921fb54442d18469898cc51701b839a252049c1114cf98e804177d4c76273644a29410f31c6809bbdf2a33679a748636605614dbe4be286e9fc26adadaa3848bc90b6aecc4bcfd8de89885d34c6fdad617feb96de80d6fdbdc70d7f6b5133f4b5d3e4822

/-- floor(2^640 * ln 2). -/
def ln2Fix : Nat :=
  0xb17217f7d1cf79abc9e3b39803f2f6af40f343267298b62d8a0d175b8baafa2be7b876206debac98559552fb4afa1b10ed2eae35c138214427573b291169b8253e96ca16224ae8c51acbda11317c387e

/-- What rounding reads of a real result: exact, or a magnitude with something more below its last bit. -/
inductive Approx
  | exact (x : Ext)
  | above (neg : Bool) (man : Nat) (exp : Int)
  deriving DecidableEq, Repr

/-- A result rounded once to `F32` (R122). -/
def roundApprox (r : Rnd) (sat : Bool) : Approx → Word
  | .exact x => BitVec.ofNat 32 (roundExt F32 r sat x)
  | .above n m e => BitVec.ofNat 32 (roundFin F32 r sat n m e true)

/-- floor(sqrt n), by bits from the highest: `k` more bits to try. -/
def isqrtGo : Nat → Nat → Nat → Nat
  | 0, _, r => r
  | k + 1, n, r =>
    let t := r + 2 ^ k
    isqrtGo k n (if t * t ≤ n then t else r)

/-- floor(sqrt n). -/
def isqrt (n : Nat) : Nat := isqrtGo (Nat.log2 n / 2 + 1) n 0

/-- The magnitude a/b as an enclosure. -/
def ratio (neg : Bool) (a b : Nat) (exp : Int) : Approx :=
  let k := 64 + Nat.log2 b
  let n := a * 2 ^ k
  if n % b = 0 then .exact (.fin neg (n / b) (exp - k)) else .above neg (n / b) (exp - k)

/-- x / y (R122). -/
def fdivApprox : Ext → Ext → Approx
  | .nan, _ => .exact .nan
  | _, .nan => .exact .nan
  | .inf _, .inf _ => .exact .nan
  | .inf a, .fin b _ _ => .exact (.inf (a != b))
  | .fin a _ _, .inf b => .exact (.fin (a != b) 0 0)
  | .fin a m e, .fin b m' e' =>
    if m' = 0 then (if m = 0 then .exact .nan else .exact (.inf (a != b)))
    else if m = 0 then .exact (.fin (a != b) 0 0)
    else ratio (a != b) m m' (e - e')

/-- 1 / x (R122). -/
def rcpApprox (x : Ext) : Approx := fdivApprox (.fin false 1 0) x

/-- sqrt x (R122). -/
def sqrtApprox : Ext → Approx
  | .nan => .exact .nan
  | .inf n => if n then .exact .nan else .exact (.inf false)
  | .fin n m e =>
    if m = 0 then .exact (.fin n 0 0)
    else if n then .exact .nan
    else
      let m2 := if e % 2 = 0 then m else 2 * m
      let e2 := if e % 2 = 0 then e else e - 1
      let s := m2 * 2 ^ 80
      let r := isqrt s
      if r * r = s then .exact (.fin false r (e2 / 2 - 40)) else .above false r (e2 / 2 - 40)

/-- 1 / sqrt x (R122). -/
def rsqrtApprox : Ext → Approx
  | .nan => .exact .nan
  | .inf n => if n then .exact .nan else .exact (.fin false 0 0)
  | .fin n m e =>
    if m = 0 then .exact (.inf n)
    else if n then .exact .nan
    else
      let m2 := if e % 2 = 0 then m else 2 * m
      let e2 := if e % 2 = 0 then e else e - 1
      let r := isqrt (2 ^ 160 / m2)
      if r * r * m2 = 2 ^ 160 then .exact (.fin false r (-(e2 / 2) - 80)) else .above false r (-(e2 / 2) - 80)

/-- A finite value at the scale of the enclosures, toward minus infinity. -/
def toFix (neg : Bool) (m : Nat) (e : Int) : Int :=
  let p := e + fixP
  let k : Int := if 0 ≤ p then (m * 2 ^ p.toNat : Nat) else (m / 2 ^ (-p).toNat : Nat)
  if neg then -k else k

/-- Sum of x^n / n! from the term t on. -/
def expGo : Nat → Nat → Int → Int → Int → Int
  | 0, _, _, _, s => s
  | f + 1, n, x, t, s =>
    let t' := t * x / (2 ^ fixP : Nat) / n
    expGo f (n + 1) x t' (s + t')

/-- exp(x) for 0 ≤ x < 1, at the scale of the enclosures. -/
def expFix (x : Int) : Int := expGo 160 1 x (2 ^ fixP : Nat) (2 ^ fixP : Nat)

/-- 2^x (R122): exact for an integer x. -/
def ex2Approx : Ext → Approx
  | .nan => .exact .nan
  | .inf n => if n then .exact (.fin false 0 0) else .exact (.inf false)
  | .fin n m e =>
    if m = 0 then .exact (.fin false 1 0)
    else
      let x : Int := if 0 ≤ e then (if n then -((m * 2 ^ (min e 200).toNat : Nat) : Int) else (m * 2 ^ (min e 200).toNat : Nat)) else 0
      let whole : Bool := 0 ≤ e || m % 2 ^ (-e).toNat == 0
      let fx := toFix n m (min e 200)
      let k := fx / (2 ^ fixP : Nat)
      let k := if 0 ≤ e then x else k
      if 400 < k then .above false 1 400
      else if k < -400 then .above false 1 (-400)
      else if whole then .exact (.fin false 1 k)
      else
        let f := fx % (2 ^ fixP : Nat)
        .above false (expFix (f * (ln2Fix : Nat) / (2 ^ fixP : Nat))).toNat (k - fixP)

/-- Sum of z^(2i+1) / (2i+1), where t is the current power. -/
def atanhGo : Nat → Nat → Int → Int → Int → Int
  | 0, _, _, _, s => s
  | f + 1, n, z2, t, s => atanhGo f (n + 2) z2 (t * z2 / (2 ^ fixP : Nat)) (s + t / n)

/-- log2 x (R122): exact for a power of two. -/
def lg2Approx : Ext → Approx
  | .nan => .exact .nan
  | .inf n => if n then .exact .nan else .exact (.inf false)
  | .fin n m e =>
    if m = 0 then .exact (.inf true)
    else if n then .exact .nan
    else
      let k := Nat.log2 m
      let E : Int := e + k
      if m = 2 ^ k then .exact (ofSigned false E 0)
      else
        let up : Bool := 3 * 2 ^ k ≤ 2 * m
        let E := if up then E + 1 else E
        let d := if up then 2 ^ (k + 1) else 2 ^ k
        let z : Int := ((m : Int) - (d : Nat)) * (2 ^ fixP : Nat) / ((m + d : Nat) : Int)
        let l := 2 * atanhGo 300 1 (z * z / (2 ^ fixP : Nat)) z 0 * (2 ^ fixP : Nat) / (ln2Fix : Nat)
        let v := E * (2 ^ fixP : Nat) + l
        .above (v < 0) v.natAbs (-fixP)

/-- Sum of a sine or cosine series from the term t on: each next term is -t * x^2 / (n (n + 1)). -/
def trigGo : Nat → Nat → Int → Int → Int → Int
  | 0, _, _, _, s => s
  | f + 1, n, x2, t, s =>
    let t' := -(t * x2 / (2 ^ fixP : Nat)) / (n * (n + 1))
    trigGo f (n + 2) x2 t' (s + t')

/-- sin x, or cos x with `q` = 1, for a nonzero finite x: the argument is reduced against pi/2 to 800 bits. -/
def trigApprox (q : Nat) (neg : Bool) (m : Nat) (e : Int) : Approx :=
  let X : Nat := (toFix false m e).toNat * 2 ^ 160
  let quad := X / halfPi800
  let r : Int := ((X % halfPi800 / 2 ^ 160 : Nat) : Int)
  let x2 := r * r / (2 ^ fixP : Nat)
  let s := trigGo 110 2 x2 r r
  let c := trigGo 110 1 x2 (2 ^ fixP : Nat) (2 ^ fixP : Nat)
  let j := (quad + q) % 4
  let v := match j with | 0 => s | 1 => c | 2 => -s | _ => -c
  let v := if q = 0 && neg then -v else v
  .above (v < 0) v.natAbs (-fixP)

/-- sin x (R122).. -/
def sinApprox : Ext → Approx
  | .nan => .exact .nan
  | .inf _ => .exact .nan
  | .fin n m e => if m = 0 then .exact (.fin n 0 0) else trigApprox 0 n m e

/-- cos x (R122). -/
def cosApprox : Ext → Approx
  | .nan => .exact .nan
  | .inf _ => .exact .nan
  | .fin n m e => if m = 0 then .exact (.fin false 1 0) else trigApprox 1 n m e

/-- tanh x (R122), as (1 - t) / (1 + t) with t = exp(-2|x|). -/
def tanhApprox : Ext → Approx
  | .nan => .exact .nan
  | .inf n => .exact (.fin n 1 0)
  | .fin n m e =>
    if m = 0 then .exact (.fin n 0 0)
    else if 6 ≤ e + Nat.log2 m then .above n (2 ^ fixP - 1) (-fixP)
    else
      let y : Int := 2 * toFix false m e
      let k := (y / (ln2Fix : Nat)).toNat + 1
      let f := k * (ln2Fix : Nat) - y
      let t := expFix f / (2 ^ k : Nat)
      let one : Int := (2 ^ fixP : Nat)
      .above n ((one - t) * one / (one + t)).toNat (-fixP)

/-- LOG2E of R80. -/
def expLog2e : Word := 0x3FB8AA3B
/-- H1 of R80, round_rn_f32(ln 2). -/
def expH1 : Word := 0x3F317218
/-- H2 of R80, round_rn_f32((ln 2)^2 / 2). -/
def expH2 : Word := 0x3E75FDF0
/-- H3 of R80, round_rn_f32((ln 2)^3 / 6). -/
def expH3 : Word := 0x3D635847
/-- TBL of R80: round_rn_f32(2^(j/64)) for j = 0 to 63. -/
def expTable : List Nat :=
  [0x3F800000, 0x3F8164D2, 0x3F82CD87, 0x3F843A29, 0x3F85AAC3, 0x3F871F62, 0x3F88980F, 0x3F8A14D5,
   0x3F8B95C2, 0x3F8D1ADF, 0x3F8EA43A, 0x3F9031DC, 0x3F91C3D3, 0x3F935A2B, 0x3F94F4F0, 0x3F96942D,
   0x3F9837F0, 0x3F99E046, 0x3F9B8D3A, 0x3F9D3EDA, 0x3F9EF532, 0x3FA0B051, 0x3FA27043, 0x3FA43516,
   0x3FA5FED7, 0x3FA7CD94, 0x3FA9A15B, 0x3FAB7A3A, 0x3FAD583F, 0x3FAF3B79, 0x3FB123F6, 0x3FB311C4,
   0x3FB504F3, 0x3FB6FD92, 0x3FB8FBAF, 0x3FBAFF5B, 0x3FBD08A4, 0x3FBF179A, 0x3FC12C4D, 0x3FC346CD,
   0x3FC5672A, 0x3FC78D75, 0x3FC9B9BE, 0x3FCBEC15, 0x3FCE248C, 0x3FD06334, 0x3FD2A81E, 0x3FD4F35B,
   0x3FD744FD, 0x3FD99D16, 0x3FDBFBB8, 0x3FDE60F5, 0x3FE0CCDF, 0x3FE33F89, 0x3FE5B907, 0x3FE8396A,
   0x3FEAC0C7, 0x3FED4F30, 0x3FEFE4BA, 0x3FF28177, 0x3FF5257D, 0x3FF7D0DF, 0x3FFA83B3, 0x3FFD3E0C]

/-- exp_sm of R80. -/
def expSm (t : Word) : Word :=
  match f32 t with
  | .nan => 0x7FC00000
  | x =>
    let u := rnF32 (mulExt x (f32 expLog2e))
    match f32 u with
    | .inf true => 0
    | .inf false => 0x7F800000
    | .nan => 0x7FC00000
    | .fin n m e =>
      if cmpExt (f32 u) (.fin true 160 0) < 0 then 0
      else if 0 ≤ cmpExt (f32 u) (.fin false 128 0) then 0x7F800000
      else
        -- u at a scale of 2^-200, which holds every F32 below 2^128
        let v := signedAt n m e (-200)
        let one : Int := (2 ^ 200 : Nat)
        let k := v / one
        let f := v % one
        let j := (f * 64 / one).toNat
        -- g is exact; only the three sums round
        let g : Ext := ofSigned false (f - j * (2 ^ 194 : Nat)) (-200)
        let horner (a c : Word) : Word := rnF32 (fmaExt .rn g (f32 a) (f32 c))
        let p := horner (horner (horner expH3 expH2) expH1) 0x3F800000
        let y := fmulRn (BitVec.ofNat 32 (expTable.getD j 0)) p
        rnF32 (scaleExt (f32 y) k)

end Sys2Proof.Machine
end

