-- ==== Sys2Proof/Machine/MoveArith.lean ====
section
/-! DEFINITION. Conversion, selection and move, class 0x3 (R114 to R120), and the transcendental instructions, class 0x4
(R121 to R123). -/

namespace Sys2Proof.Machine

/-- `mov` (R115). -/
def execMov (_m : LaneMod) (o : Fields) (s : State) : Out := lane1 s o fun x => x

/-- `cvt` (R118): the source format is `sub`[3:0] by its code. -/
def cvtOp (G F : Fmt) (r : Rnd) (sat : Bool) (x : Word) : Word := widen F (convElem G F r sat x.toNat)

/-- A format by its code; a code that names none does not reach here (R118). -/
def fmtByCode : Nat → Fmt
  | 0 => .f32 | 1 => .f16 | 2 => .bf16 | 3 => .f8a | 4 => .f8b | 5 => .i32 | 6 => .i16 | 7 => .i12 | 8 => .i8 | 9 => .u8
  | 10 => .i4 | 11 => .rns34 | _ => .u32

def execCvt (m : LaneMod) (o : Fields) (s : State) : Out :=
  lane1 s o (cvtOp (fmtByCode (m.sub.toNat % 16)) m.fmt m.rnd m.sat)

/-- `sel` (R115). -/
def execSel (_m : LaneMod) (o : Fields) (s : State) : Out := lane3 s o fun x y z => if z ≠ 0 then x else y

/-- `plog` (R116): the bit of the table that the three source bits select. -/
def execPlog (_m : LaneMod) (o : Fields) (s : State) : Out :=
  lane3 s o fun x y z => truth (o.imm.getLsbD (4 * x.toNat + 2 * y.toNat + z.toNat))

/-- `rdl` (R116): bit l of the 64-bit source in lane l. -/
def execRdl (_m : LaneMod) (o : Fields) (s : State) : Out :=
  laneStep s o fun l => truth ((val64 s o.imm o.a l).getLsbD l)

/-- `amov` (R117): by its form, an address register from a 64-bit source or from a pair of scalars, or a pair of scalars
from an address register. -/
def execAmov (m : LaneMod) (o : Fields) (s : State) : Out :=
  if m.sub = 2 then
    match o.d with
    | .s n =>
      let x := val64 s o.imm o.a 0
      if s.cur.acts o.guard then
        .next (s.modCur fun g => (g.writeS n.val (x.setWidth 32)).writeS (n.val + 1) ((x >>> 32).setWidth 32)).advance
      else .next s.advance
    | _ => .next s.advance
  else if m.sub = 1 then
    match o.a with
    | .s k => .next (writeAddr s o ((s.cur.readS (k.val + 1)).setWidth 64 <<< 32 ||| (s.cur.readS k.val).setWidth 64)).advance
    | _ => .next s.advance
  else .next (writeAddr s o (val64 s o.imm o.a 0)).advance

/-- The width of an element in its container, in bits (R58, R63). -/
def elemBits (F : Fmt) : Nat := fmtBits F

/-- Elements 2N and 2N+1 of a word replaced (R119). -/
def placePair (F : Fmt) (n : Nat) (old : Word) (x y : Nat) : Word :=
  let w := elemBits F
  let m := (2 ^ (2 * w) - 1) * 2 ^ (2 * w * n)
  (old &&& ~~~BitVec.ofNat 32 m) ||| BitVec.ofNat 32 ((x % 2 ^ w + y % 2 ^ w * 2 ^ w) * 2 ^ (2 * w * n))

/-- The 32-bit format that `pack` reads and `unpack` writes for a narrow one (R119, R120). -/
def wideOf (F : Fmt) : Fmt := if (floatFmt F).isSome then .f32 else .i32

/-- An element in its container: an `I12` is sign-extended over 16 bits (R63). -/
def contain (F : Fmt) (x : Nat) : Nat := if (floatFmt F).isSome then x else wrap (intVal F x) (elemBits F)

def packOp (m : LaneMod) (old x y : Word) : Word :=
  let c (v : Word) : Nat := contain m.fmt (convElem (wideOf m.fmt) m.fmt m.rnd m.sat v.toNat)
  placePair m.fmt m.sub.toNat old (c x) (c y)

/-- `pack` (R119): the other elements of the destination are kept. -/
def execPack (m : LaneMod) (o : Fields) (s : State) : Out :=
  laneStep s o fun l => packOp m (val s o.imm o.d l) (val s o.imm o.a l) (val s o.imm o.b l)

def unpackOp (m : LaneMod) (x : Word) : Word :=
  let w := elemBits m.fmt
  widen (wideOf m.fmt) (convElem m.fmt (wideOf m.fmt) .rn false (x.toNat / 2 ^ (w * m.sub.toNat) % 2 ^ w))

/-- `unpack` (R120). -/
def execUnpack (m : LaneMod) (o : Fields) (s : State) : Out := lane1 s o (unpackOp m)

/-- A transcendental function rounded once under the modifier (R122). -/
def transcOp (m : LaneMod) (f : Ext → Approx) (x : Word) : Word := roundApprox m.rnd m.sat (f (f32 x))

/-- `rcp` (R122). -/
def execRcp (m : LaneMod) (o : Fields) (s : State) : Out := lane1 s o (transcOp m rcpApprox)
/-- `rsqrt` (R122). -/
def execRsqrt (m : LaneMod) (o : Fields) (s : State) : Out := lane1 s o (transcOp m rsqrtApprox)
/-- `sqrt` (R122). -/
def execSqrt (m : LaneMod) (o : Fields) (s : State) : Out := lane1 s o (transcOp m sqrtApprox)
/-- `ex2` (R122). -/
def execEx2 (m : LaneMod) (o : Fields) (s : State) : Out := lane1 s o (transcOp m ex2Approx)
/-- `lg2` (R122). -/
def execLg2 (m : LaneMod) (o : Fields) (s : State) : Out := lane1 s o (transcOp m lg2Approx)
/-- `sin` (R122). -/
def execSin (m : LaneMod) (o : Fields) (s : State) : Out := lane1 s o (transcOp m sinApprox)
/-- `cos` (R122). -/
def execCos (m : LaneMod) (o : Fields) (s : State) : Out := lane1 s o (transcOp m cosApprox)
/-- `tanh` (R122). -/
def execTanh (m : LaneMod) (o : Fields) (s : State) : Out := lane1 s o (transcOp m tanhApprox)
/-- `exsm` (R123). -/
def execExsm (_m : LaneMod) (o : Fields) (s : State) : Out := lane1 s o expSm
/-- `fdiv` (R122). -/
def execFdiv (m : LaneMod) (o : Fields) (s : State) : Out :=
  lane2 s o fun x y => roundApprox m.rnd m.sat (fdivApprox (f32 x) (f32 y))

end Sys2Proof.Machine
end

