-- ==== Sys2Proof/Machine/CrossLane.lean ====
section
/-! DEFINITION. Cross-lane instructions, class 0x5 (R140 to R152). -/

namespace Sys2Proof.Machine

/-- A source read from lane j: zero where j has exited, else its value or its register as last written (R143). -/
def crossSrc (s : State) (o : Fields) (j : Nat) : Word := if s.cur.exited.getLsbD j then 0 else val s o.imm o.a j

/-- The member lanes of a mask operand; zero stands for every lane that has not exited (R141). -/
def members (s : State) (o : Fields) (x : Opnd) : LaneMask :=
  let m := val64 s o.imm x 0
  if m = 0 then s.cur.present else m

/-- The stale predicate of `vote` and `shfl`, where one is named (R140), in the lanes that take effect as they stood before
the destination was written (R97). -/
def writeStale (m : CrossMod) (eff x : LaneMask) (s : State) : State :=
  if m.st = 0 then s else s.modCur fun g => g.writeP (m.st.toNat - 8) eff x

/-- `vote` (R144). -/
def execVote (m : CrossMod) (o : Fields) (s : State) : Out :=
  let N := members s o o.b
  let eff := s.cur.effect o.guard
  let t := eff &&& laneSet fun j => val s o.imm o.a j ≠ 0
  let stale : LaneMask := if N &&& ~~~s.cur.live = 0 then 0 else BitVec.allOnes 64
  let r : DWord := match m.fn.toNat with
    | 0 => if N &&& ~~~t = 0 then 1 else 0
    | 1 => if N &&& t = 0 then 0 else 1
    | 2 => N &&& t
    | _ => BitVec.ofNat 64 (countOnes 64 (N &&& t).toNat)
  let s := match o.d with
    | .a _ => writeAddr s o r
    | _ => writeResult s o fun _ => r.setWidth 32
  .next (writeStale m eff stale s).advance

/-- The source lane of `shfl` for lane l (R145). -/
def shflLane (m : CrossMod) (x l : Nat) (mask : DWord) : Nat :=
  let x := if m.w then 64 / 2 ^ min x 7 else x
  let j := match m.fn.toNat with
    | 0 => x % 64
    | 1 => if l < x then l else l - x
    | 2 => if 64 ≤ l + x then l else l + x
    | _ => (l ^^^ x) % 64
  if mask ≠ 0 ∧ ¬ mask.getLsbD j then l else j

/-- `shfl` (R145). -/
def execShfl (m : CrossMod) (o : Fields) (s : State) : Out :=
  let mask := val64 s o.imm o.c 0
  let j (l : Nat) : Nat := shflLane m (val s o.imm o.b l).toNat l mask
  let stale := laneSet fun l => !s.cur.live.getLsbD (j l)
  .next (writeStale m (s.cur.effect o.guard) stale (writeResult s o fun l => crossSrc s o (j l))).advance

/-- The operation of a reduction and its neutral element (R146). -/
def lredOp (m : CrossMod) : (Word → Word → Word) × Word :=
  match m.fmt, m.fn.toNat with
  | .f32, 0 => (faddRn, 0x80000000)
  | .f32, 1 => (fminOp, 0x7F800000)
  | .f32, _ => (fmaxOp, 0xFF800000)
  | _, 0 => (fun x y => x + y, 0)
  | .i32, 1 => (minOp .i32, 0x7FFFFFFF)
  | .i32, 2 => (maxOp .i32, 0x80000000)
  | _, 1 => (minOp .u32, 0xFFFFFFFF)
  | _, 2 => (maxOp .u32, 0)
  | _, 3 => (fun x y => x &&& y, 0xFFFFFFFF)
  | _, 4 => (fun x y => x ||| y, 0)
  | _, _ => (fun x y => x ^^^ y, 0)

/-- One level of the tree: neighbours combined (R146). -/
def pairUp (f : Word → Word → Word) : List Word → List Word
  | a :: b :: t => f a b :: pairUp f t
  | l => l

/-- The fixed tree of 2^n positions (R146). -/
def treeReduce (f : Word → Word → Word) : Nat → List Word → Word
  | 0, l => l.headD 0
  | n + 1, l => treeReduce f n (pairUp f l)

/-- `lred` (R146). -/
def execLred (m : CrossMod) (o : Fields) (s : State) : Out :=
  let (f, neutral) := lredOp m
  let e := s.cur.effect o.guard
  let r := treeReduce f 6 ((List.range 64).map fun i => if e.getLsbD i then val s o.imm o.a i else neutral)
  .next (writeResult s o fun _ => r).advance

/-- The partner of lane l in its quad (R147); the lane reads `b` for itself (log 22). -/
def quadPartner (s : State) (m : CrossMod) (o : Fields) (l : Nat) : Nat :=
  match m.fn.toNat with
  | 0 => l ^^^ 1 | 1 => l ^^^ 2 | 2 => l ^^^ 3 | _ => l / 4 * 4 + (val s o.imm o.b l).toNat % 4

/-- `qx` (R147). -/
def execQx (m : CrossMod) (o : Fields) (s : State) : Out :=
  laneStep s o fun l => val s o.imm o.a (quadPartner s m o l)

/-- The eleven scalars of a permutation setting (R149). -/
def pmBits (g : Group) (k : Nat) : BitVec 352 :=
  BitVec.ofNat 352 ((List.range 11).foldr (fun i x => (g.readS (k + i)).toNat + 2 ^ 32 * x) 0)

/-- `pset` (R149): the register is valid again four cycles after the issue. -/
def execPset (m : CrossMod) (o : Fields) (s : State) : Out :=
  match o.a with
  | .s k =>
    let n := m.st.toNat % 8
    if s.cur.acts o.guard then
      .next (s.modCur fun g =>
        { g with pm := sset 0 g.pm n (pmBits g k.val), pmReady := sput g.pmReady n (some (s.now + 4)) }).advance
    else .next s.advance
  | _ => .next s.advance

/-- The distance of a stage of the network (R150). -/
def stageDist (st : Nat) : Nat := if st ≤ 5 then 2 ^ (5 - st) else 2 ^ (st - 5)

/-- The position that feeds position p through a stage (R150): its neighbour where the switch is crossed. -/
def stageSource (pm : BitVec 352) (st p : Nat) : Nat :=
  let d := stageDist st
  let lo := p / (2 * d) * d + p % d
  if pm.getLsbD (32 * st + lo) then p ^^^ d else p

/-- The source lane whose value leaves the network in position p (R150). -/
def permSource (pm : BitVec 352) (p : Nat) : Nat :=
  (List.range 11).reverse.foldl (fun p st => stageSource pm st p) p

/-- `perm` (R151): an exited lane that is not a helper carries zero. -/
def execPerm (m : CrossMod) (o : Fields) (s : State) : Out :=
  let pm := s.cur.readPm (m.st.toNat % 8)
  let src (j : Nat) : Word :=
    if s.cur.exited.getLsbD j && !s.cur.helpers.getLsbD j then 0 else val s o.imm o.a j
  laneStep s o fun l => src (permSource pm l)

/-- `bcast` (R148). -/
def execBcast (_m : CrossMod) (o : Fields) (s : State) : Out :=
  let v := crossSrc s o ((val s o.imm o.b 0).toNat % 64)
  laneStep s o fun _ => v

end Sys2Proof.Machine
end

