-- ==== Sys2Proof/Machine/Issue.lean ====
section
/-! DEFINITION. Issuing a long-latency operation (R21, R23, R24, R254) and the checks of segment offsets (R153, R154). -/

namespace Sys2Proof.Machine

/-- The key of a core's queue (R175) in the table of sequence numbers. -/
def queueKey (core queue : Nat) : Nat := core * 8 + queue

/-- The queue number of an access of the group itself, which enters no queue. -/
def noQueue : Nat := 6

/-- An operation of the issuing group, as it stands when it issues. -/
def newOp (s : State) (o : Fields) (opc queue : Nat) (dests : List RegRef) (w : Work) : Op :=
  let g := s.cur
  { gid := g.gid, ctx := g.ctx, core := g.coreNo, grid := g.grid, team := g.gngx * g.tpg + g.tign, place := g.place,
    opc := opc, queue := queue, pc := g.pc, seq := sget 0 s.seqs (queueKey g.coreNo queue), flags := flagsOf g.line o.fs,
    dests := dests, phase := .queued, progress := 0, grant := 0, replayed := false, xl := [], work := w, status := 0,
    faddr := 0, lmask := 0, done := 0, result := 0, outs := [], deferred := [], mates := [], upcalled := [], refused := [],
    handler := g.busy, since := s.now, replica := false, census := [], lead := 0 }

/-- The operation issues: it takes the next number of its queue, its flags are raised and its destinations become
pending (R21, R24). -/
def State.addOp (s : State) (op : Op) : State :=
  let k := queueKey op.core op.queue
  let s := s.modGroup op.gid fun g => g.raise op.flags
  { s with ops := sput s.ops s.nextId op, nextId := s.nextId + 1,
           seqs := if op.queue = noQueue then s.seqs else sput s.seqs k (sget 0 s.seqs k + 1) }

def State.issueOp (s : State) (o : Fields) (opc queue : Nat) (dests : List RegRef) (w : Work) : State :=
  s.addOp (newOp s o opc queue dests w)

/-- A segment register of the group (R47). -/
def Group.seg (g : Group) : Space → Seg
  | .k => g.sgk | .s => g.sgs | .y => g.sgy | .g => ⟨0, 0⟩

/-- The space's code in a fault entry (R245). -/
def spaceNo : Space → Nat
  | .k => 0 | .s => 1 | .y => 2 | .g => 3

/-- Checks 1 and 2 of R153 for n bytes at an offset: the trap code, or none. -/
def segCheck (g : Group) (sp : Space) (off n align : Nat) : Option Nat :=
  let lim := if sp = .k then (g.seg sp).limit - 1024 else (g.seg sp).limit
  if lim < off + n then some 5 else if off % align ≠ 0 then some 6 else none

/-- Where the bytes of an access lie: a physical address with its attribute, or a place in the core's or die's memory. -/
structure Place where
  pa : Nat
  attr : Nat
  deriving DecidableEq, Repr

/-- A failing check: its trap code and cause (R153). -/
abbrev Bad := Nat × Nat

/-- The `PAGE_ERR` cause of a fault on a code page or a `.k` page (R354, log 24). -/
def pageCause : TrFault → Nat
  | .poison => 3 | _ => 1

/-- The three checks of R153 for n bytes at an offset. -/
def State.segPlace (s : State) (sp : Space) (acc : Acc) (off n align : Nat) : Except Bad Place × State :=
  match segCheck s.cur sp off n align with
  | some c => (.error (c, 0), s)
  | none =>
    let at_ := (s.cur.seg sp).base + off
    if sp = .k then
      if !canonical at_ then (.error (12, 1), s)
      else match s.translate (some s.cur.coreNo) s.cur.ctx at_ acc with
        | (.ok pa attr _ _, s) => (.ok ⟨pa, attr⟩, s)
        | (.fault f, s) => (.error (12, pageCause f), s)
    else (.ok ⟨at_, 0⟩, s)

/-- Bytes at a place of a segment space. -/
def State.readPlace (s : State) (sp : Space) (p : Place) (n : Nat) : Got × State :=
  if sp = .k then s.readPa s.cur.agent p.attr p.pa n
  else (s.readLocal sp (spaceUnit sp s.cur.coreNo) p.pa n, s)

/-- Bytes stored at a place of a segment space. -/
def State.writePlace (s : State) (sp : Space) (p : Place) (b : Bytes) : State :=
  if sp = .k then s.writePa s.cur.agent p.attr p.pa b
  else s.writeLocal sp (spaceUnit sp s.cur.coreNo) p.pa b

/-- The places of a lane's words, or the first that fails with its offset: the words are checked one after another, so that the
alignment of a lower word counts before the limit of a higher one (log 85). -/
def wordPlaces (sp : Space) (acc : Acc) (n align : Nat) : List Nat → State → Except (Nat × Bad) (List Place) × State
  | [], s => (.ok [], s)
  | off :: t, s =>
    match s.segPlace sp acc off n align with
    | (.error e, s) => (.error (off, e), s)
    | (.ok p, s) =>
      match wordPlaces sp acc n align t s with
      | (.ok ps, s) => (.ok (p :: ps), s)
      | r => r

/-- A lane of an access with the offsets of its words. -/
abbrev LaneWords := Nat × List Nat

/-- The lanes that pass the checks with their places, and the faults of the others (R153, R154). -/
def checkLanes (sp : Space) (acc : Acc) (n align size kind : Nat) :
    List LaneWords → State → List (Nat × List Nat × List Place) × List LaneFault × State
  | [], s => ([], [], s)
  | (l, offs) :: t, s =>
    match wordPlaces sp acc n align offs s with
    | (.ok ps, s) =>
      let (ok, bad, s) := checkLanes sp acc n align size kind t s
      ((l, offs, ps) :: ok, bad, s)
    | (.error (off, e), s) =>
      let (ok, bad, s) := checkLanes sp acc n align size kind t s
      (ok, ⟨l, off, e.1, e.2, spaceNo sp, size, kind⟩ :: bad, s)

/-- The trap of an instruction that failed in some lanes: the first cause in the order of R153 (R154). -/
def State.laneTrap (s : State) (bad : List LaneFault) : State :=
  let code := bad.foldl (fun c f => min c f.lcode) 13
  let cause := match bad.find? fun f => f.lcode = code with | some f => f.lcause | none => 0
  s.trap code cause bad

/-- After the lanes that pass are performed: the trap, where some lane failed, else the next point. -/
def State.finish (s : State) (bad : List LaneFault) : State := if bad.isEmpty then s.advance else s.laneTrap bad

/-- The lanes for which an instruction acts: each lane that takes effect, or one for a uniform form (R42). -/
def actLanes (g : Group) (o : Fields) (uniform : Bool) : List Nat :=
  let e := g.effect o.guard
  if uniform then (maskLanes e).take 1 else maskLanes e

/-- One entry of a queue, by its group, its lead and its number, stands in front of another: those of one group by their numbers,
and of two groups the one that came back to the head later (R249, R267, R348). -/
def inFront (g l k g' l' k' : Nat) : Bool := if g = g' then k < k' else l' < l || (l = l' && k < k')

/-- A `qfence` entry follows an operation, by its number. -/
def QFence.follows (f : QFence) (k : Nat) (op : Op) : Bool := inFront op.gid op.lead k f.gid f.lead f.id

/-- The `qfence` entries that still wait for something. -/
def State.liveFences (s : State) : List QFence :=
  s.qfences.filter fun f => s.ops.any fun e => e.2.core = f.core && e.2.queue < 6 && f.mask.testBit e.2.queue && f.follows e.1 e.2

/-- An access of the group itself whose effect on memory is still to come: an atomic that has not been performed, or a
wait or wake that has not reached its place (R261, log 12). -/
def Op.unperformed (op : Op) : Bool :=
  match op.work with
  | .atomic _ _ _ _ _ _ _ _ => op.phase = .queued || op.phase = .logged
  | .wait _ _ _ _ _ _ _ _ _ => op.phase = .queued || op.phase = .logged
  | .wake _ _ _ _ _ _ => op.phase = .queued || op.phase = .logged
  | _ => false

/-- An acquire that has not completed (R167, R168); one whose record is held back is over (R255). -/
def Op.acquiring (op : Op) : Bool :=
  op.phase ≠ .heldBack && match op.work with
    | .atomic _ _ _ _ ord _ _ _ => ord = .acq || ord = .ar
    | .wait _ _ _ ord _ _ _ _ _ => ord = .acq
    | _ => false

/-- Two spaces share their bytes: `.k` lies in the memory that `.g` names (R259). -/
def sharesBytes (a b : Space) : Bool := a = b || ((a = .k || a = .g) && (b = .k || b = .g))

/-- k bytes at a and n bytes at b may be the same. In the memory that pages map, two virtual addresses name one byte where
two pages map its frame: they then agree within their granule (R352, R355, log 14). -/
def mayMeet (paged : Bool) (a k b n : Nat) : Bool :=
  if paged then (b + 65536 - a % 65536) % 65536 < k || (a + 65536 - b % 65536) % 65536 < n
  else a < b + n && b < a + k

/-- An unperformed access may name the bytes of another of its group: its space, its places and its size. -/
def Op.names (op : Op) (sp : Space) (locs : List Nat) (n : Nat) : Bool :=
  let hit (a k : Nat) : Bool := locs.any fun b => mayMeet (sp = .g || sp = .k) a k b n
  match op.work with
  | .atomic sp' _ _ wide _ _ _ ls => sharesBytes sp sp' && ls.any fun l => hit l.loc (if wide then 8 else 4)
  | .wait sp' _ wide _ _ _ loc _ _ => sharesBytes sp sp' && hit loc (if wide then 8 else 4)
  | _ => false

/-- An access of the issuing group has to wait for an earlier one (R261, R263, log 14): an acquire is outstanding, the
access is a release, or the two may name the same bytes. -/
def State.mustWait (s : State) (sp : Space) (locs : List Nat) (n : Nat) (rel : Bool) : Bool :=
  (s.opsOf s.cur.gid).any fun e => e.2.acquiring || (e.2.unperformed && (rel || e.2.names sp locs n))

/-- The destination is uniform (R42). -/
def uniformDest : Opnd → Bool
  | .s _ => true | .a _ => true | .eta _ => true | _ => false

end Sys2Proof.Machine
end

