-- ==== Sys2Proof/Machine/LocalMem.lean ====
section
/-! DEFINITION. Local loads and stores, class 0x6 (R153 to R158). -/

namespace Sys2Proof.Machine

/-- The places that lanes name, as an unperformed access of the group would name them. -/
def laneLocs (g : Group) (sp : Space) (l : List LaneWords) : List Nat :=
  (l.map fun e => e.2.map fun off => (g.seg sp).base + off).flatten

/-- Words read in order; poison in any of them fails the lane (R462). -/
def readWords (sp : Space) (n : Nat) : List Place → State → List Nat × Bool × State
  | [], s => ([], false, s)
  | p :: t, s =>
    let (x, s) := s.readPlace sp p n
    let (xs, bad, s) := readWords sp n t s
    (ofLe x.bytes :: xs, x.psn || bad, s)

/-- Every passing lane read (R155, R462): the values by lane, and the lanes that met poison. -/
def readLanes (sp : Space) (n : Nat) : List (Nat × List Nat × List Place) → State →
    List (Nat × List Nat) × List LaneOp × State
  | [], s => ([], [], s)
  | (l, offs, ps) :: t, s =>
    let (xs, psn, s) := readWords sp n ps s
    let (vs, bad, s) := readLanes sp n t s
    if psn then (vs, ⟨l, offs.headD 0, 0, 0, 0⟩ :: bad, s) else ((l, xs) :: vs, bad, s)

/-- A load of class 0x6: the lanes that pass are read and become a pending operation (log 12); the others trap. -/
def loadOp (s : State) (o : Fields) (opc : Nat) (sp : Space) (n : Nat) (dests : List RegRef) (lanes : List LaneWords)
    (put : Nat → List Nat → List (RegRef × Nat × DWord)) : Out :=
  let (ok, bad, s) := checkLanes sp .read n n n 0 lanes s
  if s.mustWait sp (laneLocs s.cur sp lanes) n false then .next (s.hold .fence)
  else
    let (vals, psn, s) := readLanes sp n ok s
    let s := if ok.isEmpty then s
      else s.issueOp o opc noQueue dests (.load (spaceNo sp) n ((vals.map fun v => put v.1 v.2).flatten) psn)
    .next (s.finish bad)

/-- The offset of a lane (R157). -/
def laneOffset (s : State) (o : Fields) (l : Nat) : Nat := (val s o.imm o.a l + val s o.imm o.b l).toNat

/-- The bytes of an access (R156). -/
def widthBytes (w : BitVec 2) : Nat := 2 ^ w.toNat

/-- A loaded value extended to 32 bits (R157). -/
def extendLoad (m : LocalMod) (x : Nat) : DWord :=
  if m.sx then (BitVec.ofInt 32 (sext x (8 * widthBytes m.w))).setWidth 64 else BitVec.ofNat 64 x

/-- The registers that `ld` writes (R156). -/
def loadDests (m : LocalMod) (d : Opnd) : List RegRef :=
  match d with
  | .v n => if m.w = 3 then [.v n.val, .v (n.val + 1)] else [.v n.val]
  | .s n => [.s n.val]
  | .a n => [.a n.val]
  | _ => []

/-- Where the value of a lane goes (R157). -/
def loadPut (m : LocalMod) (d : Opnd) (l : Nat) (xs : List Nat) : List (RegRef × Nat × DWord) :=
  let x := xs.headD 0
  match d with
  | .v n =>
    if m.w = 3 then [(.v n.val, l, BitVec.ofNat 64 (x % 2 ^ 32)), (.v (n.val + 1), l, BitVec.ofNat 64 (x / 2 ^ 32))]
    else [(.v n.val, l, extendLoad m x)]
  | .s n => [(.s n.val, 0, extendLoad m x)]
  | .a n => [(.a n.val, 0, BitVec.ofNat 64 x)]
  | _ => []

/-- `ld` (R157). -/
def execLd (m : LocalMod) (o : Fields) (s : State) : Out :=
  let lanes := actLanes s.cur o (uniformDest o.d)
  if lanes.isEmpty then .next s.advance
  else loadOp s o 0x180 m.sp (widthBytes m.w) (loadDests m o.d) (lanes.map fun l => (l, [laneOffset s o l]))
    (loadPut m o.d)

/-- Words stored in order. -/
def writeWords (sp : Space) : List Place → List Bytes → State → State
  | p :: ps, b :: bs, s => writeWords sp ps bs (s.writePlace sp p b)
  | _, _, s => s

/-- A store of class 0x6: the lanes that pass are performed in ascending order; the others trap (R154, R155). -/
def storeOp (s : State) (sp : Space) (n : Nat) (lanes : List LaneWords) (data : Nat → List Bytes) : Out :=
  let (ok, bad, s) := checkLanes sp .write n n n 1 lanes s
  if s.mustWait sp (laneLocs s.cur sp lanes) n false then .next (s.hold .fence)
  else .next ((ok.foldl (fun s e => writeWords sp e.2.2 (data e.1) s) s).finish bad)

/-- `st` (R157). -/
def execSt (m : LocalMod) (o : Fields) (s : State) : Out :=
  let n := widthBytes m.w
  let lanes := maskLanes (s.cur.effect o.guard)
  storeOp s m.sp n (lanes.map fun l => (l, [laneOffset s o l]))
    fun l => [leBytes n (if m.w = 3 then valPair s o.imm o.c l else val64 s o.imm o.c l).toNat]

/-- The offsets of a lane's words in a run of registers (R158, log 22). -/
def blockWords (s : State) (m : LocalMod) (o : Fields) (l : Nat) : LaneWords :=
  (l, (List.range (m.cnt.toNat + 1)).map fun i => laneOffset s o l + 4 * (64 * i + l))

/-- `ldb` (R158). -/
def execLdb (m : LocalMod) (o : Fields) (s : State) : Out :=
  let lanes := maskLanes (s.cur.effect o.guard)
  match o.d with
  | .v n =>
    if lanes.isEmpty then .next s.advance
    else loadOp s o 0x182 m.sp 4 ((List.range (m.cnt.toNat + 1)).map fun i => .v (n.val + i))
      (lanes.map (blockWords s m o)) fun l xs => (xs.zipIdx).map fun e => (.v (n.val + e.2), l, BitVec.ofNat 64 e.1)
  | _ => .next s.advance

/-- Word i of a lane of `stb`: of the register run, or the constant that stands for its one register (R87, log 22). -/
def stbWord (s : State) (o : Fields) (l i : Nat) : Word :=
  match o.c with
  | .v n => s.cur.readV (n.val + i) l
  | x => val s o.imm x l

/-- `stb` (R158). -/
def execStb (m : LocalMod) (o : Fields) (s : State) : Out :=
  storeOp s m.sp 4 ((maskLanes (s.cur.effect o.guard)).map (blockWords s m o))
    fun l => (List.range (m.cnt.toNat + 1)).map fun i => leBytes 4 (stbWord s o l i).toNat

end Sys2Proof.Machine
end

