-- ==== Sys2Proof/Machine/Commands.lean ====
section
/-! DEFINITION. What all commands share: queues and fences (R175, R267), leave (R15, R344), trace records (R430), held
translations (R182, R248), and the completion record (R185, R254, R255). -/

namespace Sys2Proof.Machine

/-- A device step that cannot happen in this state (log 8). -/
def notNow : Out := .fault .notEnabled

/-! ### Trace records (R430) -/

/-- The engine of an operation in its trace records and the clock that it reads (R430): the attention engine that runs it,
else a core engine, which for matrix and correcting commands has the number of the slice. -/
def State.traceUnit (s : State) (id : Nat) (op : Op) : Nat × Nat :=
  match s.attn.engines.find? fun e => e.2.op = id with
  | some (k, _) => (k % 16, 256 + k)
  | none => (if op.queue = 3 then bits op.place 9 8 else 0, op.core)

/-- A record appended to a grid's trace buffer (R430); one that does not fit or faults is counted as dropped. -/
def State.traceRec (s : State) (grid : Nat) (rec : Bytes) : State :=
  match s.gridOf grid with
  | none => s
  | some gr =>
    let drop (s : State) : State := s.modGrid grid fun g => { g with tdrop := g.tdrop + 1 }
    if gr.tlen = 0 then s
    else if gr.tlen < gr.tused + 32 then drop s
    else
      match s.writeVa (outside gr.ctx) (gr.tbuf + gr.tused) rec with
      | (.ok _, s) => s.modGrid grid fun g => { g with tused := g.tused + 32 }
      | (.fault _ _, s) => drop s

/-- The bytes of a trace record (R430). -/
def traceBytes (kind opc queue core eng : Nat) (seq : Nat) (clock : DWord) (place aux : Nat) : Bytes :=
  leBytes 2 kind ++ leBytes 2 opc ++ leBytes 1 queue ++ leBytes 1 (dieOfCore core)
    ++ leBytes 1 (core % Config.coresPerDie) ++ leBytes 1 eng ++ leBytes 8 seq ++ leBytes 8 clock.toNat
    ++ leBytes 2 (place % 16384) ++ leBytes 2 0 ++ leBytes 4 aux

/-- A trace record of a command (R430): 1 start, 2 split, 3 resume, 4 leave granted, 5 end. -/
def State.trace (s : State) (id kind aux : Nat) : State :=
  match sfind s.ops id with
  | none => s
  | some op =>
    let (eng, clk) := s.traceUnit id op
    s.traceRec op.grid (traceBytes kind op.opc op.queue op.core eng op.seq (s.cycle clk) op.place aux)

/-- A command with the others of its quartet (R291). -/
def State.command (s : State) (id : Nat) : List Nat :=
  match sfind s.ops id with | some op => id :: op.mates | none => []

/-- A trace record of every operation of a command (R430). -/
def State.traceAll (s : State) (id kind aux : Nat) : State := (s.command id).foldl (fun s i => s.trace i kind aux) s

/-! ### Queues -/

/-- An operation that runs does not hold back later ones of its queue once its unit has it (R211, R302). -/
def Work.detached : Work → Bool
  | .attn _ _ _ => true
  | .sweep fn _ _ => fn == 1
  | .shedj _ _ _ => true
  | .cbw _ _ _ => true
  | _ => false

/-- The tiles that an operation accesses until its work is over (R284). -/
def Work.tiles : Work → List Nat
  | .mma w => [w.tile]
  | .mrd _ t _ _ _ _ _ => t.toList
  | .mwr _ t _ _ => [t]
  | .cor w => w.tile.toList ++ w.build.toList
  | _ => []

/-- An operation of the group still accesses the tile (R284). -/
def State.tileBusy (s : State) (gid key : Nat) : Bool :=
  s.ops.any fun e => e.2.gid = gid && e.2.phase ≠ .ended && e.2.phase ≠ .heldBack && e.2.work.tiles.contains key

/-- Two operations of the matrix queue access one tile (R287). -/
def Op.sharesTile (e later : Op) : Bool := e.gid == later.gid && e.work.tiles.any later.work.tiles.contains

/-- A later `mma` on the tile name of an `mrd` or `mwr` starts once that has completed (R196). -/
def Op.interlocks (e later : Op) : Bool :=
  e.gid == later.gid && match e.work, later.work with
    | .mrd name _ _ _ _ _ _, .mma w => name == w.name
    | .mwr name _ _ _, .mma w => name == w.name
    | _, _ => false

/-- An earlier operation of the queue holds back a later one (R249, R267, R287); an `attn` that asks for its leave has
been handed over, and a key-value command runs to its completion (R302). -/
def Op.holdsBack (e later : Op) : Bool :=
  match e.phase with
  | .queued => true
  | .leave => match e.work with | .attn _ _ _ => false | _ => true
  | .running => if e.queue = 3 then e.sharesTile later || e.interlocks later else !e.work.detached
  | .logged => e.gid == later.gid
  | .saved => false
  | .ended => e.interlocks later || match e.work with | .kv _ _ _ _ _ => true | _ => false
  | .heldBack => false

/-- An operation, by its number, is ahead of another one of its queue: one that has started is, and otherwise the order of entry
counts, in which those that have come back to the head stand first (R249, R267, R348). -/
def Op.ahead (k : Nat) (e : Op) (id : Nat) (op : Op) : Bool :=
  k != id && ((e.phase != .queued && e.phase != .logged) || inFront e.gid e.lead k op.gid op.lead id)

/-- No operation ahead of it in its queue holds the operation back. -/
def State.atHead (s : State) (id : Nat) (op : Op) : Bool :=
  s.ops.all fun e => !(e.2.ahead e.1 id op && e.2.core = op.core && e.2.queue = op.queue && e.2.holdsBack op)

/-- No `qfence` entry holds the operation back (R175): everything that entered a named queue before the entry is over. A command
that a pre-emption has saved has left its queue, and no entry waits for it while it is off (log 40). -/
def State.pastFences (s : State) (id : Nat) (op : Op) : Bool :=
  s.qfences.all fun f =>
    !(f.core = op.core && f.mask.testBit op.queue && !f.follows id op)
      || s.ops.all fun e =>
        !(f.follows e.1 e.2 && e.2.core = f.core && e.2.queue < 6 && f.mask.testBit e.2.queue && e.2.phase ≠ .saved)

/-- The queue-stop register of the core stops the operation (R438). -/
def State.queueStopped (s : State) (op : Op) : Bool :=
  let r := sget 0 s.dbg.qstop op.core
  (bits r 5 0).testBit op.queue && (bits r 16 16 == 0 || bits r 15 6 == op.opc)

/-- The slice of a matrix command has room for it (R287): two at once. -/
def State.sliceRoom (s : State) (op : Op) : Bool :=
  op.queue ≠ 3 || (s.ops.filter fun e => e.2.core = op.core && e.2.queue = 3 && e.2.phase = .running
    && bits e.2.place 9 8 = bits op.place 9 8).length < 2

/-- The command has run before: it was split, or it faulted on its engine and is replayed (R189, R249). -/
def Op.begun (op : Op) : Bool :=
  0 < op.progress || (op.replayed && match op.work with
    | .coll _ d _ => !d.isEmpty
    | .kv _ _ _ _ _ => false
    | _ => true)

/-- The queue-stop register keeps the command from starting (R438): one that has started goes on. -/
def State.stopsAt (s : State) (id : Nat) (op : Op) : Bool :=
  s.queueStopped op && !op.begun && (sfind s.attn.saved id).isNone

/-- The operation may start on its engine (R267). -/
def State.canStart (s : State) (id : Nat) (op : Op) : Bool :=
  op.phase = .queued && s.atHead id op && s.pastFences id op && !s.stopsAt id op

/-- The head command of a queue of a core, by its number. -/
def State.queueHead? (s : State) (core queue : Nat) : Option (Nat × Op) :=
  let l := s.ops.filter fun e => e.2.core = core && e.2.queue = queue && e.2.phase = .queued
  l.find? fun e => l.all fun x => !x.2.ahead x.1 e.1 e.2

/-- The code of the event that reports a stopped queue (R438). -/
def portQueue : Nat := 8

/-- The port reports a stopped queue with the `seq` of its head, once for each head that it stops (R438). -/
def State.tellQueue (s : State) (core q : Nat) : State :=
  match s.queueHead? core q with
  | some (id, op) =>
    if s.stopsAt id op && !s.dbg.told.contains (core, q, op.seq) then
      { s with dbg := { s.dbg with told := (core, q, op.seq) :: s.dbg.told } }.emit (.port portQueue [core, q, op.seq])
    else s
  | none => s

/-- Every queue of every core with a queue-stop register set is looked at (R438). -/
def State.tellQueues (s : State) : State :=
  s.dbg.qstop.foldl (fun s e => if bits e.2 5 0 = 0 then s else (List.range 6).foldl (fun s q => s.tellQueue e.1 q) s) s

/-! ### Leave (R15, R188, R344) -/

/-- Core cycles of 2 µs at 3.6 GHz (R14, R344). -/
def leavePatience : Nat := 7200

/-- The cycle of the request of a command or of a Shed job. -/
def State.askedAt (s : State) (id : Nat) : Option Nat :=
  match sfind s.ops id with
  | some op => some op.since
  | none => (s.shed.jobs.find? fun e => e.2.id = id).map fun e => e.2.since

/-- The leave that a command requests (R15, R188): a copy of 1 MiB or more, and a `coll` whose descriptor has been read,
among them. -/
def Op.leave (op : Op) : Nat :=
  match op.work with
  | .mma w => if op.opc = 0x281 then (if w.residue then 2916 else 2708) else (if w.residue then 729 else 677)
  | .cor _ => if op.opc = 0x2C1 then 2708 else 677
  | .gram _ _ _ _ => 677
  | .trsv _ _ _ _ _ _ => 677
  | .copy _ _ _ _ _ n _ => if 2 ^ 20 ≤ n then 243 else 0
  | .fill _ _ _ _ n _ => if 2 ^ 20 ≤ n then 243 else 0
  | .coll _ d _ => if 2 ^ 20 ≤ fieldAt d 24 8 * (if fieldAt d 6 2 = 2 then 2 else 4) then 243 else 0
  | .attn _ _ _ => 4687
  | _ => 0

/-- The leave that a waiting request asks for (R188, R395). -/
def State.asks (s : State) (id : Nat) : Nat :=
  match sfind s.ops id with
  | some op => op.leave
  | none => if s.shed.jobs.any fun e => e.2.id = id then 937 else 0

/-- The power manager grants the request now (R344): all requests of its cycle have been made (log 70), it fits, no older
request fits, and none has waited 2 µs or more. -/
def State.canGrant (s : State) (id amount : Nat) : Bool :=
  (amount : Int) ≤ s.leave.free
    && (match s.askedAt id with | some t => t < s.now | none => false)
    && ((s.leave.waiting.takeWhile (· ≠ id)).all fun h => s.leave.free < (s.asks h : Int))
    && match s.leave.waiting.head? with
      | none => true
      | some h => h = id || (match s.askedAt h with | some t => s.now < t + leavePatience | none => true)

/-- A grant taken from the pool. -/
def State.takeLeave (s : State) (id amount : Nat) : State :=
  let s := { s with leave := { s.leave with free := s.leave.free - amount, waiting := s.leave.waiting.filter (· ≠ id) } }
  s.modOp id fun op => { op with grant := amount }

/-- A grant returned to the pool (R15, R344). -/
def State.returnLeave (s : State) (id : Nat) : State :=
  match sfind s.ops id with
  | none => s
  | some op =>
    let s := { s with leave := { s.leave with free := s.leave.free + op.grant, waiting := s.leave.waiting.filter (· ≠ id) } }
    s.modOp id fun op => { op with grant := 0 }

/-- The place of a request among those of its cycle (R344): die, core and engine number; a Shed core comes after the cores
of its die (log 70). -/
def State.leaveRank (s : State) (id : Nat) : Nat :=
  match sfind s.ops id, s.shed.jobs.find? fun e => e.2.id = id with
  | some op, _ => dieOfCore op.core * 2 ^ 20 + op.core * 2 ^ 9 + (s.traceUnit id op).1
  | none, some (key, _) => key / 24 * 2 ^ 20 + (Config.cores + key) * 2 ^ 9
  | none, none => 0

/-- A request enters the power manager's list (R344): after those of earlier cycles, and by its rank in its own. -/
def State.queueLeave (s : State) (id : Nat) : State :=
  let before (h : Nat) : Bool := s.askedAt h != some s.now || s.leaveRank h ≤ s.leaveRank id
  let l := s.leave.waiting
  { s with leave := { s.leave with waiting := l.takeWhile before ++ id :: l.dropWhile before } }

/-- A command waits for its leave (R344). -/
def State.waitLeave (s : State) (id : Nat) : State :=
  (s.modOp id fun op => { op with phase := .leave, since := s.now }).queueLeave id

/-! ### Translations that an operation holds -/

/-- What an access of an operation gives: bytes; a page that a pager has to supply; a failure with its status and
address; or no answer while the stack is in self-refresh. -/
inductive OpRes
  | ok (x : Got) | miss (va pgr : Nat) | fail (status va : Nat) (replica : Bool)
  deriving DecidableEq, Repr

/-- The status of a fault that no pager can mend (R354). -/
def faultStatus : TrFault → Nat
  | .poison => 2 | _ => 1

/-- The fault of a granule whose page a pager refused: status 1, or 2 where it was poisoned (R361). -/
def refusal (l : List (Nat × Nat)) (va : Nat) : Option TrFault :=
  (l.find? fun e => e.1 = va / 65536).map fun e => if e.2 = 2 then .poison else .permission

/-- A translation of an operation: the one that it holds, the refusal of its page (R361), or a new one, which it then
holds (R182, R357). -/
def State.opTranslate (s : State) (id va : Nat) (acc : Acc) : Tr × State :=
  match sfind s.ops id with
  | none => (.fault (.notPresent 0), s)
  | some op =>
    let fits (x : Xl) : Bool := x.granule = va / 65536 && match acc with | .read => x.r | .write => x.w | _ => x.r && x.w
    match op.xl.find? fits with
    | some x => (.ok (x.pa + va % 65536) x.attr x.r x.w, s)
    | none =>
      match refusal op.refused va, s.translate (some op.core) op.ctx va acc with
      | some f, _ => (.fault f, s)
      | none, (.ok pa attr r w, s) =>
        (.ok pa attr r w, s.modOp id fun op => { op with xl := ⟨va / 65536, pa - va % 65536, attr, r, w⟩ :: op.xl })
      | none, r => r

/-- Numbers in ascending order, each once. -/
def ascending (l : List Nat) : List Nat :=
  l.foldr (fun x acc => acc.takeWhile (· < x) ++ x :: acc.dropWhile (· ≤ x)) []

/-- The granules of a per-lane operation looked up in ascending order before a lane moves (R357): false where a pager has
to supply one. A lane whose page is refused fails by itself. -/
def State.lookUp (id : Nat) (acc : Acc) : List Nat → State → Bool × State
  | [], s => (true, s)
  | g :: t, s =>
    match s.opTranslate id (g * 65536) acc with
    | (.fault (.notPresent p), s) => if p = 0 then State.lookUp id acc t s else (false, s)
    | (_, s) => State.lookUp id acc t s

/-- Where an access of an operation goes: every granule translated before a byte moves. -/
def State.opPlaces (id : Nat) (acc : Acc) : List (Nat × Nat) → State → Except OpRes (List (Place × Nat)) × State
  | [], s => (.ok [], s)
  | (va, n) :: t, s =>
    match s.opTranslate id va acc with
    | (.fault (.notPresent p), s) => (.error (if p = 0 then .fail 1 va false else .miss va p), s)
    | (.fault f, s) => (.error (.fail (faultStatus f) va false), s)
    | (.ok pa attr _ _, s) =>
      match State.opPlaces id acc t s with
      | (.ok l, s) => (.ok ((⟨pa, attr⟩, n) :: l), s)
      | r => r

/-- The agent of an operation. -/
def State.opAgent (s : State) (id : Nat) : Agent :=
  match sfind s.ops id with | some op => op.agent | none => outside 0

/-- Bytes that an operation reads, by space: a virtual address, or a place in its core's or die's memory. -/
def State.opRead (s : State) (id : Nat) (sp : Space) (at_ n : Nat) : OpRes × State :=
  let ag := s.opAgent id
  if sp = .g ∨ sp = .k then
    match State.opPlaces id .read (granuleParts at_ n) s with
    | (.error r, s) => (r, s)
    | (.ok l, s) =>
      let step (a : Got × State) (p : Place × Nat) : Got × State :=
        let (x, s) := a.2.readPa ag p.1.attr p.1.pa p.2
        (⟨a.1.bytes ++ x.bytes, a.1.psn || x.psn⟩, s)
      let (x, s) := l.foldl step (⟨[], false⟩, s)
      (.ok x, s)
  else (.ok (s.readLocal sp (spaceUnit sp (ag.core.getD 0)) at_ n), s)

/-- The first virtual address of a range at which an operation reads poison (R254). -/
def State.poisonAt (s : State) (id va n : Nat) : Nat :=
  let bad (at_ : Nat) : Bool := match s.opRead id .g at_ 1 with | (.ok x, _) => x.psn | _ => false
  (((unitsOf 64 va n).map fun l => max va (64 * l)).find? bad).getD va

/-- Bytes that an operation writes; `psn` marks the destination poisoned (R163). -/
def State.opWrite (s : State) (id : Nat) (sp : Space) (at_ : Nat) (b : Bytes) (psn : Bool) : OpRes × State :=
  let ag := s.opAgent id
  if sp = .g ∨ sp = .k then
    match State.opPlaces id .write (granuleParts at_ b.length) s with
    | (.error r, s) => (r, s)
    | (.ok l, s) =>
      let step (a : State × Bytes) (p : Place × Nat) : State × Bytes :=
        let s := a.1.writePa ag p.1.attr p.1.pa (a.2.take p.2)
        (if psn then s.poisonPa p.1.attr p.1.pa p.2 else s, a.2.drop p.2)
      (.ok ⟨[], false⟩, (l.foldl step (s, b)).1)
  else
    let u := spaceUnit sp (ag.core.getD 0)
    let s := s.writeLocal sp u at_ b
    (.ok ⟨[], false⟩, if psn then s.poisonLocal sp u at_ b.length else s)

/-! ### Completion -/

/-- A group with tiles, wherever it stands: on the device, saved, or retired in a team that still drains (R235). -/
def State.tileGroup (s : State) (gid : Nat) : Option Group :=
  (s.anyGroup gid).or (s.launch.retired.find? fun g => g.gid = gid)

/-- Census events kept for the command's completion (R296). -/
def State.tallyUp (s : State) (id site kind : Nat) (counts : List Nat) : State :=
  s.modOp id fun op => { op with census := op.census ++ [(site, kind, counts)] }

/-- The partial of a tile that its name has turned away from is dropped once every command that accesses the tile is over,
and one that is not zero is counted at the chain's site with the command that turned away (R284, R289, R296). -/
def State.dropTurned (s : State) (gid key : Nat) : State :=
  match s.tileGroup gid with
  | none => s
  | some g =>
    match sfind g.tiles key with
    | none => s
    | some t =>
      match t.turned with
      | none => s
      | some id =>
        if s.tileBusy gid key then s
        else
          let s := s.modGroup gid fun g => { g with tiles := sput g.tiles key { t with res := [], turned := none } }
          if t.res.isEmpty then s
          else match sfind s.ops id with
            | some op => if op.phase = .heldBack then s.count g.grid [(t.site, 0, [0, 0, 0, 1])]
                         else s.tallyUp id t.site 0 [0, 0, 0, 1]
            | none => s.count g.grid [(t.site, 0, [0, 0, 0, 1])]

/-- Every tile of a group looked at. -/
def State.dropTurnedAll (s : State) (gid : Nat) : State :=
  match s.tileGroup gid with
  | none => s
  | some g => (g.tiles.map (·.1)).foldl (fun s k => s.dropTurned gid k) s

/-- A failed operation of this kind leaves a record in the failure ring (R186, R246, R255): classes 0x7, 0xA and 0xB, and
accesses of the group itself. Classes 0xC and 0xD report their status. -/
def Op.ringed (op : Op) : Bool := let c := op.opc / 64; c != 0xC && c != 0xD

/-- The access size of a fault entry (R247). -/
def Work.size : Work → Nat
  | .load _ n _ _ => n
  | .atomic _ _ _ wide _ _ _ _ => if wide then 8 else 4
  | .wait _ _ wide _ _ _ _ _ _ => if wide then 8 else 4
  | .wake _ _ _ _ _ _ => 4
  | .gather _ _ n _ _ => n
  | .scatter _ _ n _ => n
  | _ => 0

/-- The kind of a fault entry (R245); R245 lists none for a `wake`, which counts as an atomic (log 70). -/
def Work.kind : Work → Nat
  | .atomic _ _ _ _ _ _ _ _ => 2
  | .wake _ _ _ _ _ _ => 2
  | .wait _ _ _ _ _ _ _ _ _ => 3
  | .gather _ _ _ _ _ => 4
  | .scatter _ _ _ _ => 5
  | _ => 0

/-- The space of a fault entry (R247). -/
def Work.space : Work → Nat
  | .load sp _ _ _ => sp
  | .atomic sp _ _ _ _ _ _ _ => spaceNo sp
  | .wait sp _ _ _ _ _ _ _ _ => spaceNo sp
  | .wake sp _ _ _ _ _ => spaceNo sp
  | _ => 3

/-- The tile name of a correcting update (R202). -/
def Work.diverges : Work → Option Nat
  | .cor w => some w.name
  | _ => none

/-- The trap code and cause of a status (R247). -/
def statusTrap (status opc : Nat) (replica : Bool) : Nat × Nat :=
  match status with
  | 1 => (12, if replica then 4 else 2)
  | 2 => (12, 3)
  | 4 => (1, if opc / 64 = 0xA then 10 else 3)
  | 5 => (1, 12)
  | _ => (10, 0)

/-- The lowest free entry of a failure ring (R255). -/
def Group.freeEntry (g : Group) : Option Nat := (List.range 8).find? fun i => !(g.ring.any fun e => e.idx = i)

/-- The issuer of an operation has exited, or is no longer there (R254). -/
def State.issuerExited (s : State) (gid : Nat) : Bool :=
  match s.anyGroup gid with | some g => g.exited = BitVec.allOnes 64 | none => true

/-- A record placed in an entry of the issuer's failure ring; where the entry cannot be written, the record goes to the
orphan list and the group ends (R255): its failure entry names no instruction, address or lanes (log 70). -/
def State.placeRecord (s : State) (g : Group) (idx id : Nat) (op : Op) : State :=
  let rec_ := op.record (s.issuerExited g.gid)
  match s.kWrite g (0x500 + 64 * idx) rec_ with
  | (true, s) =>
    let e : RingEntry := ⟨idx, false, op.status, op.opc, op.faddr, op.lmask, op.work.space, op.work.size, op.work.kind,
      op.replica, op.work.diverges⟩
    (s.modGroup op.gid fun g => { g with ring := g.ring ++ [e] }).endOp id
  | (false, s) =>
    let s := s.addOrphan op.grid rec_
    let (c, k) := statusTrap op.status op.opc op.replica
    (s.endGroupOf op.gid ⟨c, k, g.busy, true, 0, 0, 0⟩).endOp id

/-- The pair of site and kind that a command names in the census (R434), which counts even where nothing happens: an update
names its chain's site, a `cor.rsp` none (log 32). -/
def State.namedSite (s : State) (op : Op) : List (Nat × Nat × List Nat) :=
  match op.work with
  | .mma w => [(w.fb.site, 0, [])]
  | .cor w =>
    if w.mode = .rsp then []
    else match w.tile, s.tileGroup op.gid with
      | some k, some g => [(((sfind g.tiles k).map (·.site)).getD 0, 0, [])]
      | _, _ => [(0, 0, [])]
  | .attn _ _ d => [(d.site, 1, [])]
  | _ => []

/-- An operation completes (R185, R255): its record is placed, held back or sent to the orphan list where it failed, and
then its flags fall and its registers are freed. -/
def State.completeOp (s : State) (id : Nat) : State :=
  match (sfind s.ops id).bind fun op => sfind (s.dropTurnedAll op.gid).ops id with
  | none => s
  | some op =>
    let s := (s.dropTurnedAll op.gid).returnLeave id
    let s := s.count op.grid (op.census ++ s.namedSite op)
    let s := if op.queue < 6 then s.trace id 5 op.status else s
    match s.anyGroup op.gid with
    | none => (if op.status = 0 then s else s.addOrphan op.grid (op.record (s.issuerExited op.gid))).endOp id
    | some g =>
      if op.status = 0 ∨ !op.ringed then s.endOp id
      else
        match g.freeEntry with
        | some i => s.placeRecord g i id op
        | none =>
          let s := s.modOp id fun op => { op with phase := .heldBack }
          s.modGroup op.gid fun g => { g with waitingRecs := g.waitingRecs ++ [id] }

/-- A free ring entry takes the oldest record that is held back (R255). -/
def State.retryHeld (s : State) (gid : Nat) : State :=
  match s.anyGroup gid with
  | none => s
  | some g =>
    match g.waitingRecs, g.freeEntry with
    | id :: t, some i =>
      let s := s.modGroup gid fun g => { g with waitingRecs := t }
      match sfind s.ops id with
      | some op => s.placeRecord g i id op
      | none => s
    | _, _ => s

/-- The work of a command is over with a status; its record is still to be written (R185). -/
def State.endWork (s : State) (id status : Nat) : State := s.modOp id fun op => { op with phase := .ended, status := status }

/-- The work is over with a failure at an address. -/
def State.failWork (s : State) (id status faddr : Nat) : State :=
  s.modOp id fun op => { op with phase := .ended, status := status, faddr := faddr }

end Sys2Proof.Machine
end

