-- ==== Sys2Proof/Machine/Barrier.lean ====
section
/-! DEFINITION. Barriers and fences, class 0x9 (R170 to R175). -/

namespace Sys2Proof.Machine

/-- A load or an atomic that has not completed (R171). -/
def Op.incomplete (op : Op) : Bool :=
  match op.work with
  | .atomic _ _ _ _ _ _ _ _ => true
  | .load _ _ _ _ => true
  | _ => false

/-- Every earlier load, store and atomic of the group has been performed (R171); for an acquire the loads and atomics
have completed. -/
def State.performedAll (s : State) (ord : Ord) : Bool :=
  (s.opsOf s.cur.gid).all fun e => !e.2.unperformed && (ord = .rel || !e.2.incomplete)

/-- `fence` (R171, R448). -/
def execFence (m : FenceMod) (o : Fields) (s : State) : Out :=
  if !s.cur.acts o.guard then .next s.advance
  else
    let key := fenceKey s.cur.gid
    if !s.performedAll m.ord then .next (s.hold .fence)
    else if s.relWaits s.cur.gid key m.ord m.scope then .next ((s.sendReads s.cur.gid key m.ord m.scope).hold .fence)
    else .next ((s.order m.ord (flushedScope m.scope) s.cur.die).endReads key).advance

/-! ### Whole-group barriers (R172) -/

/-- Some lane of the group has not exited. -/
def Group.alive (g : Group) : Bool := g.exited != BitVec.allOnes 64

/-- A group that still counts at a barrier (R172): it has not retired, and `WATCHDOG` has not ended it (R233). -/
def Group.counts (g : Group) : Bool := g.alive || !g.expired

/-- The groups of the issuing group's team, or of its gang. -/
def State.partners (s : State) (gang : Bool) : List Group :=
  s.groups.filter fun g => g.grid = s.cur.grid && g.gngx = s.cur.gngx && (gang || g.tign = s.cur.tign) && g.counts

/-- An arrival at `bar` or `gbar` (R172): the last one releases the others. -/
def arrive (gang : Bool) (s : State) : State :=
  let me : BarState := if gang then .gang else .team
  let s := s.modCur fun g => { g with bar := me }
  let ps := s.partners gang
  if ps.all fun g => g.bar = me then
    let s := ps.foldl (fun s p => s.modGroup p.gid fun g => { g with bar := .released }) s
    (s.modCur fun g => { g with bar := .none }).advance
  else s.hold .barwait

/-- `bar` and `gbar` (R172). The convergence rule binds a group that STEP takes from its hold as well (R440). -/
def barStep (gang : Bool) (s : State) : State :=
  if !s.cur.converged then s.trap 2 0
  else match s.cur.bar with
  | .released => (s.modCur fun g => { g with bar := .none }).advance
  | _ =>
    if !s.performedAll .ar then s.hold .barwait
    else arrive gang (s.order .ar (if gang then .die else .core) s.cur.die)

/-- `bar` (R172). -/
def execBar (_o : Fields) (s : State) : Out := .next (barStep false s)
/-- `gbar` (R172). -/
def execGbar (_o : Fields) (s : State) : Out := .next (barStep true s)

/-! ### Phase-bit barriers (R173, R174) -/

/-- A phase-bit barrier object (R173). -/
structure Phbar where
  pend : Nat
  need : Nat
  got : Nat
  gen : Nat
  left : Nat
  ovr : Bool
  fail : Bool
  deriving DecidableEq, Repr

def Phbar.ofNat (x : Nat) : Phbar :=
  ⟨bits x 47 0, bits x 55 48, bits x 63 56, bits x 71 64, bits x 79 72, x.testBit 80, x.testBit 81⟩

def Phbar.toBytes (b : Phbar) : Bytes :=
  leBytes 6 b.pend ++ leBytes 1 b.need ++ leBytes 1 b.got ++ leBytes 1 b.gen ++ leBytes 1 b.left
    ++ leBytes 6 ((if b.ovr then 1 else 0) + (if b.fail then 2 else 0))

/-- The phase completes where every arrival is in and no byte is owed (R174). -/
def Phbar.settle (b : Phbar) : Phbar :=
  if b.got = b.need ∧ b.pend = 0 then
    { b with gen := (b.gen + 1) % 256, got := 0, need := (b.need + 256 - b.left) % 256, left := 0 }
  else b

/-- The object at a place of a core's memory; none where a word of it is poisoned (R174). -/
def State.phbarAt (s : State) (core at_ : Nat) : Option Phbar :=
  let x := s.readLocal .s core at_ 16
  if x.psn then none else some (Phbar.ofNat (ofLe x.bytes))

/-- One indivisible change of the object, with the completion that it may bring (R174). -/
def State.phbarSet (s : State) (core at_ : Nat) (b : Phbar) : State := s.writeLocal .s core at_ b.settle.toBytes

/-- A function that only reads the object completes a phase that it finds due (R174). -/
def State.phbarSeen (s : State) (core at_ : Nat) (b : Phbar) : State :=
  if b.settle = b then s else s.phbarSet core at_ b

/-- An arrival (R174). -/
def Phbar.arrive (b : Phbar) : Phbar :=
  if b.got = b.need then { b with ovr := true } else { b with got := (b.got + 1) % 256 }

/-- Bytes added when a counted copy issues (R174). -/
def Phbar.owe (b : Phbar) (n : Nat) : Phbar :=
  if 2 ^ 48 - 1 < b.pend + n then { b with pend := 2 ^ 48 - 1, ovr := true } else { b with pend := b.pend + n }

/-- Bytes of a counted copy that are written, or that a failed one gives up (R174). -/
def Phbar.pay (b : Phbar) (n : Nat) (failed : Bool) : Phbar :=
  let b := { b with fail := b.fail || failed }
  if b.pend < n then { b with pend := 0, ovr := true } else { b with pend := b.pend - n }

/-- During a STEP a lane outside its focus mask has not exited (R440). -/
def Group.outsideFocus (g : Group) : Bool := 0 < g.stepLeft && (g.present &&& ~~~g.focus) != 0

/-- What a `phbar` function does at its object's place in the core's memory, once no earlier access holds it (R263). -/
def phbarStep (s : State) (o : Fields) (f : Nat → Nat → State → State) : Out :=
  let off := (val s o.imm o.a 0).toNat
  if s.cur.outsideFocus then .next (s.trap 2 0)
  else if !s.cur.acts o.guard then .next s.advance
  else match segCheck s.cur .s off 16 16 with
    | some c => .next (s.trap c 0)
    | none =>
      let at_ := s.cur.sgs.base + off
      if s.mustWait .s [at_] 16 false then .next (s.hold .fence) else .next (f s.cur.coreNo at_ s)

/-- A function that reads the object: poison traps (R174). -/
def phbarRead (s : State) (o : Fields) (f : Nat → Nat → Phbar → State → State) : Out :=
  phbarStep s o fun core at_ s =>
    match s.phbarAt core at_ with
    | none => s.trap 12 3
    | some b => f core at_ b s

/-- `phbar.init` (R174). -/
def execPhbarInit (o : Fields) (s : State) : Out :=
  phbarStep s o fun core at_ s =>
    let n := (val s o.imm o.b 0).toNat
    if n = 0 ∨ 255 < n then s.trap 1 4
    else (s.writeLocal .s core at_ (Phbar.mk 0 n 0 0 0 false false).toBytes).advance

/-- `phbar.arr` (R174): a `.core` release of the group's earlier accesses. -/
def execPhbarArr (o : Fields) (s : State) : Out :=
  phbarRead s o fun core at_ b s =>
    if s.performedAll .rel then (s.phbarSet core at_ b.arrive).advance else s.hold .fence

/-- `phbar.quit` (R174). -/
def execPhbarQuit (o : Fields) (s : State) : Out :=
  phbarRead s o fun core at_ b s =>
    if b.need = b.left + 1 then s.trap 1 4
    else if s.performedAll .rel then (s.phbarSet core at_ { b.arrive with left := (b.left + 1) % 256 }).advance
    else s.hold .fence

/-- The object's generation has moved on from the one that b names (R174). -/
def phasePassed (s : State) (o : Fields) (b : Phbar) : Bool := b.gen != (val s o.imm o.b 0).toNat % 256

/-- `phbar.wait` (R174). -/
def execPhbarWait (o : Fields) (s : State) : Out :=
  phbarRead s o fun core at_ b s =>
    let s := s.phbarSeen core at_ b
    if phasePassed s o b then s.advance else s.hold .barwait

/-- `phbar.test` (R174). -/
def execPhbarTest (o : Fields) (s : State) : Out :=
  phbarRead s o fun core at_ b s => (writeResult (s.phbarSeen core at_ b) o fun _ => truth (phasePassed s o b)).advance

/-- `phbar.gen` (R174). -/
def execPhbarGen (o : Fields) (s : State) : Out :=
  phbarRead s o fun core at_ b s => (writeResult (s.phbarSeen core at_ b) o fun _ => BitVec.ofNat 32 b.gen).advance

/-- `qfence` (R175): a mask with fewer than two bits set has no effect. -/
def execQfence (o : Fields) (s : State) : Out :=
  let mask := (val s o.imm o.a 0).toNat % 64
  if !s.cur.acts o.guard || countOnes 6 mask < 2 then .next s.advance
  else
    let f : QFence := ⟨s.cur.gid, s.cur.coreNo, mask, s.nextId, 0⟩
    let s' : State := { s with qfences := s.liveFences ++ [f] }
    .next s'.advance

end Sys2Proof.Machine
end

