-- ==== Sys2Proof/Machine/Copy.lean ====
section
/-! DEFINITION. Copies, gathers, scatters, fills and the issue of collectives, class 0x7 (R159 to R164). -/

namespace Sys2Proof.Machine

/-- The barrier that `d` names: its offset in `.s`, or none (R159). -/
def barrierOff (s : State) (o : Fields) : Option Nat :=
  match o.d with
  | .const _ => none
  | d => some (val s o.imm d 0).toNat

/-- An address operand: 64 bits for `.g`, a 32-bit offset for a segment space (R159). -/
def copyAddr (s : State) (o : Fields) (sp : Space) (x : Opnd) : Nat :=
  if sp = .g then (val64 s o.imm x 0).toNat else (val s o.imm x 0).toNat

/-- Where the bytes of an operand start: a virtual address, or the place in the core's or die's memory. -/
def copyAt (g : Group) (sp : Space) (a : Nat) : Nat := if sp = .g then a else (g.seg sp).base + a

/-- The checks of R160 over every range of a uniform copy: the trap code, if one fails. -/
def copyCheck (g : Group) (ends : List (Space × Nat)) (n : Nat) (bar : Option Nat) : Option Nat :=
  let out (e : Space × Nat) : Bool := e.1 ≠ .g && (g.seg e.1).limit < e.2 + n
  let barOut := match bar with | some b => g.sgs.limit < b + 16 | none => false
  let barBad := match bar with | some b => b % 16 ≠ 0 | none => false
  if ends.any out || barOut then some 5
  else if n % 4 ≠ 0 || ends.any (fun e => e.2 % 4 ≠ 0) || barBad then some 6
  else if ends.any fun e => e.1 = .g && !canonical e.2 then some 12
  else none

/-- The bytes of a copy counted in its barrier at issue (R174): none where the object is poisoned. -/
def State.countIn (s : State) (bar : Option Nat) (n : Nat) : Option State :=
  match bar with
  | none => some s
  | some at_ =>
    match s.phbarAt s.cur.coreNo at_ with
    | none => none
    | some b => some (s.phbarSet s.cur.coreNo at_ (b.owe n))

/-- A uniform copy command issues (R160): checks, the barrier's count, and the command in the copy queue; one of no bytes
starts, has nothing left to do and waits for none before it. -/
def copyIssue (s : State) (o : Fields) (opc : Nat) (ends : List (Space × Nat)) (n : Nat) (work : Option Nat → Work) : Out :=
  if !s.cur.acts o.guard then .next s.advance
  else
    let bar := barrierOff s o
    match copyCheck s.cur ends n bar with
    | some c => .next (s.trap c 0)
    | none =>
      let at_ := bar.map fun b => s.cur.sgs.base + b
      match s.countIn at_ n with
      | none => .next (s.trap 12 3)
      | some s =>
        let s' := s.issueOp o opc 0 [] (work at_)
        .next (if n = 0 then (s'.trace s.nextId 1 0).endWork s.nextId 0 else s').advance

/-- `cpy` (R160, R161). -/
def execCpy (m : CopyMod) (o : Fields) (s : State) : Out :=
  let n := (val s o.imm o.c 0).toNat
  let dst := copyAddr s o m.ds o.a
  let src := copyAddr s o m.ss o.b
  copyIssue s o 0x1C0 [(m.ds, dst), (m.ss, src)] n
    (.copy m.ds m.ss m.lu (copyAt s.cur m.ds dst) (copyAt s.cur m.ss src) n)

/-- `cpyf` (R160, R161). -/
def execCpyf (m : CopyMod) (o : Fields) (s : State) : Out :=
  let n := (val s o.imm o.c 0).toNat
  let dst := copyAddr s o m.ds o.a
  copyIssue s o 0x1C3 [(m.ds, dst)] n (.fill m.ds m.lu (copyAt s.cur m.ds dst) (val s o.imm o.b 0) n)

/-- The element bytes of a gather or scatter (R159). -/
def elemSize (es : BitVec 2) : Nat := 4 * 2 ^ es.toNat

/-- The checks of one lane of a gather or scatter (R162): its segment offset, then its address. -/
def gatherLane (s : State) (o : Fields) (sp : Space) (n kind l : Nat) : Except LaneFault LaneOp :=
  let va := (valPair s o.imm o.a l).toNat
  let off := (val s o.imm o.b l).toNat
  match segCheck s.cur sp off n n with
  | some c => .error ⟨l, off, c, 0, spaceNo sp, n, kind⟩
  | none =>
    if va % n ≠ 0 then .error ⟨l, va, 6, 0, 3, n, kind⟩
    else if !canonical va then .error ⟨l, va, 12, 0, 3, n, kind⟩
    else .ok ⟨l, va, (s.cur.seg sp).base + off, va, 0⟩

/-- The lanes of a list of checks that pass, and the faults of the others. -/
def splitLanes {α : Type} : List (Except LaneFault α) → List α × List LaneFault
  | [] => ([], [])
  | .ok a :: t => let (x, y) := splitLanes t; (a :: x, y)
  | .error e :: t => let (x, y) := splitLanes t; (x, e :: y)

/-- A per-lane copy issues (R162): the lanes that pass become one command of the gather queue; the others trap. Where the
barrier that a `cpyg` names is poisoned, that trap comes alone, without the failing lanes and with nothing issued (R174,
log 50). -/
def gatherIssue (s : State) (o : Fields) (opc : Nat) (sp : Space) (n kind : Nat) (bar : Option Nat)
    (work : List LaneOp → Option Nat → Work) : Out :=
  if !s.cur.acts o.guard then .next s.advance
  else
    match bar.bind fun b => segCheck s.cur .s b 16 16 with
    | some c => .next (s.trap c 0)
    | none =>
      let (ok, bad) := splitLanes ((maskLanes (s.cur.effect o.guard)).map (gatherLane s o sp n kind))
      let at_ := bar.map fun b => s.cur.sgs.base + b
      if ok.isEmpty then .next (s.finish bad)
      else match s.countIn at_ (n * ok.length) with
        | none => .next (s.trap 12 3)
        | some s => .next ((s.issueOp o opc 1 [] (work ok at_)).finish bad)

/-- `cpyg` (R162). -/
def execCpyg (m : CopyMod) (o : Fields) (s : State) : Out :=
  let n := elemSize m.es
  gatherIssue s o 0x1C1 m.ds n 4 (barrierOff s o) (.gather m.ds m.lu n)

/-- `cpys` (R162). -/
def execCpys (m : CopyMod) (o : Fields) (s : State) : Out :=
  let n := elemSize m.es
  gatherIssue s o 0x1C2 m.ss n 5 none fun l _ => .scatter m.ss m.lu n l

/-- The bytes of an element of a collective (R164). -/
def collBytes (cfmt : Nat) : Nat := if cfmt = 2 then 2 else 4

/-- `coll` (R160, R164): the address checks; the descriptor is read when the command starts. -/
def execColl (_m : CopyMod) (o : Fields) (s : State) : Out :=
  if !s.cur.acts o.guard then .next s.advance
  else
    let va := (val64 s o.imm o.a 0).toNat
    if va % 4 ≠ 0 then .next (s.trap 6 0)
    else if !canonical va then .next (s.trap 12 0)
    else .next (s.issueOp o 0x1C4 2 [] (.coll va [] [])).advance

/-! ### The work of the copy engines (R161 to R163, R174) -/

/-- Bytes of a counted copy paid back to its barrier: false where the object is poisoned (R174). -/
def State.payBack (s : State) (id : Nat) (bar : Option Nat) (n : Nat) (failed : Bool) : Bool × State :=
  match bar, sfind s.ops id with
  | some at_, some op =>
    match s.phbarAt op.core at_ with
    | none => (false, s)
    | some b => (true, s.phbarSet op.core at_ (b.pay n failed))
  | _, _ => (true, s)

/-- A copy fails with bytes left to write (R163, R174). -/
def State.failCopy (s : State) (id : Nat) (bar : Option Nat) (left status faddr : Nat) : State :=
  (s.payBack id bar left true).2.failWork id status faddr

/-- One unit of a copy or fill is written (R161): `data` is what the source gave, and `src` the virtual address of poison in it, 0
in a segment space (R254). -/
def State.copyUnit (s : State) (id : Nat) (bar : Option Nat) (ds : Space) (dst src left : Nat) (data : Got) : Out :=
  let n := data.bytes.length
  let (bytes, s') := if data.psn then s.drawBytes n else (data.bytes, s)
  match s'.opWrite id ds dst bytes data.psn with
  | (.ok _, s) =>
    let (paid, s) := s.payBack id bar n false
    let s := s.modOp id fun op =>
      { op with progress := op.progress + n, done := if data.psn then op.done else op.done + n,
                status := if paid then op.status else 2 }
    if data.psn then .next (s.failCopy id bar (left - n) 2 src)
    else if left = n then .next (s.modOp id fun op => { op with phase := .ended })
    else .next s
  | (.fail st va _, s) => .next (s.failCopy id bar left st va)
  | (.miss _ _, _) => notNow

/-- The granules that a copy within `.g` looks up before the unit at i moves, in ascending order (R357): of what is left of both
ranges, those up to the unit's own. -/
def copyLooks (dst src i count : Nat) : List (Nat × Acc) :=
  let n := min 64 (count - i)
  let top := (max src dst + i + n - 1) / 65536
  let parts (va : Nat) (acc : Acc) : List (Nat × Acc) :=
    (granuleParts (va + i) (min (count - i) ((top + 1) * 65536 - (va + i)))).map fun p => (p.1, acc)
  (parts src .read ++ parts dst .write).foldr
    (fun x acc => acc.takeWhile (fun y => y.1 < x.1) ++ x :: acc.dropWhile (fun y => y.1 < x.1)) []

/-- Addresses looked up one after another for an operation: the first that cannot be had stops it. -/
def State.lookParts (id : Nat) : List (Nat × Acc) → State → OpRes × State
  | [], s => (.ok ⟨[], false⟩, s)
  | (va, acc) :: t, s =>
    match State.opPlaces id acc [(va, 1)] s with
    | (.error r, s) => (r, s)
    | (.ok _, s) => State.lookParts id t s

/-- A status of a gather or scatter: the lowest among the lanes that failed (R163). -/
def minStatus (a b : Nat) : Nat := if a = 0 then b else min a b

/-- A lane of a gather or scatter fails: the record keeps every failed lane and the address of the lowest (R163). -/
def Op.failLane (op : Op) (l status addr : Nat) : Op :=
  { op with status := minStatus op.status status, faddr := if op.lmask = 0 then addr else op.faddr,
            lmask := op.lmask ||| BitVec.ofNat 64 (2 ^ l) }

/-- The lanes of a gather or scatter. -/
def Work.lanesOf : Work → List LaneOp
  | .gather _ _ _ l _ => l
  | .scatter _ _ _ l => l
  | _ => []

/-- The granules of `.g` that the lanes of an operation name, in ascending order (R357). -/
def Work.laneGranules : Work → List Nat
  | .gather _ _ _ l _ => ascending (l.map (·.x / 65536))
  | .scatter _ _ _ l => ascending (l.map (·.x / 65536))
  | .atomic .g _ _ _ _ _ _ l => ascending (l.map (·.loc / 65536))
  | _ => []

/-- One lane of a gather or scatter is over: the next one follows, or the command ends (R162, R163). -/
def State.nextLane (s : State) (id : Nat) (bar : Option Nat) (n total : Nat) (stop : Bool) : State :=
  let s := s.modOp id fun op => { op with progress := op.progress + 1 }
  match sfind s.ops id with
  | none => s
  | some op =>
    if stop ∨ total ≤ op.progress then
      let s := if stop then (s.payBack id bar (n * (total - op.progress)) true).2 else s
      s.modOp id fun op => { op with phase := .ended }
    else s

/-- One lane of a gather or scatter (R162): bytes from one place to another. -/
def State.laneUnit (s : State) (id : Nat) (bar : Option Nat) (ss ds : Space) (l : LaneOp) (src dst n total : Nat) : Out :=
  let failed (s : State) (st : Nat) : Out :=
    let s := s.modOp id fun op => op.failLane l.lane st l.at_
    .next ((s.payBack id bar n true).2.nextLane id bar n total false)
  match s.opRead id ss src n with
  | (.fail st _ _, s) => failed s st
  | (.ok x, s) =>
    let (bytes, s') := if x.psn then s.drawBytes n else (x.bytes, s)
    match s'.opWrite id ds dst bytes x.psn with
    | (.fail st _ _, s) => failed s st
    | (.ok _, s) =>
      let (paid, s) := s.payBack id bar n x.psn
      let s := s.modOp id fun op =>
        let op := if x.psn then op else { op with done := op.done + n }
        if x.psn then op.failLane l.lane 2 l.at_ else if paid then op else { op with status := minStatus op.status 2 }
      .next (s.nextLane id bar n total x.psn)
    | _ => notNow
  | _ => notNow

/-! ### Collectives (R164, R453) -/

/-- A collective descriptor (R164); `bad` where a field breaks its table. -/
structure CollDesc where
  comm : Nat
  cop : Nat
  cfmt : Nat
  src : Nat
  dst : Nat
  count : Nat
  root : Nat
  bad : Bool
  deriving DecidableEq, Repr

def collDesc (b : Bytes) : CollDesc :=
  let cop := fieldAt b 4 2
  let cfmt := fieldAt b 6 2
  let src := fieldAt b 8 8
  let dst := fieldAt b 16 8
  let root := fieldAt b 32 4
  ⟨fieldAt b 0 4, cop, cfmt, src, dst, fieldAt b 24 8, root,
    4 < cop || !([0, 2, 5].contains cfmt) || src % 4 ≠ 0 || dst % 4 ≠ 0 || (cop ≠ 4 && root ≠ 0) || fieldAt b 36 28 ≠ 0⟩

/-- What the members' descriptors have to agree in. -/
def CollDesc.agrees (x y : CollDesc) : Bool :=
  x.comm = y.comm && x.cop = y.cop && x.cfmt = y.cfmt && x.count = y.count && x.root = y.root

/-- The elements below chunk c of m (R453). -/
def CollDesc.start (d : CollDesc) (m c : Nat) : Nat := d.count * c / m

/-- The bytes of chunk c of a member's elements. -/
def CollDesc.part (d : CollDesc) (m c : Nat) (b : Bytes) : Bytes :=
  let n := collBytes d.cfmt
  (b.drop (n * d.start m c)).take (n * (d.start m (c + 1) - d.start m c))

/-- The pieces of a member's destination: chunks, each member's elements, or the whole (R164, R453). -/
def CollDesc.pieces (d : CollDesc) (m rank : Nat) : List Nat :=
  match d.cop with
  | 3 => [rank]
  | 4 => [0]
  | _ => List.range m

/-- Where a piece lies from the destination on, in elements. -/
def CollDesc.place (d : CollDesc) (m c : Nat) : Nat :=
  match d.cop with
  | 2 => d.count * c
  | 4 => 0
  | _ => d.start m c

/-- One step of a fold (R164), on `F32` patterns or on integers. -/
def foldElem (cop cfmt x y : Nat) : Nat :=
  if cfmt = 5 then
    if cop = 1 then (if sext x 32 < sext y 32 then y else x) else (x + y) % 2 ^ 32
  else if cop = 1 then fminmax F32 true x y
  else (faddRn (BitVec.ofNat 32 x) (BitVec.ofNat 32 y)).toNat

/-- The fold of an element over the members' bytes in ascending rank, `BF16` widened and rounded once (R164). -/
def foldAt (d : CollDesc) (parts : List Bytes) (i : Nat) : Bytes :=
  let n := collBytes d.cfmt
  let wide (x : Nat) : Nat := if d.cfmt = 2 then x * 65536 else x
  match parts.map fun b => wide (fieldAt b (n * i) n) with
  | [] => leBytes n 0
  | x :: t =>
    let r := t.foldl (foldElem d.cop d.cfmt) x
    leBytes n (if d.cfmt = 2 then roundExt BF16 .rn false (f32 (BitVec.ofNat 32 r)) else r)

/-- The contribution of a rank to a chunk, where it has arrived: the first to arrive comes first. -/
def State.contribution (s : State) (comm chunk rank : Nat) : Option Contribution :=
  s.fabric.contribs.find? fun c => c.comm = comm && c.chunk = chunk && c.rank = rank

/-- The first entry that a test takes leaves a list. -/
def dropFirst {α : Type} (p : α → Bool) : List α → List α
  | [] => []
  | a :: t => if p a then t else a :: dropFirst p t

/-- A contribution leaves the list once it is used. -/
def State.useContribution (s : State) (comm chunk rank : Nat) : State :=
  { s with fabric := { s.fabric with
      contribs := dropFirst (fun c => c.comm = comm && c.chunk = chunk && c.rank = rank) s.fabric.contribs } }

/-- A contribution sent to a member in bursts (R449): communicator, member, chunk, own rank, and its bytes. -/
def State.sendPart (s : State) (comm member chunk rank : Nat) (b : Bytes) : State :=
  (s.burstsOf b.length).emit (.fabric 2 ([comm, member, chunk, rank] ++ b.map (·.toNat)))

/-- A member's own part kept, and the others' parts sent to them (R453). -/
def State.spread (s : State) (d : CollDesc) (desc b : Bytes) (m rank : Nat) : State :=
  let keep (s : State) (chunk : Nat) (b : Bytes) : State :=
    { s with fabric := { s.fabric with contribs := s.fabric.contribs ++ [⟨d.comm, chunk, rank, desc, b⟩] } }
  let others := (List.range m).filter (· ≠ rank)
  match d.cop with
  | 2 => others.foldl (fun s q => s.sendPart d.comm q rank rank b) (keep s rank b)
  | 4 => if rank = d.root then others.foldl (fun s q => s.sendPart d.comm q 0 rank b) (keep s 0 b) else s
  | _ => others.foldl (fun s q => s.sendPart d.comm q q rank (d.part m q b)) (keep s rank (d.part m rank b))

/-- A `coll` starts (R164, R453): its descriptor is checked, its source read, and its parts sent. None where a page has yet
to be supplied. An unknown communicator, an address that is not canonical and a root that is no member count as faults of the
descriptor, and the source of a broadcast is read on every member (log 84). -/
def State.collStart (s : State) (id : Nat) (desc : Bytes) : Option State :=
  let d := collDesc desc
  match sfind s.fabric.comms d.comm with
  | none => some (s.endWork id 4)
  | some c =>
    if d.bad ∨ !canonical d.src ∨ !canonical d.dst ∨ c.members ≤ d.root then some (s.endWork id 4)
    else if !s.fabric.up ∧ 1 < c.members then some (s.failWork id 1 d.dst)
    else match s.opRead id .g d.src (collBytes d.cfmt * d.count) with
      | (.ok x, s) =>
        if x.psn then some (s.failWork id 2 (s.poisonAt id d.src (collBytes d.cfmt * d.count)))
        else
          let s := s.spread d desc x.bytes c.members c.rank
          some (s.modOp id fun op =>
            { op with phase := .running, progress := 1,
                      work := match op.work with | .coll a b _ => .coll a b (d.pieces c.members c.rank) | w => w })
      | (.fail st va _, s) => some (s.failWork id st va)
      | _ => none

/-- The ranks whose contributions a piece takes (R453). -/
def CollDesc.needs (d : CollDesc) (m rank c : Nat) : List Nat :=
  if d.cop ≠ 2 ∧ d.cop ≠ 4 ∧ c = rank then List.range m else [if d.cop = 4 then d.root else c]

/-- The bytes of a piece, where every contribution to it has arrived, and the ranks that made it. -/
def State.pieceBytes (s : State) (d : CollDesc) (m rank c : Nat) : Option (List Contribution × Bytes) :=
  if d.cop ≠ 2 ∧ d.cop ≠ 4 ∧ c = rank then
    let l := (List.range m).filterMap fun r => s.contribution d.comm c r
    if l.length = m then
      let n := d.start m (c + 1) - d.start m c
      some (l, ((List.range n).map (foldAt d (l.map (·.bytes)))).flatten)
    else none
  else (s.contribution d.comm c (if d.cop = 4 then d.root else c)).map fun x => ([x], x.bytes)

/-- The next piece of a running `coll` whose contributions are there is written (R164, R453); a member whose descriptor
disagrees ends it with `MISMATCH`. -/
def State.collStep (s : State) (id : Nat) (desc : Bytes) (todo : List Nat) : Out :=
  let d := collDesc desc
  match sfind s.fabric.comms d.comm with
  | none => notNow
  | some cm =>
    match todo.find? fun c => (s.pieceBytes d cm.members cm.rank c).isSome with
    | none => notNow
    | some c =>
      match s.pieceBytes d cm.members cm.rank c with
      | none => notNow
      | some (used, b) =>
        if used.any fun x => !(collDesc x.desc).agrees d then .next (s.endWork id 5)
        else match s.opWrite id .g (d.dst + collBytes d.cfmt * d.place cm.members c) b false with
          | (.fail st va _, s) => .next (s.failWork id st va)
          | (.ok _, s) =>
            let s := used.foldl (fun s x => s.useContribution d.comm c x.rank) s
            let others := (List.range cm.members).filter (· ≠ cm.rank)
            let s := if d.cop < 2 ∧ c = cm.rank then others.foldl (fun s q => s.sendPart d.comm q c cm.rank b) s else s
            let left := todo.erase c
            .next (s.modOp id fun op =>
              { op with phase := if left.isEmpty then .ended else op.phase, done := op.done + b.length,
                        work := match op.work with | .coll a b _ => .coll a b left | w => w })
          | _ => notNow

/-- The next unit of a running copy, gather, scatter, fill or collective is written (R161, R162, R453). -/
def execCopyUnitWrite (id : Nat) (s : State) : Out :=
  match sfind s.ops id with
  | none => notNow
  | some op =>
    if op.phase ≠ .running then notNow
    else
      let at_ := op.progress
      match op.work with
      | .copy ds ss _ dst src count bar =>
        let n := min 64 (count - at_)
        match State.lookParts id (if ss = .g ∧ ds = .g then copyLooks dst src at_ count else []) s with
        | (.ok _, s) =>
          match s.opRead id ss (src + at_) n with
          | (.ok x, s) =>
            s.copyUnit id bar ds (dst + at_) (if ss = .g ∧ x.psn then s.poisonAt id (src + at_) n else 0) (count - at_) x
          | (.fail st va _, s) => .next (s.failCopy id bar (count - at_) st va)
          | _ => notNow
        | (.fail st va _, s) => .next (s.failCopy id bar (count - at_) st va)
        | _ => notNow
      | .fill ds _ dst pat count bar =>
        let n := min 64 (count - at_)
        let p := leBytes 4 pat.toNat
        s.copyUnit id bar ds (dst + at_) 0 (count - at_)
          ⟨(List.range n).map fun i => p.getD (i % 4) 0, false⟩
      | .gather ds _ n lanes bar =>
        match lanes[at_]?, s.lookUp id .read op.work.laneGranules with
        | some l, (true, s) => s.laneUnit id bar .g ds l l.x l.loc n lanes.length
        | _, _ => notNow
      | .scatter ss _ n lanes =>
        match lanes[at_]?, s.lookUp id .write op.work.laneGranules with
        | some l, (true, s) => s.laneUnit id none ss .g l l.loc l.x n lanes.length
        | _, _ => notNow
      | .coll _ desc todo =>
        if op.progress = 0 then (match s.collStart id desc with | some s => .next s | none => notNow)
        else s.collStep id desc todo
      | _ => notNow

end Sys2Proof.Machine
end

