-- ==== Sys2Proof/Machine/Atomic.lean ====
section
/-! DEFINITION. Atomics, waits and wakes, class 0x8 (R165 to R169), and their performing at memory. -/

namespace Sys2Proof.Machine

/-- The address of a lane (R165): 64 bits for `.g`, an offset for a segment space. -/
def atomAddr (s : State) (o : Fields) (sp : Space) (l : Nat) : Nat :=
  if sp = .g then (valPair s o.imm o.a l).toNat else (val s o.imm o.a l).toNat

/-- A value operand (R165). -/
def atomVal (s : State) (o : Fields) (wide : Bool) (x : Opnd) (l : Nat) : Nat :=
  if wide then (valPair s o.imm x l).toNat else (val s o.imm x l).toNat

/-- The checks of one lane at issue (R153, R167): the place, or its fault. -/
def State.atomCheck (s : State) (sp : Space) (a n kind l : Nat) : Except LaneFault Nat × State :=
  if sp = .g then
    (if a % n ≠ 0 then .error ⟨l, a, 6, 0, 3, n, kind⟩
     else if !canonical a then .error ⟨l, a, 12, 0, 3, n, kind⟩
     else .ok a, s)
  else
    match s.segPlace sp .both a n n with
    | (.error e, s) => (.error ⟨l, a, e.1, e.2, spaceNo sp, n, kind⟩, s)
    | (.ok _, s) => (.ok ((s.cur.seg sp).base + a), s)

/-- The checks of the lanes in order. -/
def atomLanes (sp : Space) (n kind : Nat) : List LaneOp → State → List LaneOp × List LaneFault × State
  | [], s => ([], [], s)
  | l :: t, s =>
    match s.atomCheck sp l.at_ n kind l.lane with
    | (.ok loc, s) =>
      let (ok, bad, s) := atomLanes sp n kind t s
      ({ l with loc := loc } :: ok, bad, s)
    | (.error f, s) =>
      let (ok, bad, s) := atomLanes sp n kind t s
      (ok, f :: bad, s)

/-- Where the old value goes (R165). -/
def atomDest (d : Opnd) (wide : Bool) : Dest :=
  match d with
  | .v n => .v n.val wide
  | .s n => .s n.val
  | .a n => .a n.val
  | _ => .none

/-- The registers of a destination. -/
def Dest.regs : Dest → List RegRef
  | .v n wide => if wide then [.v n, .v (n + 1)] else [.v n]
  | .s n => [.s n]
  | .a n => [.a n]
  | .eta n => [.eta n]
  | .none => []

/-- A value for a destination in a lane. -/
def Dest.put (d : Dest) (l x : Nat) : List (RegRef × Nat × DWord) :=
  match d with
  | .v n wide =>
    if wide then [(.v n, l, BitVec.ofNat 64 (x % 2 ^ 32)), (.v (n + 1), l, BitVec.ofNat 64 (x / 2 ^ 32))]
    else [(.v n, l, BitVec.ofNat 64 x)]
  | .s n => [(.s n, 0, BitVec.ofNat 64 x)]
  | .a n => [(.a n, 0, BitVec.ofNat 64 x)]
  | .eta n => [(.eta n, 0, BitVec.ofNat 64 x)]
  | .none => []

/-- `atom` and `cas` issue (R167): the lanes that pass become one pending operation; the others trap. -/
def atomIssue (m : AtomMod) (o : Fields) (opc : Nat) (cas : Bool) (s : State) : Out :=
  let lanes := actLanes s.cur o (uniformDest o.d)
  if lanes.isEmpty then .next s.advance
  else
    let n := if m.sz then 8 else 4
    let ls : List LaneOp := lanes.map fun l =>
      ⟨l, atomAddr s o m.sp l, 0, atomVal s o m.sz o.b l, if cas then atomVal s o m.sz o.c l else 0⟩
    let (ok, bad, s) := atomLanes m.sp n 2 ls s
    if s.mustWait m.sp (ok.map (·.loc)) n (isRel m.ord) then .next (s.hold .fence)
    else
      let dst := atomDest o.d m.sz
      let s := if ok.isEmpty then s
        else s.issueOp o opc noQueue dst.regs (.atomic m.sp cas m.aop.toNat m.sz m.ord m.scope dst ok)
      .next (s.finish bad)

/-- `atom` (R166, R167). -/
def execAtom (m : AtomMod) (o : Fields) (s : State) : Out := atomIssue m o 0x200 false s
/-- `cas` (R166, R167). -/
def execCas (m : AtomMod) (o : Fields) (s : State) : Out := atomIssue m o 0x201 true s

/-- The value that `atom` stores, or none where nothing is written (R166). -/
def atomNew (aop n old b : Nat) : Option Nat :=
  let w := 8 * n
  let so := sext old w
  let sb := sext b w
  match aop with
  | 0 => some ((old + b) % 2 ^ w)
  | 1 => some (faddRn (BitVec.ofNat 32 old) (BitVec.ofNat 32 b)).toNat
  | 2 => some (min old b)
  | 3 => some (if so < sb then old else b)
  | 4 => some (fminmax F32 false old b)
  | 5 => some (max old b)
  | 6 => some (if sb < so then old else b)
  | 7 => some (fminmax F32 true old b)
  | 8 => some (old &&& b)
  | 9 => some (old ||| b)
  | 10 => some (old ^^^ b)
  | 11 => some b
  | _ => if 0 < so then some (old - 1) else none

/-- A row that an armed or installed registration covers: its blocks are not core-held (R374). -/
def State.rowCovered (s : State) (row : Nat) : Bool := s.sweep.regs.any fun e => e.2.liveAt row

/-- The block stays core-held after an atomic at scope `.core` on `.g` (R266, R374). -/
def State.holdBlock (s : State) (core pa : Nat) : State :=
  if s.rowCovered (s.dramLoc pa / 1024) then s
  else { s with mem := { s.mem with held := sput s.mem.held (pa / 64) core } }

/-- What a lane's access finds at its place. -/
inductive LaneRes
  | done (old : Nat) | bad (status : Nat) (replica : Bool) | wait
  deriving DecidableEq, Repr

/-- The place of an access of class 0x8: `.g` and `.k` through translation with `r` and `w`, at home (R265, R354). In
the apertures only an atomic is served, and that on the fabric (R447); `wait` marks a wait or a wake. -/
def State.atomPlace (s : State) (id : Nat) (wait : Bool) (sp : Space) (loc : Nat) : Except LaneRes Place × State :=
  if sp = .s ∨ sp = .y then (.ok ⟨loc, 0⟩, s)
  else
    match s.opTranslate id loc .both with
    | (.fault (.notPresent p), s) => (.error (if p = 0 ∨ sp = .k then .bad 1 false else .wait), s)
    | (.fault f, s) => (.error (.bad (faultStatus f) false), s)
    | (.ok pa attr _ _, s) =>
      if s.servedAttr attr pa = 2 then (.error (.bad 1 true), s)
      else if inHost pa ∨ (inFabric pa ∧ wait) then (.error (.bad 1 false), s)
      else (.ok ⟨pa, attr⟩, s)

/-- n bytes at the home of an access of class 0x8. -/
def State.homeRead (s : State) (op : Op) (sp : Space) (p : Place) (n : Nat) : Got × State :=
  if sp = .s ∨ sp = .y then (s.readLocal sp (spaceUnit sp op.core) p.pa n, s) else s.readPa op.agent 0 p.pa n

def State.homeWrite (s : State) (op : Op) (sp : Space) (p : Place) (b : Bytes) : State :=
  if sp = .s ∨ sp = .y then s.writeLocal sp (spaceUnit sp op.core) p.pa b else s.writePa op.agent p.attr p.pa b

/-- The scope at which an atomic acts at its place: at most that of its space (R167), `.dom` on the fabric (R447), and `.dev`
for a `.core` one on a row that a registration covers (R374). -/
def State.atomScope (s : State) (sp : Space) (scope : Scope) (p : Place) : Scope :=
  if sp ≠ .s ∧ sp ≠ .y ∧ inFabric p.pa then .dom
  else if sp = .g ∧ scope = .core ∧ isDram p.pa ∧ s.rowCovered (s.dramLoc p.pa / 1024) then .dev
  else scopeWithin scope sp

/-- One read-modify-write (R166, R167), which a release precedes and an acquire follows at its scope (R263). A release at `.dom`
or `.sys` waits for the acknowledgements of the group's fabric writes, and one at `.sys` for its zero-length reads (R448). -/
def State.rmw (s : State) (id : Nat) (op : Op) (sp : Space) (cas : Bool) (aop n : Nat) (ord : Ord) (scope : Scope)
    (l : LaneOp) : LaneRes × State :=
  match s.atomPlace id false sp l.loc with
  | (.error r, s) => (r, s)
  | (.ok p, s) =>
    let sc := s.atomScope sp scope p
    if s.relWaits op.gid (opKey id) ord sc then (.wait, s.sendReads op.gid (opKey id) ord sc)
    else
    let (x, s) := (s.releaseAt ord (flushedScope sc)).homeRead op sp p n
    if x.psn then (.bad 2 false, s)
    else
      let old := ofLe x.bytes
      let new := if cas then (if old = l.x then some l.y else none) else atomNew aop n old l.x
      let s := match new with
        | some v => s.homeWrite op sp p (leBytes n v)
        | none => s
      let s := if sp = .g ∧ scope = .core ∧ isDram p.pa then s.holdBlock op.core p.pa else s
      (.done old, s.acquireAt ord sc (dieOfCore op.core))

/-- The lanes of an atomic from its progress on, in ascending order (R167). The operation's trap has one cause: that of a
`REPLICA` page where some lane met one, whatever the others met (log 86). -/
def performLanes (id : Nat) (op : Op) (sp : Space) (cas : Bool) (aop n : Nat) (ord : Ord) (scope : Scope)
    (dst : Dest) : List LaneOp → State → State
  | [], s => s
  | l :: t, s =>
    match s.rmw id op sp cas aop n ord scope l with
    | (.wait, s) => s
    | (.done old, s) =>
      let s := s.modOp id fun op => { op with progress := op.progress + 1, outs := op.outs ++ dst.put l.lane old }
      performLanes id op sp cas aop n ord scope dst t s
    | (.bad st rep, s) =>
      let s := s.modOp id fun op =>
        { op.failLane l.lane st l.at_ with progress := op.progress + 1, replica := op.replica || rep }
      performLanes id op sp cas aop n ord scope dst t s

/-- `waitv` (R168): the wait issues; it reaches its place by its own step. -/
def execWaitv (m : AtomMod) (o : Fields) (s : State) : Out :=
  match actLanes s.cur o true, o.d with
  | l :: _, .s d =>
    let n := if m.sz then 8 else 4
    let a := atomAddr s o m.sp l
    match s.atomCheck m.sp a n 3 l with
    | (.error f, s) => .next (s.finish [f])
    | (.ok loc, s) =>
      if s.mustWait m.sp [loc] n false then .next (s.hold .fence)
      else
        let op := newOp s o 0x202 noQueue [.s d.val]
          (.wait m.sp (m.aop.getLsbD 0) m.sz m.ord m.scope d.val loc a (val s o.imm o.c l).toNat)
        let op := { op with outs := [], result := BitVec.ofNat 64 (atomVal s o m.sz o.b l), lmask := 0, progress := l }
        .next (s.addOp op).advance
  | _, _ => .next s.advance

/-- Monitor entries of a core, and those that a grid holds there (R168). -/
def State.monRoom (s : State) (core grid : Nat) : Bool :=
  let l := s.mon.filter fun e => e.core = core
  l.length < Config.monEntries
    && (l.filter fun e => e.grid = grid).length < (match s.gridOf grid with | some g => g.desc.monlim | none => Config.monEntries)

/-- A wait reaches its place (R168): the entry is installed before the value is read. -/
def State.performWait (s : State) (id : Nat) (op : Op) (sp : Space) (x wide : Bool) (ord : Ord) (scope : Scope)
    (loc at_ : Nat) : Out :=
  let n := if wide then 8 else 4
  let fails (s : State) (st : Nat) (rep : Bool) : Out :=
    .next ((s.modOp id fun op => { op.failLane op.progress st at_ with replica := rep }).completeOp id)
  match s.atomPlace id true sp loc with
  | (.error .wait, _) => notNow
  | (.error (.bad st rep), s) => fails s st rep
  | (.error (.done _), _) => notNow
  | (.ok p, s) =>
    let room := s.monRoom op.core op.grid
    let (v, s) := s.homeRead op sp p n
    if v.psn then fails s 2 false
    else
      let s := s.acquireAt ord (scopeWithin scope sp) (dieOfCore op.core)
      let s := s.modOp id fun op => { op with phase := .running, since := s.now }
      let e : MonEntry := ⟨op.core, sp, p.pa / 64, x, scope, id, op.grid⟩
      if ofLe v.bytes ≠ op.result.toNat then .next (s.endWait id 1)
      else if !room then .next (s.endWait id 3)
      else .next { s with mon := s.mon ++ [e] }

/-- The waiters that a `wake` may reach, in the order in which `.one` takes them (R169). -/
def State.wakeOrder (s : State) (sp : Space) (scope : Scope) (core block : Nat) : List MonEntry :=
  let cpd := Config.coresPerDie
  let die := dieOfCore core
  let at_ (c : Nat) : List MonEntry := s.mon.filter fun e => e.core = c && e.space = sp && e.block = block
  let same := (List.range cpd).map fun i => die * cpd + (core + i) % cpd
  let far := ((List.range 3).map fun i => (List.range cpd).map fun j => (die + i + 1) % 4 * cpd + j).flatten
  let cores := if sp = .s ∨ scope = .core then [core]
    else if sp = .y ∨ scope = .die then same else same ++ far
  (cores.map at_).flatten

/-- A `wake` acts at its place (R169, R268), or sends the zero-length reads that its release waits for (R448); none where it
has to wait. -/
def State.performWake (s : State) (id : Nat) (op : Op) (sp : Space) (all : Bool) (scope : Scope) (dst loc at_ : Nat) :
    Option State :=
  match s.atomPlace id true sp loc with
  | (.error (.bad st rep), s) =>
    some ((s.modOp id fun op => { op.failLane op.progress st at_ with replica := rep }).completeOp id)
  | (.error _, _) => none
  | (.ok p, s) =>
    let sc := scopeWithin scope sp
    let key := opKey id
    if s.relWaits op.gid key .rel sc then
      let t := s.sendReads op.gid key .rel sc
      if t.fabric.reads = s.fabric.reads then none else some t
    else
    let s := (s.releaseAt .rel (flushedScope sc)).endReads key
    let l := s.wakeOrder sp scope op.core (p.pa / 64)
    let l := if all then l else l.take 1
    let s := l.foldl State.wakeWaiter s
    let s := s.modOp id fun op => { op with outs := [(.s dst, 0, BitVec.ofNat 64 l.length)] }
    some (s.completeOp id)

/-- `wake` (R169): it acts at once where its page is there; a page that a pager has to supply leaves it outstanding. -/
def execWake (m : AtomMod) (o : Fields) (s : State) : Out :=
  match actLanes s.cur o true, o.d with
  | l :: _, .s d =>
    let a := atomAddr s o m.sp l
    match s.atomCheck m.sp a 4 2 l with
    | (.error f, s) => .next (s.finish [f])
    | (.ok loc, s) =>
      if s.mustWait m.sp [loc] 4 true then .next (s.hold .fence)
      else
        let id := s.nextId
        let all := m.aop.getLsbD 0
        let op := { newOp s o 0x203 noQueue [.s d.val] (.wake m.sp all m.scope d.val loc a) with progress := l }
        let s := s.addOp op
        .next ((s.performWake id op m.sp all m.scope d.val loc a).getD s).advance
  | _, _ => .next s.advance

/-- An atomic, a wait or a wake is performed at its place (R167 to R169). -/
def execAtomicPerform (id : Nat) (s : State) : Out :=
  match sfind s.ops id with
  | none => notNow
  | some op =>
    if op.phase ≠ .queued then notNow
    else match op.work with
      | .atomic sp cas aop wide ord scope dst lanes =>
        match s.lookUp id .both op.work.laneGranules with
        | (false, _) => notNow
        | (true, s) =>
          let t := performLanes id op sp cas aop (if wide then 8 else 4) ord scope dst (lanes.drop op.progress) s
          match sfind t.ops id with
          | some op' =>
            if op'.progress = lanes.length then .next ((t.endReads (opKey id)).completeOp id)
            else if op'.progress = op.progress ∧ t.fabric.reads = s.fabric.reads then notNow
            else .next t
          | none => notNow
      | .wait sp x wide ord scope _ loc at_ _ => s.performWait id op sp x wide ord scope loc at_
      | .wake sp all scope dst loc at_ =>
        match s.performWake id op sp all scope dst loc at_ with
        | some s => .next s
        | none => notNow
      | _ => notNow

/-- A sleeping wait passes its cycle limit (R168). -/
def execWaitvTimeout (id : Nat) (s : State) : Out :=
  match sfind s.ops id with
  | some op =>
    match op.work with
    | .wait _ _ _ _ _ _ _ _ limit =>
      if op.phase = .running ∧ limit ≠ 0 ∧ op.since + limit ≤ s.now then .next (s.endWait id 2) else notNow
    | _ => notNow
  | none => notNow

/-- A handler's own load that read poison traps while the group is in its handler, which ends the group (R240). -/
def State.handlerPoison (s : State) (op : Op) (bad : List LaneOp) : Option State :=
  match s.anyGroup op.gid with
  | some g =>
    if op.handler ∧ g.busy ∧ !bad.isEmpty then
      some (s.endGroupOf op.gid ⟨12, 3, true, false, op.pc.toNat, 0, laneSet fun l => bad.any fun x => x.lane = l⟩)
    else none
  | none => none

/-- A load's value arrives (R24): its registers are written and freed; a lane that met poison leaves a record (R462), or
ends a group that is in its handler (R240). -/
def execLoadReturn (id : Nat) (s : State) : Out :=
  match sfind s.ops id with
  | some op =>
    match op.work with
    | .load _ _ writes bad =>
      if op.phase ≠ .queued then notNow
      else
        let fail (op : Op) (l : LaneOp) : Op := op.failLane l.lane 2 l.at_
        let s := s.modOp id fun op => { op with outs := writes }
        match s.handlerPoison op bad with
        | some s => .next (s.endOp id)
        | none => .next ((s.modOp id fun op => bad.foldl fail op).completeOp id)
    | _ => notNow
  | none => notNow

end Sys2Proof.Machine
end

