-- ==== Sys2Proof/Machine/Matrix.lean ====
section
/-! DEFINITION. Matrix instructions, class 0xA (R183, R184, R190 to R198), the tiles behind a name (R284 to R290), and
the work of the matrix units (R69 to R79). -/

namespace Sys2Proof.Machine

/-! ### Collective issue and tiles -/

/-- What the preparation of an instruction at issue gives: a hold, a trap, or what it read. -/
inductive Prep (α : Type)
  | hold (r : Stall) | trap (code cause : Nat) | ok (a : α)

/-- Whether a collective instruction acts (R183): every lane that has not exited is live, and one guard in all of them. -/
inductive Collective
  | none | act | conv
  deriving DecidableEq, Repr

def Group.collective (g : Group) (gd : Guard) (quartet : Bool) : Collective :=
  if !g.converged then .conv
  else if g.effect gd = 0 then (if quartet then .conv else .none)
  else if g.effect gd = g.live then .act else .conv

/-- The physical tile of an index of a name (R284). -/
def tileKey (name i : Nat) : Nat := name * 2 + i

/-- The physical tile that a name is bound to. -/
def Group.live? (g : Group) (name : Nat) : Option Nat := (sfind g.liveTile name).map (tileKey name)

/-- The index of a name's spare tile, if neither is draining or building (R284, R285). -/
def State.spare (s : State) (name : Nat) : Option Nat :=
  ([0, 1].filter fun i => sfind s.cur.liveTile name ≠ some i).find? fun i => !s.tileBusy s.cur.gid (tileKey name i)

/-- A correcting update of the name is outstanding, with its operation's number (R202). -/
def State.awaiting (s : State) (name : Nat) : Option (Nat × Op) :=
  (s.opsOf s.cur.gid).find? fun e => match e.2.work with | .cor w => w.name = name && w.mode ≠ .rsp | _ => false

/-- Where an instruction that names a tile stands with the verdict of an earlier update (R202). An instruction that was
never held, because the verdict already stands when it comes to issue, traps like a held one (log 70). -/
inductive Verdict
  | clear | wait | entry (idx : Nat) | heldBack (id : Nat)
  deriving DecidableEq, Repr

def State.verdict (s : State) (name : Nat) : Verdict :=
  match s.cur.ring.find? fun e => !e.raised && e.status = 6 && e.tile = some name with
  | some e => .entry e.idx
  | none =>
    match s.awaiting name with
    | some (id, op) => if op.phase = .heldBack ∧ op.status = 6 then .heldBack id else .wait
    | none => .clear

/-- The `DIVERGE` trap at a held instruction (R202, R241): the ring entry that it names, or a record that was held
back, which the trap consumes. -/
def State.trapDiverge (s : State) (ring : Option Nat) (heldId : Option Nat) : State :=
  let s := match heldId with
    | some id => (s.modCur fun g => { g with waitingRecs := g.waitingRecs.filter (· ≠ id) }).endOp id
    | none => s
  let pc := s.cur.pc
  s.takeTrap { code := 10, cause := 0, slot := pcSlot pc, tpc := pc, resume := pc,
               xarg := match ring with | some i => 0x500 + 64 * i | none => 0,
               ring := ring, deferred := true, held := heldId.isSome }

/-- An instruction of class 0xA or 0xB on a tile name: the convergence rule, the verdict that it waits for, and then
what it does (R183, R202). -/
def tileIssue (s : State) (o : Fields) (quartet : Bool) (name : Nat) (go : Unit → Out) : Out :=
  match s.cur.collective o.guard quartet with
  | .conv => .next (s.trap 2 0)
  | .none => .next s.advance
  | .act =>
    match s.verdict name with
    | .wait => .next (s.hold .tilewait)
    | .entry i => .next (s.trapDiverge (some i) none)
    | .heldBack id => .next (s.trapDiverge none (some id))
    | .clear => go ()

/-- The number of a tile operand. -/
def tileNo : Opnd → Nat
  | .m n => n.val | _ => 0

/-- No scales (R76). -/
def ScaleSrc.none : ScaleSrc := ⟨false, false, 0, 0, 0, 0⟩

/-- A tile of zeros with no chain (R193, R196). -/
def Tile.zero : Tile := ⟨[], [], false, .f32, .f32, 0, 0, 0, false, .none, none, false⟩

/-- A name bound to a tile (R285). -/
def Group.bindTile (g : Group) (name i : Nat) (t : Tile) : Group :=
  { g with liveTile := sput g.liveTile name i, tiles := sput g.tiles (tileKey name i) t }

/-- The issuing command turns away from the name's live tile (R285, R289). -/
def Group.turnAway (g : Group) (name id : Nat) : Group :=
  match g.live? name with
  | some k => { g with tiles := sput g.tiles k { (sfind g.tiles k).getD Tile.zero with turned := some id } }
  | none => g

/-- The command that issues next renames: it turns away from the live tile, and the name's spare tile, whose old partial
has been dropped, becomes the live one (R285, R289). -/
def State.rename (s : State) (name i : Nat) (t : Tile) : State :=
  (s.dropTurned s.cur.gid (tileKey name i)).modCur fun g => (g.turnAway name s.nextId).bindTile name i t

/-! ### `mma` and `mmq` at issue -/

/-- The formats of the residue path and of the float path (R192). -/
def pathTakes (residue : Bool) (f : Fmt) : Bool :=
  if residue then [.i4, .i8, .u8, .i12, .f8a, .f8b].contains f else [.bf16, .f16, .f8a, .f8b].contains f

/-- A format block (R192): none where it breaks its table. -/
def formatBlock (g : Group) (residue : Bool) (x : Nat) : Option FormatBlock :=
  match fmtOf (bits x 3 0), fmtOf (bits x 7 4) with
  | some fa, some fb =>
    if pathTakes residue fa ∧ pathTakes residue fb ∧ bits x 10 8 < 5 ∧ bits x 15 13 = 0 ∧ bits x 255 96 = 0 then
      some ⟨fa, fb, bits x 10 8, bits x 31 16,
        ⟨x.testBit 11, x.testBit 12, bits x 63 32, bits x 95 64, g.sgs.base, g.sgs.limit⟩⟩
    else none
  | _, _ => none

/-- K (R191). -/
def depthK (fa fb : Fmt) : Nat :=
  let w := max (fmtBits fa) (fmtBits fb)
  if w ≤ 4 then 256 else if w ≤ 8 then 128 else 64

/-- Registers read at issue, 64 lanes to a register; exited lanes supply zero (R184). -/
def Group.readRegs (g : Group) (n count : Nat) : List Word :=
  ((List.range count).map fun r => (List.range 64).map fun l =>
    if g.exited.getLsbD l then 0 else g.readV (n + r) l).flatten

/-- The first register of a V operand. -/
def vregNo : Opnd → Nat
  | .v n => n.val | _ => 0

/-- Some register of a run is pending (R24). -/
def State.runPending (s : State) (n count : Nat) : Bool := (List.range count).any fun r => s.pending s.cur (.v (n + r))

/-- The checks and reads of `mma` and `mmq` at issue (R184, R191, R192): `quartet` for `mmq`. -/
def mmaPrep (s : State) (m : MmaMod) (o : Fields) (quartet : Bool) : Prep MmaWork :=
  let g := s.cur
  let name := tileNo o.d
  let foff := (val s o.imm o.c 0).toNat
  let aoff := (val s o.imm o.a 0).toNat
  match segCheck g .s foff 32 32 with
  | some c => .trap c 0
  | none =>
    let x := s.readLocal .s g.coreNo (g.sgs.base + foff) 32
    if x.psn then .trap 12 3
    else match formatBlock g m.residue (ofLe x.bytes) with
      | none => .trap 1 2
      | some f =>
        let k := depthK f.fa f.fb
        match segCheck g .s aoff (64 * k * fmtBits f.fa / 8) 128 with
        | some c => .trap c 0
        | none =>
          let v := vregNo o.b
          let n := k * fmtBits f.fb / (if quartet then 128 else 32)
          if 16 * g.vblocks < v + n then .trap 1 2
          else if s.runPending v n then .hold .regwait
          else
            let fresh := m.z || (g.live? name).isNone
            let q := if quartet then k / 4 else k
            let lo := if quartet then g.slice * q else 0
            let w : MmaWork := ⟨name, m.residue, m.z, m.fin, m.sg.toNat, f, g.sgs.base + aoff, [], g.readRegs v n, k, lo,
              lo + q, 0, fresh⟩
            if fresh then
              match s.spare name with
              | none => .hold .tilewait
              | some i => .ok { w with tile := tileKey name i }
            else .ok { w with tile := (g.live? name).getD 0 }

/-- A new chain's tile (R193): the chain keeps `kb` on both paths, though the float path's arithmetic ignores its value
(R192, log 49). -/
def MmaWork.newTile (w : MmaWork) : Tile :=
  { Tile.zero with residue := w.residue, fa := w.fb.fa, fb := w.fb.fb, kb := w.fb.kb, site := w.fb.site, scales := w.fb.src }

/-- The rename of a command that opens a chain (R193, R285). -/
def State.openChain (s : State) (w : MmaWork) : State :=
  if w.fresh then s.rename w.name (w.tile % 2) w.newTile else s

/-- `mma` (R193). -/
def execMma (m : MmaMod) (o : Fields) (s : State) : Out :=
  tileIssue s o false (tileNo o.d) fun _ =>
    match mmaPrep s m o false with
    | .hold r => .next (s.hold r)
    | .trap c k => .next (s.trap c k)
    | .ok w => .next ((s.openChain w).issueOp o 0x280 3 [] (.mma w)).advance

/-- The role-2 groups of the issuing group's team that still run. -/
def State.quartet (s : State) : List Group :=
  s.groups.filter fun g => g.grid = s.cur.grid && g.gngx = s.cur.gngx && g.tign = s.cur.tign && g.role = 2
    && g.exited != BitVec.allOnes 64

/-- The team holds exactly one role-2 group on each slice (R195). -/
def State.hasQuartet (s : State) : Bool :=
  s.quartet.length = 4 && (List.range 4).all fun i => s.quartet.any fun g => g.slice = i

/-- `mmq` and `corq` at issue (R195): the group brings what it read and is held until the four have met. The convergence
rule binds a held group that is stepped as well (R440). -/
def quartetIssue (s : State) (o : Fields) (name : Nat) (prep : Unit → Prep Rdv) : Out :=
  if s.cur.rdv.isSome ∧ !s.cur.converged then .next (s.trap 2 0)
  else match s.cur.rdv with
  | some (.split c) => .next (s.trapHere 11 c)
  | some _ => .next (s.hold .quartet)
  | none =>
    tileIssue s o true name fun _ =>
      if !s.hasQuartet then .next (s.trapHere 11 1)
      else match prep () with
        | .hold r => .next (s.hold r)
        | .trap c k => .next (s.trap c k)
        | .ok r => .next ((s.modCur fun g => { g with rdv := some r }).hold .quartet)

/-- `mmq` (R195, R291). -/
def execMmq (m : MmaMod) (o : Fields) (s : State) : Out :=
  quartetIssue s o (tileNo o.d) fun _ =>
    match mmaPrep s m o true with
    | .hold r => .hold r
    | .trap c k => .trap c k
    | .ok w => .ok (.mmq w o)

/-- `mrd` (R196). -/
def execMrd (m : TileMod) (o : Fields) (s : State) : Out :=
  let name := tileNo o.a
  let off := (val s o.imm o.b 0).toNat
  tileIssue s o false name fun _ =>
    match segCheck s.cur m.sp off (4096 * (fmtBits m.fmt / 8)) 256 with
    | some c => .next (s.trap c 0)
    | none => .next (s.issueOp o 0x282 3 []
        (.mrd name (s.cur.live? name) m.fmt m.rnd m.sat m.sp ((s.cur.seg m.sp).base + off))).advance

/-- `mwr` (R196, R286): the rename takes place at issue. -/
def execMwr (m : TileMod) (o : Fields) (s : State) : Out :=
  let name := tileNo o.d
  let off := (val s o.imm o.a 0).toNat
  tileIssue s o false name fun _ =>
    match segCheck s.cur m.sp off 16384 256 with
    | some c => .next (s.trap c 0)
    | none =>
      match s.spare name with
      | none => .next (s.hold .tilewait)
      | some i =>
        .next ((s.rename name i { Tile.zero with loaded := true }).issueOp o 0x283 3 []
          (.mwr name (tileKey name i) m.sp ((s.cur.seg m.sp).base + off))).advance

/-- `mclr` (R196, R285). It is not held where the name's other tile is still draining (log 89: R284 has one tile of an unbound
name spare, and R285 holds only what needs the spare tile). -/
def execMclr (o : Fields) (s : State) : Out :=
  let name := tileNo o.d
  tileIssue s o false name fun _ =>
    .next ((s.modCur fun g => { g.turnAway name s.nextId with liveTile := sdel g.liveTile name }).issueOp o 0x284 3 []
      (.mclr name (s.cur.live? name))).advance

/-! ### Residue arithmetic (R69 to R77) -/

/-- The container of a residue triple (R69). -/
def rnsPack (a b c : Nat) : BitVec 34 := BitVec.ofNat 34 (a + b * 2 ^ 11 + c * 2 ^ 22)

/-- A multiply-accumulate in the three channels (R70). -/
def rnsMac (p : BitVec 34) (x y : Int) : BitVec 34 :=
  let ch (r : Nat) (n : Nat) : Nat := ((r + x % n * (y % n)) % n).toNat
  rnsPack (ch (bits p.toNat 10 0) 2047) (ch (bits p.toNat 21 11) 2048) (ch (bits p.toNat 33 22) 2049)

/-- Reconversion (R71). -/
def rnsVal (p : BitVec 34) : Int :=
  let xa : Int := bits p.toNat 10 0
  let t0 : Int := bits p.toNat 21 11
  let xc : Int := bits p.toNat 33 22
  let t1 := (xa - t0) % 2047
  let t2 := (1024 * ((t0 - xc) - t1)) % 2049
  let x := t0 + 2048 * t1 + 4192256 * t2
  if 4294966272 ≤ x then x - 8589932544 else x

/-- The contribution of a reconverted partial with its scales and exponent (R76, R77). -/
def residueTerm (x : Int) (sa sb : Ext) (e : Int) : Ext :=
  if x = 0 ∧ !isExc sa ∧ !isExc sb then .fin false 0 0
  else scaleExt (mulExt (mulExt (ofSigned false x 0) sa) sb) e

/-- A contribution added to an accumulator element and rounded once (R76). -/
def addTerm (acc : Word) (t : Ext) : Word := rnF32 (addExt .rn (f32 acc) t)

/-- 32 elements along K of one row of A or one column of B, aligned where their format is a float one (R73 to R75). -/
structure KBlock where
  q : List Int
  e : Int
  exc : Bool
  /-- Elements that are NaN or infinite, and elements that alignment loses (R198), by place. -/
  odd : List Bool
  lost : List Bool
  deriving DecidableEq, Repr

/-- The exponent of a nonzero finite element (R74). -/
def elemExp (F : FloatFmt) : Ext → Option Int
  | .fin _ m e => if m = 0 then none else some (if m < 2 ^ F.manBits then 1 - F.bias else e + F.manBits)
  | _ => none

def kBlock (f : Fmt) (xs : List Nat) : KBlock :=
  match floatFmt f with
  | none => ⟨xs.map (intVal f), 10, false, xs.map fun _ => false, xs.map fun _ => false⟩
  | some F =>
    let vs := xs.map (floatVal F)
    let exps := vs.filterMap (elemExp F)
    let e := exps.foldl max (1 - F.bias)
    let q (v : Ext) : Int := match v with | .fin n m x => roundInt .rn n m (x + 10 - e) | _ => 0
    let exc := vs.any isExc
    ⟨vs.map q, e, exc, vs.map isExc, vs.map fun v => !isExc v && !isZero v && q v == 0⟩

/-- Element k of packed elements (R58). -/
def packedElem (b x k : Nat) : Nat := bits x (b * k + b - 1) (b * k)

/-- The elements of each row of A (R191). -/
def rowsOfA (f : Fmt) (k : Nat) (a : Bytes) : List (List Nat) :=
  let n := k * fmtBits f / 8
  (List.range 64).map fun i =>
    let x := ofLe ((a.drop (n * i)).take n)
    (List.range k).map (packedElem (fmtBits f) x)

/-- The elements of each column of B (R191), from registers of 64 lanes. -/
def colsOfB (f : Fmt) (k : Nat) (b : List Word) : List (List Nat) :=
  let per := 32 / fmtBits f
  (List.range 64).map fun j =>
    (List.range k).map fun i => packedElem (fmtBits f) (b.getD (i / per * 64 + j) 0).toNat (i % per)

/-- The values of the n keys from k on, in order. -/
def toDense {α : Type} (d : α) : Nat → Nat → Sparse α → List α
  | 0, _, _ => []
  | n + 1, k, [] => d :: toDense d n (k + 1) []
  | n + 1, k, (k', v) :: t => if k' = k then v :: toDense d n (k + 1) t else d :: toDense d n (k + 1) ((k', v) :: t)

/-- The map that holds a list of values from key k on. -/
def ofDense {α : Type} [DecidableEq α] (d : α) : Nat → List α → Sparse α
  | _, [] => []
  | k, v :: t => if v = d then ofDense d (k + 1) t else (k, v) :: ofDense d (k + 1) t

/-- An element of a tile with its residue partial. -/
abbrev TileCell := Word × BitVec 34

def Tile.cells (t : Tile) : List TileCell := (toDense 0 4096 0 t.acc).zip (toDense 0 4096 0 t.res)

def Tile.setCells (t : Tile) (l : List TileCell) : Tile :=
  { t with acc := ofDense 0 0 (l.map (·.1)), res := ofDense 0 0 (l.map (·.2)) }

/-- Every element changed; f takes its row and its column. -/
def Tile.mapCells (t : Tile) (f : Nat → Nat → TileCell → TileCell) : Tile :=
  t.setCells (t.cells.zipIdx.map fun e => f (e.2 / 64) (e.2 % 64) e.1)

/-- The block length that `kb` names, 0 for the whole of K (R192). -/
def kbLen (kb : Nat) : Nat := if kb = 0 then 0 else 16 * 2 ^ kb

/-- The scales of K-block n of A or of B (R192): the status where they cannot be read. -/
def State.readScales (s : State) (core : Nat) (c : ScaleSrc) (ofB : Bool) (n : Nat) : Except Nat (List Ext) :=
  let off := (if ofB then c.sbo else c.sao) + 128 * n
  if !(if ofB then c.hsb else c.hsa) then .ok (List.replicate 64 (.fin false 1 0))
  else if c.segL < off + 128 ∨ off % 2 ≠ 0 then .error 1
  else
    let x := s.readLocal .s core (c.segB + off) 128
    if x.psn then .error 2
    else .ok ((List.range 64).map fun i => floatVal BF16 (ofLe ((x.bytes.drop (2 * i)).take 2)))

/-- The scales of A and of B. -/
def State.bothScales (s : State) (core : Nat) (c : ScaleSrc) (n : Nat) : Except Nat (List Ext × List Ext) :=
  match s.readScales core c false n, s.readScales core c true n with
  | .ok x, .ok y => .ok (x, y)
  | .error e, _ => .error e
  | _, .error e => .error e

/-- 32 steps of K on one element (R193): products into the partial, and at a boundary the reconversion. -/
def stepCell (bnd : Bool) (x y : KBlock) (sa sb : Ext) (c : TileCell) : TileCell :=
  let part := (x.q.zip y.q).foldl (fun p e => rnsMac p e.1 e.2) c.2
  if bnd then
    (addTerm c.1 (if x.exc || y.exc then .nan else residueTerm (rnsVal part) sa sb (x.e + y.e - 20)), 0)
  else (c.1, part)

/-- Settling one element (R194): only a partial that is not zero contributes. -/
def settleCell (sa sb : Ext) (c : TileCell) : TileCell :=
  if c.2 = 0 then c else (addTerm c.1 (residueTerm (rnsVal c.2) sa sb 0), 0)

/-- A tile settled (R194): with the scales of the K-block that its position names, or the status where they cannot be
read; a tile with an uncorrectable error gives status 2 (R460). -/
def State.settle (s : State) (core : Nat) (t : Tile) : Except Nat Tile :=
  if t.bad then .error 2
  else if t.res.isEmpty then .ok t
  else
    let L := kbLen t.kb
    match s.bothScales core t.scales (if L = 0 then 0 else (t.kpos - 1) / L) with
    | .error e => .error e
    | .ok (sa, sb) => .ok (t.mapCells fun i j => settleCell (sa.getD i .nan) (sb.getD j .nan))

/-- The block of 32 elements from p on of each line. -/
def blocksAt (f : Fmt) (p : Nat) (ls : List (List Nat)) : List KBlock := ls.map fun l => kBlock f ((l.drop p).take 32)

/-- Elements NaN or infinite, and elements lost, of A and of the rows lo to hi - 1 of B, in 32 steps of K from p on. -/
def tally (p lo hi : Nat) (A B : List KBlock) : Nat × Nat :=
  let own (l : List Bool) : Nat := (l.zipIdx.filter fun e => e.1 && lo ≤ p + e.2 && p + e.2 < hi).length
  let all (l : List Bool) : Nat := l.count true
  ((A.map fun b => all b.odd).sum + (B.map fun b => own b.odd).sum,
    (A.map fun b => all b.lost).sum + (B.map fun b => own b.lost).sum)

/-- What steps of K give: the tile, the steps done, the counts and the status. -/
structure KRun where
  tile : Tile
  done : Nat
  odd : Nat
  lost : Nat
  status : Nat

/-- Steps of the residue path, 32 of K at a time (R193, R288). Where the scales of a boundary cannot be read, the steps
before the 32 that end there stand, and kpos stops there (log 79). -/
def residueSteps (s : State) (core : Nat) (w : MmaWork) (A B : List (List Nat)) : Nat → KRun → KRun
  | 0, r => r
  | n + 1, r =>
    let p := r.done
    let pos := r.tile.kpos + 32
    let L := kbLen w.fb.kb
    let aligned := (floatFmt w.fb.fa).isSome || (floatFmt w.fb.fb).isSome
    let bnd := aligned || (L ≠ 0 && pos % L = 0)
    let a := blocksAt w.fb.fa p A
    let b := blocksAt w.fb.fb p B
    let sc := if bnd then s.bothScales core w.fb.src (if L = 0 then 0 else (pos - 1) / L) else .ok ([], [])
    match sc with
    | .error e => { r with status := e }
    | .ok (sa, sb) =>
      let z : KBlock := ⟨[], 0, false, [], []⟩
      let t := r.tile.mapCells fun i j => stepCell bnd (a.getD i z) (b.getD j z) (sa.getD i .nan) (sb.getD j .nan)
      let c := tally p w.lo w.hi a b
      residueSteps s core w A B n ⟨{ t with kpos := pos }, p + 32, r.odd + c.1, r.lost + c.2, 0⟩

/-- The products of one element of the float path (R78). -/
def floatCell (fa fb : Fmt) (row col : List Nat) (acc : Word) : Word :=
  let F := (floatFmt fa).getD F32
  let G := (floatFmt fb).getD F32
  rnF32 (sumExt false (f32 acc) ((row.zip col).map fun e => mulExt (floatVal F e.1) (floatVal G e.2)))

/-- The whole of K on the float path: one rounding for each element (R78). -/
def floatSteps (w : MmaWork) (A B : List (List Nat)) (t : Tile) : KRun :=
  let t' := t.mapCells fun i j c => (floatCell w.fb.fa w.fb.fb (A.getD i []) (B.getD j []) c.1, c.2)
  let F := (floatFmt w.fb.fa).getD F32
  let G := (floatFmt w.fb.fb).getD F32
  let odd (H : FloatFmt) (l : List Nat) : Nat := (l.filter fun x => isExc (floatVal H x)).length
  ⟨{ t' with kpos := t.kpos + w.k }, w.k,
    (A.map (odd F)).sum + (B.map fun l => odd G ((l.drop w.lo).take (w.hi - w.lo))).sum, 0, 0⟩

/-! ### The work of the matrix units -/

/-- A physical tile of a group. -/
def State.tileOf (s : State) (gid key : Nat) : Tile :=
  match s.tileGroup gid with
  | some g => (sfind g.tiles key).getD Tile.zero
  | none => Tile.zero

def State.setTile (s : State) (gid key : Nat) (t : Tile) : State :=
  s.modGroup gid fun g => { g with tiles := sput g.tiles key t }

/-- The accumulator elements that are NaN or infinite. -/
def Tile.oddCount (t : Tile) : Nat := (t.acc.filter fun e => isExc (f32 e.2)).length

/-- An `mma` starts (R193, R197, R290): its chain check, its rows of A. A status other than 0 ends it. The chain of a loaded
tile is adopted (R286) before A is read, and stays so where A is poisoned (log 79). -/
def State.mmaBegin (s : State) (id : Nat) (op : Op) (w : MmaWork) : Nat × State :=
  let t := s.tileOf op.gid w.tile
  let same := t.residue = w.residue ∧ t.fa = w.fb.fa ∧ t.fb = w.fb.fb ∧ t.kb = w.fb.kb
  if !t.loaded ∧ ¬ same then (4, s.tallyUp id w.fb.site 0 [0, 0, 0, 0, 0, 0, 1])
  else
    let t := if t.loaded then
        { t with residue := w.residue, fa := w.fb.fa, fb := w.fb.fb, kb := w.fb.kb, site := w.fb.site, loaded := false }
      else t
    let s := s.setTile op.gid w.tile { t with scales := w.fb.src }
    let x := s.readLocal .s op.core w.aAt (64 * w.k * fmtBits w.fb.fa / 8)
    if x.psn then (2, s.tallyUp id w.fb.site 0 [])
    else (0, s.modOp id fun op => { op with work := .mma { w with a := x.bytes } })

/-- The steps of an `mma` from its progress up to a bound, with the settlement of `.fin` at the end (R193); a tile with an
uncorrectable error ends it with status 2 (R460). -/
def State.mmaSteps (s : State) (id : Nat) (op : Op) (w : MmaWork) (upto : Nat) : State :=
  let t := s.tileOf op.gid w.tile
  let A := rowsOfA w.fb.fa w.k w.a
  let B := colsOfB w.fb.fb w.k w.b
  let r : KRun :=
    if t.bad then ⟨t, op.progress, 0, 0, 2⟩
    else if w.residue then residueSteps s op.core w A B ((upto - op.progress) / 32) ⟨t, op.progress, 0, 0, 0⟩
    else if upto = w.k then floatSteps w A B t else ⟨t, upto, 0, 0, 0⟩
  let r := if r.done = w.k ∧ w.fin ∧ r.status = 0 then
      match s.settle op.core r.tile with
      | .ok t => { r with tile := t }
      | .error e => { r with status := e }
    else r
  let s := (s.setTile op.gid w.tile r.tile).tallyUp id w.fb.site 0 [r.odd, r.lost, r.tile.oddCount - t.oddCount]
  s.modOp id fun op =>
    { op with progress := r.done, done := r.done, status := r.status,
              phase := if r.done = w.k ∨ r.status ≠ 0 then .ended else op.phase }

/-- The steps of K to the next granule (R189, R190). -/
def MmaWork.granule (w : MmaWork) (p : Nat) : Nat := if w.sg = 0 then w.k else min w.k (p + 16 * 2 ^ w.sg)

/-- `mrd` (R194, R196): the tile is settled and written out. -/
def State.mrdRun (s : State) (id : Nat) (op : Op) (tile : Option Nat) (fmt : Fmt) (rnd : Rnd) (sat : Bool) (sp : Space)
    (dst : Nat) : State :=
  let n := fmtBits fmt / 8
  let put (s : State) (acc : Sparse Word) : State :=
    let b := ((toDense 0 4096 0 acc).map fun x => leBytes n (convElem .f32 fmt rnd sat x.toNat)).flatten
    (s.writeLocal sp (spaceUnit sp op.core) dst b).endWork id 0
  match tile with
  | none => put s []
  | some k =>
    match s.settle op.core (s.tileOf op.gid k) with
    | .error e => s.endWork id e
    | .ok t => put (s.setTile op.gid k t) t.acc

/-- `mwr` (R196, R286): the values read into the tile; a failed read leaves it at +0. -/
def State.mwrRun (s : State) (id : Nat) (op : Op) (tile : Nat) (sp : Space) (src : Nat) : State :=
  let x := s.readLocal sp (spaceUnit sp op.core) src 16384
  if x.psn then s.endWork id 2
  else
    let t := s.tileOf op.gid tile
    let acc := ofDense 0 0 ((List.range 4096).map fun i => BitVec.ofNat 32 (ofLe ((x.bytes.drop (4 * i)).take 4)))
    (s.setTile op.gid tile { t with acc := acc }).endWork id 0

end Sys2Proof.Machine
end

