-- ==== Sys2Proof/Machine/Correct.lean ====
section
/-! DEFINITION. Correcting update and solve, class 0xB (R199 to R204, R293), and the work of these commands. -/

namespace Sys2Proof.Machine

/-- The step size ends an update at once, with a status (R201), or lets it run. -/
def etaStatus (eta : Word) : Option Nat :=
  match f32 eta with
  | .nan => some 6
  | .inf _ => some 6
  | .fin _ m _ => if m = 0 then some 0 else none

/-- The checks and reads of `cor` and `corq` at issue (R184, R199, R285). The building tile is taken where the update has
a step size to apply. -/
def corPrep (s : State) (m : CorMod) (o : Fields) (quartet : Bool) : Prep CorWork :=
  let g := s.cur
  let name := tileNo o.d
  let n := m.kn.toNat + 1
  let eta := g.readEta m.es.toNat
  let build := m.mode ≠ .rsp ∧ (etaStatus eta).isNone
  let w : CorWork := ⟨name, m.mode, eta, if m.mode = .rsp then 0 else val s o.imm o.c 0, n, m.sp,
    g.readRegs (vregNo o.a) (if quartet then n / 4 else n), g.readRegs (vregNo o.b) n, vregNo o.b, g.present,
    g.live? name, none⟩
  if build then
    match s.spare name with
    | none => .hold .tilewait
    | some i => .ok { w with build := some (tileKey name i) }
  else .ok w

/-- The command takes its building tile: a partial that the name has turned away from is dropped (R289). -/
def State.takeBuild (s : State) (w : CorWork) : State :=
  match w.build with | some b => s.dropTurned s.cur.gid b | none => s

/-- The registers that the command writes at its completion (R201). -/
def CorWork.dests (w : CorWork) : List RegRef :=
  if w.mode = .rsp then (List.range w.n).map fun t => .v (w.vreg + t) else []

/-- `cor` (R200). -/
def execCor (m : CorMod) (o : Fields) (s : State) : Out :=
  tileIssue s o false (tileNo o.d) fun _ =>
    match corPrep s m o false with
    | .hold r => .next (s.hold r)
    | .trap c k => .next (s.trap c k)
    | .ok w => .next ((s.takeBuild w).issueOp o 0x2C0 3 w.dests (.cor w)).advance

/-- `corq` (R200, R291). -/
def execCorq (m : CorMod) (o : Fields) (s : State) : Out :=
  quartetIssue s o (tileNo o.d) fun _ =>
    match corPrep s m o true with
    | .hold r => .hold r
    | .trap c k => .trap c k
    | .ok w => .ok (.corq w o)

/-- A collective command that names no tile: the convergence rule, and then its issue (R183). -/
def collectiveIssue (s : State) (o : Fields) (go : Unit → State) : Out :=
  match s.cur.collective o.guard false with
  | .conv => .next (s.trap 2 0)
  | .none => .next s.advance
  | .act => .next (go ()).advance

/-- A run of registers (R199). -/
def regRun (n count : Nat) : List RegRef := (List.range count).map fun t => .v (n + t)

/-- `gram` (R203). -/
def execGram (m : CorMod) (o : Fields) (s : State) : Out :=
  let n := m.kn.toNat + 1
  let d := vregNo o.d
  collectiveIssue s o fun _ =>
    s.issueOp o 0x2C2 3 (regRun d n) (.gram n d s.cur.present (s.cur.readRegs (vregNo o.a) n))

/-- `trsv` (R204). -/
def execTrsv (m : CorMod) (o : Fields) (s : State) : Out :=
  let n := m.kn.toNat + 1
  let d := vregNo o.d
  collectiveIssue s o fun _ =>
    s.issueOp o 0x2C3 3 (regRun d n)
      (.trsv n d s.cur.present (s.cur.readEta m.es.toNat) (s.cur.readRegs (vregNo o.a) n) (s.cur.readRegs (vregNo o.b) n))

/-! ### The work (R200 to R204) -/

/-- An exact sum whose first term stands as the accumulator, rounded once (R79, R200). -/
def sumRn (first : Ext) (rest : List Ext) : Word := rnF32 (sumExt false first rest)

/-- The sum of products of two lists of patterns. -/
def dotRn (x y : List Word) : Word :=
  match (x.zip y).map fun e => mulExt (f32 e.1) (f32 e.2) with
  | [] => 0
  | t :: ts => sumRn t ts

/-- Register t of registers read at issue. -/
def regAt (l : List Word) (t : Nat) : List Word := (l.drop (64 * t)).take 64

/-- The rows of a tile. -/
def Tile.rows (t : Tile) : List (List Word) :=
  let d := toDense 0 4096 0 t.acc
  (List.range 64).map fun i => (d.drop (64 * i)).take 64

/-- A tile with its elements given by rows. -/
def Tile.ofRows (t : Tile) (rows : List (List Word)) : Tile := { t with acc := ofDense 0 0 rows.flatten, res := [] }

/-- v(b+t) - S·k (R200). -/
def residual (rows : List (List Word)) (k v : List Word) : List Word :=
  (rows.zip v).map fun e => fsubRn e.2 (dotRn e.1 k)

/-- One key step of `.upd` (R200). -/
def updStep (eta : Word) (k v : List Word) (rows : List (List Word)) : List (List Word) :=
  let es := residual rows k v
  (rows.zip es).map fun r =>
    let c := mulExt (f32 eta) (f32 r.2)
    (r.1.zip k).map fun e => sumRn (f32 e.1) [mulExt c (f32 e.2)]

/-- The whole of `.add` (R200). -/
def addAll (eta : Word) (n : Nat) (keys xs : List Word) (rows : List (List Word)) : List (List Word) :=
  rows.zipIdx.map fun r =>
    r.1.zipIdx.map fun e => sumRn (f32 e.1) ((List.range n).map fun t =>
      mulExt (mulExt (f32 eta) (f32 (xs.getD (64 * t + r.2) 0))) (f32 (keys.getD (64 * t + e.2) 0)))

/-- The magnitude of a value is above lim (R200, R201). -/
def aboveLim (lim x : Ext) : Bool :=
  match lim, x with
  | .nan, _ => false
  | l, .fin _ m e => 0 < cmpExt (.fin false m e) l
  | _, _ => false

/-- lim is zero or below (R201). -/
def limLow : Ext → Bool
  | .nan => false
  | .inf n => n
  | .fin n m _ => n || m == 0

/-- diverged(T) (R200). -/
def diverged (lim : Word) (rows : List (List Word)) : Bool :=
  limLow (f32 lim) || rows.any fun r => r.any fun x => isExc (f32 x) || aboveLim (f32 lim) (f32 x)

/-- Lanes of a register result (R184). -/
def regOuts (mask : LaneMask) (d : Nat) (rows : List (List Word)) : List (RegRef × Nat × DWord) :=
  (rows.zipIdx.map fun r => (maskLanes mask).map fun l => (RegRef.v (d + r.2), l, (r.1.getD l 0).setWidth 64)).flatten

/-- The live tile of an update; an unbound name reads zero (R45). -/
def State.corTile (s : State) (gid : Nat) (w : CorWork) : Tile :=
  match w.tile with
  | some k => s.tileOf gid k
  | none => { Tile.zero with loaded := true }

/-- A correcting command begins (R200, R201, R293): the live tile is settled and its values stand in the building tile. A
status ends it. -/
def State.corBegin (s : State) (op : Op) (w : CorWork) : Option Nat × State :=
  match (if w.mode = .rsp then none else etaStatus w.eta) with
  | some st => (some st, s)
  | none =>
    match s.settle op.core (s.corTile op.gid w) with
    | .error e => (some e, s)
    | .ok t =>
      let s := match w.tile with | some k => s.setTile op.gid k t | none => s
      (none, match w.build with | some b => s.setTile op.gid b { t with res := [] } | none => s)

/-- The work of an update ends with a verdict, and its events are kept (R296). -/
def State.corVerdict (s : State) (id : Nat) (t : Tile) (bad : Bool) : State :=
  let c := t.oddCount
  let ev := [0, 0, 0, 0, if bad then 1 else 0, c]
  let s := if bad ∨ 0 < c then s.tallyUp id t.site 0 ev else s
  s.endWork id (if bad then 6 else 0)

/-- One key step of `.upd` from the building tile (R200), unless the tile has shown an uncorrectable error (R460). -/
def State.updKey (s : State) (id : Nat) (op : Op) (w : CorWork) (b : Nat) : State :=
  let p := op.progress
  let t := s.tileOf op.gid b
  if t.bad then s.endWork id 2
  else
  let rows := updStep w.eta (regAt w.keys p) (regAt w.vals p) t.rows
  let t := t.ofRows rows
  let s := s.setTile op.gid b t
  let bad := diverged w.lim rows
  let s := s.modOp id fun op => { op with progress := p + 1, done := if bad then p else p + 1 }
  if bad ∨ p + 1 = w.n then s.corVerdict id t bad else s

/-- n key steps, or fewer where the work ends before. -/
def State.updKeys (id : Nat) (w : CorWork) (b : Nat) : Nat → State → State
  | 0, s => s
  | n + 1, s =>
    match sfind s.ops id with
    | some op => if op.phase = .running then State.updKeys id w b n (s.updKey id op w b) else s
    | none => s

/-- The whole of `.add` and `.rsp`, and n key steps of `.upd` (R200). -/
def State.corSteps (s : State) (id : Nat) (op : Op) (w : CorWork) (n : Nat) : State :=
  match w.mode, w.build with
  | .upd, some b => State.updKeys id w b n s
  | .add, some b =>
    let t := s.tileOf op.gid b
    let rows := addAll w.eta w.n w.keys w.vals t.rows
    let t := t.ofRows rows
    (s.setTile op.gid b t).corVerdict id t (diverged w.lim rows)
  | _, _ =>
    let rows := (s.corTile op.gid w).rows
    let out := (List.range w.n).map fun t => residual rows (regAt w.keys t) (regAt w.vals t)
    (s.modOp id fun op => { op with outs := regOuts w.mask w.vreg out }).endWork id 0

/-- The key steps to the next granule (R189, R199). -/
def CorWork.granule (w : CorWork) : Nat := if w.split then 1 else w.n

/-- An update that completes with `OK` binds its name to the tile that it built (R285, R293). -/
def State.corBind (s : State) (op : Op) (w : CorWork) : State :=
  match w.build with
  | some b => if op.status = 0 then s.modGroup op.gid fun g => { g with liveTile := sput g.liveTile w.name (b % 2) } else s
  | none => s

/-- `gram` (R203). -/
def gramRows (n : Nat) (keys : List Word) : List (List Word) :=
  (List.range n).map fun t => (List.range 64).map fun u => if u < t then dotRn (regAt keys t) (regAt keys u) else 0

/-- One row of `trsv` (R204): `xs` holds the rows found before. -/
def trsvRow (eta : Word) (grow r : List Word) (xs : List (List Word)) : List Word :=
  (List.range 64).map fun l =>
    sumRn (f32 (r.getD l 0)) (xs.zipIdx.map fun x =>
      negExt (mulExt (mulExt (f32 eta) (f32 (grow.getD x.2 0))) (f32 (x.1.getD l 0))))

/-- Forward substitution (R204). -/
def trsvRows (eta : Word) (rows rhs : List Word) : Nat → List (List Word)
  | 0 => []
  | t + 1 =>
    let xs := trsvRows eta rows rhs t
    xs ++ [trsvRow eta (regAt rows t) (regAt rhs t) xs]

end Sys2Proof.Machine
end

