-- ==== Sys2Proof/Machine/Attention.lean ====
section
/-! DEFINITION. Attention and key-value commands, class 0xC (R205 to R210), and the work of the attention engines
(R299 to R309). -/

namespace Sys2Proof.Machine

/-! ### Issue -/

/-- A uniform command (R183): it acts once where some lane takes effect. -/
def uniformIssue (s : State) (o : Fields) (go : Unit → Out) : Out := if s.cur.acts o.guard then go () else .next s.advance

/-- The number of an S or A destination. -/
def uniNo : Opnd → Nat
  | .s n => n.val
  | .a n => n.val
  | _ => 0

/-- n bytes of the group's team-shared memory read at issue (R184): the trap, where a check fails or poison is met. -/
def State.sharedRead (s : State) (off n align : Nat) : Except Bad Bytes :=
  match segCheck s.cur .s off n align with
  | some c => .error (c, 0)
  | none =>
    let x := s.readLocal .s s.cur.coreNo (s.cur.sgs.base + off) n
    if x.psn then .error (12, 3) else .ok x.bytes

/-- An `attn` descriptor (R206), or the trap that it raises. -/
def attnDesc (b : Bytes) : Except Bad AttnDesc :=
  let d : AttnDesc := ⟨fieldAt b 0 8, fieldAt b 8 8, fieldAt b 16 8, fieldAt b 24 8, BitVec.ofNat 32 (fieldAt b 32 4),
    fieldAt b 36 4, fieldAt b 40 4, fieldAt b 44 1, fieldAt b 45 1, (fieldAt b 46 1).testBit 0, (fieldAt b 46 1).testBit 1,
    (fieldAt b 46 1).testBit 2, fieldAt b 48 2⟩
  if d.nq = 0 ∨ 64 < d.nq ∨ (d.dh ≠ 64 ∧ d.dh ≠ 128) ∨ 8 ≤ fieldAt b 46 1 ∨ fieldAt b 47 1 ≠ 0 ∨ fieldAt b 50 14 ≠ 0
      ∨ !canonical d.q ∨ !canonical d.kv ∨ !canonical d.out ∨ !canonical d.rs then .error (1, 3)
  else .ok d

/-- `attn` (R206): the address of the first block is a block address (R205), tested after the descriptor's own table
(log 73). -/
def execAttn (m : AttnMod) (o : Fields) (s : State) : Out :=
  uniformIssue s o fun _ =>
    match s.sharedRead (val s o.imm o.a 0).toNat 64 64 with
    | .error (c, k) => .next (s.trap c k)
    | .ok b =>
      match attnDesc b with
      | .error (c, k) => .next (s.trap c k)
      | .ok d =>
        if d.kv % 256 ≠ 0 then .next (s.trap 6 0)
        else .next (s.issueOp o 0x300 4 [.s (uniNo o.d)] (.attn (uniNo o.d) m.sg.toNat d)).advance

/-- The checks of an address of a block or a pool (R184, R205). -/
def kvAddr (va : Nat) : Option Bad :=
  if va % 256 ≠ 0 then some (6, 0) else if !canonical va then some (12, 0) else none

/-- A key-value command issues (R205): `dst` is its destination, and `arg` its second operand. -/
def kvIssue (s : State) (o : Fields) (fn : Nat) (t : Bool) (dst : Dest) (argAddr : Bool) (arg : Nat) : Out :=
  uniformIssue s o fun _ =>
    let blk := (val64 s o.imm o.a 0).toNat
    match (kvAddr blk).or (if argAddr then kvAddr arg else none) with
    | some (c, k) => .next (s.trap c k)
    | none => .next (s.issueOp o (0x300 + fn) 4 dst.regs (.kv fn t dst blk arg)).advance

/-- `kvalloc` (R209). -/
def execKvalloc (m : AttnMod) (o : Fields) (s : State) : Out := kvIssue s o 1 m.t (.a (uniNo o.d)) false 0
/-- `kvcommit` (R209). -/
def execKvcommit (m : AttnMod) (o : Fields) (s : State) : Out :=
  kvIssue s o 2 m.t (.s (uniNo o.d)) false (val s o.imm o.b 0).toNat
/-- `kvrel` (R209). -/
def execKvrel (_m : AttnMod) (o : Fields) (s : State) : Out :=
  kvIssue s o 3 false (.s (uniNo o.d)) true (val64 s o.imm o.b 0).toNat
/-- `kvlink` (R209). -/
def execKvlink (_m : AttnMod) (o : Fields) (s : State) : Out :=
  kvIssue s o 4 false (.s (uniNo o.d)) true (val64 s o.imm o.b 0).toNat
/-- `kvchk` (R209). -/
def execKvchk (_m : AttnMod) (o : Fields) (s : State) : Out := kvIssue s o 5 false (.s (uniNo o.d)) false 0

/-! ### Key-value blocks (R299 to R301, R208, R209) -/

/-- A key-value header's fields as the commands use them (R299). -/
structure KvHead where
  ver : Nat
  tent : Bool
  seq : Nat
  count : Nat
  cap : Nat
  hdh : Nat
  succ : Nat
  deriving DecidableEq, Repr

def kvHead (b : Bytes) : KvHead :=
  ⟨fieldAt b 0 2, (fieldAt b 2 1).testBit 0, fieldAt b 4 4, fieldAt b 8 2, fieldAt b 10 2, fieldAt b 12 2, fieldAt b 16 8⟩

/-- The first 24 bytes of a header. -/
def KvHead.bytes (h : KvHead) : Bytes :=
  leBytes 2 h.ver ++ leBytes 2 (if h.tent then 1 else 0) ++ leBytes 4 h.seq ++ leBytes 2 h.count ++ leBytes 2 h.cap
    ++ leBytes 2 h.hdh ++ leBytes 2 0 ++ leBytes 8 h.succ

/-- One byte of the CRC of R301. -/
def crcBits : Nat → Nat → Nat
  | 0, c => c
  | n + 1, c => crcBits n (if c.testBit 63 then (c * 2 % 2 ^ 64) ^^^ 0x42F0E1EBA9EA3693 else c * 2 % 2 ^ 64)

/-- The CRC of a run of bytes (R301). -/
def crc64 (b : Bytes) : Nat := b.foldl (fun c x => crcBits 8 (c ^^^ (x.toNat * 2 ^ 56))) 0

/-- The place of a payload row (R300). -/
def kvRow (blk dh row : Nat) : Nat := blk + 256 + 2 * dh * row

/-- Bytes that a key-value command reads; poison is status 2 (R209). -/
def State.kvRead (s : State) (id va n : Nat) : Except OpRes (Bytes × State) :=
  match s.opRead id .g va n with
  | (.ok x, s) => if x.psn then .error (.fail 2 va false) else .ok (x.bytes, s)
  | (r, _) => .error r

def State.kvWrite (s : State) (id va : Nat) (b : Bytes) : Except OpRes (Unit × State) :=
  match s.opWrite id .g va b false with
  | (.ok _, s) => .ok ((), s)
  | (r, _) => .error r

/-- The rows that the tag covers (R301). -/
def State.kvPayload (s : State) (id blk : Nat) (h : KvHead) : Except OpRes (Bytes × State) :=
  if h.count = 0 then .ok ([], s)
  else do
    let (k, s) ← s.kvRead id (kvRow blk h.hdh 0) (2 * h.hdh * h.count)
    let (v, s) ← s.kvRead id (kvRow blk h.hdh h.cap) (2 * h.hdh * h.count)
    pure (k ++ v, s)

/-- The tag of a block from its header bytes and its payload rows (R301). -/
def kvTag (hdr payload : Bytes) : Nat := crc64 (hdr.take 24 ++ (hdr.drop 32).take 216 ++ payload)

/-- A header written with its new fields and its tag (R209). -/
def State.kvPut (s : State) (id blk : Nat) (old : Bytes) (h : KvHead) : Except OpRes (Unit × State) := do
  let hdr := h.bytes ++ old.drop 24
  let (p, s) ← s.kvPayload id blk h
  s.kvWrite id blk (hdr.take 248 ++ leBytes 8 (kvTag hdr p))

/-- A key-value command (R209): the status, the value for its destination, and the state. -/
def State.kvRun (s : State) (id fn : Nat) (t : Bool) (blk arg : Nat) : Except OpRes ((Nat × Nat) × State) := do
  match fn with
  | 1 =>
    let (p, s) ← s.kvRead id blk 64
    let head := fieldAt p 0 8
    if head = 0 then pure ((7, 0), s)
    else
      let (old, s) ← s.kvRead id head 256
      let (_, s) ← s.kvPut id head (leBytes 256 0) ⟨0x0100, t, 0, 0, fieldAt p 12 2, fieldAt p 14 2, 0⟩
      let (_, s) ← s.kvWrite id blk (leBytes 8 (kvHead old).succ ++ leBytes 4 (fieldAt p 8 4 + (2 ^ 32 - 1)))
      pure ((0, head), s)
  | 2 =>
    let (old, s) ← s.kvRead id blk 256
    let h := kvHead old
    if h.ver = 0 ∨ !h.tent ∨ (if t then h.cap else h.count) < arg then pure ((8, 8), s)
    else
      let (_, s) ← s.kvPut id blk old { h with count := arg, tent := t }
      pure ((0, 0), s)
  | 3 =>
    let (old, s) ← s.kvRead id blk 256
    let (p, s) ← s.kvRead id arg 64
    let h := kvHead old
    if h.ver = 0 then pure ((8, 8), s)
    else if h.cap ≠ fieldAt p 12 2 ∨ h.hdh ≠ fieldAt p 14 2 then pure ((4, 4), s)
    else
      let (_, s) ← s.kvPut id blk old { h with ver := 0, count := 0, tent := false, succ := fieldAt p 0 8 }
      let (_, s) ← s.kvWrite id arg (leBytes 8 blk ++ leBytes 4 (fieldAt p 8 4 + 1))
      pure ((0, 0), s)
  | 4 =>
    let (olda, s) ← s.kvRead id blk 256
    let ha := kvHead olda
    if ha.ver = 0 then pure ((8, 8), s)
    else if arg = 0 then
      let (_, s) ← s.kvPut id blk olda { ha with succ := 0 }
      pure ((0, 0), s)
    else
      let (chk, s) ← s.kvRead id arg 256
      if (kvHead chk).ver = 0 then pure ((8, 8), s)
      else
        let (_, s) ← s.kvPut id blk olda { ha with succ := arg }
        let (oldb, s) ← s.kvRead id arg 256
        let (_, s) ← s.kvPut id arg oldb { kvHead oldb with seq := ha.seq + 1 }
        pure ((0, 0), s)
  | _ =>
    let (hdr, s) ← s.kvRead id blk 256
    let (p, s) ← s.kvPayload id blk (kvHead hdr)
    let r := if kvTag hdr p = fieldAt hdr 248 8 then 0 else 2
    pure ((r, r), s)

/-- A key-value command performed whole (R208 to R210): it acts as a `.dev` acquire and release. None where it cannot go
on. -/
def State.kvPerform (s : State) (id : Nat) (op : Op) (fn : Nat) (t : Bool) (dst : Dest) (blk arg : Nat) : Option State :=
  let fin (s : State) (st x faddr : Nat) : State :=
    s.modOp id fun op => { op with phase := .ended, status := st, faddr := faddr, outs := dst.put 0 x }
  let s := s.order .ar .dev (dieOfCore op.core)
  match s.kvRun id fn t blk arg with
  | .ok ((st, x), s) => some (fin (s.order .rel .dev (dieOfCore op.core)) st x 0)
  | .error (.fail st va _) => some (fin s st (if fn = 1 then 0 else st) va)
  | .error _ => none

/-! ### The attention engine -/

/-- An engine's number. -/
def engKey (die n : Nat) : Nat := die * 16 + n

/-- A row at its start (R81). -/
def AttnRow.fresh (dh : Nat) (q : List Word) (ph : RowPhase) : AttnRow :=
  ⟨q, 0xFF800000, 0, 0, List.replicate dh 0, false, ph⟩

/-- A read of an `attn`. -/
def State.attnRead (s : State) (id va n : Nat) : OpRes × State := s.opRead id .g va n

/-- A write of an `attn`. -/
def State.attnWrite (s : State) (id va : Nat) (b : Bytes) : OpRes × State := s.opWrite id .g va b false

/-- The elements of a row of 16-bit values, as `F32` patterns. -/
def bf16Row (b : Bytes) (n : Nat) : List Word := (List.range n).map fun x => BitVec.ofNat 32 (fieldAt b (2 * x) 2 * 65536)

/-- The query rows read at the start (R303): none where a page has yet to be supplied. -/
def readQueries (id : Nat) (d : AttnDesc) : Nat → State → Option (List AttnRow × State)
  | 0, s => some ([], s)
  | n + 1, s =>
    match readQueries id d n s with
    | none => none
    | some (l, s) =>
      match s.attnRead id (d.q + 2 * d.dh * n) (2 * d.dh) with
      | (.ok x, s) =>
        some (l ++ [AttnRow.fresh d.dh (bf16Row x.bytes d.dh) (if x.psn then .status 2 else .running)], s)
      | (.fail st _ _, s) => some (l ++ [AttnRow.fresh d.dh [] (.status st)], s)
      | _ => none

/-- The engine that runs an operation. -/
def State.engineOf (s : State) (id : Nat) : Option (Nat × AttnRun) := s.attn.engines.find? fun e => e.2.op = id

def State.setEngine (s : State) (key : Nat) (r : AttnRun) : State :=
  { s with attn := { s.attn with engines := sput s.attn.engines key r } }

/-- The run with its query rows read, where that has not been done. -/
def State.attnStart (s : State) (r : AttnRun) (d : AttnDesc) : Option (AttnRun × State) :=
  if r.started then some (r, s)
  else (readQueries r.op d d.nq s).map fun e => ({ r with rows := e.1, started := true }, e.2)

/-- Tokens that an `attn` may take (R207, R309). -/
def AttnDesc.limit (d : AttnDesc) : Nat := if d.maxtok = 0 then 2 ^ 32 - 1 else d.maxtok

/-- A token at position p is masked for row r (R207). -/
def AttnDesc.masks (d : AttnDesc) (r p : Nat) : Bool := d.causal && d.qpos0 + r < p

/-- The score of a row (R207): one rounding of the exact value; a NaN or an infinity follows R79. -/
def attnScore (d : AttnDesc) (q k : List Word) : Word :=
  match (q.zip k).map fun e => mulExt (f32 e.1) (f32 e.2) with
  | [] => 0
  | t :: ts => rnF32 (mulExt (f32 d.scale) (sumExt false t ts))

/-- cast(e) (R82), as an `F32` pattern, and whether a weight is flushed. -/
def castWeight (cb : Bool) (e : Word) : Word × Bool :=
  let F : FloatFmt := if cb then BF16 else (floatFmt .f8a).getD F32
  let x := roundExt F .rn false (f32 e)
  (rnF32 (floatVal F x), !isZero (f32 e) && isZero (floatVal F x))

/-- One score taken by a row (R81, R207), and whether its weight is flushed. -/
def AttnRow.take (w : AttnRow) (cb : Bool) (sc : Word) (v : List Word) : AttnRow × Bool :=
  match f32 sc with
  | .nan => ({ w with rownan := true }, false)
  | .inf false => ({ w with rownan := true }, false)
  | .inf true => (w, false)
  | x =>
    let w := if 0 < cmpExt x (f32 w.mx) then
        let al := expSm (fsubRn w.mx sc)
        { w with den := fmulRn w.den al, cmp := fmulRn w.cmp al, acc := w.acc.map fun a => fmulRn a al, mx := sc }
      else w
    let e := expSm (fsubRn sc w.mx)
    let sm := faddRn w.den e
    let bp := fsubRn sm w.den
    let ap := fsubRn sm bp
    let err := faddRn (fsubRn w.den ap) (fsubRn e bp)
    let c := castWeight cb e
    ({ w with cmp := faddRn w.cmp err, den := sm, acc := (w.acc.zip v).map fun a => fmaRn c.1 a.2 a.1 }, c.2)

/-- A row takes the tokens of a block in order (R81, R207); the flushes are counted. -/
def AttnRow.takeAll (d : AttnDesc) (r : Nat) : List (List Word × List Word) → Nat → AttnRow × Nat → AttnRow × Nat
  | [], _, a => a
  | (k, v) :: t, p, (w, n) =>
    if d.masks r p then AttnRow.takeAll d r t (p + 1) (w, n)
    else
      let (w, fl) := w.take d.cb (attnScore d w.q k) v
      AttnRow.takeAll d r t (p + 1) (w, if fl then n + 1 else n)

/-- A row's output elements (R83, R207). -/
def AttnRow.outBytes (w : AttnRow) (d : AttnDesc) : Bytes :=
  let D := faddRn w.den w.cmp
  let el (a : Word) : Word :=
    if w.rownan then 0x7FC00000
    else if w.mx = 0xFF800000 then 0
    else roundApprox .rn false (fdivApprox (f32 a) (f32 D))
  (w.acc.map fun a => if d.ob then leBytes 2 (roundExt BF16 .rn false (f32 (el a))) else leBytes 4 (el a).toNat).flatten

/-- The rows that still take tokens. -/
def AttnRun.running (r : AttnRun) : Bool := r.rows.any fun w => w.phase = .running

/-- Every running row moved to a phase. -/
def AttnRun.settle (r : AttnRun) (p : RowPhase) : AttnRun :=
  { r with rows := r.rows.map fun w => if w.phase = .running then { w with phase := p } else w }

/-- Rows whose later tokens are all masked end (R303). -/
def AttnRun.endMasked (r : AttnRun) (d : AttnDesc) : AttnRun :=
  { r with rows := r.rows.zipIdx.map fun e =>
      if e.1.phase = .running ∧ d.masks e.2 r.p then { e.1 with phase := .output } else e.1 }

/-- A row needs the block of count tokens at the present position (R207). -/
def AttnRun.needs (r : AttnRun) (d : AttnDesc) (count : Nat) (e : AttnRow × Nat) : Bool :=
  e.1.phase = .running && 0 < count && r.p < d.limit && !d.masks e.2 r.p

/-- The payload of a block for n tokens (R304); none where a page has yet to be supplied. A page that is refused counts
before poison that is read, and the keys' page before the values' (log 80). -/
def State.attnPayload (s : State) (id : Nat) (d : AttnDesc) (b : AttnBlock) (n : Nat) : Option (AttnPay × State) :=
  match s.attnRead id (kvRow b.va d.dh 0) (2 * d.dh * n) with
  | (.ok k, s) =>
    match s.attnRead id (kvRow b.va d.dh b.cap) (2 * d.dh * n) with
    | (.ok v, s) => some (if k.psn || v.psn then .bad 2 else .rows k.bytes v.bytes, s)
    | (.fail st _ _, s) => some (.bad st, s)
    | _ => none
  | (.fail st _ _, s) => some (.bad st, s)
  | _ => none

/-- Some row needs a block of count tokens at a position (R207). -/
def AttnRun.needed (r : AttnRun) (d : AttnDesc) (p count : Nat) : Bool :=
  { r with p := p }.rows.zipIdx.any ({ r with p := p }.needs d count)

/-- The run as a split command saves it (R306): payloads not yet consumed are read again, and the query rows stay as first
read (log 80). -/
def AttnRun.atGranule (r : AttnRun) : AttnRun := { r with window := r.window.map fun b => { b with pay := none } }

/-- The payload of a block read as its header arrives, where some row would need it (R304): at most the tokens that the
command still takes. -/
def State.prefetch (s : State) (r : AttnRun) (d : AttnDesc) (b : AttnBlock) : AttnBlock × State :=
  let p := r.window.foldl (fun p b => p + min b.count (d.limit - p)) r.p
  let n := min b.count (d.limit - p)
  if b.broken || !r.needed d p n then (b, s)
  else match s.attnPayload r.op d b n with
    | some (x, s) => ({ b with pay := some x }, s)
    | none => (b, s)

/-- The prefetcher reads the next header (R207, R304, R305): one single-copy read that is an acquire at `.dev` (R307), and
then the block's payload. It stops once no row takes tokens any more (R303). -/
def State.attnHeader (s : State) (r : AttnRun) (op : Op) (d : AttnDesc) : Option (AttnRun × State) :=
  if r.next = 0 ∨ 5 ≤ r.window.length ∨ !r.running then none
  else
    let bad (st : Nat) : AttnRun :=
      { r with window := r.window ++ [⟨r.next, 0, 0, 0, false, some st, none⟩], next := 0 }
    match s.attnRead r.op r.next 256 with
    | (.ok x, s) =>
      if x.psn then some (bad 2, s)
      else
        let h := kvHead x.bytes
        let broken := h.ver = 0 || h.hdh ≠ d.dh || h.cap < h.count
        let (b, s) := (s.acquireAt .acq .dev (dieOfCore op.core)).prefetch r d
          ⟨r.next, h.count, h.cap, h.succ, broken, none, none⟩
        some ({ r with window := r.window ++ [b], next := h.succ }, s)
    | (.fail st _ _, s) => some (bad st, s)
    | _ => none

/-- The token rows of a block's payload. -/
def tokenRows (dh n : Nat) (k v : Bytes) : List (List Word × List Word) :=
  (List.range n).map fun t =>
    (bf16Row ((k.drop (2 * dh * t)).take (2 * dh)) dh, bf16Row ((v.drop (2 * dh * t)).take (2 * dh)) dh)

/-- The rows that can use no further token end (R303): every row where the chain or the command's limit ends, else those
for which every later token is masked. -/
def AttnRun.endRows (r : AttnRun) (d : AttnDesc) : AttnRun :=
  if d.limit ≤ r.p ∨ (r.window.isEmpty ∧ r.next = 0) then r.settle .output else r.endMasked d

/-- The block is taken by the rows (R207): position, blocks and window move on, and rows end. -/
def AttnRun.consume (r : AttnRun) (d : AttnDesc) (n : Nat) (rows : List AttnRow) : AttnRun :=
  AttnRun.endRows { r with rows := rows, p := r.p + n, blocks := r.blocks + 1, window := r.window.drop 1 } d

/-- The score array takes the block at the head of the window (R207, R303, R305): none where its payload has yet to
arrive. The counts are flushed weights. Poison anywhere in a payload stops every row that needs the block (log 80). -/
def State.attnBlock (s : State) (r : AttnRun) (d : AttnDesc) (b : AttnBlock) : Option (AttnRun × Nat × State) :=
  match b.unreadable with
  | some st => some (r.settle (.status st), 0, s)
  | none =>
    if b.broken then some (r.settle (.status 11), 0, s)
    else
      let n := min b.count (d.limit - r.p)
      if !r.needed d r.p n then some (r.consume d n r.rows, 0, s)
      else
        match (match b.pay with | some x => some (x, s) | none => s.attnPayload r.op d b n) with
        | none => none
        | some (.bad st, s) =>
          let rows := r.rows.zipIdx.map fun e => if r.needs d n e then { e.1 with phase := RowPhase.status st } else e.1
          some (r.consume d n rows, 0, s)
        | some (.rows k v, s) =>
          let toks := tokenRows d.dh n k v
          let outs := r.rows.zipIdx.map fun e =>
            if e.1.phase = .running then AttnRow.takeAll d e.2 toks r.p (e.1, 0) else (e.1, 0)
          some (r.consume d n (outs.map (·.1)), (outs.map (·.2)).sum, s)

/-- Rows that write: their outputs and status bytes, each where its page is there (R207, R303). -/
def writeRows (id : Nat) (d : AttnDesc) : Nat → List AttnRow → State → List AttnRow × State
  | _, [], s => ([], s)
  | i, w :: t, s =>
    let (w, s) : AttnRow × State := match w.phase with
      | .output =>
        match s.attnWrite id (d.out + d.dh * i * (if d.ob then 2 else 4)) (w.outBytes d) with
        | (.ok _, s) => ({ w with phase := .status 0 }, s)
        | (.fail _ _ _, s) => ({ w with phase := .status 1 }, s)
        | _ => (w, s)
      | _ => (w, s)
    let (w, s) : AttnRow × State := match w.phase with
      | .status st =>
        match s.attnWrite id (d.rs + i) (leBytes 1 st) with
        | (.ok _, s) => ({ w with phase := .over st }, s)
        | (.fail _ _ _, s) => ({ w with phase := .over st }, s)
        | _ => (w, s)
      | _ => (w, s)
    let (t, s) := writeRows id d (i + 1) t s
    (w :: t, s)

/-- The status of the command from its rows (R207). -/
def attnStatus (rows : List AttnRow) : Nat :=
  let has (n : Nat) : Bool := rows.any fun w => w.phase = .over n
  if has 11 then 11 else if has 2 then 2 else if has 1 then 1 else 0

/-- The census events of the rows that end in a step (R83, R207, R435): those ended NaN and those with every score masked,
whatever becomes of their outputs; with `fl` weights flushed. -/
def endEvents (fl : Nat) (before after : List AttnRow) : List Nat :=
  let ended := (before.zip after).filterMap fun e =>
    if e.2.phase = .output ∧ e.1.phase ≠ .output then some e.2 else none
  [fl, (ended.filter (·.rownan)).length, (ended.filter fun w => !w.rownan && w.mx = 0xFF800000).length]

/-- The rows that failed (R207), for the census. -/
def rowFailures (rows : List AttnRow) : List Nat := [0, 0, 0, (rows.filter fun w => w.phase ≠ .over 0).length]

/-- After the rows have written: the command ends where every row is over (R303). -/
def State.attnSettle (s : State) (key : Nat) (r : AttnRun) (dst : Nat) (d : AttnDesc) : State :=
  let (rows, s) := writeRows r.op d 0 r.rows s
  let r := { r with rows := rows }
  let s := s.setEngine key r
  let isOver (w : AttnRow) : Bool := match w.phase with | .over _ => true | _ => false
  if rows.all isOver then
    let st := attnStatus rows
    let s := s.tallyUp r.op d.site 1 (rowFailures rows)
    s.modOp r.op fun op =>
      { op with phase := .ended, status := st, outs := [(.s dst, 0, BitVec.ofNat 64 st)],
                done := (rows.filter fun w => w.phase = .over 0).length }
  else s

/-- A header read of the prefetcher arrives (R304). -/
def execAttnHeaderArrival (key : Nat) (s : State) : Out :=
  match sfind s.attn.engines key with
  | none => notNow
  | some r =>
    match sfind s.ops r.op with
    | none => notNow
    | some op =>
      match op.work, op.phase with
      | .attn _ _ d, .running =>
        match s.attnStart r d with
        | none => notNow
        | some (r, s) =>
          match s.attnHeader r op d with
          | some (r, s) => .next (s.setEngine key r)
          | none => notNow
      | _, _ => notNow

/-- The engine takes the next block, or ends the rows where the chain or the command's limit ends, and writes what the
rows have due (R207, R303). -/
def execAttnBlockProcess (key : Nat) (s : State) : Out :=
  match sfind s.attn.engines key with
  | none => notNow
  | some r₀ =>
    match sfind s.ops r₀.op with
    | none => notNow
    | some op =>
      match op.work, op.phase with
      | .attn dst _ d, .running =>
        match s.attnStart r₀ d with
        | none => notNow
        | some (r₁, s) =>
          let step : Option (AttnRun × Nat × State) :=
            if !r₁.running then some (r₁, 0, s)
            else match r₁.window with
              | b :: _ => s.attnBlock r₁ d b
              | [] => if r₁.next = 0 then some (r₁.endRows d, 0, s) else none
          match step with
          | none => notNow
          | some (r, fl, s) =>
            let s := s.tallyUp r.op d.site 1 (endEvents fl r₁.rows r.rows)
            let s' := s.attnSettle key r dst d
            if (sfind s'.attn.engines key).map (·.rows) = some r₀.rows ∧ r.window = r₀.window then notNow else .next s'
      | _, _ => notNow

/-- An attention queue's head is ready for an engine (R302). -/
def State.attnReady (s : State) (core : Nat) : Option Nat :=
  (s.ops.find? fun e => e.2.core = core && e.2.queue = 4 && s.canStart e.1 e.2
    && match e.2.work with | .attn _ _ _ => true | _ => false).map (·.1)

/-- The die's arbiter hands a core's head command to the lowest-numbered free engine (R302, R306): the engine asks for
its leave. -/
def execAttnEngineHandoff (die : Nat) (s : State) : Out :=
  let cpd := Config.coresPerDie
  let last := sget (cpd - 1) s.attn.last die
  let cores := (List.range cpd).map fun i => (last + 1 + i) % cpd
  let free := (List.range 16).find? fun n => (sfind s.attn.engines (engKey die n)).isNone
  if 4 ≤ die then notNow
  else match cores.find? fun c => (s.attnReady (die * cpd + c)).isSome, free with
    | some c, some n =>
      match s.attnReady (die * cpd + c) with
      | none => notNow
      | some id =>
        match sfind s.ops id with
        | none => notNow
        | some op =>
          let kv := match op.work with | .attn _ _ d => d.kv | _ => 0
          let run : AttnRun := match sfind s.attn.saved id with
            | some r => { r with blocks := 0 }
            | none => ⟨id, [], [], kv, 0, 0, false⟩
          let resumed := (sfind s.attn.saved id).isSome
          let s := { s with attn := ⟨sput s.attn.engines (engKey die n) run, sdel s.attn.saved id, sput s.attn.last die c⟩ }
          let s := s.trace id (if resumed then 3 else 1) 0
          .next (s.waitLeave id)
    | _, _ => notNow

/-- Why an engine or the head of its queue stands still: it waits for a free attention engine (R302), for leave (R188), or
for a page that its next step needs (R304). `MEMHOLD` is `State.memHold`. -/
inductive EngineStall
  | aengine | leave | xlate
  deriving DecidableEq, Repr

/-- The stall reason of the engine of a command or of a Shed job, by its number (R15, R188, R302, R304). -/
def State.engineStall (s : State) (id : Nat) : Option EngineStall :=
  match sfind s.ops id with
  | none => if s.leave.waiting.contains id then some .leave else none
  | some op =>
    let die := dieOfCore op.core
    if op.phase = .leave then some .leave
    else match s.attn.engines.find? fun e => e.2.op = id with
      | some (key, _) =>
        match execAttnBlockProcess key s with
        | .next _ => none
        | _ => if s.xlate.upcalls.any fun u => u.ops.contains id then some .xlate else none
      | none =>
        if s.attnReady op.core = some id ∧ (List.range 16).all fun n => (sfind s.attn.engines (engKey die n)).isSome then
          some .aengine
        else none

end Sys2Proof.Machine
end

