-- ==== Sys2Proof/Machine/SweepCmd.lean ====
section
/-! DEFINITION. Sweep commands of class 0xD (R211 to R215), their work (R372, R382) and the sweep flag (R381). -/

namespace Sys2Proof.Machine

/-! ### Issue -/

/-- A sweep descriptor (R212, R213); `bad` where a field breaks its table. -/
def sweepDesc (b : Bytes) : SweepDesc :=
  let base := fieldAt b 0 8
  let len := fieldAt b 8 4
  let fn := fieldAt b 12 1 % 16
  let et := fieldAt b 12 1 / 16
  let fsc := fieldAt b 14 1 % 8
  let flag := fieldAt b 20 8
  ⟨base, len, fn, et, (fieldAt b 13 1).testBit 0, fsc, BitVec.ofNat 32 (fieldAt b 16 4), flag,
    base % 1024 ≠ 0 || len = 0 || len % 1024 ≠ 0 || !sweepAccepts fn et || 2 ≤ fieldAt b 13 1 || fsc < 3 || 5 < fsc
      || 8 ≤ fieldAt b 14 2 || flag % 8 ≠ 0 || !canonical flag || !canonical (base + len - 1)⟩

/-- `swarm` (R214): its descriptor is read at issue (R184). -/
def execSwarm (o : Fields) (s : State) : Out :=
  uniformIssue s o fun _ =>
    let off := (val s o.imm o.a 0).toNat
    match s.sharedRead off 32 32 with
    | .error (c, k) => .next (s.trap c k)
    | .ok b => .next (s.issueOp o 0x340 5 [.s (uniNo o.d)]
        (.swarm (uniNo o.d) (sweepDesc b) (s.cur.sgs.base + off))).advance

/-- A command on a registration's handle (R215). -/
def handleIssue (s : State) (o : Fields) (fn : Nat) : Out :=
  uniformIssue s o fun _ =>
    .next (s.issueOp o (0x340 + fn) 5 [.s (uniNo o.d)] (.sweep fn (uniNo o.d) (val s o.imm o.a 0).toNat)).advance

/-- `swreq` (R215). -/
def execSwreq (o : Fields) (s : State) : Out := handleIssue s o 1
/-- `swcan` (R215). -/
def execSwcan (o : Fields) (s : State) : Out := handleIssue s o 2
/-- `swst` (R215). -/
def execSwst (o : Fields) (s : State) : Out := handleIssue s o 3

/-! ### Registrations -/

/-- The key of a registration: its context and its handle. -/
def sweepKey (ctx hdl : Nat) : Nat := ctx * 2 ^ 32 + hdl

/-- The work is over with a status, which stands in s(d) (R186). -/
def State.report (s : State) (id dst status value : Nat) : State :=
  s.modOp id fun op =>
    { op with phase := .ended, status := status, outs := [(.s dst, 0, BitVec.ofNat 64 value)] }

/-- The stacks of a registration. -/
def SweepReg.stacks (r : SweepReg) : List Nat := (r.rows.map rowStack).eraseDups

/-- A registration holds table entries (R370, R214). -/
def SweepReg.holds (r : SweepReg) : Bool := r.phase = .installing || r.phase = .armed

/-- The greatest self-refresh time of a stack of the region since the arm point, in µs rounded up (R381). -/
def State.extension (s : State) (r : SweepReg) : Nat :=
  let total (st : Nat) : Nat :=
    let c := s.stackCtl st
    sget 0 r.ext st + (if c.asleep then s.now - max c.since r.armedAt else 0)
  min (2 ^ 32 - 1) (((r.stacks.map total).foldl max 0 + 3599) / 3600)

/-- What the flag of a registration holds (R381). -/
def State.flagValue (s : State) (r : SweepReg) : Nat :=
  if r.desc.rep then
    r.rounds % 2 ^ 48 + (if r.badRow then 2 ^ 62 else 0) + (if r.phase = .cancelled then 2 ^ 63 else 0)
  else
    (match r.phase with | .complete => 1 | .cancelled => 2 | .failed => 3 | _ => 0) + s.extension r * 2 ^ 32

/-- An orphan record of a registration (R214, R387). -/
def State.sweepOrphan (s : State) (r : SweepReg) (status faddr done : Nat) : State :=
  let gone := if s.issuerExited r.gid then 1 else 0
  s.addOrphan r.grid (recordBytes status 0x340 5 gone r.place r.pc r.seq faddr 0 done)

/-- The `swreq` commands that wait on a registration complete (R215). -/
def State.endRequests (s : State) (r : SweepReg) : State :=
  let code := if r.phase = .cancelled then 8 else 0
  (s.ops.filter fun e => e.2.ctx = r.ctx && e.2.phase = .running
      && match e.2.work with | .sweep 1 _ h => h = r.hdl | _ => false).foldl
    (fun s e => match e.2.work with | .sweep _ dst _ => s.report e.1 dst code code | _ => s) s

/-- The scope of a code (R212, R396). -/
def scopeOfCode (n : Nat) : Scope := (scopeOf n).getD .sys

/-- The flag of a registration is written with a release at its scope (R214, R381), until its `swarm` completes through the
translation that the command holds (R182); a write that fails becomes an orphan record. None while a stack that it needs is in self-refresh (R384). -/
def State.writeSweepFlag (s : State) (r : SweepReg) : Option State :=
  let v := s.flagValue r
  let ended := r.phase = .complete ∨ r.phase = .failed ∨ r.phase = .cancelled
  let fin (s : State) : State := if ended then s.endRequests r else s
  let place := if (sfind s.ops r.op).isSome then s.opTranslate r.op r.desc.flag .write
    else s.translate none r.ctx r.desc.flag .write
  let t := match place with
    | (.ok pa attr _ _, s) =>
      let s := s.order .rel (scopeOfCode r.desc.fsc) (dieOfCore r.core)
      fin (s.writePa ⟨some r.core, some (dieOfCore r.core), r.ctx, none⟩ attr pa (leBytes 8 v))
    | (.fault _, s) => fin (s.sweepOrphan r 1 r.desc.flag v)
  if t.sweep.touched = s.sweep.touched then some t else none

/-- A write that is due (R381, R387); none while a stack that it needs serves no request (R383, R384). -/
def State.writeDue (s : State) : SweepDue → Option State
  | .flag k =>
    match sfind s.sweep.regs k with
    | none => some s
    | some r => s.writeSweepFlag r
  | .orphan k st fa n =>
    match sfind s.sweep.regs k with
    | none => some s
    | some r =>
      let t := s.sweepOrphan r st fa n
      if t.sweep.touched = s.sweep.touched then some t else none

/-- The writes that are due, in order; those that cannot be made yet stay (R382). -/
def drainDue : List SweepDue → State → State
  | [], s => s
  | d :: t, s =>
    match s.writeDue d with
    | some s => drainDue t s
    | none => drainDue t { s with sweep := { s.sweep with due := s.sweep.due ++ [d] } }

/-- The writes that applications have made due. -/
def State.sweepDue (s : State) : State :=
  if s.sweep.due.isEmpty then s else drainDue s.sweep.due { s with sweep := { s.sweep with due := [] } }

/-! ### `swarm` at its unit (R214, R372) -/

/-- What the checks of `swarm` give: the physical blocks of the region with the attributes of their pages, a status, or a page that has yet to be supplied. -/
inductive SwarmRes
  | blocks (l : List (Nat × Nat)) | status (n : Nat) | wait

/-- M is block-diagonal in the blocks [9:0], [19:10] and [29:20] (R365). -/
def rowLinear (rows : List Nat) : Bool :=
  rows.zipIdx.all fun e => (List.range 30).all fun j => !e.1.testBit j || e.2 / 10 == j / 10

/-- The mapping of a physical address's region is row-linear (R365); a region of the identity matrix is. -/
def State.linearAt (s : State) (pa : Nat) : Bool :=
  match sfind s.mem.matrix (pa / Config.regionBytes) with
  | none => true
  | some m => rowLinear m

/-- Every granule of a range with its place, translated in ascending order for a write (R372 step 1). -/
def State.swarmPages (id : Nat) : List (Nat × Nat) → State → Except (Option Nat) (List (Nat × Nat × Nat)) × State
  | [], s => (.ok [], s)
  | (va, n) :: t, s =>
    match s.opTranslate id va .write with
    | (.fault (.notPresent p), s) => (.error (if p = 0 then some 1 else none), s)
    | (.fault .poison, s) => (.error (some 1), s)
    | (.fault _, s) => (.error (some 1), s)
    | (.ok pa attr _ _, s) =>
      match State.swarmPages id t s with
      | (.ok l, s) => (.ok ((pa, attr, n) :: l), s)
      | r => r

/-- The table entries of rows (R370): greedy spans from the lowest row number of each pseudo-channel. -/
def sweepEntries (rows : List Nat) : List (Nat × Nat) :=
  let chans := (rows.map rowChannel).eraseDups
  let spans (c : Nat) : List (Nat × Nat) :=
    let qs := ((rows.filter fun r => rowChannel r = c).map rowQ).mergeSort (· ≤ ·)
    (qs.foldl (fun (l : List Nat) q => match l with
      | b :: _ => if q < b + 65536 then l else q / 16 * 16 :: l
      | [] => [q / 16 * 16]) []).reverse.map fun b => (c, b)
  (chans.map spans).flatten

/-- Free entries for new ones in every pseudo-channel (R214, R370). -/
def State.tableRoom (s : State) (new : List (Nat × Nat)) : Bool :=
  (new.map (·.1)).eraseDups.all fun c =>
    let used := ((s.sweep.regs.filter fun e => e.2.holds).map fun e => e.2.entries.countP fun x => x.1 = c).sum
    used + (new.countP fun x => x.1 = c) ≤ 16

/-- The propagation attribute of an address's page, whatever it permits (R355). -/
def State.pageAttr (s : State) (ctx va : Nat) : Option Nat × State :=
  match sfind s.xlate.ctxs ctx with
  | none => (none, s)
  | some c =>
    match walkFrom none ctx va 3 c.root s with
    | (.leaf _ e, s) => (some (bits e 6 5), s)
    | (.fault _, s) => (none, s)

/-- The DRAM row of a physical 1 KiB block as the mapping stands (R362, R365). -/
def State.rowOfBlock (s : State) (b : Nat) : Nat := s.dramLoc (b * 1024) / 1024

/-- The outcome checks of `swarm` in their order (R214); minimal mode arms nothing (R472). -/
def State.swarmCheck (s : State) (id ctx : Nat) (d : SweepDesc) : SwarmRes × State :=
  if d.bad ∨ s.mgmt.mode = 1 then (.status 4, s)
  else
    let (attr, s) := s.pageAttr ctx d.flag
    if attr = some 2 then (.status 4, s)
    else
      match State.swarmPages id (granuleParts d.base d.len ++ [(d.flag, 8)]) s with
      | (.error (some st), s) => (.status st, s)
      | (.error none, s) => (.wait, s)
      | (.ok l, s) =>
        let pages := l.take (l.length - 1)
        if pages.any fun p => p.2.1 = 2 || !isDram p.1 || !s.linearAt p.1 then (.status 10, s)
        else
          let blocks := (pages.map fun p => (List.range (p.2.2 / 1024)).map fun i => (p.1 / 1024 + i, p.2.1)).flatten
          let rows := blocks.map fun b => s.rowOfBlock b.1
          if s.sweep.regs.any fun e => e.2.ctx = ctx && e.2.holds && e.2.rows.any rows.contains then (.status 14, s)
          else if !s.tableRoom (sweepEntries rows) then (.status 9, s)
          else (.blocks blocks, s)

/-- The lines of rows leave every core's hold and every read buffer (R372 step 3). Where a block was core-held, its owner's
writes are performed at `.dev` first (R266). -/
def State.flushRows (s : State) (rows : List Nat) : State :=
  let inRows (line : Nat) : Bool := rows.contains (s.dramLoc (line * 64) / 1024)
  let s := if s.mem.held.any fun e => inRows e.1 then s.dropStale else s
  { s with mem := { s.mem with held := s.mem.held.filter fun e => !inRows e.1,
                               rbuf := s.mem.rbuf.filter fun e => !inRows (e.1 % 2 ^ 46) } }

/-- `swarm` at its unit, steps 1 to 3 of R372: none while a page has yet to be supplied. -/
def State.swarmStart (s : State) (id : Nat) (op : Op) (dst : Nat) (d : SweepDesc) (loc : Nat) : Option State :=
  match s.swarmCheck id op.ctx d with
  | (.wait, _) => none
  | (.status n, s) => some (s.report id dst n n)
  | (.blocks blocks, s) =>
    let rows := blocks.map fun b => s.rowOfBlock b.1
    let hdl := sget 1 s.sweep.nextHdl op.ctx
    let r : SweepReg := ⟨hdl, op.ctx, op.grid, id, op.gid, op.place, op.pc, op.seq, op.core, loc, d, blocks.map (·.1), rows,
      blocks.map (·.2), sweepEntries rows, [], [], .installing, [], false, [], 0, 0, []⟩
    let s := s.flushRows rows
    let sw := s.sweep
    let s := { s with sweep := { sw with regs := sput sw.regs (sweepKey op.ctx hdl) r,
                                         nextHdl := sput sw.nextHdl op.ctx (hdl + 1) } }
    some (s.modOp id fun op => { op with phase := .running })

/-- The rows of a registration in a stack are those that its region occupies now (R388). -/
def State.settleRows (s : State) (r : SweepReg) (stack : Nat) : SweepReg :=
  let rows := (r.blocks.zip r.rows).map fun e => if rowStack e.2 = stack then s.rowOfBlock e.1 else e.2
  { r with rows := rows, entries := sweepEntries rows }

/-- A controller installs the entries of a registration (R372 step 4); one in self-refresh waits (R384). -/
def execSweepInstall (key stack : Nat) (s : State) : Out :=
  match sfind s.sweep.regs key with
  | none => notNow
  | some r =>
    if r.phase = .installing ∧ r.stacks.contains stack ∧ ¬ r.installed.contains stack ∧ ¬ (s.stackCtl stack).asleep then
      let r' := { s.settleRows r stack with installed := r.installed ++ [stack] }
      .next { s with sweep := { s.sweep with regs := sput s.sweep.regs key r' } }
    else notNow

/-- The arm point of a registration (R214, R372 step 5): the group that sees its `swarm` complete reads no line of its die's
buffer that is older (R262, R269). -/
def execSweepArmPoint (key : Nat) (s : State) : Out :=
  match sfind s.sweep.regs key with
  | none => notNow
  | some r =>
    if r.phase = .installing ∧ (r.stacks.all fun st => r.installed.contains st) then
      let r := { r with phase := .armed, order := s.sweep.nextOrder, armedAt := s.now }
      let s := s.writeLocal .s r.core (r.loc + 28) (leBytes 4 r.hdl)
      match s.writeSweepFlag r with
      | none => notNow
      | some s =>
        let s := s.dropDie (dieOfCore r.core)
        let r : SweepReg := { (sfind s.sweep.regs key).getD r with phase := .armed, order := r.order, armedAt := r.armedAt }
        let r' := r.close
        let due := if r'.phase ≠ r.phase ∨ (r.desc.rep ∧ (0 < r.rounds ∨ r.badRow)) then [SweepDue.flag key] else []
        let sw := s.sweep
        let s := { s with sweep := { sw with regs := sput sw.regs key r', nextOrder := sw.nextOrder + 1,
                                             due := sw.due ++ due } }
        let dst := match sfind s.ops r.op with | some op => (match op.work with | .swarm d _ _ => d | _ => 0) | none => 0
        .next (s.report r.op dst 0 0)
    else notNow

/-! ### `swreq`, `swcan`, `swst` at their unit (R215) -/

/-- The rows of a registration that no activation has yet reached, in stacks that serve requests, in ascending row number
(R382, R383). -/
def State.demandRows (s : State) (r : SweepReg) : List Nat :=
  (r.rows.filter fun x => !sget false r.app x && !(s.stackCtl (rowStack x)).shut).mergeSort (· ≤ ·)

/-- Demand activations for a waiting `swreq` (R215, R384). -/
def State.demandSweep (s : State) (r : SweepReg) : State := (s.demandRows r).foldl touchRow s

/-- What `swst` reads (R215). -/
def SweepReg.stateCode (r : SweepReg) : Nat :=
  match r.phase with
  | .installing => 0
  | .armed => if r.desc.rep then (if r.badRow then 7 else 5) else 2
  | .complete => 3
  | .cancelled => 4
  | .failed => 6

/-- A registration is cancelled (R215, R389): its entries are freed and its flag is due. -/
def State.cancelSweep (s : State) (key : Nat) (r : SweepReg) : State :=
  { s with sweep := { s.sweep with regs := sput s.sweep.regs key { r with phase := .cancelled },
                                   due := s.sweep.due ++ [.flag key] } }

/-- A sweep command on a handle at its unit: none while a stack in self-refresh holds it back (R384). -/
def State.sweepRun (s : State) (id : Nat) (op : Op) (fn dst hdl : Nat) : Option State :=
  let key := sweepKey op.ctx hdl
  match sfind s.sweep.regs key with
  | none => some (if fn = 3 then s.report id dst 0 0 else s.report id dst 8 8)
  | some r =>
    if r.phase = .installing then some (if fn = 3 then s.report id dst 0 0 else s.report id dst 8 8)
    else match fn with
      | 1 =>
        if r.desc.rep ∨ r.phase = .cancelled then some (s.report id dst 8 8)
        else if r.phase ≠ .armed then some (s.report id dst 0 0)
        else some ((s.modOp id fun op => { op with phase := .running }).demandSweep r)
      | 2 =>
        if r.phase = .cancelled then some (s.report id dst 8 8)
        else if r.phase ≠ .armed then some (s.report id dst 0 0)
        else if r.stacks.any fun st => (s.stackCtl st).asleep then none
        else some (((s.cancelSweep key r).sweepDue).report id dst 0 0)
      | _ => some (s.report id dst 0 r.stateCode)

end Sys2Proof.Machine
end

