-- ==== Sys2Proof/Machine/Pen.lean ====
section
/-! DEFINITION. Cribs and pens: messages and their delivery (R410, R411, R417, R419), the scrub of a pen (R409) and the kill of
an episode (R418, R463). -/

namespace Sys2Proof.Machine

/-! ### Messages and Cribs (R217, R410 to R419) -/

/-- The kind of a message (R411). -/
def msgKind (m : Bytes) : Nat := fieldAt m 8 1
/-- The policy tag of a message (R410). -/
def msgTag (m : Bytes) : Nat := fieldAt m 4 4

/-- Tag t is newer than tag s (R419). -/
def newer (t s : Nat) : Bool :=
  let d := (t + 2 ^ 32 - s % 2 ^ 32) % 2 ^ 32
  1 ≤ d && d < 2 ^ 31

/-- The episode that a Crib runs, by its core. -/
def State.episodeOf (s : State) (crib : Nat) : Option (Nat × Episode) := s.pad.eps.find? fun e => e.2.crib = crib

def State.setCrib (s : State) (n : Nat) (c : Crib) : State := { s with pad := { s.pad with cribs := sput s.pad.cribs n c } }

def State.setEpisode (s : State) (core : Nat) (e : Episode) : State :=
  { s with pad := { s.pad with eps := sput s.pad.eps core e } }

/-- A message is held from a pinned episode when it is at the head (R419); an uncorrectable one is lost instead (R463). -/
def Episode.holds (e : Episode) (m : Bytes) : Bool := !m.isEmpty && !e.straddle && msgKind m != 3 && newer (msgTag m) e.startTag

/-- A message is delivered to the episode when it is at the head (R411, R419), unless its entry is uncorrectable (R463). -/
def Episode.delivers (e : Episode) (m : Bytes) : Bool := !m.isEmpty && msgKind m != 3 && !e.holds m

/-- A step opens where the head is deliverable and none is open (R417). -/
def State.openStep (s : State) (crib : Nat) : State :=
  match s.episodeOf crib, sfind s.pad.cribs crib with
  | some (core, e), some c =>
    match c.out, e.open_ with
    | m :: _, none => if e.delivers m then s.setEpisode core { e with open_ := some e.budget, popped := false } else s
    | _, _ => s
  | _, _ => s

/-- Waiting `cbw` commands of a Crib whose inbound queue holds a message complete (R217). -/
def State.wakeCrib (s : State) (crib : Nat) : State :=
  match sfind s.pad.cribs crib with
  | none => s
  | some c =>
    if c.inb.isEmpty then s
    else
      (s.ops.filter fun e => e.2.phase = .running && e.2.ctx = c.ctx
          && match e.2.work with | .cbw _ n _ => n = crib | _ => false).foldl
        (fun s e => match e.2.work with | .cbw dst _ _ => s.report e.1 dst 0 0 | _ => s) s

/-- A message appended to the inbound queue, with the next sequence number in bytes 0 to 3 (R411). -/
def State.appendIn (s : State) (crib : Nat) (m : Bytes) : State :=
  match sfind s.pad.cribs crib with
  | none => s
  | some c =>
    let m := leBytes 4 c.seqIn ++ m.drop 4
    (s.setCrib crib { c with inb := c.inb ++ [m], seqIn := (c.seqIn + 1) % 2 ^ 32 }).wakeCrib crib

/-- A Crib that the context may use (R217). -/
def State.cribFor (s : State) (ctx n : Nat) : Option Crib :=
  match sfind s.pad.cribs n with
  | some c => if c.ctx = ctx then some c else none
  | none => none

/-- A message that the Crib or an episode appends (R410), but for its sequence number. -/
def cribMessage (tag kind flags epno : Nat) (pay : Bytes) : Bytes :=
  leBytes 4 0 ++ leBytes 4 tag ++ leBytes 1 kind ++ leBytes 1 flags ++ leBytes 2 0 ++ leBytes 4 epno ++ pay

/-- The episode's head is held (R419). -/
def State.headHeld (s : State) (e : Episode) : Bool :=
  match sfind s.pad.cribs e.crib with
  | some c => (match c.out with | m :: _ => e.holds m | [] => false)
  | none => false

/-- The head of the episode's Crib is uncorrectable (R463). -/
def State.headLost (s : State) (e : Episode) : Bool :=
  match sfind s.pad.cribs e.crib with
  | some c => (match c.out with | m :: _ => m.isEmpty | [] => false)
  | none => false

/-- The flags `strd` and `held` of a message that is appended for an episode (R410). -/
def State.episodeFlags (s : State) (e : Episode) : Nat := (if e.straddled then 1 else 0) + (if s.headHeld e then 2 else 0)

/-! ### Pens (R409) -/

/-- A DRAM location lies in a 64 KiB frame of physical memory. -/
def State.inFrame (s : State) (frame loc : Nat) : Bool :=
  match sfind s.mem.matrix (frame * 65536 / Config.regionBytes) with
  | none => loc / 65536 = frame
  | some _ => (List.range 65536).any fun i => s.dramLoc (frame * 65536 + i) = loc

/-- The activations of the rows in which frames lie, as the scrub writes them (R375, R378, R383). -/
def State.activateFrames (s : State) (frames : List Nat) : State :=
  if s.sweep.regs.isEmpty && !(s.sweep.ctls.any fun e => e.2.shut) then s
  else s.activate ((frames.map fun f => (List.range 1024).map fun i => s.dramLoc (f * 65536 + 64 * i)).flatten)

/-- The window up to `wmax` zeroed, its poison with it. -/
def State.scrubFrames (s : State) (frames : List Nat) : State :=
  let s := s.activateFrames frames
  let mine (loc : Nat) : Bool := frames.any fun f => s.inFrame f loc
  { s with mem := { s.mem with
      hbm := s.mem.hbm.filter fun e => !mine e.1,
      hbmPsn := s.mem.hbmPsn.filter fun e => !(List.range 64).all fun i => mine (e.1 * 64 + i) } }

/-- The episode is over: its pen is zeroed and its core is free (R409). -/
def State.scrubPen (s : State) (core : Nat) (e : Episode) : State :=
  let s := match sfind s.pad.cribs e.crib with | some c => s.scrubFrames c.frames | none => s
  { s with pad := { s.pad with eps := sdel s.pad.eps core } }

/-! ### Kills (R418) -/

/-- The sequence number of the head outbound message, or the one that the next message will take (R411): the queue holds the
last ones appended, whether its entries can be read or not. -/
def Crib.headSeq (c : Crib) : Nat := (c.seqOut + 2 ^ 32 - c.out.length) % 2 ^ 32

/-- The KILLED record of an episode (R411): it counts what waits, and the inbound messages that were lost (R463). -/
def killedRecord (s : State) (e : Episode) (c : Crib) (reason lost : Nat) : Bytes :=
  let counted := match e.open_ with | some n => e.budget - n | none => 0
  cribMessage e.tag 8 (s.episodeFlags e) c.epno
    (leBytes 1 reason ++ leBytes 7 0 ++ leBytes 8 e.pc.toNat ++ leBytes 8 counted ++ leBytes 4 c.headSeq ++ leBytes 4 (c.out.length + lost) ++ leBytes 16 0)

/-- An episode is killed (R418): its Crib closes, what waits is discarded, the record is appended and the pen scrubbed. `lost`
counts the messages that its Crib has found uncorrectable inbound (R463). -/
def State.killLost (s : State) (core : Nat) (e : Episode) (reason lost : Nat) : State :=
  match sfind s.pad.cribs e.crib with
  | none => s.scrubPen core e
  | some c =>
    let m := killedRecord s e c reason lost
    ((s.setCrib e.crib { c with closed := true, out := [], image := none }).appendIn e.crib m).scrubPen core e

/-- An episode is killed for a reason, and no inbound message is lost. -/
def State.killEpisode (s : State) (core : Nat) (e : Episode) (reason : Nat) : State := s.killLost core e reason 0

end Sys2Proof.Machine
end

