-- ==== Sys2Proof/Machine/Side.lean ====
section
/-! DEFINITION. Shed job cards and Crib commands of class 0xD (R211, R216, R217), and their work at the side unit. -/

namespace Sys2Proof.Machine

/-! ### Issue -/

/-- `shedj` (R216): the card lies in `.g` and is read when the command reaches its unit. -/
def execShedj (o : Fields) (s : State) : Out :=
  uniformIssue s o fun _ =>
    let card := (val64 s o.imm o.a 0).toNat
    if card % 128 ≠ 0 then .next (s.trap 6 0)
    else if !canonical card then .next (s.trap 12 0)
    else .next (s.issueOp o 0x344 5 [.s (uniNo o.d)] (.shedj (uniNo o.d) card (val s o.imm o.b 0).toNat)).advance

/-- `cbs` (R217): the message is read at issue. -/
def execCbs (o : Fields) (s : State) : Out :=
  uniformIssue s o fun _ =>
    match s.sharedRead (val s o.imm o.b 0).toNat 64 64 with
    | .error (c, k) => .next (s.trap c k)
    | .ok b => .next (s.issueOp o 0x345 5 [.s (uniNo o.d)] (.cbs (uniNo o.d) (val s o.imm o.a 0).toNat b)).advance

/-- `cbr` (R217). -/
def execCbr (o : Fields) (s : State) : Out :=
  uniformIssue s o fun _ =>
    let off := (val s o.imm o.b 0).toNat
    match segCheck s.cur .s off 64 64 with
    | some c => .next (s.trap c 0)
    | none => .next (s.issueOp o 0x346 5 [.s (uniNo o.d)]
        (.cbr (uniNo o.d) (val s o.imm o.a 0).toNat (s.cur.sgs.base + off))).advance

/-- `cbw` (R217). -/
def execCbw (o : Fields) (s : State) : Out :=
  uniformIssue s o fun _ =>
    .next (s.issueOp o 0x347 5 [.s (uniNo o.d)]
      (.cbw (uniNo o.d) (val s o.imm o.a 0).toNat (val s o.imm o.c 0).toNat)).advance

/-! ### Job cards (R396, R397) -/

/-- The fields of a job card (R396). -/
structure CardFields where
  kern : Nat
  fmt : Nat
  n : Nat
  fsc : Nat
  flag : Nat
  tag : Nat
  count : Nat
  dst : Nat
  sbase : Nat
  soff : List Nat
  deriving DecidableEq, Repr

def cardFields (b : Bytes) : CardFields :=
  ⟨fieldAt b 0 2, fieldAt b 2 1, fieldAt b 3 1, fieldAt b 4 1, fieldAt b 8 8, fieldAt b 16 6, fieldAt b 24 4,
    fieldAt b 32 8, fieldAt b 40 8, (List.range 16).map fun i => fieldAt b (48 + 4 * i) 4⟩

/-- The start of source i (R396). -/
def CardFields.source (c : CardFields) (i : Nat) : Nat := c.sbase + c.soff.getD i 0

/-- Two ranges of n bytes overlap. -/
def overlaps (a b n : Nat) : Bool := a < b + n && b < a + n

/-- A card passes the check of R397. -/
def cardOk (b : Bytes) : Bool :=
  let c := cardFields b
  let len := 4 * c.count
  let shape := if c.kern = 1 then (c.fmt = 0 || c.fmt = 5) && 2 ≤ c.n && c.n ≤ 16 else c.kern = 2 && c.fmt = 0 && c.n = 1
  let zeros := fieldAt b 5 3 = 0 && fieldAt b 22 2 = 0 && fieldAt b 28 4 = 0 && fieldAt b 112 16 = 0
  let apart := if c.kern = 1 then
      (List.range c.n).all fun i => !overlaps c.dst (c.source i) len || c.dst == c.source 0
    else !overlaps c.dst (c.source 0) len
  shape && zeros && 2 ≤ c.fsc && c.fsc ≤ 5 && c.flag % 8 = 0 && 1 ≤ c.count && c.count ≤ 2 ^ 24 && c.dst % 4 = 0
    && c.sbase % 4 = 0 && (c.soff.zipIdx.all fun e => e.1 % 4 = 0 && (e.2 < c.n || e.1 = 0))
    && canonical c.flag && canonical c.dst && canonical c.sbase && apart

/-- `shedj` at its unit (R216): none while the card's page has yet to be supplied. -/
def State.shedjRun (s : State) (id : Nat) (op : Op) (dst card stack : Nat) : Option State :=
  match s.opRead id .g card 128 with
  | (.ok x, s) =>
    let q := (sfind s.shed.queues stack).getD []
    let c : ShedCard := ⟨op.ctx, op.grid, op.gid, op.place, op.pc, op.seq, op.core, x.bytes⟩
    if x.psn then some (s.report id dst 2 2)
    else if 12 ≤ stack ∨ !s.stackUsed stack ∨ !cardOk x.bytes then some (s.report id dst 4 4)
    else if 64 ≤ q.length then some (s.report id dst 12 12)
    else
      let s := { s with shed := { s.shed with queues := sput s.shed.queues stack (q ++ [c]) } }
      some ((s.modGrid op.grid fun g => { g with jobs := g.jobs + 1 }).report id dst 0 0)
  | (.fail st _ _, s) => some (s.report id dst st st)
  | _ => none

/-! ### Cribs (R217) -/

/-- `cbs` at its Crib (R217). -/
def State.cbsRun (s : State) (id : Nat) (op : Op) (dst crib : Nat) (m : Bytes) : State :=
  match s.cribFor op.ctx crib with
  | none => s.report id dst 13 13
  | some c =>
    if c.closed then s.report id dst 8 8
    else if 16 ≤ c.out.length then s.report id dst 12 12
    else
      let m := leBytes 4 c.seqOut ++ m.drop 4
      let c := { c with out := c.out ++ [m], seqOut := (c.seqOut + 1) % 2 ^ 32,
                        headAt := if c.out.isEmpty then s.now else c.headAt }
      ((s.setCrib crib c).openStep crib).report id dst 0 0

/-- Inbound entries at the head that the Crib finds uncorrectable are not delivered: it kills the episode that runs, whose
record counts them (R463). -/
def State.dropLost (s : State) (crib : Nat) : State :=
  match sfind s.pad.cribs crib with
  | none => s
  | some c =>
    let keep := c.inb.dropWhile (·.isEmpty)
    if keep.length = c.inb.length then s
    else
      let s := s.setCrib crib { c with inb := keep }
      match s.episodeOf crib with
      | some (core, e) => s.killLost core e 5 (c.inb.length - keep.length)
      | none => s

/-- `cbr` at its Crib (R217): the removal of the KILLED record opens the Crib again (R418). -/
def State.cbrRun (s : State) (id : Nat) (op : Op) (dst crib loc : Nat) : State :=
  let s := if (s.cribFor op.ctx crib).isSome then s.dropLost crib else s
  match s.cribFor op.ctx crib with
  | none => s.report id dst 13 13
  | some c =>
    match c.inb with
    | [] => s.report id dst 7 7
    | m :: t =>
      let c := { c with inb := t, closed := c.closed && msgKind m != 8 }
      ((s.setCrib crib c).writeLocal .s op.core loc m).report id dst 0 0

/-- `cbw` at its Crib (R217): it completes at once where a message is there. -/
def State.cbwRun (s : State) (id : Nat) (op : Op) (dst crib : Nat) : State :=
  match s.cribFor op.ctx crib with
  | none => s.report id dst 13 13
  | some c =>
    if !c.inb.isEmpty then s.report id dst 0 0
    else s.modOp id fun op => { op with phase := .running, since := s.now }

/-- A `cbw` passes its cycle limit (R217). -/
def execCbwTimeout (id : Nat) (s : State) : Out :=
  match sfind s.ops id with
  | some op =>
    match op.work with
    | .cbw dst _ limit =>
      if op.phase = .running ∧ limit ≠ 0 ∧ op.since + limit ≤ s.now then .next (s.report id dst 15 15) else notNow
    | _ => notNow
  | none => notNow

/-- The side queue of a core hands its head command to its unit (R211). -/
def execSideQueueHandover (core : Nat) (s : State) : Out :=
  match s.ops.find? fun e => e.2.core = core && e.2.queue = 5 && s.canStart e.1 e.2 with
  | none => notNow
  | some (id, op) =>
    let s := s.trace id 1 0
    let r : Option State := match op.work with
      | .swarm dst d loc => s.swarmStart id op dst d loc
      | .sweep fn dst hdl => s.sweepRun id op fn dst hdl
      | .shedj dst card stack => s.shedjRun id op dst card stack
      | .cbs dst crib m => some (s.cbsRun id op dst crib m)
      | .cbr dst crib loc => some (s.cbrRun id op dst crib loc)
      | .cbw dst crib _ => some (s.cbwRun id op dst crib)
      | _ => none
    match r with
    | some s => .next s
    | none => notNow

end Sys2Proof.Machine
end

