-- ==== Sys2Proof/Machine/System.lean ====
section
/-! DEFINITION. Privileged system instructions, class 0xE (R177 to R182), the return from a trap (R244), mapping matrices
(R363 to R365) and shoot-downs (R252, R358). -/

namespace Sys2Proof.Machine

/-! ### `segld` and `srw` (R178, R180) -/

/-- The ranges of a segment register (R47). -/
def segOk (seg : Space) (base limit : Nat) : Bool :=
  base % 256 = 0 && limit % 256 = 0
    && match seg with
      | .k => canonical base && 4096 ≤ limit && limit ≤ 2 ^ 32 - 256
      | .s => base ≤ 0x7FF00 && base + limit ≤ Config.sharedBytes
      | .y => base ≤ 0x5FFFF00 && base + limit ≤ Config.yardBytes
      | .g => false

/-- A segment register replaced (R47). -/
def Group.setSeg (g : Group) (seg : Space) (x : Seg) : Group :=
  match seg with
  | .k => { g with sgk := x }
  | .s => { g with sgs := x }
  | .y => { g with sgy := x }
  | .g => g

/-- `segld` (R178). -/
def execSegld (seg : Space) (o : Fields) (s : State) : Out :=
  if !s.cur.acts o.guard then .next s.advance
  else
    let base := if seg = .k then (val64 s o.imm o.a 0).toNat else (val s o.imm o.a 0).toNat
    let limit := (val s o.imm o.b 0).toNat
    if !segOk seg base limit then .next (s.trap 1 7)
    else if seg = .k ∧ s.cur.pstk ≠ 0 then .next (s.trap 1 6)
    else .next (s.modCur fun g => g.setSeg seg ⟨base, limit⟩).advance

/-- A control register written (R180): a `.wdog` of 0 disables the watchdog. -/
def Group.setCtl (g : Group) (reg : CtlReg) (x : DWord) : Group :=
  match reg with
  | .tvec => { g with tvec := x }
  | .tscr => { g with tscr := x }
  | .wdog => { g with wdog := x.toNat, wdogOn := x != 0 }

/-- `srw` (R180). -/
def execSrw (reg : CtlReg) (o : Fields) (s : State) : Out :=
  if !s.cur.acts o.guard then .next s.advance
  else
    let x := val64 s o.imm o.a 0
    .next (s.modCur fun g => g.setCtl reg x).advance

/-! ### `rte` (R179, R244) -/

/-- The masks of the lowest k entries of the pending-path stack, or the cause of `PAGE_ERR`. -/
def stackMasks : Nat → State → Except Nat (List LaneMask) × State
  | 0, s => (.ok [], s)
  | k + 1, s =>
    match stackMasks k s with
    | (.ok l, s) =>
      match s.kRead s.cur (s.cur.sgk.limit - 16 * (k + 1)) 16 with
      | (.ok x, s) => if x.psn then (.error 3, s) else (.ok (l ++ [BitVec.ofNat 64 (ofLe (x.bytes.drop 8))]), s)
      | (.fault _ f, s) => (.error (pageCause f), s)
    | r => r

/-- The slots, the depth counters and the stack depth that a trap record holds (R243). -/
structure Restore where
  slot0 : PcSlot
  slot1 : PcSlot
  pstk : Nat
  ctrs : Bytes
  deriving DecidableEq, Repr

def restoreOf (b : Bytes) : Restore :=
  let pc (off : Nat) : DWord := BitVec.ofNat 64 (fieldAt b off 8)
  let v := fieldAt b 0x40 1
  ⟨⟨pc 0x20, pc 0x28, v.testBit 0, none, 0⟩, ⟨pc 0x30, pc 0x38, v.testBit 1, none, 0⟩, fieldAt b 0x41 1, (b.drop 0x80).take 64⟩

/-- The valid slots of a record. -/
def Restore.slots (r : Restore) : List PcSlot := [r.slot0, r.slot1].filter (·.valid)

/-- The checks of R244 that need no stack entry. -/
def Restore.slotsOk (r : Restore) (g : Group) : Bool :=
  (r.slots.all fun p => isPc p.pc && p.mask != 0 && p.mask &&& g.exited == 0)
    && !(r.slot0.valid && r.slot1.valid && r.slot0.mask &&& r.slot1.mask != 0) && r.pstk ≤ 62

/-- The valid masks and the stack's masks cover each lane that has not exited exactly once (R244). -/
def coversOnce (g : Group) (ms : List LaneMask) : Bool :=
  (List.range 64).all fun l => (ms.countP fun m => m.getLsbD l) = if g.exited.getLsbD l then 0 else 1

/-- The group as `rte` restores it. -/
def Group.restore (g : Group) (r : Restore) : Group :=
  let slot (p : PcSlot) : PcSlot := if p.valid then p else ⟨0, 0, false, none, 0⟩
  { g with slot0 := slot r.slot0, slot1 := slot r.slot1, issue1 := false, pstk := r.pstk,
           ctr := ofDense 0 0 r.ctrs, busy := false, serving := none,
           ring := g.ring.filter fun e => some e.idx ≠ g.serving, inClause := false, wait0 := none, wait1 := none,
           stall := none }

/-- The `busy` bit of the group's trap record cleared (R239, R243, R244), where its page can be read and written. -/
def State.clearBusy (s : State) : State :=
  match s.kRead s.cur 7 1 with
  | (.ok x, s) => (s.kWrite s.cur 7 (x.bytes.map fun b => b &&& 0xFE)).2
  | (.fault _ _, s) => s

/-- The return from a trap (R179, R244): the record is read and checked, and then restored. -/
def State.returnTrap (s : State) (va : Nat) : State :=
  match (if canonical (va + 0xBF) then s.readVa s.cur.agent va 0xC0 else (.fault va (.notPresent 0), s)) with
  | (.fault _ f, s) => s.trap 12 (pageCause f)
  | (.ok x, s) =>
    let r := restoreOf x.bytes
    if x.psn then s.trap 12 3
    else if !r.slotsOk s.cur then s.trap 1 11
    else match stackMasks r.pstk s with
      | (.error c, s) => s.trap 12 c
      | (.ok ms, s) =>
        if coversOnce s.cur ((r.slots.map (·.mask)) ++ ms) then
          let gid := s.cur.gid
          (s.clearBusy.modCur fun g => g.restore r).retryHeld gid
        else s.trap 1 11

/-- An earlier access of the group may still name bytes that `rte` reads (R261): its record, or an entry of the stack. -/
def State.rteWaits (s : State) (va : Nat) : Bool :=
  s.mustWait .g [va] 0xC0 false || s.mustWait .k [s.cur.sgk.base + s.cur.sgk.limit - 1024] 1024 false

/-- `rte` (R179). -/
def execRte (o : Fields) (s : State) : Out :=
  if !s.cur.acts o.guard then .next s.advance
  else if !s.cur.converged then .next (s.trap 2 0)
  else
    let va := (val64 s o.imm o.a 0).toNat
    if s.rteWaits va then .next (s.hold .sys) else .next (s.returnTrap va)

/-! ### `mapld` (R181, R363 to R365) -/

/-- The rank of rows over GF(2), by elimination from the bit below n on. -/
def gf2Rank : Nat → List Nat → Nat
  | 0, _ => 0
  | n + 1, rows =>
    match rows.find? fun r => r.testBit n with
    | none => gf2Rank n rows
    | some p => 1 + gf2Rank n ((rows.erase p).map fun r => if r.testBit n then r ^^^ p else r)

/-- The rows of a matrix image (R363); none where a reserved bit or byte is not zero. -/
def matrixRows (b : Bytes) : Option (List Nat) :=
  let rows := (List.range 30).map fun i => fieldAt b (4 * i) 4
  if rows.all (· < 2 ^ 30) ∧ fieldAt b 120 8 = 0 then some rows else none

/-- The identity matrix. -/
def identityRows : List Nat := (List.range 30).map fun i => 2 ^ i

/-- The result of a matrix for a region (R181). -/
def State.mapCode (s : State) (region : Nat) (image : Bytes) : Nat :=
  if Config.regions ≤ region ∨ !s.stackUsed (region % 12) then 3
  else match matrixRows image with
    | none => 1
    | some rows =>
      if gf2Rank 30 rows < 30 then 1
      else if !rowLinear rows && (s.sweep.regs.any fun e => e.2.phase = .armed && e.2.rows.any fun r => r / 2 ^ 20 = region) then 2
      else 0

/-- The switch to a new matrix (R364): what a die has read of the region before is no longer what its addresses name. -/
def State.switchMatrix (s : State) (region : Nat) (image : Bytes) : State :=
  let rows := (matrixRows image).getD identityRows
  let m := s.mem.matrix
  { s with mem := { s.mem with
      matrix := if rows = identityRows then sdel m region else sput m region rows,
      rbuf := s.mem.rbuf.filter fun e => e.1 % 2 ^ 46 * 64 / Config.regionBytes ≠ region } }

/-- `mapld` (R181, R364): it holds issue while the region's stack is in self-refresh, and while an earlier access may still
name the bytes of its image (R261). -/
def execMapld (o : Fields) (s : State) : Out :=
  if !s.cur.acts o.guard then .next s.advance
  else
    let va := (val64 s o.imm o.a 0).toNat
    let region := (val s o.imm o.b 0).toNat
    if !canonical (va + 127) then .next (s.trap 12 0)
    else if s.mustWait .g [va] 128 false then .next (s.hold .sys)
    else match s.readVa s.cur.agent va 128 with
      | (.fault _ f, s) => .next (s.trap 12 (pageCause f))
      | (.ok x, s) =>
        let code := if va % 4 = 0 then s.mapCode region x.bytes else 1
        if x.psn then .next (s.trap 12 3)
        else if region < Config.regions ∧ (s.stackCtl (region % 12)).asleep then .next (s.hold .sys)
        else
          let s := if code = 0 then s.switchMatrix region x.bytes else s
          .next (writeResult s o fun _ => BitVec.ofNat 32 code).advance

/-! ### `tlbi` (R182) and its acknowledgements (R252) -/

/-- Translation units: one for each core, and one for each base die (R394). -/
def xlateUnits : Nat := Config.cores + 12

/-- The shoot-down covers a cached entry, a leaf or a table entry on the way to its page. -/
def Shoot.takes (h : Shoot) (leaf : Bool) (e : TlbEntry) : Bool :=
  match h.form with
  | .all => true
  | .ctx => e.ctx = h.ctx
  | .va => e.ctx = h.ctx && (!leaf || e.size = h.size) && e.page = h.va / pageBytes e.size

/-- The shoot-down covers a granule that an operation of a context has translated. -/
def Shoot.covers (h : Shoot) (ctx : Nat) (x : Xl) : Bool :=
  match h.form with
  | .all => true
  | .ctx => ctx = h.ctx
  | .va => ctx = h.ctx && x.granule * 65536 / pageBytes h.size = h.va / pageBytes h.size

/-- A `coll` can go on: it has yet to start, or a piece of it is there (R453). -/
def State.collGoes (s : State) (op : Op) (desc : Bytes) (todo : List Nat) : Bool :=
  let d := collDesc desc
  op.progress = 0 || match sfind s.fabric.comms d.comm with
    | some c => todo.any fun x => (s.pieceBytes d c.members c.rank x).isSome
    | none => false

/-- An operation that holds an acknowledgement back while it uses a translation (R182, R252). A wait that sleeps, a `coll`
that waits for its other members, which may be without bound, and an `attn` that waits for a pager translate again where they
need to (log 74). -/
def State.usesXl (s : State) (id : Nat) (op : Op) : Bool :=
  op.phase ≠ .logged && op.phase ≠ .ended && op.phase ≠ .heldBack
    && match op.work with
      | .wait _ _ _ _ _ _ _ _ _ => op.phase ≠ .running
      | .coll _ desc todo => s.collGoes op desc todo
      | .attn _ _ _ => !(s.xlate.upcalls.any fun u => u.ops.contains id)
      | .sweep _ _ _ => false
      | _ => true

/-- A translation unit without the entries that a shoot-down covers. -/
def Tlb.without (t : Tlb) (h : Shoot) : Tlb :=
  ⟨t.small.filter fun e => !h.takes true e, t.large.filter fun e => !h.takes true e,
    t.walk.filter fun e => !h.takes false e⟩

/-- `tlbi` (R182, R358): it starts once the group's earlier accesses are performed, and completes when every unit has
acknowledged. Core-held blocks are promoted (R266). -/
def execTlbi (form : TlbForm) (o : Fields) (s : State) : Out :=
  if !s.cur.acts o.guard then .next s.advance
  else match s.cur.shoot with
    | some k =>
      let acked := match sfind s.shoots k with | some h => h.acked.length | none => xlateUnits
      if acked < xlateUnits then .next (s.hold .sys)
      else
        let s' : State := { s with shoots := sdel s.shoots k }
        .next (s'.modCur fun g => { g with shoot := none }).advance
    | none =>
      if !s.performedAll .rel then .next (s.hold .sys)
      else
        let b := (val s o.imm o.b 0).toNat
        let va := if form = .va then (val64 s o.imm o.a 0).toNat else 0
        let h : Shoot := ⟨s.cur.gid, form, va, bits b 1 0, if form = .va then bits b 31 16 else bits b 15 0, []⟩
        let s := s.order .rel .dev s.cur.die
        let s' : State := { s with nextId := s.nextId + 1, shoots := sput s.shoots s.nextId h,
                                   mem := { s.mem with held := [] } }
        .next ((s'.modCur fun g => { g with shoot := some s.nextId }).hold .sys)

/-- A translation unit acknowledges a shoot-down once no running command of its core uses what it covers (R252). -/
def execShootdownAck (key unit : Nat) (s : State) : Out :=
  match sfind s.shoots key with
  | none => notNow
  | some h =>
    let mine (op : Op) : Bool := op.core = unit
    if xlateUnits ≤ unit ∨ h.acked.contains unit
        ∨ (s.ops.any fun e => mine e.2 && s.usesXl e.1 e.2 && e.2.xl.any fun x => h.covers e.2.ctx x) then notNow
    else
      let drop (op : Op) : Op := if mine op then { op with xl := op.xl.filter fun x => !h.covers op.ctx x } else op
      let s := s.setTlb unit ((s.tlb unit).without h)
      .next { s with ops := s.ops.map fun e => (e.1, drop e.2),
                     shoots := sput s.shoots key { h with acked := unit :: h.acked } }

end Sys2Proof.Machine
end

