-- ==== Sys2Proof/Machine/Clause.lean ====
section
/-! DEFINITION. Line entry (R25, R30, R34, R36, R37, R247), the choice between a group's slots (R223) and the end of a
park (R138). -/

namespace Sys2Proof.Machine

/-! ### The checks of a line (R20, R31 to R34) -/

/-- A checked slot: its raw fields, its fields with reserved operand codes taken as unused, and its form where its
opcode is assigned. -/
structure Checked where
  raw : Raw
  fields : Fields
  form : Option Form

def checkedSlot (w : SlotWord) : Checked :=
  let r := rawOf w
  let lax (x : Nat) : Opnd := (opndOf x).getD zeroOpnd
  let o : Fields := ⟨⟨8 ≤ r.g, ⟨r.g % 8, Nat.mod_lt _ (by decide)⟩⟩, lax r.d, lax r.a, lax r.b, lax r.c,
    BitVec.ofNat 2 r.fs, BitVec.ofNat 32 r.imm⟩
  ⟨r, o, if r.opc / 64 = 0xF then none else formOf r.opc r.m o⟩

/-- The conditions of R20 on a line entered at slot e. -/
def lineWordOk (x : LineBits) (e : Nat) : Bool :=
  let a := lineSfa x
  let b := lineSfb x
  let legal (n : Nat) : Bool := n < 12 || n == 15
  let slotOk (n : Nat) : Bool :=
    let c := checkedSlot (lineSlot x n)
    let long := match c.form with | some f => f.long | none => false
    (c.raw.fs == 0 || long) && (!c.raw.fs.testBit 0 || a != 15) && (!c.raw.fs.testBit 1 || b != 15)
  legal a && legal b && (a == 15 || a != b) && ((List.range 5).filter (e ≤ ·)).all slotOk

/-- The source fields of a slot: their codes, operands and lengths of register runs. -/
def Checked.sources (c : Checked) : List (Nat × Opnd × Nat) :=
  match c.form with
  | none => []
  | some f =>
    (if f.a.isEmpty then [] else [(c.raw.a, c.fields.a, f.aRun)]) ++ (if f.b.isEmpty then [] else [(c.raw.b, c.fields.b, f.bRun)])
      ++ (if f.c.isEmpty then [] else [(c.raw.c, c.fields.c, f.cRun)])

/-- A `pack` that keeps elements of its destination, which it reads as well as writes (R100). -/
def Checked.keeps (c : Checked) : Bool := c.raw.opc == 0x0C6 && [3, 4, 8, 9, 10].contains (mf c.raw.m 11 8)

/-- The stale predicate that a `vote` or `shfl` writes beside its destination (R140, R152). -/
def Checked.stale (c : Checked) : Option Nat :=
  if (c.raw.opc = 0x140 ∨ c.raw.opc = 0x141) ∧ 8 ≤ mf c.raw.m 3 0 then some (mf c.raw.m 3 0 - 8) else none

/-- The banks that a slot reads (R33, R100). -/
def Checked.readBanks (c : Checked) : List Nat :=
  let l : List Nat := ((c.sources.filter fun s => s.1 < 256).map fun s => (List.range s.2.2).map fun i => (s.1 + i) % 4).flatten
  let kept : List Nat := if c.keeps && c.raw.d < 256 then [c.raw.d % 4] else []
  (l ++ kept).eraseDups

/-- The banks of a slot's destinations (R33, R100, R152). -/
def Checked.destBanks (c : Checked) : List Nat :=
  match c.form with
  | some f =>
    (if f.d.isEmpty then [] else (List.range f.dRun).map fun i => (c.raw.d + i) % 4)
      ++ (match c.stale with | some k => [k % 4] | none => [])
  | none => []

/-- The registers of a run from an operand on. -/
def runRegs (x : Opnd) (n : Nat) : List RegRef :=
  match x with
  | .v k => (List.range n).map fun i => .v (k.val + i)
  | .s k => (List.range n).map fun i => .s (k.val + i)
  | x => (regOf x).toList

/-- The registers that a slot writes (R100, R152). -/
def Checked.writes (c : Checked) : List RegRef :=
  match c.form with
  | some f =>
    (if f.d.isEmpty then [] else runRegs c.fields.d f.dRun) ++ (match c.stale with | some k => [.p k] | none => [])
  | none => []

/-- The registers that a slot reads, its guard among them (R33 condition 5, R100). `p7` is left out as a guard, which always
reads true, and counts as a source, so that a partner's write of it, though it is discarded, fails the condition (log 57). -/
def Checked.reads (c : Checked) : List RegRef :=
  (c.sources.map fun s => runRegs s.2.1 s.2.2).flatten ++ (if c.keeps then (regOf c.fields.d).toList else [])
    ++ (if c.fields.guard.pred.val = 7 then [] else [.p c.fields.guard.pred.val])

/-- A pair meets the five conditions of R33. -/
def pairOk (x y : Checked) : Bool :=
  match x.form, y.form with
  | some f, some g =>
    f.pair != .N && g.pair != .N && !(f.pair == .X && g.pair == .X)
      && !(x.destBanks.any y.destBanks.contains)
      && (x.readBanks.filter fun b => y.readBanks.contains b).length ≤ 1
      && !(x.writes.any y.reads.contains) && !(y.writes.any x.reads.contains)
  | _, _ => false

/-- The first pair of a line entered at slot e that breaks R33, by its first slot. -/
def badPair (x : LineBits) (e : Nat) : Option Nat :=
  (pairFirsts (linePair x)).find? fun n => e ≤ n && !pairOk (checkedSlot (lineSlot x n)) (checkedSlot (lineSlot x (n + 1)))

/-- A failed check of R34: the trap code and cause, the step, the test and the slot. -/
structure EntryFail where
  code : Nat
  cause : Nat
  step : Nat
  test : Nat
  slot : Nat
  deriving DecidableEq, Repr

/-- The first encoding of the checked slots that fails (R93). -/
def badSlot (env : EntryEnv) (x : LineBits) (e : Nat) : Option EntryFail :=
  (((List.range 5).filter (e ≤ ·)).filterMap fun n =>
    match decodeSlot env (lineSlot x n) with
    | .ok _ => none
    | .error (.failed t) => some ⟨if t = 9 then 7 else 1, 0, 4, t, n⟩).head?

/-- Steps 2 to 4 of R34. A failure of step 2, which concerns the line as a whole, reports the entry slot, and a pair that fails
step 3 its first slot (log 57: R34 says only 'the slot'). -/
def lineFail (env : EntryEnv) (x : LineBits) (e : Nat) : Option EntryFail :=
  if !lineWordOk x e then some ⟨1, 8, 2, 0, e⟩
  else match badPair x e with
    | some n => some ⟨1, 9, 3, 0, n⟩
    | none => badSlot env x e

/-! ### The slot that a group offers (R223) -/

/-- Slot 0 or slot 1 of a group, and the line that it has entered. -/
def Group.slotOf (g : Group) (b : Bool) : PcSlot := if b then g.slot1 else g.slot0
def Group.waitOf (g : Group) (b : Bool) : Option LineBits := if b then g.wait1 else g.wait0
def Group.setWait (g : Group) (b : Bool) (x : Option LineBits) : Group :=
  if b then { g with wait1 := x } else { g with wait0 := x }

/-- A slot that may issue: valid and not parked. -/
def Group.eligible (g : Group) (b : Bool) : Bool := (g.slotOf b).valid && (g.slotOf b).park.isNone

/-- The line of a slot: the one that it has entered, or the fresh one in the instruction buffer. -/
def State.lineOf (s : State) (b : Bool) : Option LineBits :=
  match s.cur.waitOf b with
  | some x => some x
  | none => (s.ibufFind s.cur.coreNo s.cur.ctx (pcLine (s.cur.slotOf b).pc)).map (·.data)

/-- The slot's clause cannot start because of its wait mask (R25). One whose line is not in the instruction buffer has no mask
to test yet and counts as one that can start (R223, log 88). -/
def State.masked (s : State) (b : Bool) : Bool :=
  match s.lineOf b with
  | some x => !s.cur.flagsClear (BitVec.ofNat 12 (lineWait x))
  | none => false

/-- The slot that the issuing group offers (R223): during a STEP the stepped one alone (R439). -/
def State.offer (s : State) : Option Bool :=
  let g := s.cur
  if 0 < g.stepLeft then (if g.eligible g.issue1 then some g.issue1 else none)
  else match g.eligible false, g.eligible true with
  | true, true =>
    let low := g.slot1.pc.toNat < g.slot0.pc.toNat
    some (if s.masked low && !s.masked (!low) then !low else low)
  | true, false => some false
  | false, true => some true
  | false, false => none

/-- The oldest failure of the ring that has not been raised (R247). -/
def Group.unraised (g : Group) : Option RingEntry :=
  if g.busy then none else g.ring.find? fun e => !e.raised && e.status != 3

/-- The deferred trap of a ring entry (R247). Its record names the slot of the entry point (log 57: R243 names none where no
instruction and no check failed). -/
def State.trapDeferred (s : State) (e : RingEntry) : State :=
  let (code, cause) := statusTrap e.status e.opc e.replica
  let pc := s.cur.pc
  s.takeTrap { code := code, cause := cause, slot := pcSlot pc, tpc := pc, resume := pc, xarg := 0x500 + 64 * e.idx,
               lanes := (maskLanes e.lmask).map fun l => ⟨l, e.faddr, code, cause, e.space, e.size, e.kind⟩,
               ring := some e.idx, deferred := true }

/-- Blocks that a `shrink` gave up leave the group, and ring entries that raise nothing are freed (R41, R247): R255 frees an
entry at the `rte` of its trap, which an `ABORT` never raises, and such an entry is freed here (log 81). -/
def State.atEntry (s : State) : State :=
  let gid := s.cur.gid
  let s := s.modCur fun g =>
    let n := g.vblocks - g.shrink
    { g with vblocks := n, shrink := 0, v := if g.shrink = 0 then g.v else sclear g.v (n * 1024) (g.shrink * 1024),
             ring := g.ring.filter fun e => e.raised || e.status != 3 }
  s.retryHeld gid

/-- The line of the entering slot with its parity checked (R30): a copy that fails is fetched again. -/
def State.parityLine (s : State) (x : LineBits) : Except (Nat × Nat × Nat) LineBits × State :=
  if lineParity x then (.ok x, s)
  else
    let g := s.cur
    let line := pcLine g.pc
    let keep := (s.ibufOf g.coreNo).filter fun e => !(e.line = line && e.ctx = g.ctx && e.copy = 0)
    let s := s.setIbuf g.coreNo keep
    match s.fetchLine g line with
    | (.error c, s) => (.error (12, c, 0), s)
    | (.ok y, s) =>
      if lineParity y then (.ok y, s.noteError levelIbuf false line g.ctx)
      else (.error (4, 0, 1), s.noteError levelIbuf true line g.ctx)

/-- The line becomes the most recently entered one of its core (R36). -/
def State.enterIbuf (s : State) (line : Nat) : State :=
  match s.ibufFind s.cur.coreNo s.cur.ctx line with
  | some e => s.ibufEnter s.cur.coreNo e
  | none => s

/-- The clause of the chosen slot starts, or the group waits on its wait mask (R25). -/
def State.startClause (s : State) (b : Bool) (x : LineBits) : State :=
  if s.cur.flagsClear (BitVec.ofNat 12 (lineWait x)) then
    s.modCur fun g => { g.setWait b none with inClause := true, line := x, stall := none }
  else s.hold .flagwait

/-- The transfer to the launch entry point fails with a cause of `BAD_TARGET` (R27, R28). -/
def State.trapLaunch (s : State) (cause : Nat) : State :=
  let pc := s.cur.pc
  (s.modCur fun g => { g with fresh := false }).takeTrap
    { code := 3, cause := cause, slot := pcSlot pc, tpc := pc, resume := pc, xarg := pc.toNat }

/-- The chosen slot enters its line (R34): the launch entry point's `tgt` bit (R28), the checks, and the wait mask. The
`tgt` bit is tested before the checks of R34, and a failure of parity reports the entry slot (log 57). -/
def State.enterSlot (s : State) (b : Bool) (x : LineBits) : State :=
  let e := pcSlot s.cur.pc
  let pc := s.cur.pc
  if s.cur.fresh && !isPc pc then s.trapLaunch 1
  else if s.cur.fresh && !lineTgt x e then s.trapLaunch 0
  else
    let s := s.modCur fun g => { g.setSlot { g.slot with copy := 0 } with fresh := false }
    match s.parityLine x with
    | (.error (code, cause, step), s) => s.trapEntry code cause step 0 e
    | (.ok x, s) =>
      match lineFail s.cur.env x e with
      | some f => s.trapEntry f.code f.cause f.step f.test f.slot
      | none => ((s.modCur fun g => g.setWait b (some x)).enterIbuf (pcLine s.cur.pc)).startClause b x

/-- The issuing group stands between clauses and may enter one. -/
def Group.between (g : Group) : Bool := g.gid != 0 && g.resident && !g.stopped && !g.expired && !g.inClause

/-- A pager team with an outstanding upcall, which is not pre-empted (R253): the gangs of a privileged launch of a context
whose pagers have upcalls (log 76). -/
def State.servesUpcall (s : State) (grid : Nat) : Bool :=
  match s.gridOf grid with
  | some g => g.desc.priv && s.xlate.upcalls.any fun u => u.ctx = g.ctx
  | none => false

/-- The gang of a group is being taken off (R346), and no upcall keeps it (R253). -/
def State.isLeaving (s : State) (g : Group) : Bool :=
  (s.launch.gangs.any fun x => x.grid = g.grid && x.gngx = g.gngx && x.leaving) && !s.servesUpcall g.grid

/-- The group waits within a clause for another group of its gang: at a barrier or at a rendezvous. -/
def Group.onPartner (g : Group) : Bool := g.inClause && (g.stall == some .barwait || g.stall == some .quartet)

/-- The issuing group has stopped at its clause boundary because its gang is being taken off (R346). It goes on while
another group of the gang waits within a clause for a partner, or while a record that its failure ring has no room for
keeps a register pending (R56, log 75). -/
def State.stopsHere (s : State) : Bool :=
  s.isLeaving s.cur
    && !(s.cur.waitingRecs.any fun id => match sfind s.ops id with | some op => !op.dests.isEmpty | none => false)
    && !(s.groups.any fun g => g.grid = s.cur.grid && g.gngx = s.cur.gngx && g.onPartner)

/-- A line entry of the issuing group (R25, R34, R223, R247). Two slots that stand together, such as a parked slot's target
and the fall-through of a split, merge here (R224). -/
def execClauseStart (s : State) : Out :=
  if !s.cur.between ∨ s.stopsHere then notNow
  else match s.offer with
    | none => notNow
    | some b =>
      let s := s.modCur fun g => { g with issue1 := b }
      match s.cur.waitOf b with
      | some x => .next (s.startClause b x)
      | none =>
        let s := s.atEntry
        match s.cur.unraised with
        | some e => .next (s.trapDeferred e)
        | none =>
          if s.cur.together ∧ s.cur.stepLeft = 0 then .next (settleSlots 64 s)
          else match s.lineOf b with
          | some x => .next (s.enterSlot b x)
          | none => notNow

/-- The line of the offered slot is filled from memory (R36); where it cannot be, the group traps at the entry point
(R37). A launch entry point that is no program-counter value is not fetched (R27). -/
def execIfetchFill (s : State) : Out :=
  if !s.cur.between ∨ s.stopsHere then notNow
  else match s.offer with
    | none => notNow
    | some b =>
      if (s.lineOf b).isSome ∨ s.cur.unraised.isSome then notNow
      else
        let s := s.modCur fun g => { g with issue1 := b, stall := some .ifetch }
        if s.cur.fresh && !isPc s.cur.pc then .next (s.trapLaunch 1)
        else match s.fetchLine s.cur (pcLine s.cur.pc) with
        | (.ok _, s) => .next s
        | (.error c, s) => .next (s.trapEntry 12 c 0 0 (pcSlot s.cur.pc))

/-- A parked slot whose flags are clear. -/
def Group.wakes (g : Group) (p : PcSlot) : Bool :=
  p.valid && match p.park with | some wf => g.flagsClear wf | none => false

/-- The park of a slot ends once the flags that it names are clear, and the slot enters its target, where it merges with a
slot that stands there (R138, R224). The flags are tested at a turn between clauses alone: where they were clear for a moment
while the other slot's clause ran, the park goes on (log 88). -/
def execYieldResume (s : State) : Out :=
  let g := s.cur
  if !g.between then notNow
  else if g.wakes g.slot0 then
    .next (settleSlots 64 (s.modCur fun g => { g with slot0 := { g.slot0 with park := none }, stall := none }))
  else if g.wakes g.slot1 then
    .next (settleSlots 64 (s.modCur fun g => { g with slot1 := { g.slot1 with park := none }, stall := none }))
  else notNow

end Sys2Proof.Machine
end

