-- ==== Sys2Proof/Machine/Turn.lean ====
section
/-! DEFINITION. What the issuing group does at its turn (R25, R31, R223, R432), what an issue leaves (R342, R437, R439),
the choice of a slice (R342), and the passing of time. -/

namespace Sys2Proof.Machine

/-! ### What holds an instruction at issue -/

/-- The registers that an instruction names, its destinations among them (R24), and the permutation register that a `perm`
waits for (R149): R56 lets a later slot's value stand,
so a pending destination holds an instruction of every class, and R99 speaks of an instruction's own result (log 69). -/
def instrRegs (i : Instr) : List RegRef :=
  match partsOf i with
  | none => []
  | some (opc, m, o) =>
    match formOf opc m o with
    | none => []
    | some f =>
      let fld (ks : List Kind) (x : Opnd) (n : Nat) : List RegRef := if ks.isEmpty then [] else runRegs x n
      let pm := if opc = 0x145 then [RegRef.pm (mf m 2 0)] else []
      let eta := if opc / 64 = 0xB ∧ opc ≠ 0x2C2 then [RegRef.eta (mf m 9 8)] else []
      fld f.d o.d f.dRun ++ fld f.a o.a f.aRun ++ fld f.b o.b f.bRun ++ fld f.c o.c f.cRun
        ++ [.p o.guard.pred.val] ++ pm ++ eta

/-- The fields of an instruction. -/
def fieldsOfInstr (i : Instr) : Option Fields := (partsOf i).map (·.2.2)

/-- The instruction issues an operation that touches `.g` (R250). -/
def touchesG (i : Instr) : Bool :=
  match partsOf i with
  | none => false
  | some (opc, m, _) =>
    match opc / 64 with
    | 0x7 =>
      let ds := cspaceOf (mf m 10 9)
      let ss := cspaceOf (mf m 8 7)
      match opc % 64 with
      | 0 => ds == .g || ss == .g
      | 3 => ds == .g
      | _ => true
    | 0x8 => (match atomOf m with | some x => x.sp == .g | none => false)
    | 0xC => true
    | 0xD => opc == 0x340 || opc == 0x344
    | _ => false

/-- The granules of `.g` that an operation names, where they are known; none where they are not. -/
def Work.granules : Work → Option (List Nat)
  | .atomic .g _ _ wide _ _ _ ls => some (ls.map fun l => unitsOf 65536 l.loc (if wide then 8 else 4)).flatten
  | .wait .g _ wide _ _ _ loc _ _ => some (unitsOf 65536 loc (if wide then 8 else 4))
  | .wake .g _ _ _ loc _ => some (unitsOf 65536 loc 4)
  | .copy ds ss _ d s n _ =>
    some ((if ds = .g then unitsOf 65536 d n else []) ++ (if ss = .g then unitsOf 65536 s n else []))
  | .fill .g _ d _ n _ => some (unitsOf 65536 d n)
  | .gather _ _ n ls _ => some (ls.map fun l => unitsOf 65536 l.x n).flatten
  | .scatter _ _ n ls => some (ls.map fun l => unitsOf 65536 l.x n).flatten
  | .coll _ _ _ => none
  | .attn _ _ _ => none
  | .kv _ _ _ _ _ => none
  | .swarm _ _ _ => none
  | .shedj _ _ _ => none
  | _ => some []

/-- The operation touches `.g` and has not finished translating its pages (R250). -/
def Op.translating (op : Op) : Bool :=
  op.phase ≠ .ended && op.phase ≠ .heldBack
    && match op.work.granules with
      | some l => l.any fun g => !(op.xl.any fun x => x.granule = g)
      | none => true

/-- Why the next instruction of the issuing group is held before it issues (R21, R24, R250). -/
def State.issueHold (s : State) (i : Instr) : Option Stall :=
  if (instrRegs i).any fun r => s.pending s.cur r then some .regwait
  else match fieldsOfInstr i with
    | none => none
    | some o =>
      if !s.cur.acts o.guard then none
      else if s.cur.flagsFull (flagsOf s.cur.line o.fs) then some .flagfull
      else if touchesG i && 8 ≤ ((s.opsOf s.cur.gid).filter fun e => e.2.translating).length then some .oplog
      else none

/-! ### A turn -/

/-- What is due at a turn of the issuing group: one instruction or device step, a pair, a stall, the stop that a STOP asked
for, or nothing. -/
inductive Due
  | run (i : Instr) | pair (i j : Instr) | stall (r : Stall) | stop | idle
  deriving DecidableEq, Repr

/-- A breakpoint of the core names one of the points (R436). -/
def State.breaks (s : State) (g : Group) (pcs : List DWord) : Bool :=
  s.dbg.dbi.any fun e =>
    let x := e.2.toNat
    e.1 / 8 = g.coreNo && x.testBit 80 && (x.testBit 81 || bits x 79 64 = g.ctx % 65536)
      && pcs.contains (BitVec.ofNat 64 (bits x 63 0))

/-- Every lane of the issuing slot has been stopped at its point and has yet to issue it: the breakpoint stops none of them
again (R436, R441, log 57). -/
def Group.passed (g : Group) : Bool :=
  match g.bpPassed with
  | some (pc, m) => pc == g.pc && (g.slot.mask &&& ~~~m) == 0
  | none => false

/-- The lanes of a mask have gone on from the point at which a breakpoint has stopped them: they have issued it, or, outside a
handler, another one. -/
def Group.unpass (g : Group) (m : LaneMask) : Group :=
  { g with bpPassed := match g.bpPassed with
      | some (pc, l) => if l &&& ~~~m = 0 then none else some (pc, l &&& ~~~m)
      | none => none }

/-- What line entry would read of a group that may do everything. -/
def EntryEnv.all : EntryEnv := ⟨16, 16, 2, true⟩

/-- The instruction in a slot of the latched line, which passed the checks of R93 when the line was entered: the
allocation is tested at that moment alone (R40). -/
def State.slotInstr (s : State) (n : Nat) : Option Instr :=
  match decodeSlot EntryEnv.all (lineSlot s.cur.line n) with
  | .ok i => some i
  | .error _ => none

/-- The turn between clauses (R223, R25). -/
def State.dueBetween (s : State) : Due :=
  if s.stopsHere then .idle
  else if s.cur.wakes s.cur.slot0 || s.cur.wakes s.cur.slot1 then .run .yieldResume
  else match s.offer with
    | none => .stall .yield_
    | some b =>
      if (s.cur.waitOf b).isNone && s.cur.unraised.isNone && (s.lineOf b).isNone then .run .ifetchFill
      else .run .clauseStart

/-- The turn within a clause (R26, R31, R35). A pair is never held once its registers are there, so that a STOP takes effect
(R437). -/
def State.dueSlot (s : State) : Due :=
  let n := pcSlot s.cur.pc
  let paired := (pairFirsts (linePair s.cur.line)).contains n
  let pcs := if paired then [s.cur.pc, nextPoint s.cur.pc] else [s.cur.pc]
  if s.breaks s.cur pcs && !s.cur.passed then .run .breakpointHit
  else match s.slotInstr n with
    | none => .idle
    | some i =>
      match s.issueHold i with
      | some r => .stall r
      | none =>
        if paired then
          match s.slotInstr (n + 1) with
          | none => .idle
          | some j =>
            match s.issueHold j with
            | some r => .stall r
            | none => if s.cur.stopReq then .stop else .pair i j
        else .run i

/-- The group stands at a clause boundary, or its next instruction is held at issue (R233). -/
def Group.canEnd (g : Group) : Bool := !g.inClause || g.stall.isSome

/-- What is due at a turn of the issuing group; one whose watchdog has run out ends where it may (R233). -/
def State.due (s : State) : Due :=
  if s.cur.gid = 0 ∨ !s.cur.resident then .idle
  else if s.cur.expired && s.cur.alive && s.cur.canEnd then .run (.watchdogExpiry s.cur.gid)
  else if s.cur.stopped then .stall .stopped
  else if s.cur.inClause then s.dueSlot
  else s.dueBetween

/-- The code of the port's event for a group that has stopped (R437). -/
def portStopped : Nat := 7

/-- A group stops and its slot stands at an entry point (R437). -/
def Group.halt (g : Group) : Group :=
  { g with stopped := true, stopReq := false, stepLeft := 0, inClause := false, wait0 := none, wait1 := none, stall := some .stopped }

/-- The key of a slice of a core. -/
def sliceKey (core slice : Nat) : Nat := core * 4 + slice

/-- The cycle of a grid's first issue on a slice, where it is sampled (R431). -/
def State.noteFirst (s : State) (g : Group) : State :=
  let k := sliceKey g.coreNo g.slice
  match s.gridOf g.grid with
  | some gr =>
    if gr.speriod = 0 ∨ s.prof.first.any (fun e => e.1 = g.grid && e.2.1 = k) then s
    else { s with prof := { s.prof with first := s.prof.first ++ [(g.grid, k, s.now)] } }
  | none => s

/-- The issuing slot of a STEP no longer holds lanes of the focus mask alone: every lane of it has exited, or a path has been
popped into the slot (R225, R440). -/
def Group.leavesFocus (g : Group) : Bool := !g.slot.valid || g.slot.mask &&& ~~~g.focus != 0

/-- What an issue leaves (R342, R439): the slice's record of it, and the end of a STEP after its last issue. -/
def State.afterIssue (s : State) (before : Group) : State :=
  let me (g : Group) : Group :=
    let run := if g.issuedAt.map (· + 1) = some s.now then g.runLen + 1 else if g.issuedAt = some s.now then g.runLen else 1
    let g := if before.passed || !before.busy then g.unpass before.slot.mask else g
    let g := { g with lastIssue := s.steps + 1, issuedAt := some s.now, lastPc := before.pc, runLen := run }
    if g.stepLeft = 0 then g
    else if g.stepLeft = 1 ∨ g.leavesFocus then g.halt
    else { g with stepLeft := g.stepLeft - 1 }
  if s.cur.gid = before.gid ∧ s.cur.stall.isNone then
    State.noteFirst (s.modCur me) before
  else s

/-- The group of a slice that issues (R342), once in each cycle: the one that issued in the previous cycle, unless it has
issued in each of the last 32 while another is ready; else the ready one whose last issue is the oldest, the earlier placed
among those that never issued. -/
def State.chooses (s : State) (core slice : Nat) (ready : Nat → Bool) : Option Nat :=
  let mine := s.groups.filter fun g => g.coreNo = core && g.slice = slice && g.resident
  let l := mine.filter fun g => ready g.gid
  let older (a b : Group) : Bool := a.lastIssue < b.lastIssue || (a.lastIssue = b.lastIssue && a.gid < b.gid)
  if mine.any fun g => g.issuedAt = some s.now then none
  else match l.find? fun g => g.issuedAt.map (· + 1) = some s.now && (g.runLen < 32 || l.length = 1) with
  | some g => some g.gid
  | none => (l.foldl (fun (m : Option Group) g => match m with
      | none => some g
      | some h => some (if older g h then g else h)) none).map (·.gid)

/-! ### Time (log 3) -/

/-- A watchdog count after some cycles (R232, R233). -/
def Group.age (n : Nat) (g : Group) : Group :=
  if g.wdogOn ∧ g.resident ∧ !g.stopped then { g with wdog := g.wdog - n, expired := g.expired || g.wdog ≤ n } else g

/-- A Paddock core's counters after some of its cycles (R407, R417): a step whose counter stood at zero before the last of
them is overdue. -/
def Episode.age (n : Nat) (full : Bool) (e : Episode) : Episode :=
  let late := match e.open_ with | some k => k < if full then min n 1 else n | none => false
  { e with cycle := (e.cycle + n) % 2 ^ 64, overdue := e.overdue || late,
           open_ := if full then e.open_ else e.open_.map fun k => k - n }

/-- Paddock cycles (3.0 GHz) between two core cycles (3.6 GHz). -/
def paddockCycles (t0 t1 : Nat) : Nat := t1 * 5 / 6 - t0 * 5 / 6

/-- An upcall of the grid is outstanding (R429 `ifault`). -/
def State.faultOpen (s : State) (grid : Nat) : Bool :=
  s.xlate.upcalls.any fun u => u.ops.any fun id =>
    (match sfind s.ops id with | some op => op.grid = grid | none => false)
      || s.shed.jobs.any fun e => e.2.id = id && e.2.card.grid = grid

/-- A storage transfer of the grid's context or a collective of the grid is outstanding (R429 `iio`). -/
def State.ioOpen (s : State) (grid ctx : Nat) : Bool :=
  (s.ops.any fun e => e.2.grid = grid && e.2.phase = .running && match e.2.work with | .coll _ _ _ => true | _ => false)
    || s.nvme.reqs.any fun r => r.ctx = ctx

/-- A grid's intervals after some cycles of its run (R429), which is over once its last gang has released and its jobs have
set their flags (R237). -/
def Grid.age (s : State) (k n : Nat) (g : Grid) : Grid :=
  if g.placed.isNone ∨ g.ended ∨ g.endedAt.isSome then g
  else if g.gangsLeft = 0 ∧ g.jobs = 0 then { g with endedAt := some s.now }
  else if s.faultOpen n then { g with ifault := g.ifault + k }
  else if s.ioOpen n g.ctx then { g with iio := g.iio + k }
  else g

/-! ### A word to run next (log 6) -/

/-- A line that holds one word in slot 0, with set-flags `f0` and `f1` and no pair. -/
def probeLine (w : Nat) : LineBits := BitVec.ofNat 512 (w + 2 ^ 16 * 2 ^ 480)

/-- A privileged group of role 2 with 64 lanes, 16 blocks and 16 tile names, as a launch would place it. -/
def probeGroup : Group :=
  { Group.vacant with
      gid := 1, launched := BitVec.allOnes 64, exited := 0, resident := true, vblocks := 16, tquota := 16, role := 2,
      budget := 16, priv := true, sgk := ⟨0, 65536⟩, sgs := ⟨0, 65536⟩, sgy := ⟨0, 65536⟩,
      slot0 := ⟨mkPc 0x1000 0, BitVec.allOnes 64, true, none, 0⟩ }

/-- The group in a clause whose line holds the word, at slot 0. -/
def Group.withWord (g : Group) (w : Nat) : Group :=
  { g.setSlot { g.slot with pc := mkPc (pcLine g.pc) 0, park := none } with
      inClause := true, line := probeLine w, stopped := false, stepLeft := 0, stall := none, resident := true,
      stopReq := false, bpPassed := some (mkPc (pcLine g.pc) 0, BitVec.allOnes 64) }

end Sys2Proof.Machine
end

