-- ==== Sys2Proof/Machine/Engine.lean ====
section
/-! DEFINITION. Engine commands: their start, their leave, their completion (R15, R185, R267, R287, R295, R344), and the
rendezvous of a quartet (R195, R291). -/

namespace Sys2Proof.Machine

/-! ### Work -/

/-- An `mma` with its leave begins, or goes on after a split, to its next granule (R189, R193). -/
def State.mmaGo (s : State) (id : Nat) (op : Op) (w : MmaWork) : State :=
  if 0 < op.progress then s.mmaSteps id op w (w.granule op.progress)
  else
    match s.mmaBegin id op w with
    | (0, s) =>
      match sfind s.ops id with
      | some op => (match op.work with | .mma w => s.mmaSteps id op w (w.granule 0) | _ => s)
      | none => s
    | (st, s) => s.endWork id st

/-- A `cor` begins, or goes on after a split, to its next granule (R189, R200). -/
def State.corGo (s : State) (id : Nat) (op : Op) (w : CorWork) : State :=
  if 0 < op.progress then s.corSteps id op w w.granule
  else
    match s.corBegin op w with
    | (none, s) => s.corSteps id op w w.granule
    | (some st, s) =>
      (if st = 6 then s.tallyUp id (s.corTile op.gid w).site 0 [0, 0, 0, 0, 1] else s).endWork id st

/-- `gram` and `trsv` (R203, R204). -/
def State.solveRun (s : State) (id : Nat) (mask : LaneMask) (d : Nat) (rows : List (List Word)) : State :=
  (s.modOp id fun op => { op with outs := regOuts mask d rows }).endWork id 0

/-- A command that has its leave runs (R15): copies go on by their own steps, a matrix or correcting command runs to its
first granule, every other one to its end. None where a key-value command has to wait for a page. -/
def State.runWork (s : State) (id : Nat) : Option State :=
  let s := s.modOp id fun op => { op with phase := .running }
  match sfind s.ops id with
  | none => none
  | some op =>
    match op.work with
    | .mma w => some (s.mmaGo id op w)
    | .mrd _ t f r sat sp dst => some (s.mrdRun id op t f r sat sp dst)
    | .mwr _ t sp src => some (s.mwrRun id op t sp src)
    | .mclr _ _ => some (s.endWork id 0)
    | .cor w => some (s.corGo id op w)
    | .gram n d mask keys => some (s.solveRun id mask d (gramRows n keys))
    | .trsv n d mask eta rows rhs => some (s.solveRun id mask d (trsvRows eta rows rhs n))
    | .kv fn t dst blk arg => s.kvPerform id op fn t dst blk arg
    | _ => some s

/-- Every operation of a command runs. -/
def State.runAll (s : State) (l : List Nat) : Option State :=
  l.foldl (fun (a : Option State) i => a.bind fun s => s.runWork i) (some s)

/-! ### Starting -/

/-- The engine of an operation takes it by `ENGINE_COMMAND_START` (R175): the copy, gather, collective and matrix queues,
and the key-value commands. -/
def Op.onEngine (op : Op) : Bool :=
  op.queue < 4 || match op.work with | .kv _ _ _ _ _ => true | _ => false

/-- The command may start (R267, R287, R291): a quartet starts by its slice 0, on all four slices together. -/
def State.commandReady (s : State) (id : Nat) (op : Op) : Bool :=
  s.canStart id op && op.onEngine
    && (id :: op.mates).all fun i =>
      id ≤ i && match sfind s.ops i with
        | some m => s.sliceRoom m && (s.ops.all fun e =>
            !(!(id :: op.mates).contains e.1 && e.2.ahead e.1 id op && e.2.core = m.core && e.2.queue = m.queue && e.2.holdsBack m))
        | none => false

/-- The descriptor of a `coll` is read before its leave is asked for (R15, R164): none where its page has yet to be
supplied. -/
def State.readDesc (s : State) (id : Nat) (op : Op) : Option State :=
  match op.work with
  | .coll at_ [] _ =>
    match s.opRead id .g at_ 64 with
    | (.ok x, s) =>
      if x.psn then some (s.failWork id 2 (s.poisonAt id at_ 64))
      else some (s.modOp id fun op => { op with work := .coll at_ x.bytes [] })
    | (.fail st va _, s) => some (s.failWork id st va)
    | _ => none
  | _ => some s

/-- A grant taken and traced (R344, R430). -/
def State.grantLeave (s : State) (id amount : Nat) : State := (s.takeLeave id amount).traceAll id 4 0

/-- The command asks for a leave of 0, which is granted in the cycle in which it is asked (R188). -/
def Op.asksNothing (op : Op) : Bool :=
  match op.work with
  | .mrd _ _ _ _ _ _ _ => true
  | .mwr _ _ _ _ => true
  | .mclr _ _ => true
  | _ => false

/-- Leave is asked for, where the command needs any, and the command runs once it has it (R15, R344): a request is granted by
`LEAVE_GRANT`, after those of its cycle have all been made. A replayed command still holds its grant. -/
def State.seekLeave (s : State) (id : Nat) : Option State :=
  match sfind s.ops id with
  | none => none
  | some op =>
    if op.phase = .ended then some s
    else if op.leave = 0 ∨ 0 < op.grant then (if op.asksNothing then s.traceAll id 4 0 else s).runAll (s.command id)
    else some (s.waitLeave id)

/-- The head command of an engine queue starts on its engine, or resumes (R189, R249, R267, R295). -/
def execEngineCommandStart (id : Nat) (s : State) : Out :=
  match sfind s.ops id with
  | none => notNow
  | some op =>
    if !s.commandReady id op then notNow
    else
      match s.readDesc id op with
      | none => notNow
      | some s =>
        match (s.traceAll id (if op.begun then 3 else 1) 0).seekLeave id with
        | some s => .next s
        | none => notNow

/-- A job on a Shed core, by its number. -/
def State.shedJobOf (s : State) (id : Nat) : Option (Nat × ShedJob) := s.shed.jobs.find? fun e => e.2.id = id

def State.setShedJob (s : State) (key : Nat) (j : ShedJob) : State :=
  { s with shed := { s.shed with jobs := sput s.shed.jobs key j } }

/-- A trace record of a Shed job (R430). -/
def State.traceJob (s : State) (key : Nat) (j : ShedJob) (kind aux : Nat) : State :=
  s.traceRec j.card.grid
    (traceBytes kind 0x344 5 j.card.core key j.card.seq (s.cycle (512 + key)) j.card.place aux)

/-- Leave of a Shed job (R395), in mLU. -/
def shedLeave : Nat := 937

/-- A Shed job takes its grant and runs. -/
def State.grantJob (s : State) (key : Nat) (j : ShedJob) : State :=
  let j := { j with phase := .running, grant := shedLeave }
  ((s.takeLeave j.id shedLeave).setShedJob key j).traceJob key j 4 0

/-- The power manager grants a waiting request (R344): the command or the Shed job runs. -/
def execLeaveGrant (id : Nat) (s : State) : Out :=
  if !s.leave.waiting.contains id ∨ !s.canGrant id (s.asks id) then notNow
  else match sfind s.ops id with
    | some op =>
      let s := s.grantLeave id op.leave
      match s.runAll (s.command id) with
      | some s => .next s
      | none => notNow
    | none =>
      match s.shedJobOf id with
      | some (key, j) => .next (s.grantJob key j)
      | none => notNow

/-! ### Completion -/

/-- A matrix or correcting command that stands at a granule goes on to its next one, on all its slices (R189, R291). -/
def State.toGranule (s : State) (id : Nat) : State :=
  match sfind s.ops id with
  | none => s
  | some op =>
    if op.phase ≠ .running then s
    else match op.work with
      | .mma w => s.mmaSteps id op w (w.granule op.progress)
      | .cor w => s.corSteps id op w w.granule
      | _ => s

def State.nextGranule (s : State) (id : Nat) : State := (s.command id).foldl State.toGranule s

/-- The rest of a command that stands at a granule (R189). -/
def State.finishWork (s : State) (id : Nat) : State :=
  match sfind s.ops id with
  | none => s
  | some op =>
    if op.phase ≠ .running then s
    else match op.work with
      | .mma w => s.mmaSteps id op w w.k
      | .cor w => s.corSteps id op w w.n
      | _ => s

/-- The work of an operation is over. -/
def State.workOver (s : State) (id : Nat) : Bool :=
  match sfind s.ops id with | some op => op.phase = .ended | none => false

/-- The operation shares in a verdict that another group's tile brought, and counts it (R200, R296). -/
def State.shareVerdict (s : State) (id : Nat) : State :=
  match sfind s.ops id with
  | none => s
  | some op =>
    if op.status = 6 then s
    else match op.work with
      | .cor w =>
        (s.tallyUp id (s.corTile op.gid w).site 0 [0, 0, 0, 0, 1]).modOp id fun op => { op with status := 6 }
      | _ => s

/-- A quartet's update whose tile diverged in one group is discarded in all four (R200). A group whose settlement failed
leaves the others their own verdict, and a `DIVERGE` elsewhere takes the place of its status (log 79). -/
def State.commonVerdict (s : State) (l : List Nat) : State :=
  let bad := l.any fun i => match sfind s.ops i with | some op => op.opc = 0x2C1 && op.status = 6 | none => false
  if bad then l.foldl State.shareVerdict s else s

/-- An update that was kept binds its tile (R293). -/
def State.bindResult (s : State) (id : Nat) : State :=
  match sfind s.ops id with
  | some op => (match op.work with | .cor w => s.corBind op w | _ => s)
  | none => s

/-- A command completes (R185, R291): a quartet's four records stand in the same cycle, and an attention engine is free
again (R302). -/
def execCommandComplete (id : Nat) (s : State) : Out :=
  let l := s.command id
  if l.isEmpty ∨ l.any (· < id) then notNow
  else
    let s := l.foldl State.finishWork s
    if !(l.all s.workOver) then notNow
    else
      let s := s.commonVerdict l
      let s := l.foldl (fun s i => (s.bindResult i).completeOp i) s
      .next { s with attn := { s.attn with engines := s.attn.engines.filter fun e => e.2.op ≠ id } }

/-! ### The rendezvous of a quartet (R195, R291) -/

/-- Four `mmq`s agree (R195). -/
def MmaWork.agrees (x y : MmaWork) : Bool :=
  x.residue == y.residue && x.z == y.z && x.fin == y.fin && x.sg == y.sg && x.fb.fa == y.fb.fa && x.fb.fb == y.fb.fb
    && x.fb.kb == y.fb.kb && x.fb.src.hsa == y.fb.src.hsa && x.fb.src.hsb == y.fb.src.hsb

/-- Four `corq`s agree (R200). -/
def CorWork.agrees (x y : CorWork) : Bool := x.mode = y.mode && x.n = y.n && x.split == y.split

/-- What a held group brings, as `mmq` or as `corq`. -/
def Group.mmqOf (g : Group) : Option (MmaWork × Fields) := match g.rdv with | some (.mmq w o) => some (w, o) | _ => none
def Group.corqOf (g : Group) : Option (CorWork × Fields) := match g.rdv with | some (.corq w o) => some (w, o) | _ => none

/-- The held instruction of a group issues: the hold ends, and the next point follows. -/
def State.leaveRdv (s : State) (gid : Nat) (issue : State → State) : State :=
  let s := s.focus gid
  let before := s.cur
  ((issue (s.modCur fun g => { g with rdv := none, stall := none })).advance).afterIssue before

/-- The four operations of a quartet form one command (R291). -/
def State.mateUp (s : State) (l : List Nat) : State :=
  l.foldl (fun s i => s.modOp i fun op => { op with mates := l.filter (· ≠ i) }) s

/-- Every group of the quartet traps with the cause "shape" at its instruction (R195). -/
def State.rdvSplit (s : State) (gs : List Group) : State :=
  gs.foldl (fun s g => s.modGroup g.gid fun g => { g with rdv := some (.split 0) }) s

/-- The quartet of `mmq`s issues (R195): B is the four quarters. -/
def State.mmqMeet (s : State) (l : List (Group × MmaWork × Fields)) : State :=
  let b := (l.map fun e => e.2.1.b).flatten
  let ids := (List.range 4).map (s.nextId + ·)
  (l.foldl (fun s e => s.leaveRdv e.1.gid fun s =>
      (((s.openChain e.2.1).modCur fun g => { g with mmqCount := g.mmqCount + 1 }).issueOp e.2.2 0x281 3 []
        (.mma { e.2.1 with b := b }))) s).mateUp ids

/-- The quartet of `corq`s issues (R200). -/
def State.corqMeet (s : State) (l : List (Group × CorWork × Fields)) : State :=
  let keys := (l.map fun e => e.2.1.keys).flatten
  let ids := (List.range 4).map (s.nextId + ·)
  (l.foldl (fun s e => s.leaveRdv e.1.gid fun s =>
      (((s.takeBuild e.2.1).modCur fun g => { g with corqCount := g.corqCount + 1 }).issueOp e.2.2 0x2C1 3 e.2.1.dests
        (.cor { e.2.1 with keys := keys }))) s).mateUp ids

/-- The groups of a quartet that were told to stop do so where they would issue (R437). -/
def State.stopQuartet (s : State) (gs : List Group) : State :=
  gs.foldl (fun s g =>
    if g.stopReq then (s.modGroup g.gid Group.halt).emit (.port portStopped [g.gid, g.pc.toNat]) else s) s

/-- The four held instructions of a quartet meet (R195, R291), unless the debugger or the watchdog holds one back (R233,
R437). -/
def execQuartetRendezvous (gid : Nat) (s : State) : Out :=
  let home := s.cur.gid
  let gs := (s.focus gid).quartet.mergeSort fun g h => g.slice ≤ h.slice
  let ms := gs.filterMap fun g => g.mmqOf.map fun e => (g, e)
  let cs := gs.filterMap fun g => g.corqOf.map fun e => (g, e)
  if (s.findGroup gid).isNone ∨ gs.length ≠ 4 ∨ gs.any fun g => g.stopped || g.expired then notNow
  else if ms.length + cs.length = 4 ∧ gs.any fun g => g.stopReq then .next (s.stopQuartet gs)
  else match ms, cs with
    | x :: _, [] =>
      if ms.length ≠ 4 then notNow
      else if ms.all fun e => e.2.1.agrees x.2.1 then .next ((s.mmqMeet ms).focus home)
      else .next (s.rdvSplit gs)
    | [], y :: _ =>
      if cs.length ≠ 4 then notNow
      else if cs.all fun e => e.2.1.agrees y.2.1 then .next ((s.corqMeet cs).focus home)
      else .next (s.rdvSplit gs)
    | _, _ => notNow

end Sys2Proof.Machine
end

