-- ==== Sys2Proof/Machine/ShedRun.lean ====
section
/-! DEFINITION. The jobs of the Sheds (R394 to R402). -/

namespace Sys2Proof.Machine

/-- The key of a Shed core. -/
def shedKey (stack core : Nat) : Nat := stack * 8 + core

/-- The translation unit of a base die (R394). -/
def shedUnit (stack : Nat) : Nat := Config.cores + stack

/-- A Shed core takes the oldest card of its stack's queue (R394) and asks for its leave (R395). What its group has written before
the job was issued is performed for the job (R262), so that no line in the die's buffer is older than that. -/
def execShedJobStart (stack core : Nat) (s : State) : Out :=
  let key := shedKey stack core
  if 12 ≤ stack ∨ 8 ≤ core ∨ (sfind s.shed.jobs key).isSome ∨ sget false s.shed.retired key ∨ !s.stackUsed stack then notNow
  else match (sfind s.shed.queues stack).getD [] with
    | [] => notNow
    | c :: rest =>
      let id := s.nextId
      let j : ShedJob := ⟨id, c, .leave, s.now, 0, 0, 0, 0, [], []⟩
      let s' : State := { s with nextId := id + 1, shed := { s.shed with queues := sput s.shed.queues stack rest } }
      let s := ((s'.setShedJob key j).dropDie (stack / 3)).traceJob key j 1 0
      .next (s.queueLeave id)

/-- The place of an access of a job: a status with the address that met it, or a page that a pager has to supply
(R399). -/
inductive JobRes
  | ok (p : Place) | fail (status va : Nat) | wait
  deriving DecidableEq, Repr

/-- A translation of a job, through the base die's unit (R394), with the refusals that it has met (R361). -/
def State.jobTranslate (s : State) (stack : Nat) (j : ShedJob) (va : Nat) (acc : Acc) : Tr × State :=
  match refusal j.refused va with
  | some f => (.fault f, s)
  | none => s.translate (some (shedUnit stack)) j.card.ctx va acc

/-- The place of an element: in the job's own stack, on no `REPLICA` page (R399). -/
def State.jobPlace (s : State) (stack : Nat) (j : ShedJob) (va : Nat) (acc : Acc) : JobRes × State :=
  match s.jobTranslate stack j va acc with
  | (.fault (.notPresent p), s) => (if p = 0 then .fail 1 va else .wait, s)
  | (.fault f, s) => (.fail (faultStatus f) va, s)
  | (.ok pa attr _ _, s) =>
    if !isDram pa ∨ stackOf pa ≠ stack ∨ attr = 2 then (.fail 4 va, s)
    else (.ok ⟨pa, attr⟩, s)

/-- The agent that a job's accesses belong to: no core, and the die of its stack (R260). -/
def ShedJob.agent (j : ShedJob) (stack : Nat) : Agent := ⟨none, some (stack / 3), j.card.ctx, none⟩

/-- Element e of the sources from i on, or why it cannot be read (R398). -/
def readSources (stack : Nat) (j : ShedJob) (e : Nat) : List Nat → State → Except JobRes (List Nat) × State
  | [], s => (.ok [], s)
  | va :: t, s =>
    match s.jobPlace stack j (va + 4 * e) .read with
    | (.ok p, s) =>
      let (x, s) := s.readPa (j.agent stack) p.attr p.pa 4
      if x.psn then (.error (.fail 2 (va + 4 * e)), s)
      else match readSources stack j e t s with
        | (.ok l, s) => (.ok (ofLe x.bytes :: l), s)
        | r => r
    | (r, s) => (.error r, s)

/-- One level of the tree of `rsum` over adjacent items (R398). -/
def shedPairs (op : Nat → Nat → Nat) : List Nat → List Nat
  | x :: y :: t => op x y :: shedPairs op t
  | l => l

/-- The tree of `rsum` (R398): n levels leave one of up to 2^n items. -/
def treeSum (op : Nat → Nat → Nat) : Nat → List Nat → Nat
  | 0, l => l.headD 0
  | n + 1, l => treeSum op n (shedPairs op l)

/-- The sum of two elements (R398). -/
def shedAdd (fmt x y : Nat) : Nat :=
  if fmt = 5 then (x + y) % 2 ^ 32 else (faddRn (BitVec.ofNat 32 x) (BitVec.ofNat 32 y)).toNat

/-- The element that a job writes from its sources (R398): `rcopy` copies, `rsum` adds up by its tree. -/
def CardFields.result (c : CardFields) (xs : List Nat) : Nat := treeSum (shedAdd c.fmt) 4 xs

/-- The next element of a job (R398): the job after it, with a status where it cannot be read or written (R399); none
where it has to wait for a page. -/
def State.jobElem (s : State) (stack : Nat) (j : ShedJob) (c : CardFields) : Option (ShedJob × State) :=
  let failed (st va : Nat) : ShedJob := { j with status := st, faddr := va }
  match readSources stack j j.progress ((List.range c.n).map c.source) s with
  | (.error (.fail st va), s) => some (failed st va, s)
  | (.error _, _) => none
  | (.ok xs, s) =>
    match s.jobPlace stack j (c.dst + 4 * j.progress) .write with
    | (.fail st va, s) => some (failed st va, s)
    | (.wait, _) => none
    | (.ok p, s) =>
      some ({ j with progress := j.progress + 1 }, s.writePa (j.agent stack) p.attr p.pa (leBytes 4 (c.result xs)))

/-- The orphan record of a job (R400). -/
def State.jobOrphan (s : State) (j : ShedJob) (status faddr : Nat) : State :=
  let gone := if s.issuerExited j.card.gid then 1 else 0
  s.addOrphan j.card.grid
    (recordBytes status 0x344 5 gone j.card.place j.card.pc j.card.seq faddr 0 j.progress)

/-- The flag of a job is written with a release at its scope (R400), or the orphan record stands for it; none where its
page has yet to be supplied. -/
def State.jobFlag (s : State) (stack : Nat) (j : ShedJob) (c : CardFields) (status : Nat) : Option State :=
  let lost (s : State) : State := s.jobOrphan j (if status = 0 then 1 else status) c.flag
  match s.jobTranslate stack j c.flag .write with
  | (.fault (.notPresent p), s) => if p = 0 then some (lost s) else none
  | (.fault _, s) => some (lost s)
  | (.ok pa attr _ _, s) =>
    if attr = 2 ∨ s.hbmPoison (s.locs pa 8) then some (lost s)
    else
      let s := s.order .rel (scopeOfCode c.fsc) (dieOfCore j.card.core)
      let s := s.writePa (j.agent stack) attr pa (leBytes 8 (c.tag % 2 ^ 48 + status * 2 ^ 48))
      some (if status = 0 then s else s.jobOrphan j status j.faddr)

/-- A job is over: its core is free, its leave returns, and its grid counts one job less (R237, R395). -/
def State.freeJob (s : State) (key : Nat) (j : ShedJob) : State :=
  let s := s.modGrid j.card.grid fun g => { g with jobs := g.jobs - 1 }
  { s with shed := { s.shed with jobs := sdel s.shed.jobs key },
           leave := { s.leave with free := s.leave.free + j.grant, waiting := s.leave.waiting.filter (· ≠ j.id) } }

/-- A running job writes its next element, or ends with its flag once every element is written or one has failed (R398 to
R400); other agents, other jobs among them, come in between (R402). Where it meets a page that has yet to be supplied, it
stands at the element that it has reached. -/
def execShedJobEnd (stack core : Nat) (s : State) : Out :=
  let key := shedKey stack core
  match sfind s.shed.jobs key with
  | none => notNow
  | some j =>
    let c := cardFields j.card.bytes
    if 8 ≤ core ∨ j.phase ≠ .running then notNow
    else if j.status = 0 ∧ j.progress < c.count then
      match s.jobElem stack j c with
      | some (j, s) => .next (s.setShedJob key j)
      | none => notNow
    else
      match s.jobFlag stack j c j.status with
      | some s => .next ((s.traceJob key j 5 j.status).freeJob key j)
      | none => notNow

end Sys2Proof.Machine
end

