-- ==== Sys2Proof/Machine/Pager.lean ====
section
/-! DEFINITION. Translation faults (R248 to R252), upcalls and pagers' answers (R359 to R361), and the invalidation of
read buffers (R265). -/

namespace Sys2Proof.Machine

/-! ### What an operation accesses next -/

/-- A range of virtual addresses that an access touches. -/
structure Span where
  va : Nat
  len : Nat
  acc : Acc
  deriving DecidableEq, Repr

/-- A span of a range of `.g`; a range of another space is none. -/
def spanOf (sp : Space) (va n : Nat) (acc : Acc) : List Span := if sp = .g then [⟨va, n, acc⟩] else []

/-- The payload reads of an `attn` for the blocks in its window that some row would need (R304): position and blocks. -/
def AttnRun.payloads (r : AttnRun) (d : AttnDesc) : Nat → List AttnBlock → List Span
  | _, [] => []
  | p, b :: t =>
    if b.broken ∨ b.unreadable.isSome then []
    else
      let n := min b.count (d.limit - p)
      (if b.pay.isNone && r.needed d p n then [⟨kvRow b.va d.dh 0, 2 * d.dh * n, .read⟩, ⟨kvRow b.va d.dh b.cap, 2 * d.dh * n, .read⟩] else [])
        ++ AttnRun.payloads r d (p + n) t

/-- What a running `attn` accesses next: its queries, then the next header, payloads and due outputs (R303, R304). -/
def AttnRun.spans (r : AttnRun) (d : AttnDesc) : List Span :=
  if !r.started then (List.range d.nq).map fun i => ⟨d.q + 2 * d.dh * i, 2 * d.dh, .read⟩
  else
    let out (e : AttnRow × Nat) : List Span := match e.1.phase with
      | .output => let n := d.dh * (if d.ob then 2 else 4); [⟨d.out + n * e.2, n, .write⟩]
      | .status _ => [⟨d.rs + e.2, 1, .write⟩]
      | _ => []
    (if r.next = 0 ∨ 5 ≤ r.window.length ∨ !r.running then [] else [⟨r.next, 256, .read⟩]) ++ r.payloads d r.p r.window
      ++ (r.rows.zipIdx.map out).flatten

/-- What a running `coll` accesses next (R164): its source, or the place of a piece whose contributions are there. -/
def State.collSpans (s : State) (op : Op) (desc : Bytes) (todo : List Nat) : List Span :=
  let d := collDesc desc
  match sfind s.fabric.comms d.comm with
  | none => []
  | some m =>
    if op.progress = 0 then [⟨d.src, collBytes d.cfmt * d.count, .read⟩]
    else
      (todo.filterMap fun c => (s.pieceBytes d m.members m.rank c).map fun x =>
        ⟨d.dst + collBytes d.cfmt * d.place m.members c, x.2.length, .write⟩).take 1

/-- What a started operation accesses next; queue commands that read at their start need to be able to start. -/
def State.spansOf (s : State) (id : Nat) (op : Op) : List Span :=
  let i := op.progress
  match op.work, op.phase with
  | .atomic _ _ _ _ _ _ _ _, .queued => op.work.laneGranules.map fun g => ⟨g * 65536, 1, .both⟩
  | .wait sp _ wide _ _ _ loc _ _, .queued => spanOf sp loc (if wide then 8 else 4) .both
  | .wake sp _ _ _ loc _, .queued => spanOf sp loc 4 .both
  | .copy ds ss _ dst src n _, .running =>
    if ss = .g ∧ ds = .g then (copyLooks dst src i n).map fun p => ⟨p.1, 1, p.2⟩
    else spanOf ss (src + i) (min 64 (n - i)) .read ++ spanOf ds (dst + i) (min 64 (n - i)) .write
  | .fill ds _ dst _ n _, .running => spanOf ds (dst + i) (min 64 (n - i)) .write
  | .gather _ _ _ _ _, .running => op.work.laneGranules.map fun g => ⟨g * 65536, 1, .read⟩
  | .scatter _ _ _ _, .running => op.work.laneGranules.map fun g => ⟨g * 65536, 1, .write⟩
  | .coll at_ [] _, .queued => if s.canStart id op then [⟨at_, 64, .read⟩] else []
  | .coll _ d todo, .running => s.collSpans op d todo
  | .attn _ _ d, .running => (match s.engineOf id with | some (_, r) => r.spans d | none => [])
  | .kv fn t _ blk arg, .queued =>
    if s.canStart id op then
      match s.kvRun id fn t blk arg with
      | .error (.miss va _) => [⟨va, 1, .read⟩]
      | _ => []
    else []
  | .swarm _ d _, .queued =>
    if s.canStart id op && !d.bad && s.mgmt.mode ≠ 1 then [⟨d.base, d.len, .write⟩, ⟨d.flag, 8, .write⟩] else []
  | .shedj _ card _, .queued => if s.canStart id op then [⟨card, 128, .read⟩] else []
  | _, _ => []

/-- What a running job accesses next (R398, R400). -/
def ShedJob.spans (j : ShedJob) : List Span :=
  let c := cardFields j.card.bytes
  if j.phase ≠ .running then []
  else if j.status = 0 ∧ j.progress < c.count then
    ((List.range c.n).map fun i => ⟨c.source i + 4 * j.progress, 4, .read⟩) ++ [⟨c.dst + 4 * j.progress, 4, .write⟩]
  else [⟨c.flag, 8, .write⟩]

/-- A granule that has yet to be supplied: its address, its pager and the access. -/
structure Miss where
  granule : Nat
  pager : Nat
  acc : Acc
  deriving DecidableEq, Repr

/-- The first granule of spans that a pager has to supply; `skip` takes the granules that are already waited for. A
fault that no pager can mend comes first where it stands first, unless the accesses are independent. -/
def firstMiss (tr : State → Nat → Acc → Tr × State) (skip : Nat → Bool) (free : Bool) :
    List (Nat × Nat × Acc) → State → Option Miss
  | [], _ => none
  | (va, _, acc) :: t, s =>
    match tr s va acc with
    | (.fault (.notPresent p), s) =>
      if p = 0 then (if free then firstMiss tr skip free t s else none)
      else if skip (va / 65536) then (if free then firstMiss tr skip free t s else none)
      else some ⟨va / 65536, p, acc⟩
    | (.fault _, s) => if free then firstMiss tr skip free t s else none
    | (.ok _ _ _ _, s) => firstMiss tr skip free t s

/-- Spans cut into granules (R357). -/
def spanParts (l : List Span) : List (Nat × Nat × Acc) :=
  l.flatMap fun x => (granuleParts x.va x.len).map fun p => (p.1, p.2, x.acc)

/-! ### The fault -/

/-- The outstanding upcall that an operation has joined for a granule. -/
def State.waitsFor (s : State) (id granule : Nat) : Bool :=
  s.xlate.upcalls.any fun u => u.granule = granule && u.ops.contains id

/-- The pager is registered in the context (R359). -/
def State.hasPager (s : State) (ctx pager : Nat) : Bool :=
  match sfind s.xlate.ctxs ctx with
  | some c => (sfind c.pagers pager).isSome
  | none => false

/-- The code of the first faulting agent (R360). -/
def Work.srcCode : Work → Nat
  | .atomic _ _ _ _ _ _ _ _ => 1
  | .wait _ _ _ _ _ _ _ _ _ => 1
  | .wake _ _ _ _ _ _ => 1
  | .attn _ _ _ => 3
  | .swarm _ _ _ => 4
  | .shedj _ _ _ => 5
  | .kv _ _ _ _ _ => 6
  | _ => 0

/-- A fault joins the outstanding upcall of its granule, or makes a new one (R361 step 1). -/
def State.joinUpcall (s : State) (ctx id src : Nat) (m : Miss) : State :=
  let rd := m.acc ≠ .write
  let wr := m.acc ≠ .read
  let same (u : Upcall) : Bool := u.ctx = ctx && u.pager = m.pager && u.granule = m.granule
  if s.xlate.upcalls.any same then
    let join (u : Upcall) : Upcall :=
      if same u then { u with ops := u.ops ++ [id], read := u.read || rd, write := u.write || wr } else u
    { s with xlate := { s.xlate with upcalls := s.xlate.upcalls.map join } }
  else
    let uid := sget 1 s.xlate.nextUid ctx
    { s with xlate := { s.xlate with upcalls := s.xlate.upcalls ++ [⟨ctx, m.pager, m.granule, uid, src, rd, wr, none, [id], []⟩],
                                     nextUid := sput s.xlate.nextUid ctx (uid + 1) } }

/-- The command enters its group's operand log without its translations; the commands of the group behind it in its queue
go with it (R248, R249). -/
def State.logOp (s : State) (id : Nat) (op : Op) : State :=
  let move (k : Nat) (e : Op) : Op :=
    if k = id then { e with phase := .logged, xl := [] }
    else if op.queue < 6 ∧ id < k ∧ e.gid = op.gid ∧ e.core = op.core ∧ e.queue = op.queue ∧ e.phase = .queued then
      { e with phase := .logged }
    else e
  { s with ops := s.ops.map fun e => (e.1, move e.1 e.2) }

/-- A granule with its pager, as an operation remembers its upcalls (R361 step 6). -/
def Miss.key (m : Miss) : Nat := m.granule * 2048 + m.pager

/-- The operation meets a page that has yet to be supplied: it is refused at once where the context has no such pager or
the operation has been upcalled for the granule to the same pager before, and else it waits for the upcall (R251,
R361). -/
def State.faultOp (s : State) (id : Nat) (op : Op) (m : Miss) : State :=
  if !s.hasPager op.ctx m.pager ∨ op.upcalled.contains m.key then
    s.modOp id fun op => { op with refused := (m.granule, 1) :: op.refused }
  else
    let s := s.modOp id fun op => { op with upcalled := m.key :: op.upcalled }
    let s := s.joinUpcall op.ctx id op.work.srcCode m
    match op.work with
    | .attn _ _ _ => s
    | _ => s.logOp id op

/-- The job waits for the upcall and gives its leave back (R395). -/
def State.faultJob (s : State) (key : Nat) (j : ShedJob) (m : Miss) : State :=
  if !s.hasPager j.card.ctx m.pager ∨ j.upcalled.contains m.key then
    s.setShedJob key { j with refused := (m.granule, 1) :: j.refused }
  else
    let s := { s with leave := { s.leave with free := s.leave.free + j.grant } }
    (s.setShedJob key { j with phase := .paging, grant := 0, upcalled := m.key :: j.upcalled }).joinUpcall
      j.card.ctx j.id 5 m

/-- Accesses of the operation that fail one by one: a refused page of one does not stop the others (R162, R167, R207). -/
def Work.independent : Work → Bool
  | .attn _ _ _ => true
  | .atomic _ _ _ _ _ _ _ _ => true
  | .gather _ _ _ _ _ => true
  | .scatter _ _ _ _ => true
  | _ => false

/-- A command or a job meets a `.g` translation fault (R248 to R251, R354). -/
def execTranslationFault (id : Nat) (s : State) : Out :=
  match sfind s.ops id with
  | some op =>
    let free := op.work.independent
    match firstMiss (fun s va acc => s.opTranslate id va acc) (s.waitsFor id) free (spanParts (s.spansOf id op)) s with
    | some m => .next (s.faultOp id op m)
    | none => notNow
  | none =>
    match s.shedJobOf id with
    | none => notNow
    | some (key, j) =>
      match firstMiss (fun s va acc => s.jobTranslate (key / 8) j va acc) (s.waitsFor id) false (spanParts j.spans) s with
      | some m => .next (s.faultJob key j m)
      | none => notNow

/-! ### Upcalls (R359 to R361) -/

/-- The address of a pager's queue header. -/
def State.pagerHeader (s : State) (ctx pager : Nat) : Option Nat :=
  match sfind s.xlate.ctxs ctx with
  | some c => sfind c.pagers pager
  | none => none

/-- The fields of a pager queue header (R359). -/
structure PagerQueue where
  ring : Nat
  nent : Nat
  tail : Nat
  held : Nat
  head : Nat
  deriving DecidableEq, Repr

/-- A field of a header as a number. -/
def State.outRead (s : State) (ctx va n : Nat) : Option (Nat × State) :=
  match s.readVa (outside ctx) va n with
  | (.ok x, s) => some (ofLe x.bytes, s)
  | (.fault _ _, _) => none

def State.outWrite (s : State) (ctx va : Nat) (b : Bytes) : State := (s.writeVa (outside ctx) va b).2

def State.pagerQueue (s : State) (ctx h : Nat) : Option (PagerQueue × State) :=
  match s.readVa (outside ctx) h 64 with
  | (.ok x, s) =>
    let b := x.bytes
    some (⟨fieldAt b 0 8, fieldAt b 8 4, fieldAt b 16 8, fieldAt b 32 4, fieldAt b 24 8⟩, s)
  | (.fault _ _, _) => none

/-- The place of message i. -/
def PagerQueue.slot (q : PagerQueue) (i : Nat) : Nat := q.ring + 64 * (i % q.nent)

/-- A message (R360) but for its stamp. -/
def Upcall.message (u : Upcall) : Bytes :=
  leBytes 8 (u.granule * 65536) ++ leBytes 2 u.ctx ++ leBytes 1 ((if u.read then 1 else 0) + (if u.write then 2 else 0))
    ++ leBytes 1 u.src ++ leBytes 4 u.ops.length ++ leBytes 8 u.uid ++ leBytes 8 0 ++ leBytes 24 0

/-- The upcalls of a pager. -/
def State.upcallsOf (s : State) (ctx pager : Nat) : List Upcall :=
  s.xlate.upcalls.filter fun u => u.ctx = ctx && u.pager = pager

def State.setUpcalls (s : State) (l : List Upcall) : State := { s with xlate := { s.xlate with upcalls := l } }

/-- The count of upcalls that wait for a free slot, where it changes (R361 step 2). -/
def State.countHeld (s : State) (ctx h n old : Nat) : State :=
  if n = old then s else s.outWrite ctx (h + 32) (leBytes 4 n)

/-- A page-table entry as it stands; the Groom's look at it changes nothing. -/
def State.peekPte (s : State) (pa : Nat) : Nat := ((s.readPte pa).1).getD 0

/-- The pinned leaves below a table of a level (R353): their address, level and entry. -/
def pinnedLeaves (s : State) : Nat → Nat → Nat → List (Nat × Nat × Nat)
  | 0, table, va => ((List.range 32).map fun i => (va + i * pageBytes 0, 0, s.peekPte (table + 8 * i))).filter pinnedAt
  | l + 1, table, va =>
    (List.range (if l = 0 then 512 else 64)).flatMap fun i =>
      let e := s.peekPte (table + 8 * i)
      let at_ := va + i * pageBytes (l + 1)
      if bits e 1 0 = 1 then pinnedLeaves s l (bits e 51 8 * 256) at_ else [(at_, l + 1, e)].filter pinnedAt
where
  /-- A valid leaf with its `pin` bit set. -/
  pinnedAt (x : Nat × Nat × Nat) : Bool := bits x.2.2 1 0 == 3 && x.2.2.testBit 7

/-- The entry that stands for an address at a level, or 0 where another level ends the walk. -/
def entryAt (s : State) (va level : Nat) : Nat → Nat → Nat
  | 0, table => if level = 0 then s.peekPte (table + 8 * vaIndex va 0) else 0
  | l + 1, table =>
    let e := s.peekPte (table + 8 * vaIndex va (l + 1))
    if level = l + 1 then e else if bits e 1 0 = 1 then entryAt s va level l (bits e 51 8 * 256) else 0

/-- The entries of a root table that may be other than 0: in the device's memory, those of which some byte is listed. -/
def State.rootEntries (s : State) (root : Nat) : List Nat :=
  let r := homePa root
  if isDram r then
    (((s.regionBytesOf (r / Config.regionBytes)).filter fun a => r ≤ a && a < r + 2 ^ 21).map fun a => (a - r) / 8).eraseDups
  else List.range 262144

/-- The pinned leaves of a context (R353, R357), which no answer of its pagers may unmap. -/
def State.pinned (s : State) (ctx : Nat) : List (Nat × Nat × Nat) :=
  match sfind s.xlate.ctxs ctx with
  | none => []
  | some c => (s.rootEntries c.root).flatMap fun i =>
    let e := s.peekPte (c.root + 8 * i)
    let base := i * pageBytes 3
    if bits e 1 0 = 1 then pinnedLeaves s 2 (bits e 51 8 * 256) base else [(base, 3, e)].filter pinnedLeaves.pinnedAt

/-- A pinned leaf is as it was (R357): valid, with the same frame. -/
def State.pinKept (s : State) (ctx : Nat) (x : Nat × Nat × Nat) : Bool :=
  match sfind s.xlate.ctxs ctx with
  | none => false
  | some c =>
    let e := entryAt s x.1 x.2.1 3 c.root
    bits e 1 0 == 3 && bits e 51 16 == bits x.2.2 51 16

/-- The Groom posts the oldest upcall of a pager (R361 steps 2 and 3), or counts the upcalls that it holds while the
queue is full. -/
def execUpcallPost (ctx pager : Nat) (s : State) : Out :=
  match s.pagerHeader ctx pager, (s.upcallsOf ctx pager).filter (·.msg.isNone) with
  | some h, u :: rest =>
    match s.pagerQueue ctx h with
    | none => notNow
    | some (q, s) =>
      if (s.upcallsOf ctx pager).any fun u => match u.msg with | some i => i < q.head | none => false then notNow
      else if q.nent ≤ q.tail - q.head then
        if rest.length + 1 = q.held then notNow else .next (s.countHeld ctx h (rest.length + 1) q.held)
      else
        let i := q.tail
        let s := s.outWrite ctx (q.slot i) u.message
        let s := s.outWrite ctx (q.slot i + 56) (leBytes 8 (i + 1))
        let s := (s.order .rel .dev 0).outWrite ctx (h + 16) (leBytes 8 (i + 1))
        let s := s.countHeld ctx h (if q.nent ≤ i + 1 - q.head then rest.length else 0) q.held
        .next (s.setUpcalls (s.xlate.upcalls.map fun x => if x = u then { x with msg := some i, pins := s.pinned ctx } else x))
  | _, _ => notNow

/-! ### Answers (R249, R361) -/

/-- The gang of an operation is off the cores (R346). -/
def State.offCore (s : State) (op : Op) : Bool :=
  match s.gridOf op.grid with
  | some g => s.launch.saved.any fun x => x.grid = op.grid && x.gngx = op.team / g.desc.teams
  | none => false

/-- A joined command is replayed, with the refusal of its granule where the pager refused (R249, R361 step 5): it returns
to the head of its queue, and so do the commands of its group that were logged behind it, but for those behind a `qfence` entry
(R175), which stay behind that. -/
def State.replayOp (s : State) (granule code : Nat) (id : Nat) : State :=
  let refuse (l : List (Nat × Nat)) : List (Nat × Nat) := if code = 0 then l else (granule, code) :: l
  match sfind s.ops id with
  | some op =>
    let ph : Phase := if s.offCore op then .saved else .queued
    let live := s.liveFences.filter fun f =>
      !(f.core = op.core && op.queue < 6 && f.mask.testBit op.queue && !f.follows id op)
    let fenced (k : Nat) : Bool := live.any fun f => f.core = op.core && f.mask.testBit op.queue && f.id ≤ k
    let back (k : Nat) (e : Op) : Op :=
      if k = id then { e with phase := if e.phase = .logged then ph else e.phase, replayed := true, lead := s.steps + 1,
                              refused := refuse e.refused }
      else if op.queue < 6 ∧ id < k ∧ e.gid = op.gid ∧ e.core = op.core ∧ e.queue = op.queue ∧ e.phase = .logged then
        { e with phase := ph, lead := if fenced k then e.lead else s.steps + 1 }
      else e
    { s with ops := s.ops.map fun e => (e.1, back e.1 e.2), qfences := live }
  | none =>
    match s.shedJobOf id with
    | some (key, j) =>
      let j := { j with phase := .leave, since := s.now, refused := refuse j.refused }
      ((s.setShedJob key j).traceJob key j 3 0).queueLeave id
    | none => s

/-- The refusal code of an answer: 0 where the page is mapped, 2 where it is poisoned, else 1 (R361 step 5). -/
def answerCode (ans : Nat) : Nat := match ans with | 1 => 0 | 3 => 2 | _ => 1

/-- The answer to an upcall, if there is one: what the pager wrote, or a refusal where it has moved past it. -/
def State.answerOf (s : State) (ctx : Nat) (q : PagerQueue) (u : Upcall) : Option Nat :=
  match u.msg with
  | none => none
  | some i =>
    match s.outRead ctx (q.slot i + 24) 8 with
    | none => none
    | some (a, _) => if a ≠ 0 then some (answerCode a) else if i < q.head then some 1 else none

/-- The Groom acts on the first answered upcall of a pager (R361 steps 5 and 6): an answer that unmapped or moved a pinned
page counts as a refusal (R357). -/
def execPagerAnswer (ctx pager : Nat) (s : State) : Out :=
  match s.pagerHeader ctx pager with
  | none => notNow
  | some h =>
    match s.pagerQueue ctx h with
    | none => notNow
    | some (q, s) =>
      match (s.upcallsOf ctx pager).find? fun u => (s.answerOf ctx q u).isSome with
      | none => notNow
      | some u =>
        let code := if u.pins.all (s.pinKept ctx) then (s.answerOf ctx q u).getD 1 else 1
        let s := s.setUpcalls (s.xlate.upcalls.filter (· ≠ u))
        .next (u.ops.foldl (fun s i => s.replayOp u.granule code i) s)

/-- An invalidation reaches a die's read buffer (R265): a line that home has overwritten is gone. -/
def execReadBufferInvalidation (die line : Nat) (s : State) : Out :=
  match sfind s.mem.rbuf (rbufKey die line) with
  | some x =>
    if x = s.homeLine line then notNow
    else .next { s with mem := { s.mem with rbuf := sdel s.mem.rbuf (rbufKey die line) } }
  | none => notNow

end Sys2Proof.Machine
end

