-- ==== Sys2Proof/Machine/Launch.lean ====
section
/-! DEFINITION. Launch queues (R335 to R339), the pending list (R340), grids and their ends (R237, R426 to R429). -/

namespace Sys2Proof.Machine

/-! ### The launch descriptor (R218, R219, R327) -/

/-- The n numbers of k bytes each from an offset on. -/
def fieldsAt (b : Bytes) (off k n : Nat) : List Nat := (List.range n).map fun i => fieldAt b (off + k * i) k

/-- A launch descriptor of 256 bytes (R327). -/
def launchDesc (b : Bytes) : LaunchDesc :=
  let roles := fieldAt b 48 4
  { entry := BitVec.ofNat 64 (fieldAt b 0 8), tvec := BitVec.ofNat 64 (fieldAt b 8 8), kbase := fieldAt b 16 8,
    ksize := fieldAt b 24 4, shared := fieldAt b 28 4, yard := fieldAt b 32 4, lanes := fieldAt b 36 2,
    groups := fieldAt b 38 1, teams := fieldAt b 39 1, gangs := fieldAt b 40 4, monlim := fieldAt b 44 1,
    priv := (fieldAt b 45 1).testBit 0, dies := fieldAt b 46 1 % 16,
    roles := (List.range 16).map fun g => bits roles (2 * g + 1) (2 * g),
    vblk := fieldsAt b 52 1 4, vbud := fieldsAt b 56 1 4, tq := fieldsAt b 60 1 4, wdog := fieldAt b 64 8,
    fmask := fieldAt b 72 4, sarg := (fieldsAt b 96 4 16).map (BitVec.ofNat 32),
    aarg := (fieldsAt b 160 8 8).map (BitVec.ofNat 64) }

/-- The role of a group index. -/
def LaunchDesc.role (d : LaunchDesc) (g : Nat) : Nat := d.roles.getD g 0

/-- The roles that some group index has. -/
def LaunchDesc.usedRoles (d : LaunchDesc) : List Nat := ((d.roles.take d.groups)).eraseDups

/-- The resources of a role keep their ranges (R218). -/
def LaunchDesc.roleOk (d : LaunchDesc) (k : Nat) : Bool :=
  let b := d.vblk.getD k 0
  let m := d.vbud.getD k 0
  1 ≤ b && b ≤ m && m ≤ 16 && d.tq.getD k 0 ≤ 16

/-- A descriptor keeps the limits of R218, and the roles of no group are zero (R327). -/
def descOk (b : Bytes) : Bool :=
  let d := launchDesc b
  1 ≤ d.lanes && d.lanes ≤ 64 && 1 ≤ d.groups && d.groups ≤ 16 && 1 ≤ d.teams && d.teams ≤ 16
    && 1 ≤ d.gangs && d.gangs ≤ 65536 && d.shared ≤ Config.sharedBytes && d.shared % 256 = 0
    && d.yard ≤ Config.yardBytes && d.yard % 256 = 0 && 4096 ≤ d.ksize && d.ksize % 256 = 0
    && d.kbase % 256 = 0 && canonical d.kbase && 1 ≤ d.monlim && d.monlim ≤ 32
    && 1 ≤ d.dies && (d.roles.drop d.groups).all (· = 0) && d.usedRoles.all d.roleOk

/-- The slice of a group index (R221): the i-th group of a role goes to slice i mod 4. -/
def LaunchDesc.sliceOf (d : LaunchDesc) (g : Nat) : Nat := ((d.roles.take g).count (d.role g)) % 4

/-- The tiles that a team reserves: two for each name (R45). -/
def LaunchDesc.tiles (d : LaunchDesc) : Nat := ((List.range d.groups).map fun g => 2 * d.tq.getD (d.role g) 0).sum

/-! ### Placement (R221, R222, R341) -/

/-- A group that holds a slot of a slice, with its blocks. -/
structure Seat where
  core : Nat
  slice : Nat
  gslot : Nat
  blocks : Nat
  deriving DecidableEq, Repr

/-- What holds room on the device: seats of groups, and teams with their windows and tiles. -/
structure Room where
  seats : List Seat
  teams : List Team
  /-- Yard windows by die: base and length. -/
  yards : List (Nat × Nat × Nat)
  deriving DecidableEq, Repr

/-- The room that is taken now, but for the gangs that `off` takes: retired groups hold no slot, and a team holds its
window and its tiles until its release (R234, R235). -/
def State.roomBut (s : State) (off : Nat → Nat → Bool) : Room :=
  let gangs := s.launch.gangs.filter fun g => !off g.grid g.gngx
  ⟨(s.groups.filter fun g => !off g.grid g.gngx).map fun g => ⟨g.coreNo, g.slice, g.gslot, g.vblocks⟩,
    (gangs.map fun g => g.teams.filter fun t => !t.released).flatten,
    gangs.map fun g => (g.die, g.yBase, match s.gridOf g.grid with | some x => x.desc.yard | none => 0)⟩

def State.room (s : State) : Room := s.roomBut fun _ _ => false

/-- The lowest free offset of a window of n bytes below a limit (R341), among taken ranges: 0 or the end of one. -/
def lowestFit (taken : List (Nat × Nat)) (n limit : Nat) : Option Nat :=
  let clear (x : Nat) : Bool := x + n ≤ limit && taken.all fun t => x + n ≤ t.1 || t.1 + t.2 ≤ x
  let starts := (0 :: taken.map fun t => t.1 + t.2).filter clear
  match starts with
  | [] => none
  | x :: t => some (t.foldl min x)

/-- The lowest free group slot of a slice. -/
def Room.freeSlot (r : Room) (core slice : Nat) : Option Nat :=
  (List.range 16).find? fun n => !(r.seats.any fun x => x.core = core && x.slice = slice && x.gslot = n)

/-- Blocks that no seat of a slice holds (R40). -/
def Room.freeBlocks (r : Room) (core slice : Nat) : Nat :=
  64 - ((r.seats.filter fun x => x.core = core && x.slice = slice).map (·.blocks)).sum

/-- What a team needs (R221): its window, its tiles, and for each group its slice and its blocks; `gone` for a team that
has released before its gang was taken off. -/
structure TeamNeed where
  shared : Nat
  tiles : Nat
  groups : List (Nat × Nat)
  gone : Bool
  deriving DecidableEq, Repr

/-- The needs of a team at its launch. -/
def LaunchDesc.need (d : LaunchDesc) : TeamNeed :=
  ⟨d.shared, d.tiles, (List.range d.groups).map fun g => (d.sliceOf g, d.vblk.getD (d.role g) 0), false⟩

/-- Groups seated on a core, in order. -/
def seatGroups (core : Nat) : List (Nat × Nat) → Room → Option (List Seat × Room)
  | [], r => some ([], r)
  | (sl, b) :: t, r =>
    match r.freeSlot core sl with
    | none => none
    | some k =>
      if r.freeBlocks core sl < b then none
      else
        let x : Seat := ⟨core, sl, k, b⟩
        (seatGroups core t { r with seats := r.seats ++ [x] }).map fun e => (x :: e.1, e.2)

/-- A team placed on a core (R221), where it fits. -/
def seatTeam (d : TeamNeed) (core : Nat) (r : Room) : Option ((Team × List Seat) × Room) :=
  let mine := r.teams.filter fun t => t.core = core
  match lowestFit (mine.map fun t => (t.shBase, t.shLen)) d.shared Config.sharedBytes with
  | none => none
  | some base =>
    if 48 < (mine.map (·.tiles)).sum + d.tiles then none
    else
      let t : Team := ⟨core, base, d.shared, d.tiles, d.gone⟩
      (seatGroups core d.groups r).map fun e => ((t, e.1), { e.2 with teams := e.2.teams ++ (if d.gone then [] else [t]) })

/-- The first of the least items of a list. -/
def argMin (f : Nat → Nat) : List Nat → Option Nat
  | [] => none
  | x :: t => match argMin f t with | none => some x | some y => some (if f x ≤ f y then x else y)

/-- The distributor's choice of a core for a team (R341): the fewest resident groups, the lower number on a tie. -/
def Room.chooseCore (r : Room) (d : TeamNeed) (cores : List Nat) : Option Nat :=
  argMin (fun c => r.seats.countP fun x => x.core = c) (cores.filter fun c => (seatTeam d c r).isSome)

/-- Teams placed in order (R341), or none where one does not fit. -/
def seatTeams (cores : List Nat) : List TeamNeed → Room → Option (List (Team × List Seat) × Room)
  | [], r => some ([], r)
  | d :: rest, r =>
    match r.chooseCore d cores with
    | none => none
    | some c =>
      match seatTeam d c r with
      | none => none
      | some (t, r) => (seatTeams cores rest r).map fun e => (t :: e.1, e.2)

/-- The cores of a die that are not retired (R470). -/
def State.coresOf (s : State) (die : Nat) : List Nat :=
  ((List.range Config.coresPerDie).filter fun n => !s.mgmt.retired.contains ⟨0, die, n⟩).map
    fun n => die * Config.coresPerDie + n

/-- The needs of a gang: its die mask, its Yard window and its teams. -/
structure GangNeed where
  dies : Nat
  yard : Nat
  teams : List TeamNeed
  deriving DecidableEq, Repr

/-- The needs of a gang at its launch. -/
def LaunchDesc.gangNeed (d : LaunchDesc) : GangNeed := ⟨d.dies, d.yard, List.replicate d.teams d.need⟩

/-- A gang placed on a die (R222): its Yard window and its teams, or none. -/
def State.seatGang (s : State) (d : GangNeed) (die : Nat) (r : Room) : Option (Nat × List (Team × List Seat)) :=
  match lowestFit ((r.yards.filter fun y => y.1 = die).map (·.2)) d.yard Config.yardBytes with
  | none => none
  | some base => (seatTeams (s.coresOf die) d.teams r).map fun e => (base, e.1)

/-- The dies of a mask that are in use (R472). -/
def State.maskDies (s : State) (mask : Nat) : List Nat :=
  (List.range 4).filter fun n => mask.testBit n && s.mgmt.dies.testBit n

/-- The die that a gang takes in some room (R341): one that can hold it, with the fewest resident teams, the lower number
on a tie. -/
def State.chooseDie (s : State) (d : GangNeed) (r : Room) : Option Nat :=
  argMin (fun n => r.teams.countP fun t => dieOfCore t.core = n)
    ((s.maskDies d.dies).filter fun n => (s.seatGang d n r).isSome)

/-- A gang fits an empty die of its mask (R222). -/
def State.fitsEmpty (s : State) (d : LaunchDesc) : Bool :=
  (s.maskDies d.dies).any fun n => (s.seatGang d.gangNeed n ⟨[], [], []⟩).isSome

/-! ### The record area (R426) -/

/-- Nanoseconds of core cycles at 3.6 GHz, rounded down (R429). -/
def nsOf (cycles : Nat) : Nat := cycles * 10 / 36

/-- What the record header holds in its RO fields (R426). -/
structure RecordHead where
  out : Nat
  why : Nat
  igroom : Nat
  ifault : Nat
  iio : Nat
  iexec : Nat
  deriving DecidableEq, Repr

/-- The header's RO fields written; the RW fields stay as the host left them (R426). -/
def State.writeHeader (s : State) (n : Nat) (gr : Grid) (h : RecordHead) : State :=
  let s := s.recWrite n 0 (leBytes 4 1 ++ leBytes 1 h.out ++ leBytes 1 h.why ++ leBytes 2 0)
  let s := s.recWrite n 0x10 (leBytes 8 h.igroom ++ leBytes 8 h.ifault ++ leBytes 8 h.iio ++ leBytes 8 h.iexec
    ++ leBytes 4 gr.fails ++ leBytes 4 gr.xfail ++ leBytes 4 gr.orphs ++ leBytes 4 gr.xorph
    ++ leBytes 4 gr.census.length ++ leBytes 4 gr.xsite ++ leBytes 8 gr.sdrop ++ leBytes 8 gr.tdrop
    ++ leBytes 4 gr.sused ++ leBytes 4 gr.tused)
  s.recWrite n 0x80 (leBytes 128 0)

/-- A census entry (R434). -/
def Census.bytes (c : Census) : Bytes :=
  leBytes 2 c.site ++ leBytes 1 c.kind ++ leBytes 1 0 ++ (c.counts.map (leBytes 4)).flatten

/-- The census table in ascending site and kind (R434). -/
def State.writeCensus (s : State) (n : Nat) (l : List Census) : State :=
  let sorted := l.mergeSort fun x y => x.site < y.site || (x.site = y.site && x.kind ≤ y.kind)
  s.recWrite n 0x100 (sorted.map Census.bytes).flatten

/-- The completion word, and the MSI-X vector of a launch (R339), of which there are 2,048 (R446): a release at `.sys`. -/
def State.complete (s : State) (ctx cw cv out why : Nat) (irq : Option Nat) : State :=
  let s := s.order .rel .sys 0
  let s := if cw = 0 then s else s.outWrite ctx cw (leBytes 8 (cv % 2 ^ 48 + why * 2 ^ 48 + out * 2 ^ 56))
  match irq with
  | some v => if v < 2048 then s.emit (.msix v) else s
  | none => s

/-- The grid is over: its queue no longer waits for it (R339). -/
def State.closeGrid (s : State) (n : Nat) : State :=
  let s := s.modGrid n fun g => { g with ended := true }
  let drop (q : LaunchQueue) : LaunchQueue := { q with running := q.running.filter (· ≠ n) }
  { s with launch := { s.launch with queues := s.launch.queues.map fun e => (e.1, drop e.2) } }

/-- The record of a grid that is complete with an outcome at a cycle (R429): the Groom's spans before the first placement and
after the grid end, and the run between the two, less the fault and transfer spans. -/
def Grid.head (gr : Grid) (out now : Nat) : RecordHead :=
  let start := gr.placed.getD now
  let stop := gr.endedAt.getD now
  ⟨out, 0, nsOf (start - gr.posted + (now - stop)), nsOf gr.ifault, nsOf gr.iio,
    nsOf (stop - start) - nsOf gr.ifault - nsOf gr.iio⟩

/-- A grid ends (R237) once every access of its groups is over, so that no record of one can follow the launch record (R427),
and every sample record has left its slice (R433): its writes are performed at `.dev`, its record and its completion word
written. -/
def execGridEnd (n : Nat) (s : State) : Out :=
  match s.gridOf n with
  | none => notNow
  | some gr =>
    if gr.ended ∨ gr.gangsLeft ≠ 0 ∨ gr.jobs ≠ 0 ∨ (s.ops.any fun e => e.2.grid = n && (e.2.unperformed || e.2.incomplete))
        ∨ (s.prof.queues.any fun e => e.2.any fun x => x.grid = n) then notNow
    else
      let s := s.order .rel .dev 0
      let out := if gr.fails + gr.xfail = 0 then 0 else 1
      let s := (s.writeCensus n gr.census).writeHeader n gr (gr.head out s.now)
      .next ((s.complete gr.ctx gr.cw gr.cv out 0 gr.irq).closeGrid n)

/-! ### Entries (R336 to R339) -/

/-- The fields of a launch-queue header that the Groom uses (R335). -/
structure QueueHead where
  ring : Nat
  nent : Nat
  ctx : Nat
  prio : Nat
  pok : Bool
  head : Nat
  qst : Nat
  deriving DecidableEq, Repr

def State.queueHead (s : State) (q : LaunchQueue) : Option (QueueHead × State) :=
  match s.readVa (outside q.ctx) q.header 64 with
  | (.ok x, s) =>
    let b := x.bytes
    some (⟨fieldAt b 0 8, fieldAt b 8 4, fieldAt b 12 2, fieldAt b 14 1, (fieldAt b 15 1).testBit 0, fieldAt b 24 8,
      fieldAt b 32 4⟩, s)
  | (.fault _ _, _) => none

/-- A launch entry (R336). -/
structure Entry where
  desc : Nat
  rec_ : Nat
  cw : Nat
  cv : Nat
  kind : Nat
  ef : Nat
  vec : Nat
  reserved : Nat
  stamp : Nat
  poison : Bool
  deriving DecidableEq, Repr

def entryOf (x : Got) : Entry :=
  let b := x.bytes
  ⟨fieldAt b 0 8, fieldAt b 8 8, fieldAt b 16 8, fieldAt b 24 6, fieldAt b 30 1, fieldAt b 31 1, fieldAt b 32 2,
    fieldAt b 34 22, fieldAt b 56 8, x.psn⟩

/-- The entry starts only after every earlier launch of its queue; it asks for an interrupt. -/
def Entry.ser (e : Entry) : Bool := e.ef.testBit 0
def Entry.irq (e : Entry) : Option Nat := if e.ef.testBit 1 then some e.vec else none

/-- The context is switched out (R350). -/
def State.ctxOut (s : State) (ctx : Nat) : Bool :=
  match sfind s.xlate.ctxs ctx with | some c => c.switchedOut | none => true

/-- The head entry of a queue, where the Groom may consume it now (R337, R339): its stamp stands, the queue runs, and a
`ser` entry has no earlier launch to wait for. -/
def State.headEntry (s : State) (n : Nat) : Option (LaunchQueue × QueueHead × Entry × State) :=
  match sfind s.launch.queues n with
  | none => none
  | some q =>
    match s.queueHead q with
    | none => none
    | some (h, s) =>
      if h.qst ≠ 0 ∨ s.ctxOut h.ctx then none
      else match s.readVa (outside h.ctx) (h.ring + 64 * (h.head % h.nent)) 64 with
        | (.fault _ _, _) => none
        | (.ok x, s) =>
          let e := entryOf x
          if e.stamp ≠ h.head + 1 ∨ (!q.running.isEmpty ∧ e.ser) then none else some (q, h, e, s)

/-- The queue's turn has come (R337): no ready queue has a lower priority number, and equals take turns in the order of their
registration. -/
def State.queueTurn (s : State) (q : LaunchQueue) (prio : Nat) : Bool :=
  let ready := s.launch.queues.filterMap fun e => (s.headEntry e.1).map fun x => (e.2.reg, x.2.1.prio)
  let last := sget 0 s.launch.served prio
  let far (k : Nat) : Nat := if last < k then k else k + s.launch.nextReg
  ready.all fun e => prio < e.2 || (prio = e.2 && far q.reg ≤ far e.1)

/-- The entry is consumed (R337): `head` moves on, which wakes its waiters, and the reading is an acquire. -/
def State.consume (s : State) (n : Nat) (q : LaunchQueue) (h : QueueHead) : State :=
  let s := (List.range 4).foldl State.dropDie s
  let s := s.outWrite q.ctx (q.header + 24) (leBytes 8 (h.head + 1))
  let gone (q : LaunchQueue) : LaunchQueue := { q with seen := q.seen.filter fun e => h.head ≤ e.1 }
  { s with launch := { s.launch with served := sput s.launch.served h.prio q.reg, queues := supd s.launch.queues n gone } }

/-- Bytes of the context that the Groom reads; none where they cannot be read (R338). -/
def State.groomRead (s : State) (ctx va n : Nat) : Option (Bytes × State) :=
  if canonical (va + n - 1) then
    match s.readVa (outside ctx) va n with
    | (.ok x, s) => if x.psn then none else some (x.bytes, s)
    | (.fault _ _, _) => none
  else none

/-- The entry breaks its own layout (R338 reason 16). -/
def Entry.bad (e : Entry) : Bool :=
  1 < e.kind || 4 ≤ e.ef || e.reserved ≠ 0 || e.desc % (if e.kind = 1 then 64 else 256) ≠ 0 || e.rec_ % 64 ≠ 0 || e.cw % 8 ≠ 0

/-- Why a launch with this descriptor is refused (R338), 0 where it is not. -/
def State.refusal (s : State) (h : QueueHead) (b : Bytes) : Nat :=
  let d := launchDesc b
  if !descOk b then 9
  else if d.priv ∧ !h.pok then 18
  else if (s.maskDies d.dies).isEmpty then 19
  else if !s.fitsEmpty d then 20
  else 0

/-- The sampling and tracing fields of a record header, turned off where they are out of range (R426). -/
def bufferOk (va len : Nat) : Bool := va % 64 = 0 && canonical va && len % 64 = 0

/-- A grid as its consumed entry gives it (R426, R429). -/
def newGrid (s : State) (h : QueueHead) (n : Nat) (e : Entry) (d : LaunchDesc) (head : Bytes) : Grid :=
  let period := fieldAt head 0x60 4
  let sbuf := fieldAt head 0x68 8
  let slen := fieldAt head 0x70 4
  let tlen := fieldAt head 0x74 4
  let tbuf := fieldAt head 0x78 8
  let sOn := 16 ≤ period && period ≤ 2 ^ 20 && bufferOk sbuf slen && slen ≠ 0
  let stamped := ((sfind s.launch.queues n).map (·.seen)).getD []
  let table := (sfind s.launch.fmtBlocks (h.ctx * 2 ^ 54 + e.desc)).getD []
  { ctx := h.ctx, queue := n, desc := d, blocks := (table.zipIdx.filter fun x => x.2 < 32 && d.fmask.testBit x.2).map (·.1),
    prio := h.prio, order := s.launch.nextOrder, rec_ := e.rec_, cw := e.cw, cv := e.cv, irq := e.irq,
    gangsLeft := d.gangs, jobs := 0, fails := 0, xfail := 0, orphs := 0, xorph := 0, census := [], xsite := 0,
    speriod := if sOn then period else 0, sbuf := sbuf, slen := if sOn then slen else 0, sused := 0, sdrop := 0,
    tbuf := tbuf, tlen := if bufferOk tbuf tlen then tlen else 0, tused := 0, tdrop := 0,
    posted := ((stamped.find? fun x => x.1 = h.head).map (·.2)).getD s.now, placed := none, endedAt := none,
    ifault := 0, iio := 0, ended := false, aborted := false }

/-- A grid enters the device's table under the next number. -/
def State.addGrid (s : State) (g : Grid) : State :=
  { s with launch := { s.launch with grids := sput s.launch.grids s.launch.nextOrder g,
                                     nextOrder := s.launch.nextOrder + 1 } }

/-- The header of the record area of an entry (R425): zeros where it has none or it cannot be read. -/
def State.recordHead (s : State) (ctx rec : Nat) : Bytes :=
  if rec = 0 then leBytes 128 0
  else match s.groomRead ctx rec 128 with | some (b, _) => b | none => leBytes 128 0

/-- A refused entry (R338, R339): the record and the completion word say why. -/
def State.refuseEntry (s : State) (h : QueueHead) (n : Nat) (e : Entry) (why : Nat) : State :=
  let id := s.launch.nextOrder
  let g := { newGrid s h n e (launchDesc []) [] with gangsLeft := 0, ended := true }
  let s := (s.addGrid g).writeHeader id g ⟨2, why, nsOf (s.now - g.posted), 0, 0, 0⟩
  s.complete h.ctx e.cw e.cv 2 why e.irq

/-- The instruction-buffer entries of a context when a grid of it launches (R38): those that no slot points into are
invalidated, the fresh others go stale under the number of this launch, and the slots that point into them go with them. -/
def State.staleLines (s : State) (ctx : Nat) : State :=
  let k := s.nextId
  let one (core : Nat) (l : List IbufLine) : List IbufLine :=
    (l.filter fun e => e.ctx ≠ ctx || s.lineHeld core e).map
      fun e => if e.ctx = ctx ∧ e.copy = 0 then { e with copy := k } else e
  let slot (g : Group) (p : PcSlot) : PcSlot :=
    if p.copy = 0 ∧ (s.ibufFind g.coreNo ctx (pcLine p.pc)).isSome then { p with copy := k } else p
  let old (g : Group) : Group := if g.ctx = ctx then { g with slot0 := slot g g.slot0, slot1 := slot g g.slot1 } else g
  { s with nextId := k + 1, ibuf := s.ibuf.map fun e => (e.1, one e.1 e.2), cur := old s.cur,
           others := s.others.map fun e => (e.1, old e.2) }

/-- The pending gangs in their order (R340): priority, order of consumption, gang index. -/
def State.pendBefore (s : State) (x y : Nat × Nat) : Bool :=
  let key (e : Nat × Nat) : Nat × Nat := match s.gridOf e.1 with | some g => (g.prio, g.order) | none => (0, 0)
  let a := key x
  let b := key y
  a.1 < b.1 || (a.1 = b.1 && (a.2 < b.2 || (a.2 = b.2 && x.2 ≤ y.2)))

/-- Gangs that enter the pending list (R340, R345). -/
def State.pend (s : State) (l : List (Nat × Nat)) : State :=
  { s with launch := { s.launch with pending := (s.launch.pending ++ l).mergeSort s.pendBefore } }

/-- An accepted launch (R340): the grid starts, and its gangs enter the pending list. -/
def State.acceptLaunch (s : State) (h : QueueHead) (n : Nat) (e : Entry) (d : LaunchDesc) : State :=
  let id := s.launch.nextOrder
  let g := newGrid s h n e d (s.recordHead h.ctx e.rec_)
  let s := (s.addGrid g).writeHeader id g ⟨0, 0, 0, 0, 0, 0⟩
  let run (q : LaunchQueue) : LaunchQueue := { q with running := q.running ++ [id] }
  let s := { s with launch := { s.launch with queues := supd s.launch.queues n run } }
  ((s.staleLines h.ctx).order .acq .sys 0).pend ((List.range d.gangs).map fun k => (id, k))

/-- The Groom consumes a launch entry, or one that it refuses (R337, R338): an entry that is poisoned cannot be read
(log 33). -/
def execLaunchEntryConsume (n : Nat) (s : State) : Out :=
  match s.headEntry n with
  | none => notNow
  | some (q, h, e, s) =>
    if !s.queueTurn q h.prio ∨ (!e.poison ∧ e.kind = 1 ∧ !e.bad) then notNow
    else
      let s := s.consume n q h
      if e.poison then .next (s.refuseEntry h n e 17)
      else if e.bad then .next (s.refuseEntry h n e 16)
      else match s.groomRead h.ctx e.desc 256 with
        | none => .next (s.refuseEntry h n e 17)
        | some (b, s) =>
          let why := s.refusal h b
          if why = 0 then .next (s.acceptLaunch h n e (launchDesc b)) else .next (s.refuseEntry h n e why)

/-- The cycles at which the stamps of a queue's entries were first seen to stand (R429). -/
def State.stampsOf (s : State) (q : LaunchQueue) : List (Nat × Nat) :=
  match s.queueHead q with
  | none => q.seen
  | some (h, t) =>
    let stamped (i : Nat) : Bool :=
      match t.readVa (outside h.ctx) (h.ring + 64 * (i % h.nent) + 56) 8 with
      | (.ok x, _) => ofLe x.bytes = i + 1
      | (.fault _ _, _) => false
    let new := ((List.range h.nent).map (h.head + ·)).filter fun i => !(q.seen.any fun e => e.1 = i) && stamped i
    q.seen ++ new.map fun i => (i, s.now)

/-- The Grooms watch the stamps of their queues (R337, R429). -/
def State.noteStamps (s : State) : State :=
  if s.launch.queues.isEmpty then s
  else { s with launch := { s.launch with queues := s.launch.queues.map fun e => (e.1, { e.2 with seen := s.stampsOf e.2 }) } }

/-- System software stops and resets a queue whose head entry was never stamped (R337): the header's counts return to
their reset values, and so do the stamps of the ring. -/
def execLaunchQueueReset (n : Nat) (s : State) : Out :=
  match sfind s.launch.queues n with
  | none => notNow
  | some q =>
    match s.queueHead q with
    | none => notNow
    | some (h, s) =>
      if (s.headEntry n).isSome then notNow
      else
        let s := s.outWrite q.ctx (q.header + 16) (leBytes 20 0)
        .next ((List.range h.nent).foldl (fun s i => s.outWrite h.ctx (h.ring + 64 * i + 56) (leBytes 8 0)) s)

end Sys2Proof.Machine
end

