-- ==== Sys2Proof/Machine/Load.lean ====
section
/-! DEFINITION. Loading a file (R316 to R328): its pages mapped, its sections filled, and what its tables name built. -/

namespace Sys2Proof.Machine

/-- A page as the loader finds it: its place, attribute, the `x` permission and its size code. -/
structure Page where
  pa : Nat
  attr : Nat
  x : Bool
  level : Nat
  deriving DecidableEq, Repr

/-- The page of an address in a context's tables, whatever its permissions; none where a walk would be malformed (R472). -/
def State.pageOf (s : State) (ctx va : Nat) : Option (Page × State) :=
  match sfind s.xlate.ctxs ctx with
  | none => none
  | some c =>
    if !canonical va then none
    else match walkFrom none ctx va 3 c.root s with
      | (.leaf level e, s) =>
        let pa := bits e 51 16 * 65536 + va % pageBytes level
        if s.servedAttr (bits e 6 5) pa = 2 ∧ s.mgmt.dies ≠ 15 then none
        else if s.reaches pa && !s.unused pa then
          some (⟨pa, bits e 6 5, bits e 4 4 == 1, level⟩, s)
        else none
      | (.fault _, _) => none

/-! ### Frames -/

/-- The place of size bytes that a number names in some regions. -/
def frameAt (k size : Nat) (regions : List Nat) : Nat :=
  let per := Config.regionBytes / size
  regions.getD (k / per % regions.length) 0 * Config.regionBytes + k % per * size

/-- The first place from a number on that meets no range in use, itself and its replicas (R355). -/
def freeFrame (used : List Frame) (size : Nat) (regions : List Nat) (replica : Bool) : Nat → Nat → Option Nat
  | 0, _ => none
  | n + 1, k =>
    let a := frameAt k size regions
    if (List.range (if replica then 4 else 1)).any fun d => meetsAny used (a + 3 * d * Config.regionBytes) size then
      freeFrame used size regions replica n (k + 1)
    else some a

/-- The next page or table of the loader: a free value names where the search for memory not in use starts (log 29). A range in
use stands in the way of at most its length in places and two more, of each replica; so a place is found where there is one. -/
def State.drawFrame (s : State) (used : List Frame) (size : Nat) (regions : List Nat) (replica : Bool) :
    Option (Nat × State) :=
  if regions.isEmpty then none
  else (freeFrame used size regions replica (4 * (used.map fun f => f.size / size + 2).sum + 1) (Config.loadFrame s.free)).map
    fun a => (a, { s with free := s.free + 1 })

/-! ### Pages -/

/-- What a file asks of the pages that its load maps: the 2 MiB pages that hold blocks larger than 64 KiB (R323), the granules
of text (R328) and those of sweep regions (R324). -/
structure LoadPlan where
  big : List Nat
  text : List Nat
  linear : List Nat
  deriving DecidableEq, Repr

/-- The level of the page that an address gets, and whether a list of granules names its page. -/
def LoadPlan.level (p : LoadPlan) (va : Nat) : Nat := if p.big.contains (va / 2 ^ 21) then 1 else 0
def LoadPlan.wants (p : LoadPlan) (l : List Nat) (va : Nat) : Bool :=
  let n := pageBytes (p.level va)
  l.any fun g => g * 65536 / n = va / n

/-- The regions in which the loader takes frames: in stacks in use, row-linear where that is asked for (R324), and of CD0 for a
`REPLICA` page (R355). -/
def State.loadRegions (s : State) (linear replica : Bool) : List Nat :=
  (List.range Config.regions).filter fun n =>
    s.stackUsed (n % 12) && (!linear || s.linearAt (n * Config.regionBytes)) && (!replica || n % 12 < 3)

/-- A leaf for the page of an address, put into a table of a level or below it (R352, R354): tables that are missing on the
way are made, in memory not in use and not the leaf's own. None where another leaf stands there. -/
def mapBelow (ctx va target leaf : Nat) : Nat → Nat → State → Option State
  | level, table, s =>
    let at_ := table + 8 * vaIndex va level
    if s.unused table || !s.reaches table then none
    else match s.readPte at_ with
    | (none, _) => none
    | (some e, s) =>
      let put (s : State) (e : Nat) : State := s.writePa (outside 0) 0 at_ (leBytes 8 e)
      if level = target then if bits e 0 0 = 0 then some (put s leaf) else none
      else
        match level with
        | 0 => none
        | l + 1 =>
          if bits e 0 0 = 0 then
            let size := tableAlign (l + 1)
            match s.drawFrame (leafFrames target leaf ++ s.framesInUse) size (s.loadRegions false false) false with
            | none => none
            | some (t, s) => mapBelow ctx va target leaf l t (put (s.writePa (outside 0) 0 t (leBytes size 0)) (1 + t))
          else if bits e 1 1 = 1 then none
          else mapBelow ctx va target leaf l (bits e 51 8 * 256) s

/-- A page mapped for an address as the plan asks (R323, R324, R328): readable and writable, for fetch where it holds text
(log 29). -/
def State.mapPage (s : State) (ctx va attr : Nat) (plan : LoadPlan) : Option State :=
  match sfind s.xlate.ctxs ctx with
  | none => none
  | some c =>
    let level := plan.level va
    let rs := s.loadRegions (plan.wants plan.linear va) (attr = 2)
    if !canonical va then none
    else match s.drawFrame s.framesInUse (pageBytes level) rs (attr = 2) with
      | none => none
      | some (a, s) =>
        let x := if plan.wants plan.text va then 16 else 0
        mapBelow ctx va level (15 + x + attr * 32 + a) 3 c.root s

/-- The leaf of an address gets its `x` permission (R328 step 7), from a level's table on. -/
def fetchable (va : Nat) : Nat → Nat → State → Option State
  | level, table, s =>
    let at_ := table + 8 * vaIndex va level
    match s.readPte at_ with
    | (none, _) => none
    | (some e, s) =>
      if bits e 0 0 = 0 then none
      else if bits e 1 1 = 1 then some (s.writePa (outside 0) 0 at_ (leBytes 8 (e - bits e 4 4 * 16 + 16)))
      else match level with
        | 0 => none
        | l + 1 => fetchable va l (bits e 51 8 * 256) s

/-- The page of an address, mapped now where there is none; one that is to hold text and is not mapped for fetch is mapped so
now. -/
def State.ensurePage (s : State) (ctx va attr : Nat) (plan : LoadPlan) : Option (Page × State) :=
  match s.pageOf ctx va with
  | some (p, s) =>
    if p.x ∨ !plan.wants plan.text va then some (p, s)
    else ((sfind s.xlate.ctxs ctx).bind fun c => fetchable va 3 c.root s).bind fun s => s.pageOf ctx va
  | none => (s.mapPage ctx va attr plan).bind fun s => s.pageOf ctx va

/-- Every page of a list of granules there, mapped where it was missing, and passing a test. -/
def ensurePages (ctx attr : Nat) (plan : LoadPlan) (ok : State → Page → Bool) : List Nat → State → Option State
  | [], s => some s
  | va :: t, s =>
    match s.ensurePage ctx va attr plan with
    | some (p, s) => if ok s p then ensurePages ctx attr plan ok t s else none
    | none => none

/-- The granules of a range. -/
def granulesOf (va n : Nat) : List Nat := (granuleParts va n).map (·.1)

/-- Bytes written by the loader, granule by granule; reason 7 where a page is not mapped. -/
def loadParts (ctx : Nat) : List (Nat × Nat) → Bytes → State → Except Nat (Unit × State)
  | [], _, s => .ok ((), s)
  | (va, n) :: t, b, s =>
    match s.pageOf ctx va with
    | none => .error 7
    | some (p, s) => loadParts ctx t (b.drop n) (s.writePa (outside ctx) p.attr p.pa (b.take n))

def State.loadWrite (s : State) (ctx va : Nat) (b : Bytes) : Except Nat (Unit × State) := loadParts ctx (granuleParts va b.length) b s

/-- Bytes of the image (R338 reason 17 where they cannot be read). -/
def State.imageRead (s : State) (ctx va n : Nat) : Except Nat (Bytes × State) :=
  if n = 0 then .ok ([], s)
  else match s.groomRead ctx va n with
    | some (b, s) => .ok (b, s)
    | none => .error 17

/-- n records of k bytes at an address. -/
def State.records (s : State) (ctx va k n : Nat) : Except Nat (List Bytes × State) :=
  match s.imageRead ctx va (k * n) with
  | .ok (b, s) => .ok ((List.range n).map fun i => (b.drop (k * i)).take k, s)
  | .error e => .error e

/-- A section header (R317). -/
structure Section where
  kind : Nat
  attr : Nat
  vaddr : Nat
  size : Nat
  foff : Nat
  deriving DecidableEq, Repr

def sectionOf (b : Bytes) : Section := ⟨fieldAt b 4 1, fieldAt b 5 1, fieldAt b 8 8, fieldAt b 16 8, fieldAt b 24 8⟩

/-- A table record (R321). -/
structure Table where
  kind : Nat
  need : Bool
  off : Nat
  count : Nat
  size : Nat
  deriving DecidableEq, Repr

def tableOf (b : Bytes) : Table :=
  ⟨fieldAt b 0 2, (fieldAt b 2 1).testBit 0, fieldAt b 8 8, fieldAt b 16 4, fieldAt b 20 4⟩

/-- Steps 1 to 5 of R328: the first that the header fails. -/
def headerFail (s : State) (b : Bytes) : Nat :=
  if fieldAt b 0 4 ≠ 0x464F57 then 1
  else if fieldAt b 5 1 ≠ 1 then 2
  else if bits 0xB0 3 0 < fieldAt b 6 1 then 3
  else if s.mgmt.fwver / 256 < fieldAt b 7 1 then 4
  else if !(fieldAt b 8 2).testBit 0 || (fieldAt b 8 2).testBit 1 then 5
  else 0

/-- A section mapped at its address (R328 step 7): every page has its attribute, and a text page is mapped for fetch. A section
whose kind or attribute is a reserved value cannot be mapped, and its file is refused with reason 7 (log 87). -/
def State.mapSection (s : State) (ctx : Nat) (plan : LoadPlan) (x : Section) : Option State :=
  if x.kind < 3 ∧ x.attr < 3 then
    ensurePages ctx x.attr plan (fun _ p => p.attr = x.attr && (x.kind ≠ 0 || p.x)) (granulesOf x.vaddr x.size) s
  else none

/-- The contents of a section (R317): zeros where it has none in the file. -/
def State.contents (s : State) (ctx img : Nat) (x : Section) : Except Nat (Bytes × State) :=
  if x.foff = 0 then .ok (leBytes x.size 0, s) else s.imageRead ctx (img + x.foff) x.size

/-- The sections of a file filled (R328 step 7). -/
def loadSections (ctx img : Nat) (plan : LoadPlan) : List Section → State → Except Nat (Unit × State)
  | [], s => .ok ((), s)
  | x :: t, s =>
    match s.mapSection ctx plan x with
    | none => .error 7
    | some s => do
      let (b, s) ← s.contents ctx img x
      let (_, s) ← s.loadWrite ctx x.vaddr b
      loadSections ctx img plan t s

/-- The place of the block that follows one at an address (R323): 256-byte aligned, across no 64 KiB boundary, or for a
block larger than 64 KiB across no 2 MiB boundary. -/
def nextBlock (va n : Nat) : Nat :=
  let a := (va + n + 255) / 256 * 256
  let lim := if n ≤ 65536 then 65536 else 2 ^ 21
  if a / lim = (a + n - 1) / lim then a else (a / lim + 1) * lim

/-- The headers and payloads of a pool's blocks (R323): free headers, each naming the next, in pages of 64 KiB or larger, or
of 2 MiB or larger where a block needs them. -/
def loadBlocks (ctx cap dh : Nat) (plan : LoadPlan) : Nat → Nat → State → Except Nat (Unit × State)
  | 0, _, s => .ok ((), s)
  | n + 1, va, s =>
    let len := 256 + 4 * dh * cap
    let next := nextBlock va len
    let h : KvHead := ⟨0, false, 0, 0, cap, dh, if n = 0 then 0 else next⟩
    let level := if len ≤ 65536 then 0 else 1
    match ensurePages ctx 0 plan (fun _ p => level ≤ p.level) (granulesOf va len) s with
    | none => .error 8
    | some s =>
      match s.loadWrite ctx va (h.bytes ++ leBytes (len - 24) 0) with
      | .ok (_, s) => loadBlocks ctx cap dh plan n next s
      | .error _ => .error 8

/-- The granules of the blocks of a pool whose blocks are larger than 64 KiB (R323). -/
def bigBlocks (len : Nat) : Nat → Nat → List Nat
  | 0, _ => []
  | n + 1, va => granulesOf va len ++ bigBlocks len n (nextBlock va len)

def bigPool (b : Bytes) : List Nat :=
  let len := 256 + 4 * fieldAt b 18 2 * fieldAt b 16 2
  if len ≤ 65536 then [] else bigBlocks len (fieldAt b 20 4) (fieldAt b 8 8)

/-- A key-value pool (R208, R323). -/
def loadPool (ctx : Nat) (plan : LoadPlan) (b : Bytes) (s : State) : Except Nat (Unit × State) :=
  let first := fieldAt b 8 8
  let cap := fieldAt b 16 2
  let dh := fieldAt b 18 2
  let n := fieldAt b 20 4
  let desc := leBytes 8 (if n = 0 then 0 else first) ++ leBytes 4 n ++ leBytes 2 cap ++ leBytes 2 dh ++ leBytes 48 0
  match loadBlocks ctx cap dh plan n first s with
  | .error e => .error e
  | .ok (_, s) => match s.loadWrite ctx (fieldAt b 0 8) desc with | .error _ => .error 8 | r => r

/-- A sweep region (R324): every page has a row-linear mapping, and no section that it lies in is `REPLICA`. -/
def loadRegion (ctx : Nat) (plan : LoadPlan) (secs : List Section) (b : Bytes) (s : State) : Except Nat (Unit × State) :=
  let base := fieldAt b 0 8
  let len := fieldAt b 8 8
  let replica := secs.any fun x => x.attr = 2 && base < x.vaddr + x.size && x.vaddr < base + len
  if base % 1024 ≠ 0 ∨ len = 0 ∨ len % 1024 ≠ 0 ∨ replica then .error 8
  else match ensurePages ctx 0 plan (fun s p => p.attr ≠ 2 && isDram p.pa && s.linearAt p.pa) (granulesOf base len) s with
    | some s => .ok ((), s)
    | none => .error 8

/-- The lowest run of n Cribs that system software has assigned to the context and no file has taken (R325, log 45). -/
def State.cribRun (s : State) (ctx n : Nat) : Option Nat :=
  let mine (k : Nat) : Bool :=
    (match sfind s.pad.cribs k with | some c => c.ctx = ctx | none => false) && !s.pad.taken.contains k
  (s.pad.cribs.map (·.1)).find? fun k => (List.range n).all fun i => mine (k + i)

/-- The parity bits of a line's word set from its body (R30). -/
def withParity (x : LineBits) : LineBits :=
  let par := (List.range 4).foldl (fun p q => p + countOnes 120 (bits x.toNat (120 * q + 119) (120 * q)) % 2 * 2 ^ q) 0
  BitVec.ofNat 512 (x.toNat % 2 ^ 508 + par * 2 ^ 508)

/-- One relocation against a Crib's symbol (R319, R325): 4 data bytes, or the `imm` of a slot with its line's parity. -/
def loadReloc (ctx value : Nat) (secs : List Section) (r : Bytes) (s : State) : Except Nat (Unit × State) := do
  let va := ((secs.map (·.vaddr)).getD (fieldAt r 8 2) 0) + fieldAt r 0 8
  let x := leBytes 4 ((value + fieldAt r 16 8) % 2 ^ 32)
  let (_, s) ← s.loadWrite ctx va x
  if fieldAt r 10 2 = 2 then
    match s.pageOf ctx (va / 64 * 64) with
    | none => .error 8
    | some (p, s) =>
      let (y, s) := s.readPa (outside ctx) p.attr p.pa 64
      s.loadWrite ctx (va / 64 * 64) (leBytes 64 (withParity (BitVec.ofNat 512 (ofLe y.bytes))).toNat)
  else .ok ((), s)

/-- The relocations of a list that name a symbol with a type that the loader patches. -/
def loadRelocs (ctx value sym : Nat) (secs : List Section) : List Bytes → State → Except Nat (Unit × State)
  | [], s => .ok ((), s)
  | r :: t, s =>
    if fieldAt r 12 4 = sym ∧ (fieldAt r 10 2 = 2 ∨ fieldAt r 10 2 = 3) then
      match loadReloc ctx value secs r s with
      | .ok (_, s) => loadRelocs ctx value sym secs t s
      | .error _ => .error 8
    else loadRelocs ctx value sym secs t s

/-- A Crib entry of a file (R325): it takes the next run of Cribs, its symbol gets the first one's number, and the symbol's
uses are patched. Its bytes 0 to 3 are the symbol's index and 4 to 7 the count (log 45). `syms` is where the symbol records
stand. -/
def loadCrib (ctx syms : Nat) (secs : List Section) (rels : List Bytes) (b : Bytes) (s : State) : Except Nat (Unit × State) :=
  let n := fieldAt b 4 4
  let sym := fieldAt b 0 4
  match s.cribRun ctx n with
  | none => .error 8
  | some k =>
    if n = 0 ∨ 2048 < n then .error 8
    else
      let s := { s with pad := { s.pad with taken := s.pad.taken ++ (List.range n).map (k + ·) } }
      match s.loadWrite ctx (syms + 24 * sym + 8) (leBytes 8 k) with
      | .ok (_, s) => loadRelocs ctx k sym secs rels s
      | .error _ => .error 8

/-- A name of the string area: its bytes up to the ending zero (R316). -/
def State.loadName (ctx : Nat) : Nat → Nat → State → Except Nat (Bytes × State)
  | 0, _, s => .ok ([], s)
  | n + 1, va, s =>
    match s.imageRead ctx va 1 with
    | .error e => .error e
    | .ok (b, s) =>
      if b.headD 0 = 0 then .ok ([], s)
      else match State.loadName ctx n (va + 1) s with
        | .ok (r, s) => .ok (b ++ r, s)
        | .error e => .error e

/-- A census-site entry of a file (R326): the site's name, `strs` being where the string area stands. -/
def loadSite (ctx strs : Nat) (b : Bytes) (s : State) : Except Nat (Unit × State) :=
  let site := fieldAt b 0 4
  if site = 0 ∨ 65535 < site then .error 8
  else match State.loadName ctx 65536 (strs + fieldAt b 4 4) s with
    | .ok (name, s) => .ok ((), { s with launch := { s.launch with sites := sput s.launch.sites (ctx * 65536 + site) name } })
    | .error e => .error e

/-- What a load builds from a list of entries, in order. -/
def loadEach (f : Bytes → State → Except Nat (Unit × State)) : List Bytes → State → Except Nat (Unit × State)
  | [], s => .ok ((), s)
  | b :: t, s =>
    match f b s with
    | .ok (_, s) => loadEach f t s
    | .error e => .error e

/-- What an entry of a table builds (R323 to R326); a table of another kind is not read (R328 step 6). -/
def loadEntry (ctx syms strs : Nat) (plan : LoadPlan) (secs : List Section) (rels : List Bytes) :
    Nat → Option (Bytes → State → Except Nat (Unit × State))
  | 2 => some (loadPool ctx plan)
  | 3 => some (loadRegion ctx plan secs)
  | 4 => some (loadCrib ctx syms secs rels)
  | 5 => some (loadSite ctx strs)
  | _ => none

/-- The tables of a file, without its format blocks (R323 to R326). -/
def loadTables (ctx img : Nat) (entry : Nat → Option (Bytes → State → Except Nat (Unit × State))) :
    List Table → State → Except Nat (Unit × State)
  | [], s => .ok ((), s)
  | t :: rest, s =>
    match entry t.kind with
    | none => loadTables ctx img entry rest s
    | some f => do
      let (es, s) ← s.records ctx (img + t.off) t.size t.count
      let (_, s) ← loadEach f es s
      loadTables ctx img entry rest s

/-- The entries of a file's tables of a kind, as far as they can be read. -/
def State.entriesOf (s : State) (ctx img kind : Nat) (tabs : List Table) : List Bytes :=
  ((tabs.filter fun t => t.kind = kind).map fun t =>
    match s.records ctx (img + t.off) t.size t.count with | .ok (es, _) => es | .error _ => []).flatten

/-- What the file asks of its pages (R323, R324, R328). -/
def State.loadPlan (s : State) (ctx img : Nat) (tabs : List Table) (secs : List Section) : LoadPlan :=
  let granule (va : Nat) : Nat := va / 65536
  ⟨(((s.entriesOf ctx img 2 tabs).map bigPool).flatten.map fun va => va / 2 ^ 21).eraseDups,
   (((secs.filter fun x => x.kind = 0).map fun x => granulesOf x.vaddr x.size).flatten.map granule).eraseDups,
   (((s.entriesOf ctx img 3 tabs).map fun b => granulesOf (fieldAt b 0 8) (fieldAt b 8 8)).flatten.map granule).eraseDups⟩

/-- The format blocks of a file in index order (R322). -/
def loadBlocksTable (ctx img : Nat) : List Table → State → Except Nat (List (Nat × Bytes) × State)
  | [], s => .ok ([], s)
  | t :: rest, s =>
    if t.kind = 1 then do
      let (es, s) ← s.records ctx (img + t.off) t.size t.count
      let sorted := es.mergeSort fun x y => fieldAt x 4 4 ≤ fieldAt y 4 4
      .ok (sorted.map fun b => (fieldAt b 0 4, (b.drop 8).take 32), s)
    else loadBlocksTable ctx img rest s

/-- The launch descriptors of a file checked (R328 step 9), with the file's format blocks kept for each (R322). -/
def loadDescs (ctx img : Nat) (blocks : List (Nat × Bytes)) : List Section → State → Except Nat (Unit × State)
  | [], s => .ok ((), s)
  | x :: t, s =>
    if x.kind ≠ 2 then loadDescs ctx img blocks t s
    else do
      let (b, s) ← s.contents ctx img x
      let ds := (List.range (x.size / 256)).map fun i => (b.drop (256 * i)).take 256
      if ds.all descOk then
        let keys := (List.range ds.length).map fun i => ctx * 2 ^ 54 + x.vaddr + 256 * i
        let tab := keys.foldl (fun m k => sput m k blocks) s.launch.fmtBlocks
        loadDescs ctx img blocks t { s with launch := { s.launch with fmtBlocks := tab } }
      else .error 9

/-- A file is loaded (R328), or the reason of the first failing step. -/
def State.loadFile (s : State) (ctx img : Nat) : Except Nat (Unit × State) := do
  let (h, s) ← s.imageRead ctx img 64
  let bad := headerFail s h
  if bad ≠ 0 then .error bad
  else
    let (ts, s) ← s.records ctx (img + fieldAt h 48 8) 32 (fieldAt h 20 4)
    let tabs := ts.map tableOf
    if tabs.any fun t => t.need && !(1 ≤ t.kind && t.kind ≤ 5) then .error 6
    else
      let (ss, s) ← s.records ctx (img + fieldAt h 24 8) 48 (fieldAt h 10 2)
      let secs := ss.map sectionOf
      let (rels, s) ← s.records ctx (img + fieldAt h 40 8) 24 (fieldAt h 16 4)
      let plan := s.loadPlan ctx img tabs secs
      let (_, s) ← loadSections ctx img plan secs s
      let entry := loadEntry ctx (img + fieldAt h 32 8) (img + fieldAt h 56 8) plan secs rels
      let (_, s) ← loadTables ctx img entry tabs s
      let (blocks, s) ← loadBlocksTable ctx img tabs s
      loadDescs ctx img blocks secs s

/-- A load entry is over (R339): its record and its completion word. -/
def State.endLoad (s : State) (h : QueueHead) (n : Nat) (e : Entry) : State :=
  let id := s.launch.nextOrder
  let g := { newGrid s h n e (launchDesc []) [] with gangsLeft := 0, ended := true }
  let s := (s.addGrid g).writeHeader id g ⟨0, 0, nsOf (s.now - g.posted), 0, 0, 0⟩
  s.complete h.ctx e.cw e.cv 0 0 e.irq

/-- The Groom consumes a load entry (R328, R337): a refused load changes nothing else. -/
def execFileLoad (n : Nat) (s : State) : Out :=
  match s.headEntry n with
  | none => notNow
  | some (q, h, e, s) =>
    if !s.queueTurn q h.prio ∨ e.poison ∨ e.kind ≠ 1 ∨ e.bad then notNow
    else
      let s := s.consume n q h
      match s.loadFile h.ctx e.desc with
        | .error why => .next (s.refuseEntry h n e why)
        | .ok (_, s) => .next ((s.order .rel .sys 0).endLoad h n e)

end Sys2Proof.Machine
end

