-- ==== Sys2Proof/Machine/Place.lean ====
section
/-! DEFINITION. The placement of gangs (R55, R220 to R222, R340, R341), `grow` requests (R228, R229), the watchdog (R233),
and the ends of groups, teams and gangs (R234 to R236). -/

namespace Sys2Proof.Machine

/-! ### A group at launch (R55) -/

/-- A group as its launch sets it (R55, R220). A stack base that runs past 2^54 is kept whole (log 70). -/
def newGroup (gr : Grid) (grid gngx tign gidx gid die yBase : Nat) (t : Team) (x : Seat) : Group :=
  let d := gr.desc
  let role := d.role gidx
  let n := (gngx * d.teams + tign) * d.groups + gidx
  { Group.vacant with
      gid := gid, grid := grid, ctx := gr.ctx, gngx := gngx, tign := tign, gidx := gidx, ngrp := d.groups, tpg := d.teams,
      launched := BitVec.ofNat 64 (2 ^ d.lanes - 1), exited := ~~~BitVec.ofNat 64 (2 ^ d.lanes - 1), die := die,
      core := x.core % Config.coresPerDie, slice := x.slice, gslot := x.gslot, resident := true,
      s := ofDense 0 0 d.sarg, a := ofDense 0 0 d.aarg,
      slot0 := ⟨d.entry, BitVec.ofNat 64 (2 ^ d.lanes - 1), true, none, 0⟩,
      sgk := ⟨d.kbase + n * d.ksize, d.ksize⟩, sgs := ⟨t.shBase, d.shared⟩, sgy := ⟨yBase, d.yard⟩,
      vblocks := x.blocks, tquota := d.tq.getD role 0, role := role, budget := d.vbud.getD role 0, priv := d.priv,
      tvec := d.tvec, wdog := d.wdog, wdogOn := d.wdog ≠ 0, fresh := true }

/-- A window of a core's memory or of a die's Yard written with zeros (R220, R461). -/
def State.clearShared (s : State) (core base n : Nat) : State :=
  let at_ := sharedAt core base
  { s with mem := { s.mem with shared := sclear s.mem.shared at_ n, sharedPsn := sclear s.mem.sharedPsn (at_ / 8) (n / 8) } }

def State.clearYard (s : State) (die base n : Nat) : State :=
  let at_ := yardAt die base
  { s with mem := { s.mem with yard := sclear s.mem.yard at_ n, yardPsn := sclear s.mem.yardPsn (at_ / 32) (n / 32) } }

/-- The format-block images of a launch in a team's window (R322); what lies outside the window is not written. -/
def State.writeBlocks (s : State) (core base len : Nat) (l : List (Nat × Bytes)) : State :=
  l.foldl (fun s e => if e.1 + 32 ≤ len then s.writeLocal .s core (base + e.1) e.2 else s) s

/-- The header of a group's trap record as it stands at launch (R243): `self` names it, and every other field is 0. -/
def launchHeader (g : Group) : Bytes := leBytes 0x48 0 ++ leBytes 8 g.sgk.base ++ leBytes 0x30 0

/-- A group enters the device; its trap record's header is written where its page can be (R243, log 71). -/
def State.placeGroup (s : State) (g : Group) : State :=
  let s' : State := { s with nextId := s.nextId + 1, others := sput s.others s.nextId g }
  (s'.kWrite g 0 (launchHeader g)).2

/-- A team's window cleared and filled, and its groups on the device. -/
def State.placeTeam (s : State) (grid gngx tign die yBase : Nat) (gr : Grid) (t : Team) (seats : List Seat) : State :=
  let s := (s.clearShared t.core t.shBase t.shLen).writeBlocks t.core t.shBase t.shLen gr.blocks
  seats.zipIdx.foldl (fun s e => s.placeGroup (newGroup gr grid gngx tign e.2 s.nextId die yBase t e.1)) s

/-- The grid's context is switched out: its gangs stand aside in the pending list (R345, R350). -/
def State.gridOut (s : State) (n : Nat) : Bool := match s.gridOf n with | some g => s.ctxOut g.ctx | none => true

/-- The gang heads the pending list, or shares no die with any gang ahead of it (R340). -/
def State.mayPlace (s : State) (grid gang : Nat) : Bool :=
  let mask (n : Nat) : Nat := match s.gridOf n with | some g => g.desc.dies | none => 0
  let list := s.launch.pending.filter fun e => !s.gridOut e.1
  list.contains (grid, gang) && (list.takeWhile (· ≠ (grid, gang))).all fun e => mask e.1 &&& mask grid = 0

/-- The gang leaves the pending list and stands among the placed ones. -/
def State.enterGang (s : State) (g : Gang) : State :=
  { s with launch := { s.launch with pending := s.launch.pending.filter (· ≠ (g.grid, g.gngx)),
                                     gangs := s.launch.gangs ++ [g] } }

/-- A saved gang of a grid. -/
def State.savedGang (s : State) (grid gang : Nat) : Option SavedGang :=
  s.launch.saved.find? fun g => g.grid = grid && g.gngx = gang

/-- The gang's place on a die: its Yard window and its teams with their seats. -/
structure GangSeat where
  die : Nat
  yBase : Nat
  teams : List (Team × List Seat)
  deriving DecidableEq, Repr

/-- Where the distributor puts a gang in some room (R341), if it fits. -/
def State.gangSeat (s : State) (d : GangNeed) (r : Room) : Option GangSeat :=
  match s.chooseDie d r with
  | none => none
  | some die => (s.seatGang d die r).map fun e => ⟨die, e.1, e.2⟩

/-- The distributor places a pending gang whole (R222, R341). -/
def execGangPlace (grid gang : Nat) (s : State) : Out :=
  match s.gridOf grid with
  | none => notNow
  | some gr =>
    if !s.mayPlace grid gang ∨ (s.savedGang grid gang).isSome then notNow
    else match s.gangSeat gr.desc.gangNeed s.room with
      | none => notNow
      | some p =>
        let s := s.enterGang ⟨grid, gang, p.die, p.yBase, p.teams.map (·.1), s.steps, false⟩
        let s := s.modGrid grid fun g => { g with placed := g.placed.or (some s.now) }
        let s := s.clearYard p.die p.yBase gr.desc.yard
        .next (p.teams.zipIdx.foldl (fun s e => s.placeTeam grid gang e.2 p.die p.yBase gr e.1.1 e.1.2) s)

/-! ### `grow` (R228, R229) -/

/-- The blocks that a group asks for, with the cycle and the step of its request. -/
def Group.askedGrow (g : Group) : Option (Nat × Nat × Nat) :=
  match g.grow with | .asked n t k => some (n, t, k) | _ => none

/-- The oldest waiting request of a slice (R228): the one that was made first. -/
def State.oldestGrow (s : State) (core slice : Nat) : Option Group :=
  let at_ (g : Group) : Nat := match g.askedGrow with | some (_, _, k) => k | none => 0
  (s.growWaiters core slice).foldl (fun (m : Option Group) g => match m with
    | none => some g
    | some h => some (if at_ g < at_ h then g else h)) none

/-- The oldest request of the slice is granted in this state (R228). -/
def State.growFits (s : State) (core slice : Nat) : Bool :=
  match s.oldestGrow core slice with
  | some g => (match g.askedGrow with | some (n, _, _) => n ≤ s.freeBlocks core slice | none => false)
  | none => false

/-- Freed blocks go to the oldest request of a slice, whole (R228). -/
def execGrowGrant (core slice : Nat) (s : State) : Out :=
  match s.oldestGrow core slice with
  | none => notNow
  | some g =>
    match g.askedGrow with
    | some (n, _, _) =>
      if n ≤ s.freeBlocks core slice then .next (s.modGroup g.gid fun g => { g.grant n with grow := .granted })
      else notNow
    | none => notNow

/-- Every resident group of the core that has a valid slot is held in a `grow` that is not granted now (R229). -/
def State.growStuck (s : State) (core : Nat) : Bool :=
  let l := s.groups.filter fun g => g.coreNo = core && g.resident && (g.slot0.valid || g.slot1.valid)
  !l.isEmpty && (l.all fun g => g.askedGrow.isSome) && (List.range 4).all fun k => !s.growFits core k

/-- The core denies the most recently made request (R229): of requests made in one cycle, that of the higher slice, and on
one slice the last made. -/
def execGrowDeny (core : Nat) (s : State) : Out :=
  if !s.growStuck core then notNow
  else
    let l := s.groups.filter fun g => g.coreNo = core && g.askedGrow.isSome && !g.expired
    let key (g : Group) : Nat × Nat × Nat :=
      match g.askedGrow with | some (_, t, k) => (t, g.slice, k) | none => (0, 0, 0)
    let later (g h : Group) : Bool :=
      (key h).1 < (key g).1 || ((key h).1 = (key g).1
        && ((key h).2.1 < (key g).2.1 || ((key h).2.1 = (key g).2.1 && (key h).2.2 < (key g).2.2)))
    match l.foldl (fun (m : Option Group) g => match m with
        | none => some g | some h => some (if later g h then g else h)) none with
    | some g => .next (s.modGroup g.gid fun g => { g with grow := .denied })
    | none => notNow

/-! ### The watchdog (R232, R233) -/

/-- The count of a group has reached zero: the group ends without a handler (R233). -/
def execWatchdogExpiry (gid : Nat) (s : State) : Out :=
  match s.findGroup gid with
  | none => notNow
  | some g =>
    if gid = 0 ∨ !g.expired ∨ !g.resident ∨ !g.alive ∨ !g.canEnd then notNow
    else
      let shoots := s.shoots.filter fun e => e.2.gid ≠ gid
      let s' : State := { s with shoots := shoots }
      .next (s'.endGroupOf gid ⟨9, 0, false, false, 0, 0, 0⟩)

/-! ### Ends (R234 to R236) -/

/-- A vector register of the group is pending (R24, R234). -/
def State.vectorPending (s : State) (gid : Nat) : Bool :=
  s.ops.any fun e => e.2.gid = gid && e.2.dests.any fun r => match r with | .v _ => true | _ => false

/-- Operations that a group's retirement ends (R234): waits and `cbw`. -/
def Op.endsWithGroup (op : Op) : Bool :=
  match op.work with
  | .wait _ _ _ _ _ _ _ _ _ => true
  | .cbw _ _ _ => true
  | _ => false

/-- A record that was held back goes to the orphan list when its issuer retires (R255). -/
def State.orphanHeld (s : State) (id : Nat) : State :=
  match sfind s.ops id with
  | some op => { s.addOrphan op.grid (op.record true) with ops := sdel s.ops id }
  | none => s

/-- The group leaves its slot and its blocks; its tiles drain until its team releases (R234, R235). -/
def State.removeGroup (s : State) (g : Group) : State :=
  let gone := { g with resident := false, waitingRecs := [] }
  let s := if s.cur.gid = g.gid then { s with cur := Group.vacant } else { s with others := sdel s.others g.gid }
  { s with launch := { s.launch with retired := s.launch.retired ++ [gone] } }

/-- A group whose lanes have all exited retires (R226, R234). -/
def execGroupRetire (gid : Nat) (s : State) : Out :=
  match s.findGroup gid with
  | none => notNow
  | some g =>
    if gid = 0 ∨ g.alive ∨ s.vectorPending gid then notNow
    else
      let ended (op : Op) : Bool := op.gid = gid && op.endsWithGroup
      let ids := (s.ops.filter fun e => ended e.2).map (·.1)
      let s := ids.foldl (fun s i => if (sfind s.ops i).any fun op => op.queue < 6 then s.trace i 5 0 else s) s
      let s := { s with ops := s.ops.filter fun e => !ended e.2, mon := s.mon.filter fun e => !ids.contains e.op,
                        shoots := s.shoots.filter fun e => e.2.gid ≠ gid }
      .next ((g.waitingRecs.foldl State.orphanHeld s).removeGroup g)

/-- A command of the team has not yet written its record (R235). -/
def State.teamBusy (s : State) (grid team : Nat) : Bool :=
  s.ops.any fun e => e.2.grid = grid && e.2.team = team && e.2.queue < 6

/-- The gang's last team has released: its Yard window is free and its grid counts one gang less (R236, R237). -/
def State.releaseGang (s : State) (g : Gang) : State :=
  if g.teams.all (·.released) then
    let s := s.modGrid g.grid fun x => { x with gangsLeft := x.gangsLeft - 1 }
    { s with launch := { s.launch with gangs := s.launch.gangs.filter fun x => !(x.grid = g.grid && x.gngx = g.gngx) } }
  else s

/-- A team releases its window and its tiles (R235). -/
def execTeamRelease (grid gang team : Nat) (s : State) : Out :=
  match s.launch.gangs.find? fun g => g.grid = grid && g.gngx = gang with
  | none => notNow
  | some g =>
    let tpg := g.teams.length
    let mine (x : Group) : Bool := x.grid = grid && x.gngx = gang && x.tign = team
    match g.teams[team]? with
    | none => notNow
    | some t =>
      if t.released ∨ s.groups.any mine ∨ s.teamBusy grid (gang * tpg + team) then notNow
      else
        let g' := { g with teams := modNth g.teams team fun t => { t with released := true } }
        let gangs := s.launch.gangs.map fun x => if x.grid = grid ∧ x.gngx = gang then g' else x
        let s' : State := { s with launch := { s.launch with gangs := gangs,
                                                             retired := s.launch.retired.filter fun x => !mine x } }
        .next (s'.releaseGang g')

end Sys2Proof.Machine
end

