-- ==== Sys2Proof/Machine/Preempt.lean ====
section
/-! DEFINITION. Pre-emption, restore and the switch of a context (R56, R189, R306, R345 to R350). -/

namespace Sys2Proof.Machine

/-! ### Which gang is taken off (R345, R350) -/

/-- The needs of a saved gang: its groups keep their slices and take the blocks that they hold now (R349). -/
def SavedGang.need (x : SavedGang) (d : LaunchDesc) : GangNeed :=
  let seats (i : Nat) : List (Nat × Nat) := (x.groups.filter fun g => g.tign = i).map fun g => (g.slice, g.vblocks)
  ⟨d.dies, d.yard, x.teams.zipIdx.map fun e =>
    if e.1.released then ⟨0, 0, [], true⟩ else ⟨e.1.shLen, e.1.tiles, seats e.2, false⟩⟩

/-- The needs of a pending gang, new or saved. -/
def State.pendingNeed (s : State) (grid gang : Nat) : Option GangNeed :=
  (s.gridOf grid).map fun g => match s.savedGang grid gang with
    | some x => x.need g.desc
    | none => g.desc.gangNeed

/-- The priority number of a grid. -/
def State.prioOf (s : State) (grid : Nat) : Nat := match s.gridOf grid with | some g => g.prio | none => 0

/-- Of two gangs of one die, the first is taken off before the second (R345): the greater priority number, then the later
placement. -/
def State.yieldsBefore (s : State) (x y : Gang) : Bool :=
  s.prioOf y.grid < s.prioOf x.grid || (s.prioOf x.grid = s.prioOf y.grid && y.since < x.since)

/-- The gang that the head of the pending list takes off (R345): where the head cannot be placed, the first to yield on
the die that it would take once the gangs of greater priority numbers were gone. -/
def State.victim (s : State) : Option Gang :=
  match s.launch.pending.find? fun e => !s.gridOut e.1 with
  | none => none
  | some (grid, gang) =>
    match s.pendingNeed grid gang with
    | none => none
    | some need =>
      let below (g : Nat) : Bool := s.prioOf grid < s.prioOf g && !s.servesUpcall g
      if (s.gangSeat need s.room).isSome then none
      else match s.chooseDie need (s.roomBut fun g _ => below g) with
        | none => none
        | some die =>
          (s.launch.gangs.filter fun g => g.die = die && below g.grid).foldl (fun (m : Option Gang) g =>
            match m with
            | none => some g
            | some h => some (if s.yieldsBefore g h then g else h)) none

/-- A placed gang is to be taken off (R345, R350). -/
def State.mustYield (s : State) (x : Gang) : Bool :=
  (s.gridOut x.grid && !s.servesUpcall x.grid) || (match s.victim with | some v => v.grid = x.grid && v.gngx = x.gngx | none => false)

/-! ### Stopping and settling (R346, R347) -/

/-- The groups of a gang on the device. -/
def State.gangGroups (s : State) (grid gang : Nat) : List Group := s.groups.filter fun g => g.grid = grid && g.gngx = gang

/-- An operation of a gang, its retired groups' included. -/
def State.inGang (s : State) (grid gang : Nat) (op : Op) : Bool :=
  op.grid = grid && match s.gridOf grid with | some g => op.team / g.desc.teams = gang | none => false

/-- The operations of a gang. -/
def State.gangOps (s : State) (grid gang : Nat) : List (Nat × Op) := s.ops.filter fun e => s.inGang grid gang e.2

/-- A wait or a `cbw` ends with 0 (R168, R217, R346). -/
def State.cutWait (s : State) (e : Nat × Op) : State :=
  match e.2.work with
  | .wait _ _ _ _ _ _ _ _ _ => s.endWait e.1 0
  | .cbw dst _ _ => (s.report e.1 dst 0 0).completeOp e.1
  | _ => s

/-- Blocks of a granule of `attn` (R205); 0 where it has none. -/
def attnGranule : Nat → Nat
  | 1 => 1 | 2 => 4 | 3 => 16 | _ => 0

/-- A running operation stands at a granule with work left (R189): an `mma` or a `cor` runs from granule to granule. -/
def State.splittable (s : State) (id : Nat) (op : Op) : Bool :=
  match op.work with
  | .mma _ => true
  | .cor w => w.split
  | .attn _ sg _ => (match s.engineOf id with
    | some (_, r) => 0 < r.blocks && sg ≠ 0 && r.blocks % attnGranule sg = 0 && r.running
    | none => false)
  | _ => false

/-- The operation lets its gang be taken off now (R56, R346, R347): no register of a group waits for it, and it can be
settled. The registers of a retired group wait for nothing. -/
def State.letsGo (s : State) (id : Nat) (op : Op) : Bool :=
  (op.dests.isEmpty || (s.findGroup op.gid).isNone)
    && match op.phase with
      | .queued => op.queue ≠ noQueue
      | .leave => true
      | .running => s.splittable id op
      | .logged => true
      | .saved => true
      | .ended => false
      | .heldBack => true

/-- The group stands at a clause boundary with no permutation register pending (R26, R56). -/
def State.offReady (s : State) (g : Group) : Bool := !g.inClause && g.pmReady.all fun e => match e.2 with | some t => t ≤ s.now | none => true

/-- Every group of the gang has stopped, and its operations can be settled (R346). -/
def State.gangStopped (s : State) (grid gang : Nat) : Bool :=
  ((s.gangGroups grid gang).all s.offReady) && (s.gangOps grid gang).all fun e => s.letsGo e.1 e.2

/-- An attention engine gives up its command, whose progress is saved (R302, R306). -/
def State.freeEngine (s : State) (id : Nat) : State :=
  match s.engineOf id with
  | some (k, r) => { s with attn := { s.attn with engines := sdel s.attn.engines k, saved := sput s.attn.saved id r.atGranule } }
  | none => s

/-- Rows or steps that a split command has completed (R254, R430). -/
def State.splitDone (s : State) (id : Nat) (op : Op) : Nat :=
  match s.engineOf id with
  | some (_, r) => (r.rows.filter fun w => w.phase = .over 0).length
  | none => op.done

/-- An operation settled (R347, R348): a running one is split, one that has not started leaves its queue, and a logged one
keeps no grant. -/
def State.settleOp (s : State) (e : Nat × Op) : State :=
  let id := e.1
  let save (s : State) : State :=
    ((s.returnLeave id).freeEngine id).modOp id fun op => { op with phase := .saved, xl := [] }
  match e.2.phase with
  | .running => save (s.trace id 2 (s.splitDone id e.2))
  | .leave => save s
  | .queued => save s
  | .logged => s.returnLeave id
  | _ => s

/-! ### Saving (R348) -/

/-- The entries of a window by offset. -/
def windowOf {α : Type} (m : Sparse α) (lo n : Nat) : Sparse α :=
  (m.filter fun e => lo ≤ e.1 && e.1 < lo + n).map fun e => (e.1 - lo, e.2)

/-- The contents of a team's window, bytes and poison; a released team has none. -/
def State.saveShared (s : State) (t : Team) : Mem × Sparse Bool :=
  if t.released then ([], [])
  else
    let lo := sharedAt t.core t.shBase
    (windowOf s.mem.shared lo t.shLen, windowOf s.mem.sharedPsn (lo / 8) (t.shLen / 8))

/-- The contents of a gang's Yard window. -/
def State.saveYard (s : State) (die base n : Nat) : Mem × Sparse Bool :=
  let lo := yardAt die base
  (windowOf s.mem.yard lo n, windowOf s.mem.yardPsn (lo / 32) (n / 32))

/-- A group off the core: it enters its line again when it is back (R25), from a line fetched anew (R348). -/
def Group.off (g : Group) : Group :=
  { g with resident := false, wait0 := none, wait1 := none, stall := none, runLen := 0,
           slot0 := { g.slot0 with copy := 0 }, slot1 := { g.slot1 with copy := 0 } }

/-- The instruction-buffer lines of a context that no slot points into are gone from some cores (R348). -/
def State.freeLines (s : State) (ctx : Nat) (cores : List Nat) : State :=
  { s with ibuf := s.ibuf.map fun e =>
      (e.1, if cores.contains e.1 then e.2.filter fun l => l.ctx ≠ ctx || s.lineHeld e.1 l else e.2) }

/-- The groups of a gang leave the device. -/
def State.dropGang (s : State) (grid gang : Nat) : State :=
  let mine (g : Group) : Bool := g.grid = grid && g.gngx = gang
  { s with cur := if mine s.cur && s.cur.gid != 0 then Group.vacant else s.cur,
           others := s.others.filter fun e => !mine e.2,
           launch := { s.launch with gangs := s.launch.gangs.filter fun x => !(x.grid = grid && x.gngx = gang) } }

/-- A stopped gang is settled, saved and taken off; it returns to its place in the pending list (R345 to R348). -/
def State.takeOff (s : State) (x : Gang) : State :=
  let yard := match s.gridOf x.grid with | some g => g.desc.yard | none => 0
  let s := (s.gangOps x.grid x.gngx).foldl State.settleOp s
  let groups := ((s.gangGroups x.grid x.gngx).map Group.off).mergeSort fun g h =>
    g.tign < h.tign || (g.tign = h.tign && g.gidx ≤ h.gidx)
  let sv : SavedGang := ⟨x.grid, x.gngx, groups, x.teams, x.yBase, x.teams.map s.saveShared,
    s.saveYard x.die x.yBase yard⟩
  let ctx := match s.gridOf x.grid with | some g => g.ctx | none => 0
  let s := (s.dropGang x.grid x.gngx).freeLines ctx (x.teams.map (·.core))
  let s' : State := { s with launch := { s.launch with saved := s.launch.saved ++ [sv] } }
  s'.pend [(x.grid, x.gngx)]

/-- A monitor wait that sleeps, or a `cbw` wherever it stands: it ends at a pre-emption (R346). -/
def Op.cut (op : Op) : Bool :=
  match op.work with
  | .wait _ _ _ _ _ _ _ _ _ => op.phase = .running
  | .cbw _ _ _ => op.phase ≠ .ended
  | _ => false

/-- The gang's groups are told to stop at their next clause boundary (R346). -/
def State.markLeaving (s : State) (grid gang : Nat) : State :=
  { s with launch := { s.launch with gangs := s.launch.gangs.map fun x =>
      if x.grid = grid ∧ x.gngx = gang then { x with leaving := true } else x } }

/-- The Groom pre-empts a gang (R345 to R348): its groups stop at their next clause boundaries, its waits end, and once all
have stopped it is taken off. A pre-emption that has begun goes on to its end, but rests while a team of the gang has an
upcall to serve (R253). -/
def execPreemptGang (grid gang : Nat) (s : State) : Out :=
  match s.launch.gangs.find? fun g => g.grid = grid && g.gngx = gang with
  | none => notNow
  | some x =>
    if (!x.leaving ∧ !s.mustYield x) ∨ s.servesUpcall grid then notNow
    else
      let waits := (s.gangOps grid gang).filter fun e => e.2.cut
      let s := waits.foldl State.cutWait (s.markLeaving grid gang)
      if s.gangStopped grid gang then .next (s.takeOff x)
      else if waits.isEmpty ∧ x.leaving then notNow
      else .next s

/-! ### Restore (R349) -/

/-- A window moves from one base to another, and a place of it with it. -/
structure Move where
  lo : Nat
  len : Nat
  dst : Nat
  deriving DecidableEq, Repr

/-- A place within the window, its end included, moves with it. -/
def Move.place (m : Move) (x : Nat) : Nat := if m.lo ≤ x ∧ x ≤ m.lo + m.len then x - m.lo + m.dst else x

/-- How the windows of a team move: `.s` and `.y`. -/
structure Moves where
  sh : Move
  yd : Move
  deriving DecidableEq, Repr

/-- A place in a space moves with its window; an address does not move. -/
def Moves.loc (m : Moves) (sp : Space) (x : Nat) : Nat :=
  match sp with
  | .s => m.sh.place x
  | .y => m.yd.place x
  | _ => x

/-- The scales of a chain lie in the team's window (R192). -/
def Moves.scales (m : Moves) (x : ScaleSrc) : ScaleSrc := { x with segB := m.sh.place x.segB }

/-- A command names the places of its windows where they now lie (R349). -/
def Moves.work (m : Moves) : Work → Work
  | .copy ds ss lu dst src n bar => .copy ds ss lu (m.loc ds dst) (m.loc ss src) n (bar.map m.sh.place)
  | .fill ds lu dst pat n bar => .fill ds lu (m.loc ds dst) pat n (bar.map m.sh.place)
  | .gather ds lu n ls bar => .gather ds lu n (ls.map fun l => { l with loc := m.loc ds l.loc }) (bar.map m.sh.place)
  | .scatter ss lu n ls => .scatter ss lu n (ls.map fun l => { l with loc := m.loc ss l.loc })
  | .mma w => .mma { w with aAt := m.sh.place w.aAt, fb := { w.fb with src := m.scales w.fb.src } }
  | .mrd name t f r sat sp dst => .mrd name t f r sat sp (m.loc sp dst)
  | .mwr name t sp src => .mwr name t sp (m.loc sp src)
  | .swarm dst d loc => .swarm dst d (m.sh.place loc)
  | .cbr dst crib loc => .cbr dst crib (m.sh.place loc)
  | w => w

/-- A group's window registers and chain state where its windows now lie (R348). -/
def Moves.group (m : Moves) (g : Group) : Group :=
  { g with sgs := ⟨m.sh.place g.sgs.base, g.sgs.limit⟩, sgy := ⟨m.yd.place g.sgy.base, g.sgy.limit⟩,
           tiles := g.tiles.map fun e => (e.1, { e.2 with scales := m.scales e.2.scales }) }

/-- A group in its new seat. -/
def Group.seated (g : Group) (die : Nat) (x : Seat) : Group :=
  { g with die := die, core := x.core % Config.coresPerDie, slice := x.slice, gslot := x.gslot, resident := true }

/-- The saved entries of a window put back at a base. -/
def putBack {α : Type} [DecidableEq α] (d : α) (m : Sparse α) (lo : Nat) (l : Sparse α) : Sparse α :=
  l.foldl (fun m e => sset d m (lo + e.1) e.2) m

/-- A team's window reloaded. -/
def State.reloadShared (s : State) (t : Team) (l : Mem × Sparse Bool) : State :=
  if t.released then s
  else
    let lo := sharedAt t.core t.shBase
    let s := s.clearShared t.core t.shBase t.shLen
    { s with mem := { s.mem with shared := putBack 0 s.mem.shared lo l.1, sharedPsn := putBack false s.mem.sharedPsn (lo / 8) l.2 } }

/-- A gang's Yard window reloaded. -/
def State.reloadYard (s : State) (die base n : Nat) (l : Mem × Sparse Bool) : State :=
  let lo := yardAt die base
  let s := s.clearYard die base n
  { s with mem := { s.mem with yard := putBack 0 s.mem.yard lo l.1, yardPsn := putBack false s.mem.yardPsn (lo / 32) l.2 } }

/-- The moves of a team's windows. -/
def teamMoves (x : SavedGang) (p : GangSeat) (yard tign : Nat) : Moves :=
  let old := x.teams[tign]?
  let new := p.teams[tign]?.map (·.1)
  let base (t : Option Team) : Nat := match t with | some t => t.shBase | none => 0
  ⟨⟨base old, match old with | some t => t.shLen | none => 0, base new⟩, ⟨x.yBase, yard, p.yBase⟩⟩

/-- The operations of a team go on at its new core: saved commands are back at the heads of their queues, in their order
(R348, R349). -/
def State.reloadOps (s : State) (grid team core : Nat) (m : Moves) : State :=
  let back (op : Op) : Op :=
    if op.grid = grid ∧ op.team = team then
      { op with core := core, work := m.work op.work, lead := s.steps + 1,
                phase := if op.phase = .saved then .queued else op.phase }
    else op
  { s with ops := s.ops.map fun e => (e.1, back e.2) }

/-- A team of a saved gang back on the device, with its retired groups' tiles and its `qfence` entries. -/
def State.reloadTeam (s : State) (x : SavedGang) (p : GangSeat) (yard tign : Nat) (t : Team) (seats : List Seat) : State :=
  let m := teamMoves x p yard tign
  let mine (g : Group) : Bool := g.grid = x.grid && g.gngx = x.gngx && g.tign = tign
  let gs := x.groups.filter mine
  let live := s.liveFences
  let s := s.reloadShared t ((x.shared[tign]?).getD ([], []))
  let s := s.reloadOps x.grid (x.gngx * x.teams.length + tign) t.core m
  let s := (gs.zip seats).foldl (fun (s : State) e =>
    { s with others := sput s.others e.1.gid ((m.group e.1).seated p.die e.2) }) s
  let s := gs.foldl (fun s g => if g.refill then s.refillGroup g.gid else s) s
  let fence (f : QFence) : QFence :=
    if (gs ++ s.launch.retired.filter mine).any fun g => g.gid = f.gid then { f with core := t.core, lead := s.steps + 1 } else f
  { s with qfences := live.map fence,
           launch := { s.launch with retired := s.launch.retired.map fun g => if mine g then m.group g else g } }

/-- A saved gang is placed again, whole (R349). Nothing of what its groups have read or written is older in the read buffer
of its die (R261, R265). -/
def execGangRestore (grid gang : Nat) (s : State) : Out :=
  match s.gridOf grid, s.savedGang grid gang with
  | some gr, some x =>
    if !s.mayPlace grid gang then notNow
    else match s.gangSeat (x.need gr.desc) s.room with
      | none => notNow
      | some p =>
        let s := s.enterGang ⟨grid, gang, p.die, p.yBase, p.teams.map (·.1), s.steps, false⟩
        let s := { s with launch := { s.launch with saved := s.launch.saved.filter fun y => !(y.grid = grid && y.gngx = gang) } }
        let s := (s.dropDie p.die).reloadYard p.die p.yBase gr.desc.yard x.yard
        .next (p.teams.zipIdx.foldl (fun s e => s.reloadTeam x p gr.desc.yard e.2 e.1.1 e.1.2) s)
  | _, _ => notNow

/-! ### Contexts (R350) -/

/-- A context switched out, or let back. -/
def State.switchCtx (s : State) (ctx : Nat) (out : Bool) : Out :=
  match sfind s.xlate.ctxs ctx with
  | none => notNow
  | some c =>
    if c.switchedOut = out then notNow
    else .next { s with xlate := { s.xlate with ctxs := sput s.xlate.ctxs ctx { c with switchedOut := out } } }

/-- System software switches a context out (R350): its gangs are pre-empted and its queues rest. -/
def execContextSwitch (ctx : Nat) (s : State) : Out := s.switchCtx ctx true

/-- System software lets a context back (R345, R350). -/
def execContextLetBack (ctx : Nat) (s : State) : Out := s.switchCtx ctx false

end Sys2Proof.Machine
end

