-- ==== Sys2Proof/Machine/Paddock.lean ====
section
/-! DEFINITION. The Paddock: episodes, pens and Cribs (R407 to R420). -/

namespace Sys2Proof.Machine

/-! ### Queues -/

/-- The Crib is idle (R416): it runs no episode and is not closed. -/
def State.cribIdle (s : State) (crib : Nat) (c : Crib) : Bool := !c.closed && (s.episodeOf crib).isNone

/-- The Crib may append a record of its own, other than KILLED (R413). -/
def Crib.room (c : Crib) : Bool := c.inb.length ≤ 15

/-- The head outbound message leaves, and the next one reaches the head. -/
def State.popOut (s : State) (crib : Nat) : State :=
  match sfind s.pad.cribs crib with
  | some c => s.setCrib crib { c with out := c.out.drop 1, image := none, headAt := s.now }
  | none => s

/-- A REFUSED or NOEP record about an outbound message (R411). -/
def cribRecord (kind cause : Nat) (m : Bytes) : Bytes :=
  cribMessage (msgTag m) kind 0 0 (leBytes 1 cause ++ leBytes 3 0 ++ m.take 4 ++ leBytes 40 0)

/-- The head message as a record about it takes it: of one that is uncorrectable, its sequence number and a tag that is a free
value (R411, R463, log 63). -/
def State.headBytes (s : State) (c : Crib) (m : Bytes) : Bytes × State :=
  if m.isEmpty then
    let (tag, s) := s.drawBytes 4
    (leBytes 4 c.headSeq ++ tag ++ leBytes 56 0, s)
  else (m, s)

/-- The number of the episode that a Crib runs. -/
def State.epnoOf (s : State) (crib : Nat) : Nat := match sfind s.pad.cribs crib with | some c => c.epno | none => 0

/-! ### The life of an episode -/

/-- The fields of a START (R411). -/
structure StartFields where
  image : Nat
  len : Nat
  entry : Nat
  budget : Nat
  mode : Nat
  wlen : Nat
  deriving DecidableEq, Repr

def startFields (m : Bytes) : StartFields :=
  ⟨fieldAt m 16 8, fieldAt m 24 4, fieldAt m 28 4, fieldAt m 32 8, fieldAt m 40 1, fieldAt m 44 4⟩

/-- A START keeps its table (R411). -/
def startOk (m : Bytes) (wmax : Nat) : Bool :=
  let f := startFields m
  f.image % 64 = 0 && f.len % 64 = 0 && 64 ≤ f.len && f.len ≤ 524288 && f.entry % 2 = 0 && f.entry < f.len && f.budget ≠ 0
    && f.mode ≤ 1 && fieldAt m 41 3 = 0 && f.wlen % 65536 = 0 && f.wlen ≤ wmax

/-- The Paddock core that takes the next START: the lowest free one (R414). -/
def State.freePaddock (s : State) : Option Nat :=
  (List.range 256).find? fun n => (sfind s.pad.eps n).isNone && !sget false s.pad.retired n

/-- No other waiting START comes before that of a Crib (R414). -/
def State.startTurn (s : State) (crib : Nat) (c : Crib) : Bool :=
  s.pad.cribs.all fun e => e.2.image.isNone || e.1 = crib || c.headAt < e.2.headAt || (c.headAt = e.2.headAt && crib < e.1)

/-- An episode at its start (R408): the START stands in `rxbuf`. -/
def newEpisode (crib : Nat) (m img : Bytes) : Episode :=
  let f := startFields m
  { crib := crib, wlen := f.wlen, budget := f.budget, straddle := f.mode = 1, straddled := false, startTag := msgTag m,
    tag := msgTag m, open_ := none, overdue := false, popped := false, txbuf := leBytes 64 0, txst := 0, mem := ofDense 0 0 img,
    x := [(2, 0x00080000), (10, 0x10000080)], f := [], fcsr := 0, resv := none, pc := BitVec.ofNat 64 f.entry, cycle := 0, instret := 0 }

/-- A START at the head of an idle Crib is refused (R411, R414). -/
def State.refuseStart (s : State) (crib : Nat) (c : Crib) (m : Bytes) (cause : Nat) : Out :=
  if c.room then .next ((s.popOut crib).appendIn crib (cribRecord 9 cause m)) else notNow

/-- The Crib deals with the START at its head (R414): it checks it and reads its image, and once that is done a free core
takes it. -/
def execCribStart (crib : Nat) (s : State) : Out :=
  match sfind s.pad.cribs crib with
  | none => notNow
  | some c =>
    match c.out with
    | [] => notNow
    | m :: _ =>
      if !s.cribIdle crib c ∨ msgKind m ≠ 1 then notNow
      else match c.image with
        | none =>
          if !startOk m c.wmax then s.refuseStart crib c m 1
          else match s.groomRead c.ctx (startFields m).image (startFields m).len with
            | none => s.refuseStart crib c m 2
            | some (b, t) =>
              if t.sweep.touched = s.sweep.touched then .next (t.setCrib crib { c with image := some b })
              else s.refuseStart crib c m 2
        | some img =>
          match s.freePaddock with
          | none => notNow
          | some core =>
            if !s.startTurn crib c then notNow
            else
              let s := s.setCrib crib { c with image := none, epno := c.epno + 1 }
              .next ((s.setEpisode core (newEpisode crib m img)).openStep crib)

/-- A WIDEN at the head of a running episode's Crib lengthens its window (R411). -/
def execWiden (crib : Nat) (s : State) : Out :=
  match s.episodeOf crib, sfind s.pad.cribs crib with
  | some (core, e), some c =>
    match c.out with
    | m :: _ =>
      if msgKind m ≠ 3 then notNow
      else
        let e := { e with wlen := min c.wmax (max e.wlen (fieldAt m 16 4)) }
        .next (((s.setEpisode core e).popOut crib).openStep crib)
    | [] => notNow
  | _, _ => notNow

/-- An idle Crib removes a head message that is no START (R416). -/
def execCribIdleDiscard (crib : Nat) (s : State) : Out :=
  match sfind s.pad.cribs crib with
  | none => notNow
  | some c =>
    match c.out with
    | m :: _ =>
      if !s.cribIdle crib c ∨ msgKind m = 1 ∨ !c.room then notNow
      else
        let (m, s) := s.headBytes c m
        .next ((s.popOut crib).appendIn crib (cribRecord 10 0 m))
    | [] => notNow

/-! ### Stores of the episode (R412) -/

/-- A successful append of an episode (R411, R415, R417): it closes the step whose message has been popped, and END ends
the episode. -/
def State.appendOf (s : State) (core : Nat) (e : Episode) : State :=
  let k := msgKind e.txbuf
  let m := cribMessage e.tag k (s.episodeFlags e) (s.epnoOf e.crib) (e.txbuf.drop 16)
  let e := { e with txst := 0, open_ := if e.popped then none else e.open_, popped := false }
  let s := (s.setEpisode core e).appendIn e.crib m
  if k = 2 then s.scrubPen core e else s.openStep e.crib

/-- A store to `txgo` (R411 to R413). -/
def State.storeTxgo (s : State) (core : Nat) : Out :=
  match sfind s.pad.eps core with
  | none => notNow
  | some e =>
    match sfind s.pad.cribs e.crib with
    | none => notNow
    | some c =>
      let k := msgKind e.txbuf
      if e.overdue then .next (s.killEpisode core e 1)
      else if 8 ≤ k ∧ k ≤ 10 then .next (s.setEpisode core { e with txst := 4 })
      else if 16 ≤ c.inb.length then .next (s.setEpisode core { e with txst := 12 })
      else .next (s.appendOf core e)

/-- An episode stores to `txgo` (R412). -/
def execTxgo (core : Nat) (s : State) : Out := s.storeTxgo core

/-- A store to `rxpop` (R412, R419): a deliverable head leaves; at one that is uncorrectable the episode is killed (R463). -/
def State.storeRxpop (s : State) (core : Nat) : Out :=
  match sfind s.pad.eps core with
  | none => notNow
  | some e =>
    match sfind s.pad.cribs e.crib with
    | none => notNow
    | some c =>
      match c.out with
      | [] => .next (if e.overdue then s.killEpisode core e 1 else s)
      | m :: _ =>
        if e.overdue then .next (s.killEpisode core e 1)
        else if m.isEmpty then .next (s.killEpisode core e 5)
        else if !e.delivers m then .next s
        else
          let e := { e with tag := msgTag m, popped := e.open_.isSome,
                            straddled := e.straddled || (e.straddle && msgTag m ≠ e.startTag) }
          .next (((s.setEpisode core e).popOut e.crib).openStep e.crib)

/-- An episode stores to `rxpop` (R412). -/
def execRxpop (core : Nat) (s : State) : Out := s.storeRxpop core

/-! ### Ends from outside (R418, R420) -/

/-- The step counter of an episode has reached zero (R418). -/
def execStepBudgetExpiry (core : Nat) (s : State) : Out :=
  match sfind s.pad.eps core with
  | none => notNow
  | some e => if e.open_ = some 0 then .next (s.killEpisode core e 1) else notNow

/-- A Paddock core shows a hard error (R420, R470): its episode is killed, and the core is retired at once. -/
def execPaddockCoreHardError (core : Nat) (s : State) : Out :=
  if 256 ≤ core ∨ sget false s.pad.retired core ∨ s.mgmt.mode = 2 then notNow
  else
    let s := match sfind s.pad.eps core with | some e => s.killEpisode core e 2 | none => s
    .next { s with pad := { s.pad with retired := sput s.pad.retired core true },
                   mgmt := { s.mgmt with retired := s.mgmt.retired ++ [⟨2, 0, core⟩] } }

/-! ### The Crib page (R412) -/

/-- Deliverable messages from the head up to the first held one (R412 `rxcnt`); a WIDEN is neither (R411). -/
def Episode.rxcnt (e : Episode) (out : List Bytes) : Nat := ((out.takeWhile fun m => !e.holds m).filter e.delivers).length

/-- What a load of the Crib page of a core returns (R412); none where it runs no episode. -/
def State.cribPage (s : State) (core : Nat) : Option Bytes :=
  match sfind s.pad.eps core with
  | none => none
  | some e =>
    match sfind s.pad.cribs e.crib with
    | none => none
    | some c =>
      let rx := match c.out with | m :: _ => if e.delivers m then m else leBytes 64 0 | [] => leBytes 64 0
      let bit (b : Bool) (n : Nat) : Nat := if b then 2 ^ n else 0
      let ep := c.epno % 2 ^ 32 + e.crib % 2048 * 2 ^ 32 + bit e.straddle 48 + bit e.straddled 49 + bit (s.headHeld e) 50
      some (e.txbuf ++ leBytes 8 0 ++ leBytes 8 e.txst ++ leBytes 48 0 ++ rx ++ leBytes 8 0 ++ leBytes 8 (e.rxcnt c.out)
        ++ leBytes 8 ep ++ leBytes 8 (e.startTag + e.tag * 2 ^ 32) ++ leBytes 8 e.wlen
        ++ leBytes 8 (e.open_.getD e.budget) ++ leBytes (4096 - 240) 0)

/-- A store of an episode to its Crib page (R407, R412): aligned stores of 1, 2, 4 or 8 bytes reach `txbuf`, and aligned
ones of 8 bytes the rest, where a read-only field keeps its value; any other store is an access fault. -/
def State.storePage (s : State) (core off : Nat) (data : Bytes) : Out :=
  let n := data.length
  match sfind s.pad.eps core with
  | none => notNow
  | some e =>
    if (n = 1 ∨ n = 2 ∨ n = 4 ∨ n = 8) ∧ off % n = 0 ∧ off + n ≤ 64 then
      .next (s.setEpisode core { e with txbuf := e.txbuf.take off ++ data ++ e.txbuf.drop (off + n) })
    else if n = 8 ∧ off % 8 = 0 ∧ off < 4096 then
      if off = 0x40 then s.storeTxgo core else if off = 0xC0 then s.storeRxpop core else .next s
    else .next (s.killEpisode core e 2)

end Sys2Proof.Machine
end

