-- ==== Sys2Proof/Machine/Teardown.lean ====
section
/-! DEFINITION. The teardown of a context (R350, R361, R389, R400, R420), and a thermal trip (R467). -/

namespace Sys2Proof.Machine

/-- A command ends with `ABORT` (R163, R185, R350); a record that finds no free ring entry goes to the orphan list. -/
def State.abortOp (s : State) (id : Nat) : State :=
  let s := s.modOp id fun op => { op with status := 3, phase := .ended, faddr := 0, outs := [] }
  let s := s.completeOp id
  match sfind s.ops id with
  | some op => { s.addOrphan op.grid (op.record (s.issuerExited op.gid)) with ops := sdel s.ops id }
  | none => s

/-- Every command of the context ends, and with them its waits, its engines' work and its upcalls. -/
def State.abortOps (s : State) (ctx : Nat) : State :=
  let ids := (s.ops.filter fun e => e.2.ctx = ctx).map (·.1)
  let s := ids.foldl State.abortOp s
  let mine (id : Nat) : Bool := ids.contains id
  { s with mon := s.mon.filter fun e => !mine e.op,
           attn := { s.attn with engines := s.attn.engines.filter fun e => !mine e.2.op,
                                 saved := s.attn.saved.filter fun e => !mine e.1 },
           xlate := { s.xlate with upcalls := s.xlate.upcalls.filter fun u => u.ctx ≠ ctx } }

/-- A job of the context ends with status 3 (R399, R400). -/
def State.abortJob (s : State) (stack : Nat) (j : ShedJob) : State :=
  (s.jobFlag stack j (cardFields j.card.bytes) 3).getD (s.jobOrphan j 3 (cardFields j.card.bytes).flag)

/-- The running jobs and the queued cards of the context end. -/
def State.abortJobs (s : State) (ctx : Nat) : State :=
  let jobs := s.shed.jobs.filter fun e => e.2.card.ctx = ctx
  let s := jobs.foldl (fun s e => ((s.traceJob e.1 e.2 5 3).abortJob (e.1 / 8) e.2).freeJob e.1 e.2) s
  let cards (e : Nat × List ShedCard) : List (Nat × ShedCard) := (e.2.filter fun c => c.ctx = ctx).map fun c => (e.1, c)
  let queued := (s.shed.queues.map cards).flatten
  let s := queued.foldl (fun s e =>
    (s.abortJob e.1 ⟨0, e.2, .running, s.now, 0, 0, 3, 0, [], []⟩).modGrid e.2.grid fun g => { g with jobs := g.jobs - 1 }) s
  { s with shed := { s.shed with queues := s.shed.queues.map fun e => (e.1, e.2.filter fun c => c.ctx ≠ ctx) } }

/-- The armed registrations of the context are cancelled, and those still installing are gone (R350, R389). -/
def State.abortSweeps (s : State) (ctx : Nat) : State :=
  let regs := s.sweep.regs.filter fun e => !(e.2.ctx = ctx && e.2.phase = .installing)
  let s := { s with sweep := { s.sweep with regs := regs } }
  ((regs.filter fun e => e.2.ctx = ctx && e.2.phase = .armed).foldl (fun s e => s.cancelSweep e.1 e.2) s).sweepDue

/-- The episodes of the context are killed without a record, and its Cribs are unassigned (R420). -/
def State.abortCribs (s : State) (ctx : Nat) : State :=
  let cribs := s.pad.cribs.filter fun e => e.2.ctx = ctx
  let eps := s.pad.eps.filter fun e => cribs.any fun c => c.1 = e.2.crib
  let s := eps.foldl (fun s e => s.scrubPen e.1 e.2) s
  { s with pad := { s.pad with cribs := s.pad.cribs.filter (fun e => e.2.ctx ≠ ctx),
                               taken := s.pad.taken.filter fun k => !(cribs.any fun c => c.1 = k) } }

/-- A launch that has not ended is aborted (R339, R350, R426). -/
def State.abortGrid (s : State) (n : Nat) (gr : Grid) : State :=
  let s := ((s.writeCensus n gr.census).writeHeader n gr (gr.head 3 s.now)).complete gr.ctx gr.cw gr.cv 3 0 gr.irq
  (s.closeGrid n).modGrid n fun g => { g with aborted := true }

/-- A grid of the context. -/
def State.gridOfCtx (s : State) (ctx n : Nat) : Bool := match s.gridOf n with | some g => g.ctx = ctx | none => false

/-- The groups and gangs of the context leave the device, saved ones included (R350). -/
def State.dropCtxGangs (s : State) (ctx : Nat) : State :=
  let mine (n : Nat) : Bool := s.gridOfCtx ctx n
  let gone (g : Group) : Bool := g.gid != 0 && g.ctx = ctx
  let ids := (s.groups.filter gone).map (·.gid)
  { s with cur := if gone s.cur then Group.vacant else s.cur, others := s.others.filter fun e => !gone e.2,
           shoots := s.shoots.filter fun e => !ids.contains e.2.gid,
           launch := { s.launch with pending := s.launch.pending.filter fun e => !mine e.1,
                                     gangs := s.launch.gangs.filter fun g => !mine g.grid,
                                     saved := s.launch.saved.filter fun g => !mine g.grid,
                                     retired := s.launch.retired.filter fun g => g.ctx ≠ ctx } }

/-- The context is no longer registered with the device: neither its table, nor its launch queues and NVMe pairs. -/
def State.dropCtx (s : State) (ctx : Nat) : State :=
  let pairs := s.nvme.pairs.filter fun e => e.2.ctx ≠ ctx
  { s with xlate := { s.xlate with ctxs := sdel s.xlate.ctxs ctx },
           launch := { s.launch with queues := s.launch.queues.filter fun e => e.2.ctx ≠ ctx },
           nvme := ⟨pairs, s.nvme.reqs.filter fun r => r.ctx ≠ ctx⟩ }

/-- A context torn down (R350). -/
def State.tearDown (s : State) (ctx : Nat) : State :=
  let s := ((((s.abortOps ctx).abortJobs ctx).abortSweeps ctx).abortCribs ctx).dropCtxGangs ctx
  let grids := s.launch.grids.filter fun e => e.2.ctx = ctx && !e.2.ended
  (grids.foldl (fun s e => s.abortGrid e.1 e.2) s).dropCtx ctx

/-- The flag of a registration of the context is still to be written (R381). -/
def State.flagsDue (s : State) (ctx : Nat) : Bool :=
  s.sweep.due.any fun d => match d with
    | .flag k => (match sfind s.sweep.regs k with | some r => r.ctx = ctx | none => false)
    | .orphan _ _ _ _ => false

/-- The context's registrations can be cancelled as `swcan` would (R215, R384, R389): no stack of an armed one is in
self-refresh, and their flags can be written. -/
def State.sweepsCancel (s : State) (ctx : Nat) : Bool :=
  (s.sweep.regs.all fun e => e.2.ctx ≠ ctx || e.2.phase ≠ .armed || e.2.stacks.all fun n => !(s.stackCtl n).asleep)
    && !((s.abortSweeps ctx).flagsDue ctx)

/-- System software tears a context down (R345, R350), once its registrations can be cancelled. -/
def execContextTeardown (ctx : Nat) (s : State) : Out :=
  if (sfind s.xlate.ctxs ctx).isNone ∨ !s.sweepsCancel ctx then notNow else .next (s.tearDown ctx)

/-- A thermal trip (R467): every context is torn down, and the device stops: no die is in use any more, and the fabric port is
down. -/
def State.trip (s : State) : State :=
  let s := (s.xlate.ctxs.map (·.1)).foldl State.tearDown s
  { s with mgmt := { s.mgmt with tripped := true, mode := 2, dies := 0 },
           fabric := { s.fabric with up := false, waiting := 0, writes := [], reads := [], contribs := [] } }

end Sys2Proof.Machine
end

