-- ==== Sys2Proof/Machine/SoftError.lean ====
section
/-! DEFINITION. What follows when a check finds an error in a unit of storage (R460 to R465, R469, R470; log 63). -/

namespace Sys2Proof.Machine

def State.setStack (s : State) (n : Nat) (c : StackCtl) : State :=
  { s with sweep := { s.sweep with ctls := sput s.sweep.ctls n c } }

/-- The corrected errors of a row within the last 24 hours, and whether it has shown an uncorrectable one (R469). -/
def State.rowErrors (s : State) (row : Nat) : List Nat × Bool :=
  let (ts, bad) := sget ([], false) (s.stackCtl (rowStack row)).rowErrs row
  (ts.filter fun t => s.wall < t + dayCycles, bad)

/-- An error that a row has shown (R469). -/
def State.noteRow (s : State) (row : Nat) (fatal : Bool) : State :=
  let n := rowStack row
  let c := s.stackCtl n
  let (ts, bad) := s.rowErrors row
  s.setStack n { c with rowErrs := sput c.rowErrs row (if fatal then (ts, true) else (s.wall :: ts, bad)) }

/-- A row is due for repair (R469): one uncorrectable error, or three corrected ones within 24 hours. -/
def State.repairDue (s : State) (row : Nat) : Bool := (s.rowErrors row).2 || 3 ≤ (s.rowErrors row).1.length

/-- An error in a line of HBM (R460): one that cannot be corrected leaves the line poisoned in DRAM. -/
def State.hbmError (s : State) (line : Nat) (fatal : Bool) (ctx : Nat) : State :=
  let s := (s.noteRow (line / 16) fatal).noteError levelHbm fatal (64 * line) ctx
  if fatal then { s with mem := { s.mem with hbmPsn := sput s.mem.hbmPsn line true } } else s

/-- An uncorrectable error in a register or a tile of a core (R470). -/
def State.noteCore (s : State) (core : Nat) : State :=
  { s with mgmt := { s.mgmt with regErrs := s.mgmt.regErrs ++ [(core, s.wall)] } }

/-- A unit of an element as a log record names it (R465, log 63): the core or Crib that holds it, its owner there, and its
number. -/
def unitName (holder owner n : Nat) : Nat := holder + owner * 2 ^ 16 + n * 2 ^ 32

/-- A register file's number of a register: its file, then its number there. -/
def RegRef.unit : RegRef → Nat
  | .p n => n | .eta n => 16 + n | .pm n => 32 + n | .s n => 256 + n | .a n => 512 + n | .v n => 768 + n

/-- An error in a register or a predicate of a group (R460, R462): one that cannot be corrected ends the group without a
handler. -/
def State.regError (s : State) (gid : Nat) (r : RegRef) (fatal : Bool) : State :=
  match s.findGroup gid with
  | none => s
  | some g =>
    let s := s.noteError levelRegs fatal (unitName g.coreNo g.gslot r.unit) g.ctx
    if !fatal then s
    else
      let s := s.noteCore g.coreNo
      if g.alive then s.endGroupOf gid ⟨12, 3, false, false, 0, 0, 0⟩ else s

/-- An error in a row segment of a tile (R460), a retired group's too while commands of it run: a command that reads it ends
with status 2. -/
def State.tileError (s : State) (gid key : Nat) (fatal : Bool) : State :=
  match s.tileGroup gid with
  | none => s
  | some g =>
    let s := s.noteError levelRegs fatal (unitName g.coreNo g.gslot (1024 + key)) g.ctx
    if !fatal then s
    else (s.noteCore g.coreNo).setTile gid key { s.tileOf gid key with bad := true }

/-- A list of a translation unit without one of its entries. -/
def Tlb.forget (t : Tlb) (list n : Nat) : Tlb :=
  match list with
  | 0 => { t with small := t.small.eraseIdx n }
  | 1 => { t with large := t.large.eraseIdx n }
  | _ => { t with walk := t.walk.eraseIdx n }

/-- An error in a word of a message in a Crib's queue (R460, R463): an entry that cannot be corrected is left empty, and is found
when it reaches the head. -/
def State.cribError (s : State) (crib : Nat) (out : Bool) (n : Nat) (fatal : Bool) : State :=
  match sfind s.pad.cribs crib with
  | none => s
  | some c =>
    if (if out then c.out else c.inb).length ≤ n then s
    else
      let s := s.noteError levelPadd fatal (unitName crib (if out then 1 else 2) n) c.ctx
      if !fatal then s
      else s.setCrib crib (if out then { c with out := c.out.set n [] } else { c with inb := c.inb.set n [] })

/-- An error in a word of a Paddock core's local memory (R460): one that cannot be corrected kills the episode with reason 5. -/
def State.paddError (s : State) (core word : Nat) (fatal : Bool) : State :=
  match sfind s.pad.eps core with
  | none => s
  | some e =>
    let s := s.noteError levelPadd fatal (unitName core 0 word) (match sfind s.pad.cribs e.crib with | some c => c.ctx | none => 0)
    if fatal then s.killEpisode core e 5 else s

/-- An uncorrectable error in a Shed core's own state (R470): the core is retired at once, and its job ends with status 2. -/
def State.shedError (s : State) (stack core : Nat) : State :=
  let key := shedKey stack core
  if 12 ≤ stack ∨ 8 ≤ core ∨ sget false s.shed.retired key then s
  else
    let s : State := { s with shed := { s.shed with retired := sput s.shed.retired key true },
                              mgmt := { s.mgmt with retired := s.mgmt.retired ++ [⟨1, stack / 3, stack % 3 * 8 + core⟩] } }
    let job := sfind s.shed.jobs key
    let s := s.logError levelShed key (match job with | some j => j.card.ctx | none => 0)
    match job with
    | none => s
    | some j =>
      let s : State := { s with leave := { s.leave with waiting := s.leave.waiting.filter (· ≠ j.id) } }
      s.setShedJob key { j with phase := .running, status := if j.status = 0 then 2 else j.status }

/-- A check finds an error (R460). -/
def State.upset (s : State) : Upset → State
  | .hbm line fatal ctx => if line * 64 < Config.regions * Config.regionBytes then s.hbmError line fatal ctx else s
  | .yard word ctx =>
    let s := s.noteError levelYard true word ctx
    { s with mem := { s.mem with yardPsn := sput s.mem.yardPsn word true } }
  | .shared word fatal ctx =>
    let s := s.noteError levelShared fatal word ctx
    if fatal then { s with mem := { s.mem with sharedPsn := sput s.mem.sharedPsn word true } } else s
  | .reg gid r fatal => s.regError gid r fatal
  | .tile gid key fatal => s.tileError gid key fatal
  | .ibuf core line bit =>
    s.setIbuf core ((s.ibufOf core).map fun e =>
      if e.line = line then { e with data := e.data ^^^ BitVec.ofNat 512 (2 ^ (bit % 512)) } else e)
  | .xlat core list n => (s.noteError levelXlat false core 0).setTlb core ((s.tlb core).forget list n)
  | .padd core word fatal => s.paddError core word fatal
  | .crib crib out n fatal => s.cribError crib out n fatal
  | .shed stack core => s.shedError stack core

end Sys2Proof.Machine
end

