-- ==== Sys2Proof/Machine/Refresh.lean ====
section
/-! DEFINITION. The stacks' controllers: refresh slots (R367), sensors (R368, R467, R468), self-refresh (R383 to R385), the
patrol scrub (R466) and row repair (R469). -/

namespace Sys2Proof.Machine

/-- Rows of one bank (R362). -/
def bankRows : Nat := 36864

/-- The DRAM row number of a row of a bank (R351, R362): its region, its row index, its pseudo-channel and its bank. -/
def globalRow (stack channel bank row : Nat) : Nat :=
  (row / 1024 * 12 + stack) * 2 ^ 20 + row % 1024 * 1024 + channel * 16 + bank

/-- A stack serves requests: its die is in use, and it is not in self-refresh. -/
def State.stackAwake (s : State) (stack : Nat) : Bool := stack < 12 && s.stackUsed stack && !(s.stackCtl stack).asleep

/-- A period ends (R367), and with it a regime that a sample has left (R368). -/
def StackCtl.nextPeriod (c : StackCtl) : StackCtl :=
  { c with bank := 0, period := c.period + 1, hot := c.hot != c.change, change := false }

/-- The access has been issued and has not yet been performed (R383). -/
def Op.underway (op : Op) : Bool :=
  op.phase = .queued && match op.work with
    | .atomic sp _ _ _ _ _ _ _ => sp = .g || sp = .k
    | .wait sp _ _ _ _ _ _ _ _ => sp = .g || sp = .k
    | .wake sp _ _ _ _ _ => sp = .g || sp = .k
    | _ => false

/-- A virtual address lies in a stack, as the page tables stand. -/
def State.lies (s : State) (ctx stack va : Nat) : Bool :=
  match sfind s.xlate.ctxs ctx with
  | none => false
  | some c =>
    match (walkFrom none ctx va 3 c.root s).1 with
    | .leaf level e =>
      let pa := homePa (bits e 51 16 * 65536 + va % pageBytes level)
      isDram pa && stackOf pa = stack
    | .fault _ => false

/-- The access is under way toward a stack (R383). -/
def State.toward (s : State) (stack : Nat) (op : Op) : Bool :=
  op.underway && match op.work with
    | .atomic _ _ _ _ _ _ _ lanes => (lanes.drop op.progress).any fun l => s.lies op.ctx stack l.loc
    | .wait _ _ _ _ _ _ loc _ _ => s.lies op.ctx stack loc
    | .wake _ _ _ _ loc _ => s.lies op.ctx stack loc
    | _ => false

/-- The closing notice of a stack (R383): what has been issued toward it before is still performed. -/
def State.notice (s : State) (stack : Nat) (c : StackCtl) : StackCtl :=
  { c with closing := true, drain := (s.ops.filter fun e => s.toward stack e.2).map (·.1) }

/-- The drain is over (R383). -/
def State.drained (s : State) (c : StackCtl) : Bool :=
  c.drain.all fun i => match sfind s.ops i with | some op => !op.underway | none => true

/-- The refresh slot of a bank in every pseudo-channel of a stack (R367): each row takes the live functions that cover
it (R375, R376), and the next bank, or bank 0 of the next period, comes next. -/
def execRefreshSlot (stack : Nat) (s : State) : Out :=
  if !s.stackAwake stack then notNow
  else
    let c := s.stackCtl stack
    let row := (c.period + 2304 * c.bank) % bankRows
    let s := (List.range 64).foldl (fun s ch => refreshRow s (globalRow stack ch c.bank row)) s
    let c' := if c.bank < 15 then { c with bank := c.bank + 1 } else c.nextPeriod
    .next (s.setStack stack c')

/-- A sample of a stack's sensor (R368, R467, R468): the refresh regime to come, the notice above 95 °C, the count of samples below
90 °C in self-refresh, and the trip above 110 °C. -/
def execStackSensorSample (stack : Nat) (temp : Int) (s : State) : Out :=
  if 12 ≤ stack ∨ !s.stackUsed stack then notNow
  else
    let c := s.stackCtl stack
    let c := if c.asleep then { c with cool := if temp < 90 then c.cool + 1 else 0 }
      else if 95 < temp ∧ !c.closing then s.notice stack c else c
    let s := s.setStack stack { c with temp := temp, change := c.change || c.hot != decide (85 < temp) }
    .next (if 110 < temp then s.trip else s)

/-- A stack enters self-refresh after its notice and the drain (R383): its period counter stops. Above 95 °C it is in the hot
regime (R468). -/
def execSelfRefreshEntry (stack : Nat) (s : State) : Out :=
  let c := s.stackCtl stack
  if !s.stackAwake stack ∨ !c.closing ∨ !s.drained c then notNow
  else .next (s.setStack stack { c with asleep := true, closing := false, drain := [], cool := 0, since := s.now, hot := true,
                                          change := false })

/-- The time of a stack's self-refresh added to a registration, whose flag may still be due when it is over (R381, R385). -/
def SweepReg.extend (r : SweepReg) (stack t0 t1 : Nat) : SweepReg :=
  if r.stacks.contains stack ∧ r.phase ≠ .installing then
    { r with ext := sput r.ext stack (sget 0 r.ext stack + (t1 - max t0 r.armedAt)) }
  else r

/-- The demand activations of the `swreq` commands that waited for a stack, in the order of their hand-over (R215, R384). -/
def State.resumeDemands (s : State) (stack : Nat) : State :=
  s.ops.foldl (fun s e =>
    match e.2.work with
    | .sweep 1 _ hdl =>
      match e.2.phase, sfind s.sweep.regs (sweepKey e.2.ctx hdl) with
      | .running, some r => if r.stacks.contains stack ∧ r.phase = .armed then s.demandSweep r else s
      | _, _ => s
    | _ => s) s

/-- A stack leaves self-refresh (R385, R467): the time is added to the extensions, the flags of the registrations that are
still applying are written (R381), and the `swreq` commands that wait for the stack go on. -/
def execSelfRefreshExit (stack : Nat) (s : State) : Out :=
  let c := s.stackCtl stack
  if !c.asleep ∨ c.cool < 10 ∨ !s.stackUsed stack then notNow
  else
    let s := s.setStack stack { c with asleep := false, cool := 0 }
    let regs := s.sweep.regs.map fun e => (e.1, e.2.extend stack c.since s.now)
    let due := (regs.filter fun e => e.2.phase = .armed && !e.2.desc.rep && e.2.stacks.contains stack).map fun e =>
      SweepDue.flag e.1
    let s : State := { s with sweep := { s.sweep with regs := regs, due := s.sweep.due ++ due } }
    .next (s.resumeDemands stack)

/-- A scrub read of a pseudo-channel (R466): its banks in turn, each in ascending row number; the read is a demand
activation, which checks the row before it applies a function (R375). A line that its check finds wrong and can correct is written back, and every error counts among those of the HBM
and of the scrub (R465, log 63). -/
def execPatrolScrub (stack : Nat) (scan : ScrubRead) (s : State) : Out :=
  let channel := scan.channel
  if !s.stackAwake stack ∨ 64 ≤ channel then notNow
  else
    let n := sget 0 (s.stackCtl stack).scrubRow channel
    let row := globalRow stack channel (n % 16) (n / 16 % bankRows)
    let s := touchRow ((scan.found.filter fun e => e.1 < 16).foldl
      (fun s e => (s.hbmError (row * 16 + e.1) e.2 0).countError levelScrub e.2) s) row
    let c := s.stackCtl stack
    .next (s.setStack stack { c with scrubRow := sput c.scrubRow channel (n + 1) })

/-- A row is repaired from its bank's spares, once its errors call for it (R469): the spare holds what the row held, poison
included, so nothing but the count of spares and the row's own errors changes. A bank without a spare reports the row to
system software. -/
def execRowRepair (row : Nat) (s : State) : Out :=
  let stack := rowStack row
  if Config.regions * 2 ^ 20 ≤ row ∨ !s.stackAwake stack ∨ !s.repairDue row then notNow
  else
    let c := s.stackCtl stack
    let bank := bits row 9 4 * 16 + bits row 3 0
    let used := sget 0 c.spares bank
    let c := { c with rowErrs := sdel c.rowErrs row }
    if used < 32 then .next (s.setStack stack { c with spares := sput c.spares bank (used + 1) })
    else .next ((s.setStack stack c).logLine (leBytes 8 row))

end Sys2Proof.Machine
end

