-- ==== Sys2Proof/Machine/Debug.lean ====
section
/-! DEFINITION. The debug port (R436 to R444): breakpoints, stops, lane-focus stepping, register and memory access. -/

namespace Sys2Proof.Machine

/-! ### Answers -/

/-- Codes of the port's answers and events, besides `portStopped`, `portDeferredDone` and `portTrap`. -/
def portOk : Nat := 0
def portRefused : Nat := 2
def portDeferred : Nat := 3
def portSuperseded : Nat := 4
def portValue : Nat := 5
def portFault : Nat := 6

/-- The port answers, and nothing else changes. The port of a device that has stopped does not (R467, R471). -/
def State.answer (s : State) (code : Nat) (data : List Nat) : Out :=
  if s.mgmt.mode = 2 then notNow else .next (s.emit (.port code data))

/-- A command that the port refuses. -/
def State.refuse (s : State) : Out := s.answer portRefused []

/-- The context's debug grant is set. -/
def State.granted (s : State) (ctx : Nat) : Bool :=
  match sfind s.xlate.ctxs ctx with | some c => c.debugGrant | none => false

/-- A group that a port command may name: it belongs to a context whose grant is set. -/
def State.portGroup (s : State) (ctx gid : Nat) : Option Group :=
  match s.anyGroup gid with
  | some g => if gid ≠ 0 ∧ g.ctx = ctx ∧ s.granted ctx then some g else none
  | none => none

/-- A stopped group that a port command may name (R442). -/
def State.stoppedGroup (s : State) (ctx gid : Nat) : Option Group :=
  match s.portGroup ctx gid with
  | some g => if g.stopped then some g else none
  | none => none

/-! ### Breakpoints and stops (R436 to R438) -/

/-- The issuing group stands at a point that a breakpoint register names: it stops there (R436, R437). -/
def execBreakpointHit (s : State) : Out :=
  let n := pcSlot s.cur.pc
  let pcs := if (pairFirsts (linePair s.cur.line)).contains n then [s.cur.pc, nextPoint s.cur.pc] else [s.cur.pc]
  if s.cur.gid = 0 ∨ !s.cur.inClause ∨ s.cur.stopped ∨ s.cur.passed ∨ !s.breaks s.cur pcs then notNow
  else
    let stop (g : Group) : Group := { g.halt with bpPassed := some (g.pc, g.slot.mask) }
    .next ((s.modCur stop).emit (.port portStopped [s.cur.gid, s.cur.pc.toNat]))

/-- STOP (R437): the group stops at its next issue opportunity. -/
def execStop (ctx gid : Nat) (s : State) : Out :=
  match s.portGroup ctx gid with
  | none => s.refuse
  | some g =>
    if g.stopped then s.answer portOk [gid]
    else (s.modGroup gid fun g => { g with stopReq := true }).answer portOk [gid]

/-- A breakpoint register written (R436): a value that is no program-counter value is refused. -/
def execDbiWrite (core n : Nat) (value : BitVec 128) (s : State) : Out :=
  if Config.cores ≤ core ∨ 8 ≤ n ∨ !isPc (value.setWidth 64) then s.refuse
  else
    let x : BitVec 128 := BitVec.ofNat 128 (value.toNat % 2 ^ 82)
    State.answer { s with dbg := { s.dbg with dbi := sput s.dbg.dbi (core * 8 + n) x } } portOk []

/-- The queue-stop register of a core written (R438): each queue that it stops is reported with the `seq` of its head, now
or when a head arrives that it stops. -/
def execQueueStopWrite (core value : Nat) (s : State) : Out :=
  if Config.cores ≤ core then s.refuse
  else
    let s : State := { s with dbg := { s.dbg with qstop := sput s.dbg.qstop core (value % 2 ^ 17),
                                                  told := s.dbg.told.filter fun e => e.1 ≠ core } }
    State.answer ((List.range 6).foldl (fun s q => s.tellQueue core q) s) portOk []

/-! ### Lane-focus stepping (R439 to R441) -/

/-- The parks of a stopped group whose flags are clear are over (R138). -/
def Group.unpark (g : Group) : Group :=
  let free (p : PcSlot) : PcSlot := match p.park with
    | some w => if g.flagsClear w then { p with park := none } else p
    | none => p
  { g with slot0 := free g.slot0, slot1 := free g.slot1 }

/-- The state in which a stopped group is stepped, on its core or off it, and the slot that it would offer (R138, R223). -/
def State.stepFrom (s : State) (g : Group) : State := { s with cur := g.unpark }
def State.stepOffer (s : State) (g : Group) : Option Bool := (s.stepFrom g).offer

/-- STEP (R439): the offered slot keeps the focus, and its other lanes are pushed as a path. A push that fails or would pass
62 entries refuses it (R477). A group that is off the core issues once it is back. -/
def State.step (s : State) (g : Group) (b : Bool) (focus : LaneMask) (n : Nat) : Out :=
  let m := (g.slotOf b).mask &&& ~~~g.exited
  if n = 0 ∨ 256 < n ∨ focus = 0 ∨ focus &&& ~~~m ≠ 0 ∨ (focus ≠ m ∧ 62 ≤ g.pstk) then s.refuse
  else
    let t := (s.stepFrom g).modCur fun g => { g with issue1 := b }
    let (ok, t) := if focus = m then (true, t) else t.pushPath t.cur.pc (m &&& ~~~focus)
    if !ok then s.refuse
    else
      let go (g : Group) : Group :=
        { g.setSlot { g.slot with mask := focus } with stopped := false, stepLeft := n, focus := focus, stall := none }
      (State.modGroup { t with cur := s.cur } g.gid fun _ => go t.cur).answer portOk [g.gid]

def execStep (ctx gid : Nat) (focus : LaneMask) (n : Nat) (s : State) : Out :=
  match s.stoppedGroup ctx gid with
  | none => s.refuse
  | some g => match s.stepOffer g with
    | none => s.refuse
    | some b => s.step g b focus n

/-- RESUME (R437, R441): a group that is off the core fills its slots when it is back. -/
def execResume (ctx gid : Nat) (s : State) : Out :=
  match s.stoppedGroup ctx gid with
  | none => s.refuse
  | some g =>
    let go (g : Group) : Group := { g with stopped := false, stepLeft := 0, stall := none, refill := !g.resident }
    let s := s.modGroup gid go
    (if g.resident then s.refillGroup gid else s).answer portOk [gid]

/-! ### Registers (R442, R443) -/

/-- A register of the port lies within what the group holds (R39, R40, R45). -/
def portInRange (g : Group) : PortReg → Bool
  | .v n l => n < 16 * g.vblocks && l < 64
  | .s n => n < 64
  | .p n => n < 8
  | .a n => n < 16
  | .eta n => n < 4
  | .pm n => n < 8
  | .flag n => n < 12
  | .ctr l => l < 64
  | .pc k => k < 2
  | .mask k => k < 2
  | .valid k => k < 2
  | .tile n i j => n < g.tquota && i < 64 && j < 64
  | .seg sp => sp ≠ .g
  | .pmValid n => n < 8
  | .tileName n => n < 16
  | _ => true

/-- The value of a register of the port: a segment register as its base and limit, a tile name as 0 where it is unbound and
else one more than the number of its physical tile. -/
def portValueOf (s : State) (g : Group) : PortReg → Nat
  | .v n l => (g.readV n l).toNat
  | .s n => (g.readS n).toNat
  | .p n => (g.readP n).toNat
  | .a n => (g.readA n).toNat
  | .eta n => (g.readEta n).toNat
  | .pm n => (g.readPm n).toNat
  | .flag n => g.flagCount n
  | .ctr l => (g.ctrOf l).toNat
  | .pc k => (g.slotOf (k = 1)).pc.toNat
  | .mask k => (g.slotOf (k = 1)).mask.toNat
  | .valid k => if (g.slotOf (k = 1)).valid then 1 else 0
  | .sr r => (statusVal { s with cur := g } r).toNat
  | .tvec => g.tvec.toNat
  | .tscr => g.tscr.toNat
  | .tile n i j =>
    match (g.live? n).bind (sfind g.tiles) with
    | some t => (sget 0 t.acc (64 * i + j)).toNat
    | none => 0
  | .seg sp => (g.seg sp).base + (g.seg sp).limit * 2 ^ 64
  | .pmValid n => match sfind g.pmReady n with
    | some (some t) => if s.now < t then 0 else 1
    | some none => 0
    | none => 1
  | .tileName n => match g.live? n with | some k => k + 1 | none => 0

/-- A register of a stopped group read (R442). -/
def execPortRegRead (ctx gid : Nat) (reg : PortReg) (s : State) : Out :=
  match s.stoppedGroup ctx gid with
  | none => s.refuse
  | some g => if portInRange g reg then s.answer portValue [portValueOf s g reg] else s.refuse

/-- The register that an operation makes pending, for a register of the port. -/
def portPending : PortReg → Option RegRef
  | .v n _ => some (.v n)
  | .s n => some (.s n)
  | .p n => some (.p n)
  | .a n => some (.a n)
  | .eta n => some (.eta n)
  | _ => none

/-- A slot of the group changed. -/
def Group.modSlot (g : Group) (k : Nat) (f : PcSlot → PcSlot) : Group :=
  if k = 0 then { g with slot0 := f g.slot0 } else { g with slot1 := f g.slot1 }

/-- The lanes of the valid slots. -/
def Group.slotLanes (g : Group) : LaneMask :=
  (if g.slot0.valid then g.slot0.mask else 0) ||| (if g.slot1.valid then g.slot1.mask else 0)

/-- The group keeps R51: valid masks do not overlap, and a lane in neither has exited or stands on the stack. -/
def State.pathsOk (s : State) (g : Group) : Bool :=
  let spilled : LaneMask := match (stackMasks g.pstk { s with cur := g }).1 with
    | .ok l => l.foldl (· ||| ·) 0
    | .error _ => 0
  !(g.slot0.valid && g.slot1.valid && g.slot0.mask &&& g.slot1.mask != 0)
    && g.present &&& ~~~g.slotLanes &&& ~~~spilled == 0

/-- A write of the port to a register that no operation makes pending (R442): none where it is refused. -/
def portPut (g : Group) (reg : PortReg) (mask : LaneMask) (value : Nat) : Option Group :=
  match reg with
  | .v n _ => some (g.writeV n mask fun _ => BitVec.ofNat 32 value)
  | .s n => some (g.writeS n (BitVec.ofNat 32 value))
  | .p n => some (g.writeP n mask (if value = 0 then 0 else BitVec.allOnes 64))
  | .a n => some (g.writeA n (BitVec.ofNat 64 value))
  | .eta n => some (g.writeEta n (BitVec.ofNat 32 value))
  | .pm n => some { g with pm := sset 0 g.pm n (BitVec.ofNat 352 value) }
  | .flag n => if value < 64 then some { g with flags := sset 0 g.flags n value } else none
  | .ctr l => if value < 256 then some { g with ctr := sset 0 g.ctr l (BitVec.ofNat 8 value) } else none
  | .pc k =>
    if isPc (BitVec.ofNat 64 value) then
      some ((g.unpass (g.slotOf (k = 1)).mask).modSlot k fun p => { p with pc := BitVec.ofNat 64 value, copy := 0 })
    else none
  | .mask k => some (g.modSlot k fun p => { p with mask := BitVec.ofNat 64 value })
  | .valid k => some (g.modSlot k fun p => { p with valid := value ≠ 0 })
  | .tvec => some { g with tvec := BitVec.ofNat 64 value }
  | .tscr => some { g with tscr := BitVec.ofNat 64 value }
  | .sr _ => none
  | .tile _ _ _ => none
  | .tileName _ => none
  | .seg sp =>
    let x : Seg := ⟨value % 2 ^ 64, value / 2 ^ 64⟩
    if segOk sp x.base x.limit then some (g.setSeg sp x) else none
  | .pmValid n => some { g with pmReady := if value = 0 then sput g.pmReady n none else sdel g.pmReady n }

/-- A register whose write R51 may forbid: the slots, and the segment that holds the pending paths. -/
def portMovesPaths : PortReg → Bool
  | .pc _ => true
  | .mask _ => true
  | .valid _ => true
  | .seg sp => sp = .k
  | _ => false

/-- A write to a pending register is deferred to the operation that will write it; an earlier one to the same register and
lanes is superseded (R443). -/
def State.deferWrite (s : State) (id : Nat) (op : Op) (d : Deferred) : Out :=
  let same (e : Deferred) : Bool := e.reg = d.reg && (!d.reg.carriesMask || e.mask = d.mask)
  let old := op.deferred.filter same
  let s := s.modOp id fun op => { op with deferred := op.deferred.filter (fun e => !same e) ++ [d] }
  let s := if old.isEmpty then s else s.emit (.port portSuperseded (op.gid :: regNumber d.reg ++ [d.mask.toNat]))
  s.answer portDeferred (op.gid :: regNumber d.reg)

/-- A register of a stopped group written (R442, R443). -/
def execPortRegWrite (ctx gid : Nat) (reg : PortReg) (mask : LaneMask) (value : Nat) (s : State) : Out :=
  match s.stoppedGroup ctx gid with
  | none => s.refuse
  | some g =>
    if !portInRange g reg then s.refuse
    else
      let holder := (portPending reg).bind fun r => (s.opsOf gid).find? fun e => e.2.dests.contains r
      match holder, portPending reg with
      | some (id, op), some r => s.deferWrite id op ⟨r, mask, BitVec.ofNat 64 value⟩
      | _, _ =>
        match portPut g reg mask value with
        | none => s.refuse
        | some g' => if !portMovesPaths reg || s.pathsOk g' then (s.modGroup gid fun _ => g').answer portOk [] else s.refuse

/-! ### Memory (R444) -/

/-- Why an access of the port fails, as a number. -/
def faultNo : TrFault → Nat
  | .notPresent _ => 1 | .malformed => 2 | .permission => 3 | .poison => 4

/-- The window of a stopped group that an access of the port names: its unit and its place (R444). -/
def portWindow (g : Group) (sp : Space) (addr len : Nat) : Option (Nat × Nat) :=
  if (sp = .s ∨ sp = .y) ∧ addr + len ≤ (g.seg sp).limit then
    some (spaceUnit sp g.coreNo, (g.seg sp).base + addr)
  else none

/-- An access of the port to a window of a stopped group. -/
def State.portLocal (s : State) (ctx gid : Nat) (sp : Space) (addr len : Nat) (go : Nat → Nat → Out) : Out :=
  match s.stoppedGroup ctx gid with
  | none => s.refuse
  | some g =>
    match portWindow g sp addr len with
    | some (unit, at_) => if g.resident then go unit at_ else s.refuse
    | none => s.refuse

/-- Memory read through the port: poison, then the bytes (R444). -/
def execPortMemRead (ctx gid : Nat) (sp : Space) (addr len : Nat) (s : State) : Out :=
  let put (s : State) (x : Got) : Out := s.answer portValue ((if x.psn then 1 else 0) :: x.bytes.map (·.toNat))
  if sp = .g then
    if !s.granted ctx then s.refuse
    else match s.readVa (outside ctx) addr len with
      | (.ok x, s) => put s x
      | (.fault va f, s) => s.answer portFault [va, faultNo f]
  else s.portLocal ctx gid sp addr len fun unit at_ => put s (s.readLocal sp unit at_ len)

/-- Memory written through the port (R444). -/
def execPortMemWrite (ctx gid : Nat) (sp : Space) (addr : Nat) (data : Bytes) (s : State) : Out :=
  if sp = .g then
    if !s.granted ctx then s.refuse
    else match s.writeVa (outside ctx) addr data with
      | (.ok _, s) => s.answer portOk []
      | (.fault va f, s) => s.answer portFault [va, faultNo f]
  else s.portLocal ctx gid sp addr data.length fun unit at_ => (s.writeLocal sp unit at_ data).answer portOk []

end Sys2Proof.Machine
end

