-- ==== Sys2Proof/Machine/Links.lean ====
section
/-! DEFINITION. The links: the host's window (R446, R472), the fabric (R447, R449 to R451, R453), and the NVMe initiator
(R454 to R458). -/

namespace Sys2Proof.Machine

/-! ### The host's window (R446) -/

/-- Statuses of the device's answers to the host and to fabric peers: served, an address that names nothing, poison. -/
def accessOk : Nat := 0
def accessNone : Nat := 1
def accessPoison : Nat := 2

/-- Every byte of a range of device memory lies in a stack that is in use (R472). -/
def State.rangeUsed (s : State) (pa n : Nat) : Bool :=
  isDram (pa + n - 1) && (unitsOf Config.regionBytes pa n).all fun r => s.stackUsed (r % 12)

/-- A line of device memory whose PCIe flit CRC has failed on the way is written poisoned (R456, R464), and the event is logged
(R465). -/
def State.poisonFlit (s : State) (ctx attr pa : Nat) : State := (s.poisonPa attr pa 64).logError levelFlit pa ctx

/-- A host access through BAR2 (R446), which a start that has failed or a trip leaves closed (R467, R471): it reaches the frame that it names (R355). One to a stack that is not in use is not
performed, and is logged (R472). A line of a write whose flit CRC fails is written poisoned (R464). -/
def execHostBar2Access (write : Bool) (pa len : Nat) (data : HostData) (s : State) : Out :=
  let n := if write then data.bytes.length else len
  if s.mgmt.mode = 2 ∨ n = 0 ∨ !isDram (pa + n - 1) then notNow
  else if !s.rangeUsed pa n then
    let s := s.logLine (leBytes 1 (if write then 1 else 0) ++ leBytes 8 pa)
    .next (if write then s else s.emit (.access accessNone []))
  else if write then
    let lines := unitsOf 64 pa n
    .next ((lines.filter fun l => data.crc.contains (l - pa / 64)).foldl (fun s l => s.poisonFlit 0 0 (64 * l))
      (s.writePa (outside 0) 0 pa data.bytes))
  else
    let (x, s) := s.readPa (outside 0) 0 pa n
    .next (s.emit (.access (if x.psn then accessPoison else accessOk) x.bytes))

/-! ### Fabric peers (R447) -/

/-- The bytes that a fabric access touches. -/
def remoteRange : RemoteAccess → Nat × Nat
  | .read pa _ n => (pa, n)
  | .write pa _ b => (pa, b.length)
  | .atomic pa _ _ _ wide _ _ => (pa, if wide then 8 else 4)

/-- An atomic of a fabric peer at its home (R166, R447): never core-held. -/
def State.remoteAtomic (s : State) (pa attr : Nat) (cas : Bool) (aop : Nat) (wide : Bool) (x y : Nat) : State :=
  let n := if wide then 8 else 4
  let (v, s) := s.readPa (outside 0) 0 pa n
  if attr = 2 then s.emit (.access accessNone [])
  else if v.psn then s.emit (.access accessPoison [])
  else
    let old := ofLe v.bytes
    let new := if cas then (if old = x then some y else none) else atomNew aop n old x
    let s := match new with
      | some w => s.writePa (outside 0) attr pa (leBytes n w)
      | none => s
    s.emit (.access accessOk (leBytes n old))

/-- An access that arrives over the fabric, under the attribute of its page (R445, R447); its answer goes out in bursts (R449). -/
def execFabricRemoteAccess (access : RemoteAccess) (s : State) : Out :=
  let (pa, n) := remoteRange access
  if !s.fabric.up ∨ s.mgmt.mode = 2 ∨ n = 0 then notNow
  else if !s.rangeUsed pa n ∨ (access.attr = 2 ∧ s.mgmt.dies ≠ 15) then .next (s.emit (.access accessNone []))
  else match access with
    | .read pa attr n =>
      let (x, s) := s.readPa (outside 0) attr pa n
      .next ((s.burstsOf n).emit (.access (if x.psn then accessPoison else accessOk) x.bytes))
    | .write pa attr b => .next (((s.writePa (outside 0) attr pa b).burstsOf 1).emit (.access accessOk []))
    | .atomic pa attr cas aop wide x y =>
      if pa % n ≠ 0 ∨ 13 ≤ aop then notNow else .next ((s.remoteAtomic pa attr cas aop wide x y).burstsOf n)

/-! ### The fabric link (R449 to R451) -/

/-- The fewest lanes with which the port stays up (R451). -/
def fewestLanes : Nat := 36

def State.fabricLane (s : State) (n : Nat) : FabricLane := s.fabric.lane n

def State.setLane (s : State) (n : Nat) (l : FabricLane) : State :=
  { s with fabric := { s.fabric with lanes := sput s.fabric.lanes n l } }

/-- The lane map (R449): the active lanes in order. -/
def State.laneMap (s : State) : List Nat := s.fabric.map

/-- Early bursts that follow on are delivered in sequence order (R449): at most n of them. -/
def deliverBursts : Nat → State → State
  | 0, s => s
  | n + 1, s =>
    let q := s.fabric.recvSeq
    match sfind s.fabric.early q with
    | none => s
    | some b =>
      let s := { s with fabric := { s.fabric with recvSeq := q + 1, early := sdel s.fabric.early q } }
      deliverBursts n (s.emit (.fabric 0 (q :: b.map (·.toNat))))

/-- A burst of this device's has arrived at the other end of the link: no lane keeps it for a replay, and a group's write
waits for it no longer (R448, R449). -/
def State.ackBurst (s : State) (seq : Nat) : State :=
  let f := s.fabric
  let s : State := { s with fabric := { f with
    replays := sdel f.replays seq,
    lanes := f.lanes.map fun e => (e.1, { e.2 with replay := e.2.replay.filter (· ≠ seq) }),
    writes := f.writes.map fun w => { w with open_ := w.open_.filter (· ≠ seq) } } }
  s.pumpFabric

/-- A release's zero-length read completes on a link. -/
def State.linkRead (s : State) (key link : Nat) : Out :=
  match s.readsOf key with
  | none => notNow
  | some l =>
    if !l.contains link then notNow
    else .next { s with fabric := { s.fabric with
      reads := s.fabric.reads.map fun r => if r.key = key then { r with open_ := r.open_.filter (· ≠ link) } else r } }

/-- A lane whose replay buffer holds the burst. -/
def State.keeps (s : State) (lane seq : Nat) : Bool := (s.fabricLane lane).replay.contains seq

/-- A burst arrives whole (R449): one of this device's own is acknowledged by the other end, and one of the peer's is delivered
once every earlier one is. -/
def execBurstReceive (burst : Burst) (data : Bytes) (s : State) : Out :=
  if !s.fabric.up then notNow
  else match burst with
    | .own seq => if (List.range fabricLanes).any fun n => s.keeps n seq then .next (s.ackBurst seq) else notNow
    | .peer seq =>
      if seq < s.fabric.recvSeq then notNow
      else
        let f := s.fabric
        let s := { s with fabric := { f with early := sput f.early seq data, asked := sdel f.asked seq } }
        .next (deliverBursts s.fabric.early.length s)

/-- Core cycles of one millisecond. -/
def msCycles : Nat := 3600000

/-- The lane of a replay (R450): the old one, and once a repair has changed the lane map, the one that the map gives the
burst's number. -/
def State.replayLane (s : State) (lane seq : Nat) : Nat :=
  let m := s.laneMap
  if s.fabric.remapped ∨ !(s.fabricLane lane).active then m.getD (seq % m.length) lane else lane

/-- A burst stands in the replay buffer of its lane alone; where that one is full it stays where it is. -/
def State.moveBurst (s : State) (lane seq : Nat) : State :=
  let l := s.fabricLane lane
  if l.replay.contains seq ∨ 16 ≤ l.replay.length then s
  else
    let drop (e : Nat × FabricLane) : Nat × FabricLane := (e.1, { e.2 with replay := e.2.replay.filter (· ≠ seq) })
    { s with fabric := { s.fabric with lanes := sput (s.fabric.lanes.map drop) lane { l with replay := l.replay ++ [seq] } } }

/-- A CRC error on a lane (R450): the fourth within 1 ms closes it to new bursts. -/
def State.laneError (s : State) (lane : Nat) : State :=
  let l := s.fabricLane lane
  let errs := s.now :: l.errors.filter fun t => s.now < t + msCycles
  s.setLane lane { l with errors := errs, closing := l.closing || (l.active && 4 ≤ errs.length) }

/-- A burst fails its CRC on a lane (R449, R450): one of this device's own, which stands in the lane's replay buffer, is sent
again, at most 8 times (R451); one of the peer's is asked for again. -/
def execBurstCrcFail (lane : Nat) (burst : Burst) (s : State) : Out :=
  if !s.fabric.up ∨ fabricLanes ≤ lane ∨ s.laneMap.isEmpty then notNow
  else match burst with
    | .own seq =>
      if !s.keeps lane seq then notNow
      else
        let n := sget 0 s.fabric.replays seq
        let again := s.replayLane lane seq
        let s := (s.laneError lane).moveBurst again seq
        let s := { s with fabric := { s.fabric with replays := sput s.fabric.replays seq (n + 1) } }
        .next (if n < 8 then s.emit (.fabric 4 [seq, again]) else s)
    | .peer seq =>
      if seq < s.fabric.recvSeq then notNow
      else
        let n := sget 0 s.fabric.asked seq
        let s := s.laneError lane
        let s := { s with fabric := { s.fabric with asked := sput s.fabric.asked seq (n + 1) } }
        .next (if n < 8 then s.emit (.fabric 1 [seq, lane]) else s)

/-- A closed lane whose replay buffer has drained leaves the lane map (R450), where enough lanes stay (R451). -/
def execLaneRepair (lane : Nat) (s : State) : Out :=
  let l := s.fabricLane lane
  if !s.fabric.up ∨ !l.closing ∨ !l.replay.isEmpty ∨ s.laneMap.length ≤ fewestLanes then notNow
  else
    let s := s.setLane lane { l with active := false, closing := false, errors := [] }
    let s := { s with fabric := { s.fabric with remapped := true } }
    .next (s.pumpFabric.logLine (leBytes 1 lane))

/-- A command has started and its work is not over. -/
def Op.underWay (op : Op) : Bool := 0 < op.progress && op.phase ≠ .ended && op.phase ≠ .heldBack

/-- A `coll` of more than one member that is under way (R453). -/
def State.collOut (s : State) (op : Op) : Bool :=
  op.underWay && match op.work with
    | .coll _ desc _ => (match sfind s.fabric.comms (collDesc desc).comm with | some c => 1 < c.members | none => false)
    | _ => false

/-- The page of a virtual address lies in the fabric aperture, as the page tables stand. -/
def State.farAt (s : State) (ctx va : Nat) : Bool :=
  match sfind s.xlate.ctxs ctx with
  | none => false
  | some c =>
    match (walkFrom none ctx va 3 c.root s).1 with
    | .leaf level e => inFabric (bits e 51 16 * 65536 + va % pageBytes level)
    | .fault _ => false

/-- The granules of an outstanding access or of a command under way that lie in the fabric aperture: those that it holds, and
those that it has yet to look up (R451). -/
def State.farGranules (s : State) (op : Op) : List Nat :=
  let held := (op.xl.filter fun x => inFabric x.pa).map (·.granule)
  let named := if op.unperformed || op.underWay || op.phase = .running then op.work.granules.getD [] else []
  held ++ named.filter fun g => !(op.xl.any fun x => x.granule = g) && s.farAt op.ctx (g * 65536)

/-- An operation whose fabric accesses are outstanding when the link goes down (R451): its granules there are refused to it
with status 1 from then on. -/
def State.unlinked (s : State) (op : Op) : Op :=
  { op with xl := op.xl.filter fun x => !inFabric x.pa,
            refused := ((s.farGranules op).map fun g => (g, 1)) ++ op.refused }

/-- The fabric accesses that are outstanding when the link goes down (R451): collectives end with status 1, and every other
operation meets a refusal at its granules there. -/
def State.cutFabric (s : State) : State :=
  let outs := s.ops.filter fun e => s.collOut e.2
  let s := { s with ops := s.ops.map fun e => (e.1, s.unlinked e.2) }
  outs.foldl (fun s e => match e.2.work with
    | .coll _ desc _ => s.failWork e.1 1 (collDesc desc).dst
    | _ => s) s

/-- The link goes down (R451): reason 1, the eighth replay of a burst has failed; reason 2, a repair would leave too few lanes.
No write waits for an acknowledgement any more, and no zero-length read for an answer from a device. -/
def execLinkDown (reason seq : Nat) (s : State) : Out :=
  let replayed := reason = 1 ∧ (9 ≤ sget 0 s.fabric.replays seq ∨ 9 ≤ sget 0 s.fabric.asked seq)
  let few := reason = 2 ∧ s.laneMap.length ≤ fewestLanes ∧ (List.range fabricLanes).any fun n => (s.fabricLane n).closing
  if !s.fabric.up ∨ ¬ (replayed ∨ few) then notNow
  else
    let s := s.logLine (leBytes 1 reason ++ s.laneMap.map (BitVec.ofNat 8) ++ leBytes 8 seq)
    let s := s.cutFabric
    .next { s with fabric := { s.fabric with up := false, contribs := [], waiting := 0,
                                             writes := s.fabric.writes.map fun w => { w with open_ := [] },
                                             reads := s.fabric.reads.map fun r => { r with open_ := r.open_.filter (· = 0) } } }

/-- System software retrains the port with a set of lanes (R451). -/
def execFabricLinkRetrain (lanes : List Nat) (s : State) : Out :=
  if s.fabric.up ∨ s.mgmt.mode = 2 ∨ (lanes.filter (· < fabricLanes)).eraseDups.length < fewestLanes then notNow
  else
    let tab := (List.range fabricLanes).map fun n => (n, { FabricLane.fresh with active := lanes.contains n })
    .next { s with fabric := { s.fabric with up := true, lanes := tab, sendSeq := 0, waiting := 0, remapped := false,
                                              recvSeq := 0, early := [], replays := [], asked := [] } }

/-! ### Collectives (R164, R453) -/

/-- A `coll` of the communicator waits for data of a member (R453). -/
def State.collNeeds (s : State) (comm rank : Nat) (c : Communicator) (op : Op) : Bool :=
  op.underWay && match op.work with
    | .coll _ desc todo =>
      let d := collDesc desc
      d.comm = comm && todo.any fun k =>
        (d.needs c.members c.rank k).contains rank && (s.contribution comm k rank).isNone
    | _ => false

/-- A member's part of a chunk arrives, or none because the member's link has failed: what waits for its data ends with
status 1 (R453). -/
def execCollContribution (comm chunk rank : Nat) (desc : Bytes) (data : Option Bytes) (s : State) : Out :=
  match sfind s.fabric.comms comm with
  | none => notNow
  | some c =>
    if !s.fabric.up ∨ c.members ≤ rank ∨ rank = c.rank then notNow
    else match data with
      | some b => .next { s with fabric := { s.fabric with contribs := s.fabric.contribs ++ [⟨comm, chunk, rank, desc, b⟩] } }
      | none =>
        .next ((s.ops.filter fun e => s.collNeeds comm rank c e.2).foldl (fun s e => match e.2.work with
          | .coll _ desc _ => s.failWork e.1 1 (collDesc desc).dst
          | _ => s) s)

/-- System software destroys a communicator (R453): its members that wait end with `ABORT`. -/
def execCommunicatorDestroy (comm : Nat) (s : State) : Out :=
  if (sfind s.fabric.comms comm).isNone ∨ s.mgmt.mode = 2 then notNow
  else
    let waits (op : Op) : Bool := op.underWay && match op.work with
      | .coll _ desc _ => (collDesc desc).comm = comm
      | _ => false
    let s := ((s.ops.filter fun e => waits e.2).map (·.1)).foldl (fun s i => s.endWork i 3) s
    .next { s with fabric := { s.fabric with comms := sdel s.fabric.comms comm,
                                             contribs := s.fabric.contribs.filter fun c => c.comm ≠ comm } }

/-! ### The NVMe initiator (R454 to R458) -/

/-- The fields of a queue-pair header (R454): `shead` is as the program has advanced it (log 78). -/
structure NvmeHead where
  sq : Nat
  cq : Nat
  nent : Nat
  shead : Nat
  ctail : Nat
  deriving DecidableEq, Repr

def State.nvmeHead (s : State) (ctx h : Nat) : Option (NvmeHead × State) :=
  match s.readVa (outside ctx) h 64 with
  | (.ok x, s) =>
    let b := x.bytes
    some (⟨fieldAt b 0 8, fieldAt b 8 8, fieldAt b 16 4, fieldAt b 32 8, fieldAt b 40 8⟩, s)
  | (.fault _ _, _) => none

/-- A request (R455). -/
structure NvmeFields where
  lba : Nat
  nlb : Nat
  op : Nat
  dst : Nat
  ecrc : Nat
  span : Nat
  nblk : Nat
  tag : Nat
  stamp : Nat
  zeros : Bool
  deriving DecidableEq, Repr

def nvmeFields (b : Bytes) : NvmeFields :=
  ⟨fieldAt b 0 8, fieldAt b 8 4, fieldAt b 12 1, fieldAt b 16 8, fieldAt b 24 8, fieldAt b 32 4, fieldAt b 36 2, fieldAt b 48 8, fieldAt b 56 8,
    fieldAt b 13 3 = 0 && fieldAt b 38 10 = 0⟩

/-- A request keeps its layout (R455); a checked read's blocks lie within what it reads (R458). -/
def NvmeFields.ok (f : NvmeFields) : Bool :=
  1 ≤ f.nlb && f.nlb ≤ 512 && (f.op = 1 || (f.op = 2 && f.span * f.nblk ≤ 4096 * f.nlb)) && f.zeros && f.dst % 4096 = 0
    && canonical (f.dst + 4096 * f.nlb - 1)

/-- The stored tag of a block is its tag (R301, R458). -/
def blockTagOk (b : Bytes) : Bool :=
  let h := kvHead b
  let rows (row : Nat) : Bytes := (b.drop (kvRow 0 h.hdh row)).take (2 * h.hdh * h.count)
  kvTag (b.take 256) (rows 0 ++ rows h.cap) = fieldAt b 248 8

/-- The check of a read with `op` 2 (R458). -/
def NvmeFields.checks (f : NvmeFields) (data : Bytes) : Bool :=
  crc64 data = f.ecrc && (List.range f.nblk).all fun i => blockTagOk ((data.drop (f.span * i)).take f.span)

/-- Logical blocks written in order from an address on: how many, and whether a page refused one (R455). -/
def writeBlocksTo (ctx : Nat) : Nat → Nat → Bytes → State → Nat × Bool × State
  | 0, _, _, s => (0, false, s)
  | n + 1, va, b, s =>
    match s.writeVa (outside ctx) va (b.take 4096) with
    | (.fault _ _, s) => (0, true, s)
    | (.ok _, s) =>
      let (k, bad, s) := writeBlocksTo ctx n (va + 4096) (b.drop 4096) s
      (k + 1, bad, s)

/-- Requests of a pair whose completions are still to be written. -/
def State.nvmeOpen (s : State) (pair : Nat) : Nat := (s.nvme.reqs.filter fun r => r.pair = pair).length

/-- The request of a pair that the initiator may consume now (R337, R454): its stamp stands, and fewer than `nent`
completions are unread or under way (log 78). -/
def State.nvmeNext (s : State) (pair : Nat) : Option (NvmePair × NvmeFields × State) :=
  match sfind s.nvme.pairs pair with
  | none => none
  | some p =>
    match s.nvmeHead p.ctx p.header with
    | none => none
    | some (q, s) =>
      match s.readVa (outside p.ctx) (q.sq + 64 * (p.taken % q.nent)) 64 with
      | (.fault _ _, _) => none
      | (.ok x, s) =>
        let f := nvmeFields x.bytes
        if f.stamp ≠ p.taken + 1 ∨ q.shead + q.nent ≤ q.ctail + s.nvmeOpen pair then none else some (p, f, s)

/-- Lines whose PCIe flit CRC has failed are written poisoned (R456, R464). -/
def State.poisonLines (s : State) (ctx va : Nat) (lines : List Nat) : State :=
  lines.foldl (fun s i =>
    match s.translate none ctx (va + 64 * i) .write with
    | (.ok pa attr _ _, s) => s.poisonFlit ctx attr pa
    | (.fault _, s) => s) s

/-- The initiator consumes a request, asks the SSD for its blocks and carries it out with the bytes that come back (R455, R456,
R458); after a media error they end at the block that could not be read. A line whose flit CRC fails on the way is written
poisoned (R464). -/
def execNvmeRequest (pair : Nat) (data : Bytes) (flaws : FlashFlaws) (s : State) : Out :=
  let media := flaws.media
  match s.nvmeNext pair with
  | none => notNow
  | some (p, f, s) =>
    let want := 4096 * f.nlb
    if f.ok ∧ (if media then want ≤ data.length ∨ data.length % 4096 ≠ 0 else data.length ≠ want) then notNow
    else
      let s := (List.range 4).foldl State.dropDie s
      let s := if f.ok then s.emit (.flash p.ns f.lba f.nlb) else s
      let (st, n, s) : Nat × Nat × State :=
        if !f.ok then (4, 0, s)
        else
          let (n, bad, s) := writeBlocksTo p.ctx (data.length / 4096) f.dst data s
          (if bad then 1 else if media then 2 else if f.op = 2 ∧ !f.checks data then 3 else 0, n,
            s.poisonLines p.ctx f.dst (flaws.crc.filter fun i => i < 64 * n))
      .next { s with nvme := { pairs := sput s.nvme.pairs pair { p with taken := p.taken + 1 },
                               reqs := s.nvme.reqs ++ [⟨pair, p.taken, p.ctx, f.tag, st, n⟩] } }

/-- The first request of a pair that has been carried out. -/
def State.nvmeDone (s : State) (pair : Nat) : Option NvmeReq := s.nvme.reqs.find? fun r => r.pair = pair

/-- The initiator writes a completion, and `ctail` as a release at `.dev` (R455). -/
def execNvmeCompletion (pair : Nat) (s : State) : Out :=
  match sfind s.nvme.pairs pair, s.nvmeDone pair with
  | some p, some r =>
    match s.nvmeHead p.ctx p.header with
    | none => notNow
    | some (q, s) =>
      let c := leBytes 8 r.tag ++ leBytes 1 r.status ++ leBytes 3 0 ++ leBytes 4 r.written
      let s := s.outWrite p.ctx (q.cq + 16 * (q.ctail % q.nent)) c
      let s := (s.order .rel .dev 0).outWrite p.ctx (p.header + 40) (leBytes 8 (q.ctail + 1))
      .next { s with nvme := { s.nvme with reqs := s.nvme.reqs.erase r } }
  | _, _ => notNow

end Sys2Proof.Machine
end

