-- ==== Sys2Proof/Machine/Profile.lean ====
section
/-! DEFINITION. Stall sampling (R431 to R433), and the sensors of the dies (R467). -/

namespace Sys2Proof.Machine

/-! ### Sampling -/

/-- The code of a stall reason (R432). -/
def Stall.code : Stall → Nat
  | .ifetch => 1 | .flagwait => 2 | .yield_ => 3 | .regwait => 4 | .flagfull => 5 | .xlate => 6 | .desc => 7 | .oplog => 8
  | .fence => 9 | .barwait => 10 | .grow => 11 | .quartet => 12 | .tilewait => 13 | .sys => 14 | .stopped => 15

/-- The codes of what holds the issuing group now (R432): its fetch, its wait mask, its parks, or what its next instruction
waits for. What an instruction itself waits for stands in `stall`, which a sample finds as the group's turn would leave it
(`State.refreshSlice`). -/
def State.holdsNow (s : State) : List Nat :=
  if s.cur.stopped then [if s.offer.isNone then Stall.yield_.code else Stall.stopped.code]
  else if s.cur.inClause then
    let own := (s.cur.stall.map Stall.code).toList
    match s.due with
    | .stall r => r.code :: own
    | _ => own
  else match s.offer with
    | none => [Stall.yield_.code]
    | some b =>
      if (s.lineOf b).isNone then [Stall.ifetch.code] else if s.masked b then [Stall.flagwait.code] else []

/-- Class, reason and point of a group's sample (R431, R432): issued in this cycle, held with the lowest code that holds, or
ready and not selected. A group that has stopped for its pre-emption is stalled, and no code of R432 names that: 0 stands for it
(log 83). -/
def State.sampleOf (s : State) (g : Group) : Nat × Nat × DWord :=
  let t := s.focus g.gid
  let pc := if t.cur.inClause then t.cur.pc else match t.offer with | some b => (t.cur.slotOf b).pc | none => t.cur.pc
  if g.issuedAt = some s.now then (0, 0, g.lastPc)
  else match t.holdsNow with
    | [] => if !t.cur.inClause ∧ t.stopsHere then (2, 0, pc) else (1, 0, pc)
    | c :: l => (2, l.foldl min c, pc)

/-- A sample record (R431). -/
def State.sampleRecord (s : State) (g : Group) (k : Nat) : Bytes :=
  let (c, r, pc) := s.sampleOf g
  leBytes 8 pc.toNat ++ leBytes 1 c ++ leBytes 1 r ++ leBytes 2 (g.place % 16384) ++ leBytes 4 k

/-- The number of the next sample of a grid on a slice. -/
def State.nextSample (s : State) (grid key : Nat) : Nat :=
  match s.prof.next.find? fun e => e.1 = grid && e.2.1 = key with | some e => e.2.2 | none => 0

/-- A record enters its slice's queue of 16, or is dropped (R433). -/
def State.pushSample (s : State) (key : Nat) (x : Sample) : State :=
  let q := (sfind s.prof.queues key).getD []
  if 16 ≤ q.length then s.modGrid x.grid fun g => { g with sdrop := g.sdrop + 1 }
  else { s with prof := { s.prof with queues := sput s.prof.queues key (q ++ [x]) } }

/-- The grids whose next sample on a slice is due (R431). -/
def State.dueSamples (s : State) (key : Nat) : List (Nat × Nat) :=
  s.prof.first.filterMap fun e =>
    match s.gridOf e.1 with
    | some g =>
      let k := s.nextSample e.1 key
      if e.2.1 = key ∧ g.speriod ≠ 0 ∧ !g.ended ∧ e.2.2 + k * g.speriod ≤ s.now then some (e.1, k) else none
    | none => none

/-- The records of one sample of a grid on a slice (R431): one of each resident group, in increasing `gslot`. -/
def State.sampleOn (s : State) (core slice : Nat) (x : Nat × Nat) : List Sample :=
  ((s.groups.filter fun g => g.grid = x.1 && g.coreNo = core && g.slice = slice && g.resident).mergeSort
    fun g h => g.gslot ≤ h.gslot).map fun g => ⟨x.1, s.sampleRecord g x.2⟩

/-- A sample of a grid on a slice is taken: its records enter the queue, and the grid's next sample there is a period later. -/
def State.takeSample (s : State) (key : Nat) (x : Nat × Nat) (l : List Sample) : State :=
  let s := l.foldl (fun s r => s.pushSample key r) s
  let rest := s.prof.next.filter fun e => !(e.1 = x.1 && e.2.1 = key)
  { s with prof := { s.prof with next := rest ++ [(x.1, key, x.2 + 1)] } }

/-- A slice takes the samples that are due (R431), all of them in one cycle. -/
def execStallSample (core slice : Nat) (s : State) : Out :=
  match s.dueSamples (sliceKey core slice) with
  | [] => notNow
  | l => .next (l.foldl (fun t x => t.takeSample (sliceKey core slice) x (s.sampleOn core slice x)) s)

/-- The oldest record of a slice's queue is appended to its grid's buffer, or dropped (R433). -/
def execSampleDrain (core slice : Nat) (s : State) : Out :=
  let key := sliceKey core slice
  match (sfind s.prof.queues key).getD [] with
  | [] => notNow
  | x :: rest =>
    let s := { s with prof := { s.prof with queues := sput s.prof.queues key rest } }
    let drop (s : State) : State := s.modGrid x.grid fun g => { g with sdrop := g.sdrop + 1 }
    match s.gridOf x.grid with
    | none => .next s
    | some g =>
      if g.slen < g.sused + 16 then .next (drop s)
      else match s.writeVa (outside g.ctx) (g.sbuf + g.sused) x.bytes with
        | (.ok _, s) => .next (s.modGrid x.grid fun g => { g with sused := g.sused + 16 })
        | (.fault _ _, s) => .next (drop s)

/-! ### Sensors (R467) -/

/-- What the leave pool loses while a die is hot (R467). -/
def poolCut : Nat := 400000

/-- The leave pool at its size for a list of hot dies. -/
def State.setHot (s : State) (hot : List Nat) : State :=
  let l := s.leave
  let size := if hot.isEmpty then Config.leavePool else Config.leavePool - poolCut
  { s with leave := { l with size := size, hot := hot, free := l.free + size - l.size } }

/-- A sample of the sensor of a compute die, or of the IOD as unit 4 (R467). -/
def execDieSensorSample (unit : Nat) (temp : Int) (s : State) : Out :=
  if 5 ≤ unit ∨ s.mgmt.mode = 2 then notNow
  else
    let hot := s.leave.hot.filter (· ≠ unit)
    let s := { s with mgmt := { s.mgmt with temps := sput s.mgmt.temps unit temp } }
    let s := if 100 < temp then s.setHot (hot ++ [unit]) else if temp < 95 then s.setHot hot else s
    .next (if 110 < temp then s.trip else s)

end Sys2Proof.Machine
end

