-- ==== Sys2Proof/Machine/Startup.lean ====
section
/-! DEFINITION. Starts of the device (R471 to R473), its management registers (R474), attestation (R475), firmware images
(R476), and the registers that have no step of their own. -/

namespace Sys2Proof.Machine

/-! ### A start -/

/-- Compute cores with two uncorrectable register or tile errors within 24 hours (R470). -/
def MgmtState.failing (m : MgmtState) : List Retired :=
  let two (c : Nat) : Bool :=
    let ts := (m.regErrs.filter fun e => e.1 = c).map (·.2)
    ts.zipIdx.any fun x => ts.zipIdx.any fun y => x.2 < y.2 && x.1 ≤ y.1 + dayCycles && y.1 ≤ x.1 + dayCycles
  ((List.range Config.cores).filter two).map fun c => ⟨0, c / Config.coresPerDie, c % Config.coresPerDie⟩

/-- Units that join the retirement list. -/
def addRetired (l new : List Retired) : List Retired := l ++ new.filter fun x => !l.contains x

/-- The die of minimal mode (R472): the lowest of those that pass stage 4. -/
def lowestDie (dies : Nat) : Option Nat := (List.range 4).find? fun n => dies.testBit n

/-- The code of a failure in the boot record (R471). -/
def startCode : StartFailure → Nat
  | .stage c => c | .trip _ => 7

/-- The stages that have run, the failing one among them. -/
def stagesRun : Option StartFailure → Nat
  | none => 6 | some (.stage c) => c | some (.trip n) => n

/-- The signature of an image's part holds of its digest (R471); the images that the device was made with are good (log 66). -/
def FwImage.holds (i : FwImage) (part : FwParts → Bytes) : Bool :=
  match i.signed with
  | none => true
  | some (d, g) => (part d).length == 48 && (part g).length == 96 && Config.verifies (part d) (part g)

/-- A stage fails by itself (R471, R472): stages 1 and 5 where an image does not verify, the Paddock monitor in a full start
alone; stage 4 where the self-test passes no die, and in a full start where it does not pass all four. -/
def stageFails (minimal : Bool) (image : FwImage) (dies : Nat) : Nat → Bool
  | 1 => !image.holds (·.groom)
  | 4 => if minimal then (lowestDie dies).isNone else dies % 16 ≠ 15
  | 5 => !image.holds (·.shed) || (!minimal && !image.holds (·.monitor))
  | _ => false

/-- How the stages end: at the first that fails, by itself or as `failed` says, or at the thermal trip that comes before it. -/
def firstFailure (minimal : Bool) (image : FwImage) (failed : Option StartFailure) (dies : Nat) : Option StartFailure :=
  let first := ([1, 2, 3, 4, 5, 6].find? fun k => failed = some (.stage k) || stageFails minimal image dies k)
  match failed, first with
  | some (.trip n), some k => if k ≤ n then some (.stage k) else some (.trip n)
  | some (.trip n), none => some (.trip n)
  | _, k => k.map .stage

/-- How a start ends: its mode, the dies in use, and its failure. -/
structure StartResult where
  mode : Nat
  dies : Nat
  failed : Option StartFailure
  deriving DecidableEq, Repr

/-- The stages' outcome (R471, R472): in minimal mode the lowest die that passes is in use. -/
def startResult (minimal : Bool) (image : FwImage) (failed : Option StartFailure) (dies : Nat) : StartResult :=
  match firstFailure minimal image failed dies with
  | some c => ⟨2, 0, some c⟩
  | none => if minimal then ⟨1, 2 ^ (lowestDie dies).getD 0, none⟩ else ⟨0, 15, none⟩

/-- What a controller keeps across starts: its spare-row maps and its rows' errors (R469, R471 stage 3). -/
def keepSpares (l : Sparse StackCtl) : Sparse StackCtl :=
  (l.filter fun e => !e.2.spares.isEmpty || !e.2.rowErrs.isEmpty).map fun e =>
    (e.1, { StackCtl.reset with spares := e.2.spares, rowErrs := e.2.rowErrs })

/-- The measurements of a start (R475), each taken as its stage runs: of an image that no stage reached there is none, and
48 zero bytes stand for it (log 66). -/
def stageDigests (image : FwImage) (minimal : Bool) (failed : Option StartFailure) (boot : Bytes) : List (Option Bytes) :=
  let taken (stage : Nat) (part : FwParts → Bytes) : Option Bytes :=
    if stage ≤ stagesRun failed then image.signed.map fun x => part x.1 else some (leBytes 48 0)
  [taken 1 (·.groom), taken 5 (·.shed), if minimal then some (leBytes 48 0) else taken 5 (·.monitor), some boot]

/-- The image that the next start runs (R476). -/
def MgmtState.image (m : MgmtState) : FwImage := if m.fresh then m.other else m.active

/-- Management after a start (R471 to R476): `wall` is the time at which the device goes down. -/
def MgmtState.start (m : MgmtState) (r : StartResult) (began wall : Nat) : MgmtState :=
  let now := m.image
  let old := if m.fresh then m.active else m.other
  let back := m.fresh && (r.failed = some (.stage 1) || r.failed = some (.stage 5))
  let retired := addRetired m.retired m.failing
  let lastf := match r.failed with | some c => startCode c :: m.lastf.take 2 | none => m.lastf
  let counted := (retired.filter fun x => x.kind ≤ 1).length
  let boot := bootBytes now.version r.mode r.dies began lastf counted
  { mode := r.mode, dies := r.dies, boot := boot, bootList := retired, measured := stageDigests now (3 ≤ began) r.failed boot,
    base := wall,
    mmexit := false, fwver := now.version, nvCount := if r.failed.isSome then began + 1 else 0, lastf := lastf, corr := [],
    uncorr := [], retired := retired, regErrs := m.regErrs, active := if back then old else now,
    other := if back then now else old, fresh := false,
    log := m.log ++ (if m.tripped then [leBytes 1 7] else []), tripped := false, temps := [] }

/-- A reset and the start that follows (R471 to R473): `failed` says what else than an image or the self-test ends it, and
`dies` names the dies that pass stage 4. What is not kept in non-volatile storage is as after reset (log 20). -/
def execDeviceStart (failed : Option StartFailure) (dies : Nat) (s : State) : Out :=
  let known := match failed with | some (.stage c) => 1 ≤ c && c ≤ 6 | some (.trip n) => n ≤ 5 | none => true
  let began := if s.mgmt.mmexit then 0 else s.mgmt.nvCount
  let r := startResult (3 ≤ began) s.mgmt.image failed dies
  if !known then notNow
  else
    let z := State.reset
    .next { z with agenda := s.agenda, steps := s.steps, free := s.free, outbox := s.outbox, mgmt := s.mgmt.start r began s.wall,
                   shed := { z.shed with retired := s.shed.retired }, pad := { z.pad with retired := s.pad.retired },
                   sweep := { z.sweep with ctls := keepSpares s.sweep.ctls }, fabric := { z.fabric with up := r.mode ≠ 2 } }

/-- `mmexit` set (R473): the next start runs in full. -/
def State.setMmexit (s : State) : State := { s with mgmt := { s.mgmt with mmexit := true } }

/-- System software writes `mmexit` (R473). -/
def execMmexit (s : State) : Out := .next s.setMmexit

/-! ### Management registers (R465, R474) -/

/-- The counters of R465 as one block. -/
def MgmtState.counters (m : MgmtState) : Bytes :=
  ((List.range 8).map fun i => leBytes 4 (sget 0 m.corr i) ++ leBytes 4 (sget 0 m.uncorr i)).flatten

/-- BAR0 as software reads it (R474): the boot record, `mmexit` as 0, the counters and the retirement list. -/
def MgmtState.bar0 (m : MgmtState) : Bytes :=
  let list := (m.bootList.map fun x => leBytes 2 x.kind ++ leBytes 2 x.die ++ leBytes 4 x.unit).flatten
  m.boot ++ leBytes (0x100 - 16) 0 ++ m.counters ++ leBytes (0x1000 - 0x140) 0 ++ list

/-- A measurement of an image (R475). -/
def imageDigest (k : Nat) (d : Option Bytes) : Bytes :=
  match d with
  | some b => b
  | none => (List.range 48).map (Config.imageDigest k)

/-- The measurement blocks of R475, as the last start's stages took them. -/
def MgmtState.measurements (m : MgmtState) : List Bytes :=
  m.measured.zipIdx.map fun e => imageDigest (e.2 + 1) e.1

/-- The signature over a transcript (R475): two numbers of P-384. -/
def signatureOf (transcript : List Bytes) : Bytes := (List.range 96).map (Config.signature transcript)

/-- `GET_MEASUREMENTS` (R475): the blocks with a signature over the transcript, of the request and them (log 66). -/
def execGetMeasurements (s : State) : Out :=
  let blocks := s.mgmt.measurements
  let sig := signatureOf (Config.spdmRequest s.free :: blocks)
  .next (State.emit { s with free := s.free + 1 } (.spdm blocks sig))

/-- A firmware image arrives through the management interface (R476): it is verified on receipt, each part against its signature
(R471), and refused where one does not hold. -/
def execFirmwareImageWrite (digests : FwParts) (version : Nat) (signatures : FwParts) (s : State) : Out :=
  let i : FwImage := ⟨some (digests, signatures), version % 65536⟩
  if i.holds (·.groom) && i.holds (·.shed) && i.holds (·.monitor) then
    .next ({ s with mgmt := { s.mgmt with other := i, fresh := true } }.emit (.access accessOk []))
  else .next (s.emit (.access accessNone []))

/-! ### Registers without a step of their own -/

/-- A context that system software sets up or changes (R352, R359, R436). -/
def State.modCtx (s : State) (ctx : Nat) (f : Ctx → Ctx) : State :=
  { s with xlate := { s.xlate with ctxs := supd s.xlate.ctxs ctx f } }

/-- A context's root (R352): 2 MiB aligned. -/
def State.setRoot (s : State) (ctx root : Nat) : Out :=
  if 65536 ≤ ctx ∨ root % 2 ^ 21 ≠ 0 then notNow
  else match sfind s.xlate.ctxs ctx with
    | some _ => .next (s.modCtx ctx fun c => { c with root := root })
    | none => .next { s with xlate := { s.xlate with ctxs := sput s.xlate.ctxs ctx ⟨root, [], false, false⟩ } }

/-- A Crib assigned to a context (R409, R411, R472): a fresh one, with the frames of its window. -/
def State.assignCrib (s : State) (crib ctx wmax : Nat) (frames : List Nat) : Out :=
  if s.mgmt.mode = 1 ∨ (sfind s.pad.cribs crib).isSome ∨ (sfind s.xlate.ctxs ctx).isNone ∨ wmax % 65536 ≠ 0 ∨ 2 ^ 28 < wmax
      ∨ frames.length * 65536 ≠ wmax ∨ 2048 ≤ crib then notNow
  else .next (s.setCrib crib ⟨ctx, wmax, frames, [], [], 0, 0, 0, false, s.now, none⟩)

/-- A register written that has no device step of its own (R8). -/
def execRegisterWrite (reg : DevReg) (s : State) : Out :=
  let known (ctx : Nat) : Bool := (sfind s.xlate.ctxs ctx).isSome
  if s.mgmt.tripped ∨ s.mgmt.mode = 2 then notNow
  else match reg with
    | .bar0 off value => if off = 0x10 ∧ value = 1 then .next s.setMmexit else .next s
    | .cribPage core off data => s.storePage core off data
    | .ctxRoot ctx root => s.setRoot ctx root
    | .pager ctx n header =>
      if !known ctx ∨ n = 0 ∨ 2047 < n ∨ header % 64 ≠ 0 then notNow
      else .next (s.modCtx ctx fun c => { c with pagers := sput c.pagers n header })
    | .debugGrant ctx on => if !known ctx then notNow else .next (s.modCtx ctx fun c => { c with debugGrant := on })
    | .launchQueue n ctx header =>
      if !known ctx ∨ 1024 ≤ n ∨ header % 64 ≠ 0 then notNow
      else
        let q : LaunchQueue := ⟨ctx, header, [], s.launch.nextReg, []⟩
        .next { s with launch := { s.launch with queues := sput s.launch.queues n q, nextReg := s.launch.nextReg + 1 } }
    | .nvmePair n ctx ns header =>
      if !known ctx ∨ 64 ≤ n ∨ header % 64 ≠ 0 then notNow
      else .next { s with nvme := { s.nvme with pairs := sput s.nvme.pairs n ⟨ctx, ns, header, 0⟩ } }
    | .communicator n members rank =>
      if members ≤ rank then notNow
      else .next { s with fabric := { s.fabric with comms := sput s.fabric.comms n ⟨members, rank⟩ } }
    | .cribAssign crib ctx wmax frames => s.assignCrib crib ctx wmax frames

end Sys2Proof.Machine
end

