-- ==== Sys2Proof/Machine/HartInt.lean ====
section
/-! DEFINITION. The integer instructions of a Paddock core (R9, R407: RV64I, M, Zba and Zbb, taken from the RISC-V
standard, log 30): their fields, the immediates, the results, and the expansion of the compressed ones. -/

namespace Sys2Proof.Machine

/-- Integer register n of an episode; register 0 reads 0. -/
def Episode.xr (e : Episode) (n : Nat) : DWord := if n = 0 then 0 else sget 0 e.x n

/-- The episode with an integer register written; register 0 takes nothing. -/
def Episode.setX (e : Episode) (n : Nat) (v : DWord) : Episode := if n = 0 then e else { e with x := sset 0 e.x n v }

/-- Fields of a 32-bit instruction. -/
def rvRd (w : Nat) : Nat := bits w 11 7
def rvF3 (w : Nat) : Nat := bits w 14 12
def rvRs1 (w : Nat) : Nat := bits w 19 15
def rvRs2 (w : Nat) : Nat := bits w 24 20
def rvF7 (w : Nat) : Nat := bits w 31 25

/-- An n-bit pattern sign-extended to 64 bits. -/
def sx (x n : Nat) : DWord := BitVec.ofInt 64 (sext x n)

/-- The immediates of the I, S, B, U and J forms. -/
def rvImmI (w : Nat) : DWord := sx (bits w 31 20) 12
def rvImmS (w : Nat) : DWord := sx (bits w 31 25 * 32 + bits w 11 7) 12
def rvImmB (w : Nat) : DWord :=
  sx (bits w 31 31 * 4096 + bits w 7 7 * 2048 + bits w 30 25 * 32 + bits w 11 8 * 2) 13
def rvImmU (w : Nat) : DWord := sx (bits w 31 12 * 4096) 32
def rvImmJ (w : Nat) : DWord :=
  sx (bits w 31 31 * 2 ^ 20 + bits w 19 12 * 4096 + bits w 20 20 * 2048 + bits w 30 21 * 2) 21

/-- The low 32 bits of a value, sign-extended. -/
def sxw (x : DWord) : DWord := sx x.toNat 32
/-- The low 32 bits of a value, zero-extended. -/
def zxw (x : DWord) : DWord := BitVec.ofNat 64 (x.toNat % 2 ^ 32)

/-- Signed division, where division by 0 gives -1. -/
def rvDiv {n : Nat} (a b : BitVec n) : BitVec n := if b = 0 then BitVec.allOnes n else a.sdiv b
def rvDivu {n : Nat} (a b : BitVec n) : BitVec n := if b = 0 then BitVec.allOnes n else a.udiv b
/-- The remainder, where division by 0 gives the dividend. -/
def rvRem {n : Nat} (a b : BitVec n) : BitVec n := if b = 0 then a else a.srem b
def rvRemu {n : Nat} (a b : BitVec n) : BitVec n := if b = 0 then a else a.umod b

/-- Leading zeros of the low n bits. -/
def leadZeros (n x : Nat) : Nat := if x % 2 ^ n = 0 then n else n - 1 - Nat.log2 (x % 2 ^ n)

/-- Trailing zeros, at most n. -/
def trailZeros : Nat → Nat → Nat
  | 0, _ => 0
  | n + 1, x => if x % 2 = 1 then 0 else 1 + trailZeros n (x / 2)

/-- Each byte that is not zero becomes 0xFF. -/
def orcB (x : DWord) : DWord :=
  BitVec.ofNat 64 (ofLe ((leBytes 8 x.toNat).map fun b => if b = 0 then 0 else 0xFF))

/-- The bytes in the other order. -/
def rev8 (x : DWord) : DWord := BitVec.ofNat 64 (ofLe (leBytes 8 x.toNat).reverse)

/-- The results of opcode OP (0x33); none where the encoding is not assigned. -/
def rvOp (f7 f3 : Nat) (a b : DWord) : Option DWord :=
  let sh := b.toNat % 64
  let flag (p : Bool) : DWord := if p then 1 else 0
  match f7, f3 with
  | 0x00, 0 => some (a + b)
  | 0x20, 0 => some (a - b)
  | 0x00, 1 => some (a <<< sh)
  | 0x00, 2 => some (flag (a.slt b))
  | 0x00, 3 => some (flag (a.ult b))
  | 0x00, 4 => some (a ^^^ b)
  | 0x00, 5 => some (a >>> sh)
  | 0x20, 5 => some (a.sshiftRight sh)
  | 0x00, 6 => some (a ||| b)
  | 0x00, 7 => some (a &&& b)
  | 0x01, 0 => some (a * b)
  | 0x01, 1 => some (BitVec.ofInt 64 (a.toInt * b.toInt / 2 ^ 64))
  | 0x01, 2 => some (BitVec.ofInt 64 (a.toInt * b.toNat / 2 ^ 64))
  | 0x01, 3 => some (BitVec.ofNat 64 (a.toNat * b.toNat / 2 ^ 64))
  | 0x01, 4 => some (rvDiv a b)
  | 0x01, 5 => some (rvDivu a b)
  | 0x01, 6 => some (rvRem a b)
  | 0x01, 7 => some (rvRemu a b)
  | 0x10, 2 => some ((a <<< 1) + b)
  | 0x10, 4 => some ((a <<< 2) + b)
  | 0x10, 6 => some ((a <<< 3) + b)
  | 0x20, 4 => some (~~~(a ^^^ b))
  | 0x20, 6 => some (a ||| ~~~b)
  | 0x20, 7 => some (a &&& ~~~b)
  | 0x05, 4 => some (if b.slt a then b else a)
  | 0x05, 5 => some (if b.ult a then b else a)
  | 0x05, 6 => some (if a.slt b then b else a)
  | 0x05, 7 => some (if a.ult b then b else a)
  | 0x30, 1 => some (a.rotateLeft sh)
  | 0x30, 5 => some (a.rotateRight sh)
  | _, _ => none

/-- The results of opcode OP-32 (0x3B). -/
def rvOpW (f7 f3 : Nat) (rs2 : Nat) (a b : DWord) : Option DWord :=
  let sh := b.toNat % 32
  let x := a.setWidth 32
  let y := b.setWidth 32
  match f7, f3 with
  | 0x00, 0 => some (sxw (a + b))
  | 0x20, 0 => some (sxw (a - b))
  | 0x00, 1 => some ((x <<< sh).signExtend 64)
  | 0x00, 5 => some ((x >>> sh).signExtend 64)
  | 0x20, 5 => some ((x.sshiftRight sh).signExtend 64)
  | 0x01, 0 => some ((x * y).signExtend 64)
  | 0x01, 4 => some ((rvDiv x y).signExtend 64)
  | 0x01, 5 => some ((rvDivu x y).signExtend 64)
  | 0x01, 6 => some ((rvRem x y).signExtend 64)
  | 0x01, 7 => some ((rvRemu x y).signExtend 64)
  | 0x04, 0 => some (zxw a + b)
  | 0x10, 2 => some ((zxw a <<< 1) + b)
  | 0x10, 4 => some ((zxw a <<< 2) + b)
  | 0x10, 6 => some ((zxw a <<< 3) + b)
  | 0x04, 4 => if rs2 = 0 then some (BitVec.ofNat 64 (a.toNat % 2 ^ 16)) else none
  | 0x30, 1 => some ((x.rotateLeft sh).signExtend 64)
  | 0x30, 5 => some ((x.rotateRight sh).signExtend 64)
  | _, _ => none

/-- The results of opcode OP-IMM (0x13). -/
def rvOpImm (w : Nat) (a : DWord) : Option DWord :=
  let i := rvImmI w
  let sh := bits w 25 20
  let flag (p : Bool) : DWord := if p then 1 else 0
  match rvF3 w with
  | 0 => some (a + i)
  | 2 => some (flag (a.slt i))
  | 3 => some (flag (a.ult i))
  | 4 => some (a ^^^ i)
  | 6 => some (a ||| i)
  | 7 => some (a &&& i)
  | 1 =>
    if bits w 31 26 = 0 then some (a <<< sh)
    else match bits w 31 20 with
      | 0x600 => some (BitVec.ofNat 64 (leadZeros 64 a.toNat))
      | 0x601 => some (BitVec.ofNat 64 (trailZeros 64 a.toNat))
      | 0x602 => some (BitVec.ofNat 64 (countOnes 64 a.toNat))
      | 0x604 => some (sx a.toNat 8)
      | 0x605 => some (sx a.toNat 16)
      | _ => none
  | _ =>
    match bits w 31 26 with
    | 0x00 => some (a >>> sh)
    | 0x10 => some (a.sshiftRight sh)
    | 0x18 => some (a.rotateRight sh)
    | _ => if bits w 31 20 = 0x287 then some (orcB a) else if bits w 31 20 = 0x6B8 then some (rev8 a) else none

/-- The results of opcode OP-IMM-32 (0x1B). -/
def rvOpImmW (w : Nat) (a : DWord) : Option DWord :=
  let x := a.setWidth 32
  let sh := bits w 24 20
  match rvF3 w with
  | 0 => some (sxw (a + rvImmI w))
  | 1 =>
    if rvF7 w = 0 then some ((x <<< sh).signExtend 64)
    else if bits w 31 26 = 0x02 then some (zxw a <<< bits w 25 20)
    else match bits w 31 20 with
      | 0x600 => some (BitVec.ofNat 64 (leadZeros 32 a.toNat))
      | 0x601 => some (BitVec.ofNat 64 (trailZeros 32 a.toNat))
      | 0x602 => some (BitVec.ofNat 64 (countOnes 32 a.toNat))
      | _ => none
  | 5 =>
    match rvF7 w with
    | 0x00 => some ((x >>> sh).signExtend 64)
    | 0x20 => some ((x.sshiftRight sh).signExtend 64)
    | 0x30 => some ((x.rotateRight sh).signExtend 64)
    | _ => none
  | _ => none

/-- A conditional branch is taken; none where its code is not assigned. -/
def rvTaken (f3 : Nat) (a b : DWord) : Option Bool :=
  match f3 with
  | 0 => some (a = b)
  | 1 => some (a ≠ b)
  | 4 => some (a.slt b)
  | 5 => some (!a.slt b)
  | 6 => some (a.ult b)
  | 7 => some (!a.ult b)
  | _ => none

/-- What an atomic memory operation writes, on n bits; none where its code is not assigned. -/
def rvAmo {n : Nat} (f5 : Nat) (m x : BitVec n) : Option (BitVec n) :=
  match f5 with
  | 0x00 => some (m + x)
  | 0x01 => some x
  | 0x04 => some (m ^^^ x)
  | 0x08 => some (m ||| x)
  | 0x0C => some (m &&& x)
  | 0x10 => some (if x.slt m then x else m)
  | 0x14 => some (if m.slt x then x else m)
  | 0x18 => some (if x.ult m then x else m)
  | 0x1C => some (if m.ult x then x else m)
  | _ => none

/-! ### Compressed instructions -/

/-- Words of the 32-bit forms. -/
def rvI (opc rd f3 rs1 imm : Nat) : Nat := opc + rd * 2 ^ 7 + f3 * 2 ^ 12 + rs1 * 2 ^ 15 + imm % 4096 * 2 ^ 20
def rvS (opc f3 rs1 rs2 imm : Nat) : Nat :=
  opc + imm % 32 * 2 ^ 7 + f3 * 2 ^ 12 + rs1 * 2 ^ 15 + rs2 * 2 ^ 20 + imm / 32 % 128 * 2 ^ 25
def rvR (opc rd f3 rs1 rs2 f7 : Nat) : Nat := opc + rd * 2 ^ 7 + f3 * 2 ^ 12 + rs1 * 2 ^ 15 + rs2 * 2 ^ 20 + f7 * 2 ^ 25
def rvB (f3 rs1 rs2 imm : Nat) : Nat :=
  0x63 + bits imm 11 11 * 2 ^ 7 + bits imm 4 1 * 2 ^ 8 + f3 * 2 ^ 12 + rs1 * 2 ^ 15 + rs2 * 2 ^ 20 + bits imm 10 5 * 2 ^ 25
    + bits imm 12 12 * 2 ^ 31
def rvJ (rd imm : Nat) : Nat :=
  0x6F + rd * 2 ^ 7 + bits imm 19 12 * 2 ^ 12 + bits imm 11 11 * 2 ^ 20 + bits imm 10 1 * 2 ^ 21 + bits imm 20 20 * 2 ^ 31

/-- An n-bit signed offset as the pattern of m bits. -/
def reSign (x n m : Nat) : Nat := wrap (sext x n) m

/-- Quadrant 0: loads and stores by `x8` to `x15`. -/
def expandC0 (h : Nat) : Option Nat :=
  let rd := 8 + bits h 4 2
  let r1 := 8 + bits h 9 7
  let off4 := bits h 5 5 * 64 + bits h 12 10 * 8 + bits h 6 6 * 4
  let off8 := bits h 6 5 * 64 + bits h 12 10 * 8
  match bits h 15 13 with
  | 0 =>
    let i := bits h 10 7 * 64 + bits h 12 11 * 16 + bits h 5 5 * 8 + bits h 6 6 * 4
    if i = 0 then none else some (rvI 0x13 rd 0 2 i)
  | 1 => some (rvI 0x07 rd 3 r1 off8)
  | 2 => some (rvI 0x03 rd 2 r1 off4)
  | 3 => some (rvI 0x03 rd 3 r1 off8)
  | 5 => some (rvS 0x27 3 r1 rd off8)
  | 6 => some (rvS 0x23 2 r1 rd off4)
  | 7 => some (rvS 0x23 3 r1 rd off8)
  | _ => none

/-- Quadrant 1: immediates, arithmetic on `x8` to `x15`, jumps and branches. -/
def expandC1 (h : Nat) : Option Nat :=
  let rd := bits h 11 7
  let i6 := bits h 12 12 * 32 + bits h 6 2
  let i := reSign i6 6 12
  let r1 := 8 + bits h 9 7
  let r2 := 8 + bits h 4 2
  let br := reSign (bits h 12 12 * 256 + bits h 6 5 * 64 + bits h 2 2 * 32 + bits h 11 10 * 8 + bits h 4 3 * 2) 9 13
  match bits h 15 13 with
  | 0 => some (rvI 0x13 rd 0 rd i)
  | 1 => if rd = 0 then none else some (rvI 0x1B rd 0 rd i)
  | 2 => some (rvI 0x13 rd 0 0 i)
  | 3 =>
    if i6 = 0 then none
    else if rd = 2 then
      some (rvI 0x13 2 0 2 (reSign (bits h 12 12 * 512 + bits h 4 3 * 128 + bits h 5 5 * 64 + bits h 2 2 * 32
        + bits h 6 6 * 16) 10 12))
    else some (0x37 + rd * 2 ^ 7 + reSign i6 6 20 * 2 ^ 12)
  | 4 =>
    match bits h 11 10 with
    | 0 => some (rvI 0x13 r1 5 r1 i6)
    | 1 => some (rvI 0x13 r1 5 r1 (i6 + 0x400))
    | 2 => some (rvI 0x13 r1 7 r1 i)
    | _ =>
      match bits h 12 12, bits h 6 5 with
      | 0, 0 => some (rvR 0x33 r1 0 r1 r2 0x20)
      | 0, 1 => some (rvR 0x33 r1 4 r1 r2 0)
      | 0, 2 => some (rvR 0x33 r1 6 r1 r2 0)
      | 0, 3 => some (rvR 0x33 r1 7 r1 r2 0)
      | 1, 0 => some (rvR 0x3B r1 0 r1 r2 0x20)
      | 1, 1 => some (rvR 0x3B r1 0 r1 r2 0)
      | _, _ => none
  | 5 =>
    some (rvJ 0 (reSign (bits h 12 12 * 2048 + bits h 8 8 * 1024 + bits h 10 9 * 256 + bits h 6 6 * 128 + bits h 7 7 * 64
      + bits h 2 2 * 32 + bits h 11 11 * 16 + bits h 5 3 * 2) 12 21))
  | 6 => some (rvB 0 r1 0 br)
  | _ => some (rvB 1 r1 0 br)

/-- Quadrant 2: shifts, accesses by the stack pointer, jumps through registers and moves. -/
def expandC2 (h : Nat) : Option Nat :=
  let rd := bits h 11 7
  let r2 := bits h 6 2
  let lw := bits h 3 2 * 64 + bits h 12 12 * 32 + bits h 6 4 * 4
  let ld := bits h 4 2 * 64 + bits h 12 12 * 32 + bits h 6 5 * 8
  let sw := bits h 8 7 * 64 + bits h 12 9 * 4
  let sd := bits h 9 7 * 64 + bits h 12 10 * 8
  match bits h 15 13 with
  | 0 => some (rvI 0x13 rd 1 rd (bits h 12 12 * 32 + r2))
  | 1 => some (rvI 0x07 rd 3 2 ld)
  | 2 => if rd = 0 then none else some (rvI 0x03 rd 2 2 lw)
  | 3 => if rd = 0 then none else some (rvI 0x03 rd 3 2 ld)
  | 4 =>
    if bits h 12 12 = 0 then
      if r2 = 0 then (if rd = 0 then none else some (rvI 0x67 0 0 rd 0)) else some (rvR 0x33 rd 0 0 r2 0)
    else if r2 = 0 then (if rd = 0 then some 0x00100073 else some (rvI 0x67 1 0 rd 0))
    else some (rvR 0x33 rd 0 rd r2 0)
  | 5 => some (rvS 0x27 3 2 r2 sd)
  | 6 => some (rvS 0x23 2 2 r2 sw)
  | _ => some (rvS 0x23 3 2 r2 sd)

/-- The 32-bit instruction that a compressed one stands for; none where it is not assigned. -/
def expandC (h : Nat) : Option Nat :=
  match h % 4 with
  | 0 => expandC0 h
  | 1 => expandC1 h
  | 2 => expandC2 h
  | _ => none

end Sys2Proof.Machine
end

