-- ==== Sys2Proof/Machine/HartFloat.lean ====
section
/-! DEFINITION. The float instructions of a Paddock core (R9, R407: RV64F and RV64D, taken from the RISC-V standard,
log 30): results with their exception flags. -/

namespace Sys2Proof.Machine

/-- The double format of IEEE 754. -/
def F64 : FloatFmt := ⟨11, 52, 1023, 0x7FEFFFFFFFFFFFFF, true, 0x7FF8000000000000⟩

/-- The exception flags: invalid, division by zero, overflow, underflow, inexact. -/
def fNV : Nat := 16
def fDZ : Nat := 8
def fOF : Nat := 4
def fUF : Nat := 2
def fNX : Nat := 1

/-- A float result: its pattern and the flags that it raises. -/
structure FRes where
  val : Nat
  flags : Nat
  deriving DecidableEq, Repr

/-- A significand goes up under a rounding mode: 0 nearest even, 1 toward zero, 2 down, 3 up, 4 nearest away. -/
def rvUp (rm : Nat) (neg odd : Bool) (rem unit : Nat) (sticky : Bool) : Bool :=
  match rm with
  | 0 => unit < 2 * rem || (unit == 2 * rem && (sticky || odd))
  | 1 => false
  | 2 => neg && (rem != 0 || sticky)
  | 3 => !neg && (rem != 0 || sticky)
  | _ => unit ≤ 2 * rem

/-- man * 2^exp rounded to a multiple of 2^q: the multiple, and whether it is exact. -/
def rvQuant (rm : Nat) (neg : Bool) (man : Nat) (exp q : Int) (sticky : Bool) : Nat × Bool :=
  let (k, rem, unit) := if q ≤ exp then (man * 2 ^ (exp - q).toNat, 0, 2)
    else
      let u := 2 ^ (q - exp).toNat
      (man / u, man % u, u)
  (if rvUp rm neg (k % 2 == 1) rem unit sticky then k + 1 else k, rem == 0 && !sticky)

/-- The largest finite value or the infinity, as an overflow gives it. -/
def rvOver (F : FloatFmt) (rm : Nat) (neg : Bool) : Nat :=
  let big := F.maxFin + signBit F neg
  match rm with
  | 1 => big
  | 2 => if neg then infBits F neg else big
  | 3 => if neg then big else infBits F neg
  | _ => infBits F neg

/-- A magnitude that is not zero rounded into a format; tininess is met after rounding. -/
def rvFin (F : FloatFmt) (rm : Nat) (neg : Bool) (man : Nat) (exp : Int) (sticky : Bool) : FRes :=
  let qmin := 1 - F.bias - F.manBits
  let qfree := exp + (Nat.log2 man : Int) - F.manBits
  let q := max qfree qmin
  let (k, exact) := rvQuant rm neg man exp q sticky
  let code := if k < 2 ^ F.manBits then k else ((q - qmin + 1).toNat - 1) * 2 ^ F.manBits + k
  if F.maxFin < code then ⟨rvOver F rm neg, fOF + fNX⟩
  else
    let free := (rvQuant rm neg man exp qfree sticky).1
    let tiny := qfree < qmin && free < 2 ^ (qmin + F.manBits - qfree).toNat
    ⟨code + signBit F neg, if exact then 0 else if tiny then fUF + fNX else fNX⟩

/-- An exact value rounded into a format. -/
def rvRound (F : FloatFmt) (rm : Nat) : Ext → FRes
  | .nan => ⟨F.canonNaN, 0⟩
  | .inf n => ⟨infBits F n, 0⟩
  | .fin n m e => if m = 0 then ⟨signBit F n, 0⟩ else rvFin F rm n m e false

/-- A pattern is a signalling NaN. -/
def isSnan (F : FloatFmt) (x : Nat) : Bool := floatVal F x = .nan && bits x (F.manBits - 1) (F.manBits - 1) = 0

/-- The invalid flag of signalling operands. -/
def nvOf (F : FloatFmt) (l : List Nat) : Nat := if l.any (isSnan F) then fNV else 0

/-- A result of operands, where a NaN from operands that are none raises the invalid flag. -/
def rvArith (F : FloatFmt) (rm : Nat) (l : List Nat) (x : Ext) (invalid : Bool) : FRes :=
  let r := rvRound F rm x
  ⟨r.val, r.flags ||| nvOf F l ||| (if invalid then fNV else 0)⟩

/-- The rounding mode whose exact zero sums are negative is rounding down alone. -/
def zeroMode (rm : Nat) : Rnd := if rm = 2 then .rd else .rn

/-- None of the values is a NaN. -/
def noNan (l : List Ext) : Bool := l.all fun x => x != .nan

/-- Sum, product, quotient, square root and fused multiply-add. -/
def rvAdd (F : FloatFmt) (rm x y : Nat) : FRes :=
  let r := addExt (zeroMode rm) (floatVal F x) (floatVal F y)
  rvArith F rm [x, y] r (r = .nan && noNan [floatVal F x, floatVal F y])

def rvMul (F : FloatFmt) (rm x y : Nat) : FRes :=
  let r := mulExt (floatVal F x) (floatVal F y)
  rvArith F rm [x, y] r (r = .nan && noNan [floatVal F x, floatVal F y])

/-- A quotient or root that is exact, or a magnitude with more below its last bit. -/
def rvApprox (F : FloatFmt) (rm : Nat) : Approx → FRes
  | .exact x => rvRound F rm x
  | .above n m e => rvFin F rm n m e true

def rvFdiv (F : FloatFmt) (rm x y : Nat) : FRes :=
  let a := floatVal F x
  let b := floatVal F y
  let q := fdivApprox a b
  let r := rvApprox F rm q
  let dz := !isExc a && !isZero a && isZero b
  ⟨r.val, r.flags ||| nvOf F [x, y] ||| (if q = .exact .nan && noNan [a, b] then fNV else 0) ||| (if dz then fDZ else 0)⟩

/-- The root of a finite value, to 80 bits and more. -/
def rvRoot : Ext → Approx
  | .fin n m e =>
    if m = 0 then .exact (.fin n 0 0)
    else if n then .exact .nan
    else
      let m2 := if e % 2 = 0 then m else 2 * m
      let e2 := if e % 2 = 0 then e else e - 1
      let s := m2 * 2 ^ 160
      let r := isqrt s
      if r * r = s then .exact (.fin false r (e2 / 2 - 80)) else .above false r (e2 / 2 - 80)
  | .inf n => if n then .exact .nan else .exact (.inf false)
  | .nan => .exact .nan

def rvSqrt (F : FloatFmt) (rm x : Nat) : FRes :=
  let a := floatVal F x
  let r := rvApprox F rm (rvRoot a)
  ⟨r.val, r.flags ||| nvOf F [x] ||| (if rvRoot a = .exact .nan && a ≠ .nan then fNV else 0)⟩

def rvFma (F : FloatFmt) (rm x y z : Nat) (negP negZ : Bool) : FRes :=
  let a := floatVal F x
  let b := floatVal F y
  let c := floatVal F z
  let p := mulExt a b
  let p := if negP then negExt p else p
  let r := addExt (zeroMode rm) p (if negZ then negExt c else c)
  let bad := (p = .nan && noNan [a, b]) || (r = .nan && noNan [a, b, c])
  rvArith F rm [x, y, z] r bad

/-- The sign of y, its inverse, or the product of the signs, put on x. -/
def rvSign (F : FloatFmt) (f3 x y : Nat) : Option Nat :=
  let top := 2 ^ (F.expBits + F.manBits)
  let s := y / top % 2
  match f3 with
  | 0 => some (x % top + s * top)
  | 1 => some (x % top + (1 - s) * top)
  | 2 => some (x % top + (x / top + s) % 2 * top)
  | _ => none

/-- Conversion of a float value to an integer of n bits. -/
def rvToInt (rm n : Nat) (signed : Bool) (x : Ext) : Int × Nat :=
  let lo : Int := if signed then -(2 ^ (n - 1) : Nat) else 0
  let hi : Int := if signed then (2 ^ (n - 1) : Nat) - 1 else (2 ^ n : Nat) - 1
  match x with
  | .nan => (hi, fNV)
  | .inf neg => (if neg then lo else hi, fNV)
  | .fin neg m e =>
    let (k, exact) := rvQuant rm neg m e 0 false
    let v : Int := if neg then -(k : Int) else k
    if v < lo then (lo, fNV) else if hi < v then (hi, fNV) else (v, if exact then 0 else fNX)

/-- Comparison: less or equal, less, equal. -/
def rvCmp (F : FloatFmt) (f3 x y : Nat) : Option (Bool × Nat) :=
  let a := floatVal F x
  let b := floatVal F y
  let num := noNan [a, b]
  let quiet := nvOf F [x, y]
  match f3 with
  | 0 => some (num && cmpExt a b ≤ 0, if num then 0 else fNV)
  | 1 => some (num && cmpExt a b < 0, if num then 0 else fNV)
  | 2 => some (num && cmpExt a b = 0, quiet)
  | _ => none

/-- The class of a value, as one bit of ten. -/
def rvClass (F : FloatFmt) (x : Nat) : Nat :=
  let neg := x / 2 ^ (F.expBits + F.manBits) % 2 = 1
  let sub := bits x (F.expBits + F.manBits - 1) F.manBits = 0
  match floatVal F x with
  | .nan => if isSnan F x then 256 else 512
  | .inf n => if n then 1 else 128
  | .fin _ m _ =>
    if m = 0 then (if neg then 8 else 16) else if sub then (if neg then 4 else 32) else if neg then 2 else 64

/-! ### Registers -/

/-- Float register n of an episode. -/
def Episode.fr (e : Episode) (n : Nat) : DWord := sget 0 e.f n

def Episode.setF (e : Episode) (n : Nat) (v : DWord) : Episode := { e with f := sset 0 e.f n v }

/-- A single stands in the low half under ones; anything else there reads as the canonical NaN. -/
def unbox (dbl : Bool) (v : DWord) : Nat :=
  if dbl then v.toNat else if bits v.toNat 63 32 = 2 ^ 32 - 1 then v.toNat % 2 ^ 32 else 0x7FC00000

def boxed (dbl : Bool) (x : Nat) : DWord := BitVec.ofNat 64 (if dbl then x else x % 2 ^ 32 + (2 ^ 32 - 1) * 2 ^ 32)

/-- The exception flags gathered in `fcsr`. -/
def Episode.raise (e : Episode) (flags : Nat) : Episode := { e with fcsr := e.fcsr ||| flags }

/-- The rounding mode of an instruction; none where it is not assigned. -/
def Episode.rm (e : Episode) (f3 : Nat) : Option Nat :=
  if f3 ≤ 4 then some f3 else if f3 = 7 ∧ bits e.fcsr 7 5 ≤ 4 then some (bits e.fcsr 7 5) else none

def Episode.putF (e : Episode) (dbl : Bool) (rd : Nat) (r : FRes) : Episode :=
  (e.setF rd (boxed dbl r.val)).raise r.flags

/-- The format of a float instruction: single or double; none for another. -/
def rvFmt (dbl : Bool) : FloatFmt := if dbl then F64 else F32

/-- The fused multiply-adds, by opcode (0x43, 0x47, 0x4B, 0x4F). -/
def Episode.fused (e : Episode) (w : Nat) : Option Episode :=
  if 1 < bits w 26 25 then none
  else match e.rm (rvF3 w) with
    | none => none
    | some rm =>
      let dbl := bits w 26 25 = 1
      let get (n : Nat) : Nat := unbox dbl (e.fr n)
      let opc := w % 128
      some (e.putF dbl (rvRd w) (rvFma (rvFmt dbl) rm (get (rvRs1 w)) (get (rvRs2 w)) (get (bits w 31 27))
        (opc = 0x4B || opc = 0x4F) (opc = 0x47 || opc = 0x4F)))

/-- An integer result of a conversion or a move. -/
def Episode.putX (e : Episode) (w : Nat) (v : DWord) (flags : Nat) : Episode := (e.setX (rvRd w) v).raise flags

/-- The integer that a conversion to a float reads. -/
def rvIntSrc (kind : Nat) (x : DWord) : Int :=
  match kind with
  | 0 => sext x.toNat 32
  | 1 => (x.toNat % 2 ^ 32 : Nat)
  | 2 => x.toInt
  | _ => x.toNat

/-- Opcode OP-FP (0x53); none where the encoding is not assigned. -/
def Episode.opFp (e : Episode) (w : Nat) : Option Episode :=
  if 1 < bits w 26 25 then none
  else
    let dbl := bits w 26 25 = 1
    let F := rvFmt dbl
    let rd := rvRd w
    let r2 := rvRs2 w
    let x := unbox dbl (e.fr (rvRs1 w))
    let y := unbox dbl (e.fr r2)
    let xi := e.xr (rvRs1 w)
    let rounded (g : Nat → Episode) : Option Episode := (e.rm (rvF3 w)).map g
    match bits w 31 27 with
    | 0x00 => rounded fun rm => e.putF dbl rd (rvAdd F rm x y)
    | 0x01 => rounded fun rm => e.putF dbl rd (rvAdd F rm x ((rvSign F 1 y y).getD y))
    | 0x02 => rounded fun rm => e.putF dbl rd (rvMul F rm x y)
    | 0x03 => rounded fun rm => e.putF dbl rd (rvFdiv F rm x y)
    | 0x0B => if r2 = 0 then rounded fun rm => e.putF dbl rd (rvSqrt F rm x) else none
    | 0x04 => (rvSign F (rvF3 w) x y).map fun v => e.putF dbl rd ⟨v, 0⟩
    | 0x05 => if rvF3 w ≤ 1 then some (e.putF dbl rd ⟨fminmax F (rvF3 w = 1) x y, nvOf F [x, y]⟩) else none
    | 0x08 =>
      if (dbl && r2 = 0) || (!dbl && r2 = 1) then
        rounded fun rm =>
          let z := unbox (!dbl) (e.fr (rvRs1 w))
          let r := rvRound F rm (floatVal (rvFmt (!dbl)) z)
          e.putF dbl rd ⟨r.val, r.flags ||| nvOf (rvFmt (!dbl)) [z]⟩
      else none
    | 0x14 => (rvCmp F (rvF3 w) x y).map fun p => e.putX w (if p.1 then 1 else 0) p.2
    | 0x18 =>
      if 3 < r2 then none
      else rounded fun rm =>
        let n := if r2 < 2 then 32 else 64
        let p := rvToInt rm n (r2 % 2 = 0) (floatVal F x)
        e.putX w (if r2 < 2 then sxw (BitVec.ofInt 64 p.1) else BitVec.ofInt 64 p.1) p.2
    | 0x1A =>
      if 3 < r2 then none
      else rounded fun rm => e.putF dbl rd (rvRound F rm (ofSigned false (rvIntSrc r2 xi) 0))
    | 0x1C =>
      if r2 ≠ 0 then none
      else if rvF3 w = 0 then some (e.putX w (if dbl then e.fr (rvRs1 w) else sxw (e.fr (rvRs1 w))) 0)
      else if rvF3 w = 1 then some (e.putX w (BitVec.ofNat 64 (rvClass F x)) 0)
      else none
    | 0x1E => if r2 = 0 ∧ rvF3 w = 0 then some (e.setF rd (boxed dbl xi.toNat)) else none
    | _ => none

end Sys2Proof.Machine
end

