-- ==== Sys2Proof/Machine/Hart.lean ====
section
/-! DEFINITION. An instruction of the episode on a Paddock core (R407, R412): fetch, accesses to its pen, and the effects of
RV64GC with Zba and Zbb (log 30). -/

namespace Sys2Proof.Machine

/-- Where an access of an episode goes (R407). -/
inductive PenPlace
  | local_ (off : Nat) | page (off : Nat) | window (off : Nat) | fault
  deriving DecidableEq, Repr

def Episode.place (e : Episode) (a n : Nat) : PenPlace :=
  if a + n ≤ 0x80000 then .local_ a
  else if 0x10000000 ≤ a ∧ a + n ≤ 0x10001000 then .page (a - 0x10000000)
  else if 0x400000000 ≤ a ∧ a + n ≤ 0x400000000 + e.wlen then .window (a - 0x400000000)
  else .fault

/-- What an access gives: bytes, the reason of a kill (R418), or nothing yet while a stack is in self-refresh. -/
inductive PenGot
  | ok (b : Bytes) | kill (reason : Nat)
  deriving DecidableEq, Repr

/-- The parts of a window access: physical address and length, cut at the frames (R409). -/
def Crib.parts (c : Crib) (off n : Nat) : List (Nat × Nat) :=
  (unitsOf 65536 off n).map fun f =>
    let lo := max off (f * 65536)
    let hi := min (off + n) ((f + 1) * 65536)
    (c.frames.getD f 0 * 65536 + (lo - f * 65536), hi - lo)

/-- The bytes of physical parts in order, with their poison. -/
def State.readPhys (s : State) (ctx : Nat) : List (Nat × Nat) → Bytes → Bool → Bytes × Bool × State
  | [], b, p => (b, p, s)
  | (pa, n) :: t, b, p =>
    let (x, s) := s.readPa (outside ctx) 0 pa n
    s.readPhys ctx t (b ++ x.bytes) (p || x.psn)

/-- Bytes written to physical parts in order. -/
def State.writePhys (s : State) (ctx : Nat) : List (Nat × Nat) → Bytes → State
  | [], _ => s
  | (pa, n) :: t, b => (s.writePa (outside ctx) 0 pa (b.take n)).writePhys ctx t (b.drop n)

/-- A load of an episode (R407, R409). -/
def State.penRead (s : State) (core : Nat) (e : Episode) (a n : Nat) : PenGot × State :=
  match e.place a n with
  | .local_ off => (.ok ((List.range n).map fun i => sget 0 e.mem (off + i)), s)
  | .page off =>
    if n = 8 ∧ off % 8 = 0 then
      match s.cribPage core with
      | some b => (.ok ((b.drop off).take 8), s)
      | none => (.kill 2, s)
    else (.kill 2, s)
  | .window off =>
    match sfind s.pad.cribs e.crib with
    | none => (.kill 2, s)
    | some c =>
      let (b, p, s) := s.readPhys c.ctx (c.parts off n) [] false
      if p then (.kill 5, s) else (.ok b, s)
  | .fault => (.kill 2, s)

/-- The next instruction follows, and the instruction counts as retired (R407). -/
def Episode.retire (e : Episode) (pc : DWord) : Episode := { e with pc := pc, instret := (e.instret + 1) % 2 ^ 64 }

/-- The episode that still runs on a core after a store to its page goes on. -/
def State.retireAt (s : State) (core : Nat) (pc : DWord) : State :=
  match sfind s.pad.eps core with
  | some e => s.setEpisode core (e.retire pc)
  | none => s

/-- A store of an episode (R407, R412), after which its code goes on at pc. -/
def State.penWrite (s : State) (core : Nat) (e : Episode) (a : Nat) (b : Bytes) (pc : DWord) : Out :=
  match e.place a b.length with
  | .local_ off => .next (s.setEpisode core ({ e with mem := storeAt e.mem ((List.range b.length).map (off + ·)) b }.retire pc))
  | .page off =>
    match (s.setEpisode core e).storePage core off b with
    | .next t => .next (t.retireAt core pc)
    | r => r
  | .window off =>
    match sfind s.pad.cribs e.crib with
    | none => .next (s.killEpisode core e 2)
    | some c =>
      .next ((s.writePhys c.ctx (c.parts off b.length) b).setEpisode core (e.retire pc))
  | .fault => .next (s.killEpisode core e 2)

/-- A load of n bytes whose value a function puts into the episode. -/
def State.penLoad (s : State) (core : Nat) (e : Episode) (a n : Nat) (pc : DWord) (put : Nat → Episode) : Out :=
  match s.penRead core e a n with
  | (.ok b, s) => .next (s.setEpisode core ((put (ofLe b)).retire pc))
  | (.kill r, s) => .next (s.killEpisode core e r)

/-- Opcode AMO (0x2F): `lr`, `sc` and the read-modify-write operations (RV64A). -/
def State.hartAmo (s : State) (core : Nat) (e : Episode) (w : Nat) (pc : DWord) : Out :=
  let n := if rvF3 w = 2 then 4 else 8
  let a := (e.xr (rvRs1 w)).toNat
  let ext (v : Nat) : DWord := if n = 4 then sx v 32 else BitVec.ofNat 64 v
  let src := e.xr (rvRs2 w)
  let f (v : Nat) : Option Nat :=
    if n = 4 then (rvAmo (bits w 31 27) (BitVec.ofNat 32 v) (src.setWidth 32)).map (·.toNat)
    else (rvAmo (bits w 31 27) (BitVec.ofNat 64 v) src).map (·.toNat)
  let known : Bool := (bits w 31 27 == 0x02 && rvRs2 w == 0) || bits w 31 27 == 0x03 || (f 0).isSome
  if (rvF3 w ≠ 2 ∧ rvF3 w ≠ 3) ∨ !known then .next (s.killEpisode core e 3)
  else match e.place a n with
    | .page _ => .next (s.killEpisode core e 2)
    | _ =>
      match bits w 31 27 with
      | 0x02 => s.penLoad core e a n pc fun v => { e.setX (rvRd w) (ext v) with resv := some a }
      | 0x03 =>
        let e' := { e with resv := none }
        if e.resv = some a then s.penWrite core (e'.setX (rvRd w) 0) a (leBytes n src.toNat) pc
        else if e.place a n = .fault then .next (s.killEpisode core e 2)
        else .next (s.setEpisode core ((e'.setX (rvRd w) 1).retire pc))
      | _ =>
        match s.penRead core e a n with
          | (.kill r, s) => .next (s.killEpisode core e r)
          | (.ok b, s) => s.penWrite core (e.setX (rvRd w) (ext (ofLe b))) a (leBytes n ((f (ofLe b)).getD 0)) pc

/-- What a CSR reads (R407); none where an episode may not name it. -/
def Episode.csr (e : Episode) (n : Nat) : Option Nat :=
  match n with
  | 1 => some (e.fcsr % 32)
  | 2 => some (bits e.fcsr 7 5)
  | 3 => some (e.fcsr % 256)
  | 0xC00 => some e.cycle
  | 0xC01 => some e.cycle
  | 0xC02 => some e.instret
  | _ => none

/-- The float CSRs written; none for a counter (R407). -/
def Episode.setCsr (e : Episode) (n v : Nat) : Option Episode :=
  match n with
  | 1 => some { e with fcsr := e.fcsr / 32 * 32 + v % 32 }
  | 2 => some { e with fcsr := e.fcsr % 32 + v % 8 * 32 }
  | 3 => some { e with fcsr := v % 256 }
  | _ => none

/-- The CSR instructions; none where the episode is killed (R407). -/
def Episode.csrOp (e : Episode) (w : Nat) : Option Episode :=
  let n := bits w 31 20
  let f := rvF3 w % 4
  let src := if rvF3 w < 4 then (e.xr (rvRs1 w)).toNat else rvRs1 w
  match e.csr n with
  | none => none
  | some old =>
    let e' := e.setX (rvRd w) (BitVec.ofNat 64 old)
    let x := BitVec.ofNat 64 src
    let o := BitVec.ofNat 64 old
    match f with
    | 1 => e'.setCsr n src
    | 2 => if rvRs1 w = 0 then some e' else e'.setCsr n (o ||| x).toNat
    | 3 => if rvRs1 w = 0 then some e' else e'.setCsr n (o &&& ~~~x).toNat
    | _ => none

/-- A load of opcode LOAD (0x03): its bytes and its value; none where the code is not assigned. -/
def rvLoad (f3 : Nat) : Option (Nat × (Nat → DWord)) :=
  match f3 with
  | 0 => some (1, fun v => sx v 8)
  | 1 => some (2, fun v => sx v 16)
  | 2 => some (4, fun v => sx v 32)
  | 3 => some (8, fun v => BitVec.ofNat 64 v)
  | 4 => some (1, fun v => BitVec.ofNat 64 v)
  | 5 => some (2, fun v => BitVec.ofNat 64 v)
  | 6 => some (4, fun v => BitVec.ofNat 64 v)
  | _ => none

/-- A `wfi` is over: a step is open, or the Crib's head is held (R407, R419). -/
def State.wfiOver (s : State) (e : Episode) : Bool := e.open_.isSome || s.headHeld e

/-- The effect of a 32-bit instruction; `len` is its length in memory. -/
def State.hartExec (s : State) (core : Nat) (e : Episode) (w len : Nat) : Out :=
  let illegal : Out := .next (s.killEpisode core e 3)
  let next := e.pc + BitVec.ofNat 64 len
  let a := e.xr (rvRs1 w)
  let b := e.xr (rvRs2 w)
  let done (e : Episode) (pc : DWord) : Out := .next (s.setEpisode core (e.retire pc))
  let alu (r : Option DWord) : Out := match r with | some v => done (e.setX (rvRd w) v) next | none => illegal
  let float (r : Option Episode) : Out := match r with | some e => done e next | none => illegal
  match w % 128 with
  | 0x37 => done (e.setX (rvRd w) (rvImmU w)) next
  | 0x17 => done (e.setX (rvRd w) (e.pc + rvImmU w)) next
  | 0x6F => done (e.setX (rvRd w) next) (e.pc + rvImmJ w)
  | 0x67 => if rvF3 w = 0 then done (e.setX (rvRd w) next) ((a + rvImmI w) &&& ~~~1) else illegal
  | 0x63 => (match rvTaken (rvF3 w) a b with
    | some t => done e (if t then e.pc + rvImmB w else next)
    | none => illegal)
  | 0x03 => (match rvLoad (rvF3 w) with
    | some (n, f) => s.penLoad core e (a + rvImmI w).toNat n next fun v => e.setX (rvRd w) (f v)
    | none => illegal)
  | 0x23 =>
    if rvF3 w ≤ 3 then
      let n := 2 ^ rvF3 w
      s.penWrite core e (a + rvImmS w).toNat (leBytes n b.toNat) next
    else illegal
  | 0x13 => alu (rvOpImm w a)
  | 0x1B => alu (rvOpImmW w a)
  | 0x33 => alu (rvOp (rvF7 w) (rvF3 w) a b)
  | 0x3B => alu (rvOpW (rvF7 w) (rvF3 w) (rvRs2 w) a b)
  | 0x0F => if rvF3 w ≤ 1 then done e next else illegal
  | 0x2F => s.hartAmo core e w next
  | 0x07 =>
    if rvF3 w = 2 ∨ rvF3 w = 3 then
      let n := if rvF3 w = 2 then 4 else 8
      s.penLoad core e (a + rvImmI w).toNat n next fun v => e.setF (rvRd w) (boxed (rvF3 w = 3) v)
    else illegal
  | 0x27 =>
    if rvF3 w = 2 ∨ rvF3 w = 3 then
      let n := if rvF3 w = 2 then 4 else 8
      s.penWrite core e (a + rvImmS w).toNat (leBytes n (e.fr (rvRs2 w)).toNat) next
    else illegal
  | 0x43 => float (e.fused w)
  | 0x47 => float (e.fused w)
  | 0x4B => float (e.fused w)
  | 0x4F => float (e.fused w)
  | 0x53 => float (e.opFp w)
  | 0x73 =>
    if rvF3 w % 4 = 0 then
      if w = 0x10500073 then (if s.wfiOver e then done e next else .next s) else illegal
    else float (e.csrOp w)
  | _ => illegal

/-- The half-word of the code at an address of local memory. -/
def Episode.half (e : Episode) (a : Nat) : Nat := (sget 0 e.mem a).toNat + 256 * (sget 0 e.mem (a + 1)).toNat

/-- The episode on a core runs its next instruction (R407), unless its step counter has reached zero (R417) or the head of its
Crib's queue is uncorrectable (R463); a core without an episode does nothing. -/
def State.hartStep (s : State) (core : Nat) : Out :=
  match sfind s.pad.eps core with
  | none => .next s
  | some e =>
    let a := e.pc.toNat
    if e.overdue then .next (s.killEpisode core e 1)
    else if s.headLost e then .next (s.killEpisode core e 5)
    else if 0x80000 < a + 2 then .next (s.killEpisode core e 2)
    else
      let h := e.half a
      if h % 4 ≠ 3 then
        match expandC h with
        | some w => s.hartExec core e w 2
        | none => .next (s.killEpisode core e 3)
      else if 0x80000 < a + 4 then .next (s.killEpisode core e 2)
      else s.hartExec core e (h + 65536 * e.half (a + 2)) 4

/-- The instruction at the pc of an episode kills it (R407, R418): an access fault (reason 2), an illegal instruction (3), or
poison in its window or an uncorrectable message of its Crib (5; R409, R463). -/
def execEpisodeFaultKill (core reason : Nat) (s : State) : Out :=
  match sfind s.pad.eps core with
  | none => notNow
  | some e =>
    if reason ≠ 2 ∧ reason ≠ 3 ∧ reason ≠ 5 then notNow
    else match s.hartStep core with
      | .next t => if t = s.killEpisode core e reason then .next t else notNow
      | _ => notNow

end Sys2Proof.Machine
end

