-- ==== Sys2Proof/Machine/Dispatch.lean ====
section
/-! DEFINITION. The meaning of each instruction and of each device step, by constructor. -/

namespace Sys2Proof.Machine

/-- The meaning of one instruction, or of one device step. -/
def exec (i : Instr) (s : State) : Host.Outcome State Fault Refusal :=
  match i with
  | .nop o => Sys2Proof.Machine.execNop o s
  | .br o => Sys2Proof.Machine.execBr o s
  | .brd o => Sys2Proof.Machine.execBrd o s
  | .brx o => Sys2Proof.Machine.execBrx o s
  | .call o => Sys2Proof.Machine.execCall o s
  | .callx o => Sys2Proof.Machine.execCallx o s
  | .ret o => Sys2Proof.Machine.execRet o s
  | .if_ o => Sys2Proof.Machine.execIf o s
  | .else_ o => Sys2Proof.Machine.execElse o s
  | .endif_ o => Sys2Proof.Machine.execEndif o s
  | .loop_ o => Sys2Proof.Machine.execLoop o s
  | .lbrk lvl o => Sys2Proof.Machine.execLbrk lvl o s
  | .cont lvl o => Sys2Proof.Machine.execCont lvl o s
  | .endl o => Sys2Proof.Machine.execEndl o s
  | .exit_ o => Sys2Proof.Machine.execExit o s
  | .yield_ wf o => Sys2Proof.Machine.execYield wf o s
  | .ebrk o => Sys2Proof.Machine.execEbrk o s
  | .grow o => Sys2Proof.Machine.execGrow o s
  | .shrink o => Sys2Proof.Machine.execShrink o s
  | .add m o => Sys2Proof.Machine.execAdd m o s
  | .sub m o => Sys2Proof.Machine.execSub m o s
  | .mul m o => Sys2Proof.Machine.execMul m o s
  | .mulhi m o => Sys2Proof.Machine.execMulhi m o s
  | .mad m o => Sys2Proof.Machine.execMad m o s
  | .min_ m o => Sys2Proof.Machine.execMin m o s
  | .max_ m o => Sys2Proof.Machine.execMax m o s
  | .abs_ m o => Sys2Proof.Machine.execAbs m o s
  | .neg m o => Sys2Proof.Machine.execNeg m o s
  | .and_ m o => Sys2Proof.Machine.execAnd m o s
  | .or_ m o => Sys2Proof.Machine.execOr m o s
  | .xor_ m o => Sys2Proof.Machine.execXor m o s
  | .not_ m o => Sys2Proof.Machine.execNot m o s
  | .shl m o => Sys2Proof.Machine.execShl m o s
  | .shr m o => Sys2Proof.Machine.execShr m o s
  | .sar m o => Sys2Proof.Machine.execSar m o s
  | .popc m o => Sys2Proof.Machine.execPopc m o s
  | .clz m o => Sys2Proof.Machine.execClz m o s
  | .brev m o => Sys2Proof.Machine.execBrev m o s
  | .bfe m o => Sys2Proof.Machine.execBfe m o s
  | .bfi m o => Sys2Proof.Machine.execBfi m o s
  | .icmp m o => Sys2Proof.Machine.execIcmp m o s
  | .aadd m o => Sys2Proof.Machine.execAadd m o s
  | .aidx m o => Sys2Proof.Machine.execAidx m o s
  | .fadd m o => Sys2Proof.Machine.execFadd m o s
  | .fsub m o => Sys2Proof.Machine.execFsub m o s
  | .fmul m o => Sys2Proof.Machine.execFmul m o s
  | .fma m o => Sys2Proof.Machine.execFma m o s
  | .fmin m o => Sys2Proof.Machine.execFmin m o s
  | .fmax m o => Sys2Proof.Machine.execFmax m o s
  | .fabs m o => Sys2Proof.Machine.execFabs m o s
  | .fneg m o => Sys2Proof.Machine.execFneg m o s
  | .fcmp m o => Sys2Proof.Machine.execFcmp m o s
  | .fclass m o => Sys2Proof.Machine.execFclass m o s
  | .frnd m o => Sys2Proof.Machine.execFrnd m o s
  | .hadd2 m o => Sys2Proof.Machine.execHadd2 m o s
  | .hmul2 m o => Sys2Proof.Machine.execHmul2 m o s
  | .hfma2 m o => Sys2Proof.Machine.execHfma2 m o s
  | .hmin2 m o => Sys2Proof.Machine.execHmin2 m o s
  | .hmax2 m o => Sys2Proof.Machine.execHmax2 m o s
  | .hdot2 m o => Sys2Proof.Machine.execHdot2 m o s
  | .mov m o => Sys2Proof.Machine.execMov m o s
  | .cvt m o => Sys2Proof.Machine.execCvt m o s
  | .sel m o => Sys2Proof.Machine.execSel m o s
  | .plog m o => Sys2Proof.Machine.execPlog m o s
  | .rdl m o => Sys2Proof.Machine.execRdl m o s
  | .amov m o => Sys2Proof.Machine.execAmov m o s
  | .pack m o => Sys2Proof.Machine.execPack m o s
  | .unpack m o => Sys2Proof.Machine.execUnpack m o s
  | .rcp m o => Sys2Proof.Machine.execRcp m o s
  | .rsqrt m o => Sys2Proof.Machine.execRsqrt m o s
  | .sqrt m o => Sys2Proof.Machine.execSqrt m o s
  | .ex2 m o => Sys2Proof.Machine.execEx2 m o s
  | .lg2 m o => Sys2Proof.Machine.execLg2 m o s
  | .sin m o => Sys2Proof.Machine.execSin m o s
  | .cos m o => Sys2Proof.Machine.execCos m o s
  | .tanh m o => Sys2Proof.Machine.execTanh m o s
  | .exsm m o => Sys2Proof.Machine.execExsm m o s
  | .fdiv m o => Sys2Proof.Machine.execFdiv m o s
  | .vote m o => Sys2Proof.Machine.execVote m o s
  | .shfl m o => Sys2Proof.Machine.execShfl m o s
  | .lred m o => Sys2Proof.Machine.execLred m o s
  | .qx m o => Sys2Proof.Machine.execQx m o s
  | .pset m o => Sys2Proof.Machine.execPset m o s
  | .perm m o => Sys2Proof.Machine.execPerm m o s
  | .bcast m o => Sys2Proof.Machine.execBcast m o s
  | .ld m o => Sys2Proof.Machine.execLd m o s
  | .st m o => Sys2Proof.Machine.execSt m o s
  | .ldb m o => Sys2Proof.Machine.execLdb m o s
  | .stb m o => Sys2Proof.Machine.execStb m o s
  | .cpy m o => Sys2Proof.Machine.execCpy m o s
  | .cpyg m o => Sys2Proof.Machine.execCpyg m o s
  | .cpys m o => Sys2Proof.Machine.execCpys m o s
  | .cpyf m o => Sys2Proof.Machine.execCpyf m o s
  | .coll m o => Sys2Proof.Machine.execColl m o s
  | .atom m o => Sys2Proof.Machine.execAtom m o s
  | .cas m o => Sys2Proof.Machine.execCas m o s
  | .waitv m o => Sys2Proof.Machine.execWaitv m o s
  | .wake m o => Sys2Proof.Machine.execWake m o s
  | .fence m o => Sys2Proof.Machine.execFence m o s
  | .bar o => Sys2Proof.Machine.execBar o s
  | .gbar o => Sys2Proof.Machine.execGbar o s
  | .phbarInit o => Sys2Proof.Machine.execPhbarInit o s
  | .phbarArr o => Sys2Proof.Machine.execPhbarArr o s
  | .phbarQuit o => Sys2Proof.Machine.execPhbarQuit o s
  | .phbarWait o => Sys2Proof.Machine.execPhbarWait o s
  | .phbarTest o => Sys2Proof.Machine.execPhbarTest o s
  | .phbarGen o => Sys2Proof.Machine.execPhbarGen o s
  | .qfence o => Sys2Proof.Machine.execQfence o s
  | .mma m o => Sys2Proof.Machine.execMma m o s
  | .mmq m o => Sys2Proof.Machine.execMmq m o s
  | .mrd m o => Sys2Proof.Machine.execMrd m o s
  | .mwr m o => Sys2Proof.Machine.execMwr m o s
  | .mclr o => Sys2Proof.Machine.execMclr o s
  | .cor m o => Sys2Proof.Machine.execCor m o s
  | .corq m o => Sys2Proof.Machine.execCorq m o s
  | .gram m o => Sys2Proof.Machine.execGram m o s
  | .trsv m o => Sys2Proof.Machine.execTrsv m o s
  | .attn m o => Sys2Proof.Machine.execAttn m o s
  | .kvalloc m o => Sys2Proof.Machine.execKvalloc m o s
  | .kvcommit m o => Sys2Proof.Machine.execKvcommit m o s
  | .kvrel m o => Sys2Proof.Machine.execKvrel m o s
  | .kvlink m o => Sys2Proof.Machine.execKvlink m o s
  | .kvchk m o => Sys2Proof.Machine.execKvchk m o s
  | .swarm o => Sys2Proof.Machine.execSwarm o s
  | .swreq o => Sys2Proof.Machine.execSwreq o s
  | .swcan o => Sys2Proof.Machine.execSwcan o s
  | .swst o => Sys2Proof.Machine.execSwst o s
  | .shedj o => Sys2Proof.Machine.execShedj o s
  | .cbs o => Sys2Proof.Machine.execCbs o s
  | .cbr o => Sys2Proof.Machine.execCbr o s
  | .cbw o => Sys2Proof.Machine.execCbw o s
  | .segld seg o => Sys2Proof.Machine.execSegld seg o s
  | .rte o => Sys2Proof.Machine.execRte o s
  | .srw reg o => Sys2Proof.Machine.execSrw reg o s
  | .mapld o => Sys2Proof.Machine.execMapld o s
  | .tlbi form o => Sys2Proof.Machine.execTlbi form o s
  | .clauseStart => Sys2Proof.Machine.execClauseStart s
  | .ifetchFill => Sys2Proof.Machine.execIfetchFill s
  | .yieldResume => Sys2Proof.Machine.execYieldResume s
  | .loadReturn id => Sys2Proof.Machine.execLoadReturn id s
  | .atomicPerform id => Sys2Proof.Machine.execAtomicPerform id s
  | .waitvTimeout id => Sys2Proof.Machine.execWaitvTimeout id s
  | .engineCommandStart id => Sys2Proof.Machine.execEngineCommandStart id s
  | .copyUnitWrite id => Sys2Proof.Machine.execCopyUnitWrite id s
  | .commandComplete id => Sys2Proof.Machine.execCommandComplete id s
  | .quartetRendezvous gid => Sys2Proof.Machine.execQuartetRendezvous gid s
  | .leaveGrant id => Sys2Proof.Machine.execLeaveGrant id s
  | .sideQueueHandover core => Sys2Proof.Machine.execSideQueueHandover core s
  | .attnEngineHandoff die => Sys2Proof.Machine.execAttnEngineHandoff die s
  | .attnHeaderArrival engine => Sys2Proof.Machine.execAttnHeaderArrival engine s
  | .attnBlockProcess engine => Sys2Proof.Machine.execAttnBlockProcess engine s
  | .translationFault id => Sys2Proof.Machine.execTranslationFault id s
  | .upcallPost ctx pager => Sys2Proof.Machine.execUpcallPost ctx pager s
  | .pagerAnswer ctx pager => Sys2Proof.Machine.execPagerAnswer ctx pager s
  | .shootdownAck key unit => Sys2Proof.Machine.execShootdownAck key unit s
  | .readBufferInvalidation die line => Sys2Proof.Machine.execReadBufferInvalidation die line s
  | .growGrant core slice => Sys2Proof.Machine.execGrowGrant core slice s
  | .growDeny core => Sys2Proof.Machine.execGrowDeny core s
  | .watchdogExpiry gid => Sys2Proof.Machine.execWatchdogExpiry gid s
  | .groupRetire gid => Sys2Proof.Machine.execGroupRetire gid s
  | .teamRelease grid gang team => Sys2Proof.Machine.execTeamRelease grid gang team s
  | .gridEnd grid => Sys2Proof.Machine.execGridEnd grid s
  | .launchEntryConsume queue => Sys2Proof.Machine.execLaunchEntryConsume queue s
  | .fileLoad queue => Sys2Proof.Machine.execFileLoad queue s
  | .gangPlace grid gang => Sys2Proof.Machine.execGangPlace grid gang s
  | .preemptGang grid gang => Sys2Proof.Machine.execPreemptGang grid gang s
  | .gangRestore grid gang => Sys2Proof.Machine.execGangRestore grid gang s
  | .contextSwitch ctx => Sys2Proof.Machine.execContextSwitch ctx s
  | .contextTeardown ctx => Sys2Proof.Machine.execContextTeardown ctx s
  | .refreshSlot stack => Sys2Proof.Machine.execRefreshSlot stack s
  | .sweepInstall key stack => Sys2Proof.Machine.execSweepInstall key stack s
  | .sweepArmPoint key => Sys2Proof.Machine.execSweepArmPoint key s
  | .stackSensorSample stack temp => Sys2Proof.Machine.execStackSensorSample stack temp s
  | .selfRefreshEntry stack => Sys2Proof.Machine.execSelfRefreshEntry stack s
  | .selfRefreshExit stack => Sys2Proof.Machine.execSelfRefreshExit stack s
  | .shedJobStart stack core => Sys2Proof.Machine.execShedJobStart stack core s
  | .shedJobEnd stack core => Sys2Proof.Machine.execShedJobEnd stack core s
  | .cribStart crib => Sys2Proof.Machine.execCribStart crib s
  | .widen crib => Sys2Proof.Machine.execWiden crib s
  | .cribIdleDiscard crib => Sys2Proof.Machine.execCribIdleDiscard crib s
  | .txgo core => Sys2Proof.Machine.execTxgo core s
  | .rxpop core => Sys2Proof.Machine.execRxpop core s
  | .stepBudgetExpiry core => Sys2Proof.Machine.execStepBudgetExpiry core s
  | .episodeFaultKill core reason => Sys2Proof.Machine.execEpisodeFaultKill core reason s
  | .cbwTimeout id => Sys2Proof.Machine.execCbwTimeout id s
  | .breakpointHit => Sys2Proof.Machine.execBreakpointHit s
  | .stop ctx gid => Sys2Proof.Machine.execStop ctx gid s
  | .step ctx gid focus n => Sys2Proof.Machine.execStep ctx gid focus n s
  | .resume ctx gid => Sys2Proof.Machine.execResume ctx gid s
  | .portRegRead ctx gid reg => Sys2Proof.Machine.execPortRegRead ctx gid reg s
  | .portRegWrite ctx gid reg mask value => Sys2Proof.Machine.execPortRegWrite ctx gid reg mask value s
  | .portMemRead ctx gid sp addr len => Sys2Proof.Machine.execPortMemRead ctx gid sp addr len s
  | .portMemWrite ctx gid sp addr data => Sys2Proof.Machine.execPortMemWrite ctx gid sp addr data s
  | .queueStopWrite core value => Sys2Proof.Machine.execQueueStopWrite core value s
  | .dbiWrite core n value => Sys2Proof.Machine.execDbiWrite core n value s
  | .registerWrite reg => Sys2Proof.Machine.execRegisterWrite reg s
  | .hostBar2Access write pa len data => Sys2Proof.Machine.execHostBar2Access write pa len data s
  | .fabricRemoteAccess access => Sys2Proof.Machine.execFabricRemoteAccess access s
  | .burstReceive burst data => Sys2Proof.Machine.execBurstReceive burst data s
  | .burstCrcFail lane burst => Sys2Proof.Machine.execBurstCrcFail lane burst s
  | .laneRepair lane => Sys2Proof.Machine.execLaneRepair lane s
  | .linkDown reason seq => Sys2Proof.Machine.execLinkDown reason seq s
  | .collContribution comm chunk rank desc data => Sys2Proof.Machine.execCollContribution comm chunk rank desc data s
  | .nvmeRequest pair data flaws => Sys2Proof.Machine.execNvmeRequest pair data flaws s
  | .nvmeCompletion pair => Sys2Proof.Machine.execNvmeCompletion pair s
  | .patrolScrub stack scan => Sys2Proof.Machine.execPatrolScrub stack scan s
  | .rowRepair row => Sys2Proof.Machine.execRowRepair row s
  | .dieSensorSample unit temp => Sys2Proof.Machine.execDieSensorSample unit temp s
  | .stallSample core slice => Sys2Proof.Machine.execStallSample core slice s
  | .sampleDrain core slice => Sys2Proof.Machine.execSampleDrain core slice s
  | .deviceStart failed dies => Sys2Proof.Machine.execDeviceStart failed dies s
  | .mmexit => Sys2Proof.Machine.execMmexit s
  | .firmwareImageWrite digests version signatures => Sys2Proof.Machine.execFirmwareImageWrite digests version signatures s
  | .getMeasurements => Sys2Proof.Machine.execGetMeasurements s
  | .contextLetBack ctx => Sys2Proof.Machine.execContextLetBack ctx s
  | .fabricLinkRetrain lanes => Sys2Proof.Machine.execFabricLinkRetrain lanes s
  | .communicatorDestroy comm => Sys2Proof.Machine.execCommunicatorDestroy comm s
  | .launchQueueReset queue => Sys2Proof.Machine.execLaunchQueueReset queue s
  | .paddockCoreHardError core => Sys2Proof.Machine.execPaddockCoreHardError core s

end Sys2Proof.Machine
end

