-- ==== Sys2Proof/Machine/Serve.lean ====
section
/-! DEFINITION. The turn of each agent, and the requests that a stack in self-refresh holds (R383 to R385). -/

namespace Sys2Proof.Machine

/-! ### Turns -/

/-- One instruction of the issuing group, with what its issue leaves; a device step leaves nothing. -/
def issueOne (i : Instr) (s : State) : Out :=
  match exec i s with
  | .next t => .next (if (partsOf i).isSome then t.afterIssue s.cur else t)
  | r => r

/-- A pair issues as one (R31): neither instruction reads what the other writes (R33). -/
def issuePair (i j : Instr) (s : State) : Out :=
  match exec i s with
  | .next t =>
    match exec j t with
    | .next u => .next (u.afterIssue s.cur)
    | r => r
  | r => r

/-- The issuing group stops, and the port reports it (R437). -/
def State.halted (s : State) : State :=
  (s.modCur Group.halt).emit (.port portStopped [s.cur.gid, s.cur.pc.toNat])

/-- The turn of a group that was told to stop (R437): it goes on waiting where its instruction is held, and stops where that
could issue, be it to trap or as the last of a STEP. -/
def stopOr (s : State) (r : Out) : Out :=
  match r with
  | .next t => if (t.findGroup s.cur.gid).any fun g => g.stall.isSome && !g.stopped then r else .next s.halted
  | r => r

/-- The turn of the issuing group. -/
def turn (s : State) : Out :=
  match s.due with
  | .run i => if s.cur.stopReq && (partsOf i).isSome then stopOr s (issueOne i s) else issueOne i s
  | .pair i j => issuePair i j s
  | .stall r => .next (s.hold r)
  | .stop => .next s.halted
  | .idle => .next s

/-- A group could issue in this state (R342), be it that the issue ends a STEP or that a STOP takes effect instead (R437, R439);
one whose instruction a shut stack holds already could not. -/
def ready (s : State) (gid : Nat) : Bool :=
  (s.focus gid).due != .idle && match turn (s.focus gid) with
  | .next t => t.cur.gid == gid && (t.cur.stall.isNone || (t.cur.stopped && !(s.focus gid).cur.stopped))
      && !(t.sweep.touched.any fun n => (s.stackCtl n).hold.contains (.issue gid))
  | _ => false

/-! ### Requests to a shut stack (R383, R385) -/

/-- The turn performs an access that was issued before the stack's closing notice (R383). -/
def StackCtl.drains (c : StackCtl) : Turn → Bool
  | .event (.atomicPerform id) => c.closing && c.drain.contains id
  | _ => false

/-- An access from outside, each of which is a request of its own (R383). -/
def Turn.outside : Turn → Bool
  | .event (.hostBar2Access _ _ _ _) => true
  | .event (.fabricRemoteAccess _) => true
  | _ => false

/-- A turn enters a stack's list of waiting requests: once, unless it is a request of its own that has just arrived. -/
def State.enqueue (s : State) (arrives : Bool) (t : Turn) (n : Nat) : State :=
  let c := s.stackCtl n
  if c.hold.contains t && !(arrives && t.outside) then s else s.setStack n { c with hold := c.hold ++ [t] }

/-- A turn that stacks hold: what it did is undone, and it waits with them; a group waits at its instruction. -/
def State.holdTurn (s : State) (arrives : Bool) (t : Turn) (ns : List Nat) : Out :=
  let news := (arrives && t.outside) || ns.any fun n => !(s.stackCtl n).hold.contains t
  let s := ns.foldl (fun s n => s.enqueue arrives t n) s
  match t with
  | .issue gid => .next ((s.focus gid).hold .xlate)
  | .hart _ => .next s
  | _ => if news then .next s else notNow

/-- The result of a turn, unless it has reached a stack that holds it (R383); `arrives` where it has not waited before. -/
def State.gateTurn (s : State) (arrives : Bool) (t : Turn) (r : Out) : Out :=
  match r with
  | .next u =>
    if u.sweep.touched.isEmpty then r
    else
      match u.sweep.touched.eraseDups.filter fun n => !(s.stackCtl n).drains t with
      | [] => .next { u with sweep := { u.sweep with touched := [] } }
      | ns => s.holdTurn arrives t ns
  | r => r

/-- The result of a turn that arrives, unless it has reached a stack that holds it (R383). -/
def State.gate (s : State) (t : Turn) (r : Out) : Out := s.gateTurn true t r

/-- The stall that a result leaves a group with, where a shut stack does not hold it; else `XLATE` (R383, R432). -/
def State.stallAfter (s : State) (gid : Nat) (r : Out) : Option Stall :=
  match s.gate (.issue gid) r with
  | .next t => (t.findGroup gid).bind (·.stall)
  | _ => none

/-- The lower of two stalls, by their codes. -/
def lowerStall (a b : Option Stall) : Option Stall :=
  match a, b with
  | some x, some y => if y.code < x.code then b else a
  | none, y => y
  | x, none => x

/-- A group's stall as its turn would find it now (R432): the lower of what holds its instruction before it issues and what
the instruction itself waits for. -/
def State.refreshStall (s : State) (gid : Nat) : State :=
  let f := s.focus gid
  let own := match f.due, f.slotInstr (pcSlot f.cur.pc) with
    | .stall r, some i => if r = .stopped then none else s.stallAfter gid (exec i f)
    | _, _ => none
  let st := lowerStall (s.stallAfter gid (turn f)) own
  s.modGroup gid fun g => { g with stall := st }

/-- The stalls of a slice's groups before a sample is taken of them (R431). -/
def State.refreshSlice (s : State) (core slice : Nat) : State :=
  ((s.groups.filter fun g => g.coreNo = core && g.slice = slice && g.resident && g.inClause).map (·.gid)).foldl
    State.refreshStall s

/-- A device step, before which a sample looks at what holds the groups. -/
def State.device (s : State) (i : Instr) : Out :=
  match i with
  | .stallSample core slice => exec i (s.refreshSlice core slice)
  | _ => exec i s

/-- What a turn does. -/
def State.run (s : State) : Turn → Out
  | .issue gid => if (s.findGroup gid).isSome then turn (s.focus gid) else .next s
  | .slice _ _ => .next s
  | .hart core => s.hartStep core
  | .event i => s.device i
  | .granule id => .next (s.nextGranule id)
  | .upset u => .next (s.upset u)
  | .linkRead key link => s.linkRead key link
  | .certificates => .next (s.emit (.certificates Config.certificateChain))

/-- The requests that waited for a stack are performed in their arrival order (R385). -/
def State.release (s : State) (n : Nat) : State :=
  let c := s.stackCtl n
  c.hold.foldl (fun s t => match s.gateTurn false t (s.run t) with | .next u => u | _ => s) (s.setStack n { c with hold := [] })

/-- Every stack that has left self-refresh performs what waited for it, before any other request (R385). -/
def State.releaseAll (s : State) : State :=
  if s.sweep.ctls.any fun e => !e.2.shut && !e.2.hold.isEmpty then
    let ns := (s.sweep.ctls.filter fun e => !e.2.shut && !e.2.hold.isEmpty).map (·.1)
    (ns.foldl State.release s).focus s.cur.gid
  else s

/-- The requests beyond the 4,096 of a hold buffer wait at the die boundary: stall reason `MEMHOLD` of their engines (R383). -/
def State.memHold (s : State) (t : Turn) : Bool := s.sweep.ctls.any fun e => (e.2.hold.drop 4096).contains t

/-- A turn taken: held where it reaches a shut stack, and followed by what an awakened stack has held. -/
def State.take (s : State) (t : Turn) : Out :=
  match s.gate t (s.run t) with
  | .next u => .next u.releaseAll
  | r => r

/-! ### Time (log 3) -/

/-- A step is over: time passes, the writes that applications have made due are made (R381), the port reports the queues that
have stopped (R438), and the Grooms note new stamps (R429). -/
def State.tick (s : State) : State :=
  let n := Config.elapsed s.steps
  let full (c : Nat) : Bool := match sfind s.pad.cribs c with | some x => 16 ≤ x.inb.length | none => false
  let k := paddockCycles s.now (s.now + n)
  let s := s.sweepDue.tellQueues.noteStamps
  { s with sweep := { s.sweep with touched := [] },
           now := s.now + n, steps := s.steps + 1, cur := s.cur.age n, others := s.others.map fun e => (e.1, e.2.age n),
           pad := { s.pad with eps := s.pad.eps.map fun e => (e.1, e.2.age k (full e.2.crib)) },
           launch := { s.launch with grids := s.launch.grids.map fun e => (e.1, e.2.age s n e.1) } }

end Sys2Proof.Machine
end

