-- ==== Sys2Proof/Machine/Step.lean ====
section
/-! DEFINITION. One step of the device (log 1). -/

namespace Sys2Proof.Machine

/-- What happens at a step before time passes: the front of the agenda, or the turn of the issuing group. -/
def act (s : State) : Host.Outcome State Fault Refusal :=
  match s.agenda with
  | [] => s.gate (.issue s.cur.gid) (turn s)
  | t :: rest =>
    let s := { s with agenda := rest }
    match t with
    | .slice core slice =>
      match s.chooses core slice (ready s) with
      | some gid => s.take (.issue gid)
      | none => .next s
    | t => s.take t

/-- One step of the device. -/
def step (s : State) : Host.Outcome State Fault Refusal :=
  match act s with
  | .next t => .next t.tick
  | r => r

/-- The state with an instruction's word where the next step takes it (log 6). -/
def State.withFetchWord (s : State) (nbits w : Nat) : State :=
  let g := if s.cur.gid = 0 then probeGroup else s.cur
  { s with agenda := [], cur := g.withWord (w % 2 ^ min nbits 96) }

end Sys2Proof.Machine
end

