-- ==== Sys2Proof/Safety.lean ====
section
/-! DEFINITION. The terms in which claims speak: the canonical form of memory, single bytes of memory, where a result goes
and what else stays, and what an issued operation leaves. -/

namespace Sys2Proof.Machine

/-! ### Memory -/

/-- Every memory stands in its canonical form: keys strictly rising, no entry that holds what an unlisted place reads as. -/
def Memories.wf (m : Memories) : Bool :=
  swf 0 m.hbm && swf 0 m.shared && swf 0 m.yard && swf false m.hbmPsn && swf false m.sharedPsn && swf false m.yardPsn
    && skeysRise m.matrix && skeysRise m.held && skeysRise m.rbuf

/-- One byte of DRAM, of the cores' memories and of the Yards, by its place. -/
def State.dramByte (s : State) (loc : Nat) : Byte := sget 0 s.mem.hbm loc
def State.sharedByte (s : State) (core off : Nat) : Byte := sget 0 s.mem.shared (sharedAt core off)
def State.yardByte (s : State) (die off : Nat) : Byte := sget 0 s.mem.yard (yardAt die off)

/-- n bytes of a core's memory from an offset on. -/
def State.sharedBytesAt (s : State) (core off n : Nat) : Bytes := (List.range n).map fun i => s.sharedByte core (off + i)

/-! ### Where results go (R42, R98) -/

/-- The instruction runs, the value `f l` goes to its destination as R98 says, nothing else of the state changes, and then
the slot goes on (R130). -/
def Lands (i : Instr) (o : Fields) (s : State) (f : Nat → Word) : Prop :=
  ∃ g : Group, exec i s = .next (State.advance { s with cur := g }) ∧
    match o.d with
    | .v n => g = { s.cur with v := g.v } ∧ ∀ m l, l < 64 →
        g.readV m l = if m = n.val ∧ (s.cur.computing o.guard).getLsbD l = true then f l else s.cur.readV m l
    | .s n => g = { s.cur with s := g.s } ∧ ∀ m,
        g.readS m = if m = n.val ∧ s.cur.acts o.guard = true then f 0 else s.cur.readS m
    | .eta n => g = { s.cur with eta := g.eta } ∧ ∀ m,
        g.readEta m = if m = n.val ∧ s.cur.acts o.guard = true then f 0 else s.cur.readEta m
    | .p n => g = { s.cur with p := g.p } ∧ ∀ m l, l < 64 →
        (g.readP m).getLsbD l = if m = n.val ∧ n.val ≠ 7 ∧ (s.cur.effect o.guard).getLsbD l = true
          then decide (f l ≠ 0) else (s.cur.readP m).getLsbD l
    | _ => g = s.cur

/-- `Lands` for a function of one, two or three 32-bit sources. -/
def Lands1 (i : Instr) (o : Fields) (s : State) (f : Word → Word) : Prop := Lands i o s fun l => f (val s o.imm o.a l)
def Lands2 (i : Instr) (o : Fields) (s : State) (f : Word → Word → Word) : Prop :=
  Lands i o s fun l => f (val s o.imm o.a l) (val s o.imm o.b l)
def Lands3 (i : Instr) (o : Fields) (s : State) (f : Word → Word → Word → Word) : Prop :=
  Lands i o s fun l => f (val s o.imm o.a l) (val s o.imm o.b l) (val s o.imm o.c l)

/-- The instruction runs, the 64-bit value goes to its address register where some lane takes effect, nothing else changes,
and the slot goes on. -/
def LandsAddr (i : Instr) (o : Fields) (s : State) (x : DWord) : Prop :=
  ∃ g : Group, exec i s = .next (State.advance { s with cur := g }) ∧
    match o.d with
    | .a n => g = { s.cur with a := g.a } ∧ ∀ m,
        g.readA m = if m = n.val ∧ s.cur.acts o.guard = true then x else s.cur.readA m
    | _ => g = s.cur

/-! ### What an issued operation leaves (R21, R24, R254) -/

/-- The group after an operation has raised its flags, each by one (R21). -/
def Raised (g h : Group) (fl : BitVec 12) : Prop :=
  h = { g with flags := h.flags } ∧ ∀ n, n < 12 →
    h.flagCount n = if fl.getLsbD n = true then min 63 (g.flagCount n + 1) else g.flagCount n

/-- What an operation that issues from a state records: its issuer, its command, its place in its queue and its work. -/
def IssuedFrom (s : State) (o : Fields) (opc queue : Nat) (dests : List RegRef) (w : Work) (op : Op) : Prop :=
  op.gid = s.cur.gid ∧ op.ctx = s.cur.ctx ∧ op.core = s.cur.coreNo ∧ op.grid = s.cur.grid ∧ op.place = s.cur.place
    ∧ op.opc = opc ∧ op.queue = queue ∧ op.pc = s.cur.pc ∧ op.seq = sget 0 s.seqs (queueKey s.cur.coreNo queue)
    ∧ op.flags = flagsOf s.cur.line o.fs ∧ op.dests = dests ∧ op.phase = .queued ∧ op.status = 0 ∧ op.work = w

/-- The instruction issues one operation from the state `s` that its checks have left, and the slot goes on: the operation
is the only entry added, its queue has counted it, its flags are raised, and nothing else changes. -/
def Issues (out : Out) (s : State) (o : Fields) (opc queue : Nat) (dests : List RegRef) (w : Work) : Prop :=
  ∃ op g, out = .next (State.advance { s with
      cur := g, ops := sput s.ops s.nextId op, nextId := s.nextId + 1,
      seqs := if queue = noQueue then s.seqs
        else sput s.seqs (queueKey s.cur.coreNo queue) (sget 0 s.seqs (queueKey s.cur.coreNo queue) + 1) })
    ∧ Raised s.cur g (flagsOf s.cur.line o.fs) ∧ IssuedFrom s o opc queue dests w op

/-- A device step runs and gives the state. -/
abbrev Runs (i : Instr) (s t : State) : Prop := exec i s = .next t

end Sys2Proof.Machine
end

