-- ==== Sys2Proof/Certificates/Slice0/Obligations.lean ====
section
/-! DEFINITION. The statements for the provers. -/

open Sys2Proof Sys2Proof.Machine

/-! ### Decoding and encoding (R84, R86, R92, R93) -/

/-- Every well-formed instruction's word decodes to that instruction, in the group for which it is well formed: no bit of an
encoding is dropped. Every word that decodes is the word of the instruction that it decodes to, which is well formed: no two
words stand for one instruction, and what the decoder takes passes the tests of R93. -/
def Obligations.DecodeAndEncodeAgree : Prop :=
  (∀ (e : EntryEnv) (i : Instr) (w : SlotWord), wellFormed e i = true → encode i = some w → decodeSlot e w = .ok i)
  ∧
  (∀ (e : EntryEnv) (w : SlotWord) (i : Instr), decodeSlot e w = .ok i → encode i = some w ∧ wellFormed e i = true)

/-- Words written out from the tables of the spec decode to the instructions that they stand for: `nop`; the `brd` of R139's
example; `add.i32 v1, v2, v3`; `st.s.w4 s1, 8, s2`; `srw.tvec a3`. -/
def Obligations.SpecWordsDecode : Prop :=
  let f (d a b c : Opnd) (imm : Word) : Fields := ⟨⟨false, 7⟩, d, a, b, c, 0, imm⟩
  decodeSlot widestEnv 0x001EE170B85C000000000000 = .ok (.nop (f zeroOpnd zeroOpnd zeroOpnd zeroOpnd 0))
  ∧ decodeSlot widestEnv 0x008EE170B85C00000000001A
      = .ok (.brd ⟨⟨false, 3⟩, zeroOpnd, zeroOpnd, zeroOpnd, zeroOpnd, 0, 0x1A⟩)
  ∧ decodeSlot widestEnv 0x101C020201DC050000000000
      = .ok (.add ⟨.i32, .rn, false, 0⟩ (f (.v 1) (.v 2) (.v 3) zeroOpnd 0))
  ∧ decodeSlot widestEnv 0x605EE101FFC0860000000008
      = .ok (.st ⟨.s, 2, false, 0⟩ (f zeroOpnd (.s 1) .imm (.s 2) 8))
  ∧ decodeSlot widestEnv 0xE09EE14BB85C000000000000 = .ok (.srw .tvec (f zeroOpnd (.a 3) zeroOpnd zeroOpnd 0))

/-! ### The step -/

/-- A step of a group in its clause runs the instruction that its slot holds: with an empty agenda, a group that is resident,
not stopped, not asked to stop, whose watchdog has not run out, that is not held at issue, at a slot that starts no pair and
at no breakpoint that has yet to stop it, a step is `exec` of the decoded instruction and the record that its issue leaves (R342,
R439), both undone where they reached a stack in self-refresh, which holds the whole turn (R383, `State.gate`; log 19: the
model's choice); then time passes (log 3). Where no such stack was reached, the step is that of `exec` with its record. -/
def Obligations.StepRunsDecodedInstruction : Prop :=
  ∀ (s : State) (i : Instr), s.agenda = [] → s.cur.gid ≠ 0 → s.cur.resident = true → s.cur.stopped = false →
    s.cur.stopReq = false → s.cur.inClause = true → s.cur.expired = false ∨ s.cur.stall = none →
    (pairFirsts (linePair s.cur.line)).contains (pcSlot s.cur.pc) = false →
    s.breaks s.cur [s.cur.pc] = false ∨ s.cur.passed = true →
    decodeSlot EntryEnv.all (lineSlot s.cur.line (pcSlot s.cur.pc)) = .ok i → s.issueHold i = none →
    (step s = match s.gate (.issue s.cur.gid) (match exec i s with | .next t => .next (t.afterIssue s.cur) | r => r) with
      | .next t => .next t.tick
      | r => r)
    ∧ (∀ t, exec i s = .next t → (t.afterIssue s.cur).sweep.touched = [] → step s = .next (t.afterIssue s.cur).tick)

/-- The word that `withFetchWord` places is what the next step runs, as the first instruction after reset too: the step is
`exec` of the decoded instruction in that state. A pair issues as one (R31): with both slots decoded and neither held, a step
runs the first instruction and then the second. A device step at the front of the agenda is what the next step runs, before
time passes; a slice's turn there is the turn of the group that the slice chooses, of those that could issue (logs 1, 58: the
model's choices); a completion of a zero-length read (R448, log 72) and a request for the certificate chain (R475, log 66) come
there too. Each of them stands as `State.gate` lets it stand, which undoes a turn that reaches a shut stack (log 19: the
model's choice), and is followed by what an awakened stack has held (R383, R385). -/
def Obligations.StepRunsOtherTurns : Prop :=
  (∀ (s : State) (w : Nat) (i : Instr),
     let t := s.withFetchWord 96 w
     decodeSlot EntryEnv.all (BitVec.ofNat 96 w) = .ok i → t.issueHold i = none →
     step t = match t.gate (.issue t.cur.gid) (match exec i t with | .next u => .next (u.afterIssue t.cur) | r => r) with
       | .next u => .next u.tick
       | r => r)
  ∧
  (∀ (s t : State) (i j : Instr), s.agenda = [] → s.cur.gid ≠ 0 → s.cur.resident = true → s.cur.stopped = false →
     s.cur.stopReq = false → s.cur.inClause = true → s.cur.expired = false ∨ s.cur.stall = none →
     (pairFirsts (linePair s.cur.line)).contains (pcSlot s.cur.pc) = true →
     s.breaks s.cur [s.cur.pc, nextPoint s.cur.pc] = false ∨ s.cur.passed = true →
     decodeSlot EntryEnv.all (lineSlot s.cur.line (pcSlot s.cur.pc)) = .ok i →
     decodeSlot EntryEnv.all (lineSlot s.cur.line (pcSlot s.cur.pc + 1)) = .ok j →
     s.issueHold i = none → s.issueHold j = none → exec i s = .next t →
     step s = match s.gate (.issue s.cur.gid) (match exec j t with | .next u => .next (u.afterIssue s.cur) | r => r) with
       | .next u => .next u.tick
       | r => r)
  ∧
  (∀ (s : State) (i : Instr) (rest : List Turn), s.agenda = .event i :: rest → (∀ core slice, i ≠ .stallSample core slice) →
     let u : State := { s with agenda := rest }
     step s = match u.gate (.event i) (exec i u) with
       | .next t => .next t.releaseAll.tick
       | r => r)
  ∧
  (∀ (s : State) (core slice : Nat) (rest : List Turn), s.agenda = .event (.stallSample core slice) :: rest →
     let u : State := { s with agenda := rest }
     step s = match u.gate (.event (.stallSample core slice)) (exec (.stallSample core slice) (u.refreshSlice core slice)) with
       | .next t => .next t.releaseAll.tick
       | r => r)
  ∧
  (∀ (s : State) (core slice gid : Nat) (rest : List Turn), s.agenda = .slice core slice :: rest →
     let u : State := { s with agenda := rest }
     u.chooses core slice (ready u) = some gid → (u.findGroup gid).isSome = true →
     step s = match u.gate (.issue gid) (turn (u.focus gid)) with
       | .next t => .next t.releaseAll.tick
       | r => r)
  ∧
  (∀ (s : State) (key link : Nat) (rest : List Turn),
     let u : State := { s with agenda := rest }
     let after (t : Turn) (r : Out) : Out := match u.gate t r with
       | .next t => .next t.releaseAll.tick
       | r => r
     (s.agenda = .linkRead key link :: rest → step s = after (.linkRead key link) (u.linkRead key link))
     ∧ (s.agenda = .certificates :: rest → step s = after .certificates
         (.next { u with outbox := u.outbox ++ [.certificates Config.certificateChain] })))

/-! ### Reset and the canonical form of memory -/

/-- After reset no group, no operation, no grid, no context and no link is there, every memory reads as the model's reset
value in every place (log 4: the model's choice), and memory stands in its canonical form. -/
def Obligations.ResetIsEmpty : Prop :=
  State.reset.groups = [] ∧ State.reset.ops = [] ∧ State.reset.launch.grids = [] ∧ State.reset.xlate.ctxs = []
  ∧ State.reset.mem.wf = true
  ∧ (∀ loc, State.reset.dramByte loc = 0) ∧ (∀ core off, State.reset.sharedByte core off = 0)
  ∧ (∀ die off, State.reset.yardByte die off = 0)

/-- Every step keeps the canonical form of memory: equal memories are equal data. -/
def Obligations.StepKeepsMemoryCanonical : Prop :=
  ∀ s t : State, s.mem.wf = true → step s = .next t → t.mem.wf = true

/-! ### Operands (R42, R43, R52, R87, R88) -/

/-- What a 64-bit operand reads in a lane (R46, R87, R88): 32-bit kinds zero-extended, `eta` registers among them, address
registers whole, the immediate sign-extended, constants as the table of R87 gives them, the group's indexes in them; a 32-bit
operand is the low half. `p7` reads true (R43). The status registers read as R52 to R54 say (log 9: the skew of `sr.cycle` is a
free value). The lanes of
an issue (R124, R125, R85), lane by lane: live lanes lie in the issuing slot's mask with the counter zero and have not exited;
helper lanes are exited lanes whose quad holds a live lane; a lane takes effect where it is live and its guard is true, and it
computes where it is live or a helper and its guard is true. -/
def Obligations.OperandsAndLanes : Prop :=
  (∀ (s : State) (imm : Word) (l : Nat),
     (∀ n, val64 s imm (.v n) l = (s.cur.readV n.val l).setWidth 64)
     ∧ (∀ n, val64 s imm (.s n) l = (s.cur.readS n.val).setWidth 64)
     ∧ (∀ n, val64 s imm (.a n) l = s.cur.readA n.val)
     ∧ (∀ n, val64 s imm (.p n) l = if (s.cur.readP n.val).getLsbD l = true then 1 else 0)
     ∧ (l < 64 → val64 s imm (.p 7) l = 1)
     ∧ (∀ n, val64 s imm (.eta n) l = (s.cur.readEta n.val).setWidth 64)
     ∧ val64 s imm .imm l = imm.signExtend 64
     ∧ val64 s imm (.const .zero) l = 0 ∧ val64 s imm (.const .one) l = 1 ∧ val64 s imm (.const .fone) l = 0x3F800000
     ∧ val64 s imm (.const .lane) l = BitVec.ofNat 64 l ∧ val64 s imm (.const .quad) l = BitVec.ofNat 64 (l / 4)
     ∧ val64 s imm (.const .qlane) l = BitVec.ofNat 64 (l % 4)
     ∧ val64 s imm (.const .gidx) l = BitVec.ofNat 64 s.cur.gidx
     ∧ val64 s imm (.const .tidx) l = BitVec.ofNat 64 (s.cur.gngx * s.cur.tpg + s.cur.tign)
     ∧ val64 s imm (.const .gngx) l = BitVec.ofNat 64 s.cur.gngx ∧ val64 s imm (.const .tign) l = BitVec.ofNat 64 s.cur.tign
     ∧ val64 s imm (.const .ngrp) l = BitVec.ofNat 64 s.cur.ngrp
     ∧ val64 s imm (.const .ones) l = 0xFFFFFFFF ∧ val64 s imm (.const .fnzero) l = 0x80000000
     ∧ val64 s imm (.const .finf) l = 0x7F800000 ∧ val64 s imm (.const .fnan) l = 0x7FC00000
     ∧ (∀ x, val s imm x l = (val64 s imm x l).setWidth 32))
  ∧
  (∀ (s : State) (imm : Word) (l : Nat),
     let sr (r : StatusReg) : DWord := val64 s imm (.sr r) l
     let g := s.cur
     sr .gwidth = 64 ∧ sr .ctx = BitVec.ofNat 64 (g.ctx % 65536) ∧ sr .pstep = 0xB0
     ∧ sr .place = BitVec.ofNat 64 (g.die + 4 * g.core + 256 * g.slice + 1024 * g.gslot)
     ∧ sr .alloc = BitVec.ofNat 64 (g.vblocks + 32 * g.tquota + 1024 * g.role)
     ∧ sr .amask = g.live ∧ sr .exited = g.exited ∧ sr .helper = g.helpers ∧ sr .pstk = BitVec.ofNat 64 g.pstk
     ∧ (∀ k, (sr .flagclr).getLsbD k = true ↔ k < 12 ∧ g.flagCount k = 0)
     ∧ sr .cycle = s.cycle g.coreNo ∧ (g.wdogOn = true → sr .wdog = BitVec.ofNat 64 g.wdog)
     ∧ (∀ k, (sr .sgkb).getLsbD k = (decide (8 ≤ k ∧ k ≤ 53) && g.sgk.base.testBit k)) ∧ sr .sgkl = BitVec.ofNat 64 g.sgk.limit
     ∧ sr .sgsb = BitVec.ofNat 64 g.sgs.base ∧ sr .sgsl = BitVec.ofNat 64 g.sgs.limit
     ∧ sr .sgyb = BitVec.ofNat 64 g.sgy.base ∧ sr .sgyl = BitVec.ofNat 64 g.sgy.limit)
  ∧
  (∀ (g : Group) (gd : Guard) (l : Nat), l < 64 →
     (g.live.getLsbD l = true ↔ g.slot.mask.getLsbD l = true ∧ g.ctrOf l = 0 ∧ g.exited.getLsbD l = false)
     ∧ (g.helpers.getLsbD l = true ↔ g.exited.getLsbD l = true ∧ ∃ j, j / 4 = l / 4 ∧ g.live.getLsbD j = true)
     ∧ ((g.guardMask gd).getLsbD l = ((g.readP gd.pred.val).getLsbD l ^^ gd.neg))
     ∧ (g.effect gd).getLsbD l = (g.live.getLsbD l && (g.guardMask gd).getLsbD l)
     ∧ (g.computing gd).getLsbD l = ((g.live.getLsbD l || g.helpers.getLsbD l) && (g.guardMask gd).getLsbD l))

/-! ### Lane arithmetic (R98 to R123) -/

/-- The integer arithmetic of R102, in each lane exact and then brought to 32 bits, clamped with `.sat`. -/
def Obligations.IntegerArithmetic : Prop :=
  ∀ (m : LaneMod) (o : Fields) (s : State), m.fmt = .i32 ∨ m.fmt = .u32 →
    let int (x : Word) : Int := if m.fmt = .i32 then x.toInt else (x.toNat : Int)
    let lo : Int := if m.fmt = .i32 then -2147483648 else 0
    let hi : Int := if m.fmt = .i32 then 2147483647 else 4294967295
    let out (lo hi t : Int) : Word := BitVec.ofInt 32 (if m.sat then (if t < lo then lo else if hi < t then hi else t) else t)
    Lands2 (.add m o) o s (fun x y => out lo hi (int x + int y))
    ∧ Lands2 (.sub m o) o s (fun x y => out lo hi (int x - int y))
    ∧ Lands2 (.mul m o) o s (fun x y => out lo hi (int x * int y))
    ∧ Lands3 (.mad m o) o s (fun x y z => out lo hi (int x * int y + int z))
    ∧ Lands2 (.mulhi m o) o s (fun x y => BitVec.ofInt 32 (int x * int y / 4294967296))
    ∧ Lands2 (.min_ m o) o s (fun x y => if int x < int y then x else y)
    ∧ Lands2 (.max_ m o) o s (fun x y => if int y < int x then x else y)
    ∧ Lands1 (.abs_ m o) o s (fun x => out (-2147483648) 2147483647 (if x.toInt < 0 then -x.toInt else x.toInt))
    ∧ Lands1 (.neg m o) o s (fun x => out (-2147483648) 2147483647 (-x.toInt))

/-- The bit functions of R103, bit by bit. -/
def Obligations.BitFunctions : Prop :=
  ∀ (m : LaneMod) (o : Fields) (s : State),
    let count (y : Word) : Nat := if m.sub.getLsbD 0 = true then y.toNat % 32 else y.toNat
    let pos (y : Word) : Nat := min (y.toNat % 256) 32
    let len (y : Word) : Nat := min (y.toNat / 256 % 256) (32 - pos y)
    Lands2 (.and_ m o) o s (fun x y => x &&& y) ∧ Lands2 (.or_ m o) o s (fun x y => x ||| y)
    ∧ Lands2 (.xor_ m o) o s (fun x y => x ^^^ y) ∧ Lands1 (.not_ m o) o s (fun x => ~~~x)
    ∧ Lands2 (.shl m o) o s (fun x y => x <<< count y) ∧ Lands2 (.shr m o) o s (fun x y => x >>> count y)
    ∧ Lands2 (.sar m o) o s (fun x y => x.sshiftRight (count y))
    ∧ (∃ f, Lands1 (.popc m o) o s f ∧ ∀ x, (f x).toNat = (List.range 32).countP fun i => x.getLsbD i)
    ∧ (∃ f, Lands1 (.clz m o) o s f ∧ ∀ x, (f x).toNat ≤ 32
        ∧ (∀ i, 32 - (f x).toNat ≤ i → x.getLsbD i = false) ∧ ((f x).toNat < 32 → x.getLsbD (31 - (f x).toNat) = true))
    ∧ (∃ f, Lands1 (.brev m o) o s f ∧ ∀ x i, i < 32 → (f x).getLsbD i = x.getLsbD (31 - i))
    ∧ (∃ f, Lands2 (.bfe m o) o s f ∧ ∀ x y i, i < 32 → m.fmt = .i32 ∨ m.fmt = .u32 →
        (f x y).getLsbD i = if i < len y then x.getLsbD (pos y + i)
          else (decide (m.fmt = .i32) && decide (0 < len y) && x.getLsbD (pos y + len y - 1)))
    ∧ (∃ f, Lands3 (.bfi m o) o s f ∧ ∀ x y z i, i < 32 →
        (f x y z).getLsbD i = if pos z ≤ i ∧ i < pos z + len z then y.getLsbD (i - pos z) else x.getLsbD i)

/-- The comparison of R104, by its condition code, and the address instructions of R105. -/
def Obligations.CompareAndAddress : Prop :=
  ∀ (m : LaneMod) (o : Fields) (s : State), m.fmt = .i32 ∨ m.fmt = .u32 →
    let int (x : Word) : Int := if m.fmt = .i32 then x.toInt else (x.toNat : Int)
    (m.sub.toNat < 6 → Lands2 (.icmp m o) o s (fun x y =>
      let c : Bool := match m.sub.toNat with
        | 0 => decide (int x = int y) | 1 => decide (int x ≠ int y) | 2 => decide (int x < int y)
        | 3 => decide (int x ≤ int y) | 4 => decide (int y < int x) | _ => decide (int y ≤ int x)
      if c then 1 else 0))
    ∧ LandsAddr (.aadd m o) o s
        (val64 s o.imm o.a 0 + val64 s o.imm o.b 0 * BitVec.ofNat 64 (2 ^ (m.sub.toNat % 8)))
    ∧ ∀ n, o.d = .v n → ∃ g : Group, exec (.aidx m o) s = .next (State.advance { s with cur := g })
        ∧ g = { s.cur with v := g.v } ∧ ∀ k l, l < 64 →
          let q : DWord := val64 s o.imm o.a l + BitVec.ofInt 64 (int (val s o.imm o.b l) * 2 ^ (m.sub.toNat % 8))
          g.readV k l =
            if k = n.val ∧ (s.cur.computing o.guard).getLsbD l = true then BitVec.ofNat 32 (q.toNat % 2 ^ 32)
            else if k = n.val + 1 ∧ (s.cur.computing o.guard).getLsbD l = true then BitVec.ofNat 32 (q.toNat / 2 ^ 32)
            else s.cur.readV k l

/-- The scalar floating-point functions (R107 to R111): each exact value, rounded once under the modifier. -/
def Obligations.FloatArithmetic : Prop :=
  ∀ (m : LaneMod) (o : Fields) (s : State),
    let out (x : Ext) : Word := BitVec.ofNat 32 (roundExt F32 m.rnd m.sat x)
    let v (x : Word) : Ext := floatVal F32 x.toNat
    let less (x y : Word) : Bool := decide (cmpExt (v x) (v y) < 0)
      || (decide (cmpExt (v x) (v y) = 0) && x.getLsbD 31 && !y.getLsbD 31)
    let pick (x y r : Word) : Word := if v x = .nan then (if v y = .nan then 0x7FC00000 else y) else if v y = .nan then x else r
    let cls (x : Word) : Nat :=
      let e := x.toNat / 2 ^ 23 % 256
      let f := x.toNat % 2 ^ 23
      if e = 255 ∧ f ≠ 0 then 8
      else if x.getLsbD 31 = true then (if e = 255 then 0 else if e ≠ 0 then 1 else if f ≠ 0 then 2 else 3)
      else (if e = 255 then 7 else if e ≠ 0 then 6 else if f ≠ 0 then 5 else 4)
    Lands2 (.fadd m o) o s (fun x y => out (addExt m.rnd (v x) (v y)))
    ∧ Lands2 (.fsub m o) o s (fun x y => out (addExt m.rnd (v x) (negExt (v y))))
    ∧ Lands2 (.fmul m o) o s (fun x y => out (mulExt (v x) (v y)))
    ∧ Lands3 (.fma m o) o s (fun x y z => out (fmaExt m.rnd (v x) (v y) (v z)))
    ∧ Lands2 (.fmin m o) o s (fun x y => pick x y (if less x y then x else y))
    ∧ Lands2 (.fmax m o) o s (fun x y => pick x y (if less x y then y else x))
    ∧ Lands1 (.fabs m o) o s (fun x => if v x = .nan then 0x7FC00000 else x &&& 0x7FFFFFFF)
    ∧ Lands1 (.fneg m o) o s (fun x => if v x = .nan then 0x7FC00000 else x ^^^ 0x80000000)
    ∧ Lands2 (.fcmp m o) o s (fun x y =>
        let un : Bool := v x == .nan || v y == .nan
        let r := cmpExt (v x) (v y)
        let c : Bool := match m.sub.toNat with
          | 0 => !un && decide (r = 0) | 1 => un || decide (r ≠ 0) | 2 => !un && decide (r < 0)
          | 3 => !un && decide (r ≤ 0) | 4 => !un && decide (0 < r) | 5 => !un && decide (0 ≤ r) | 6 => un | _ => !un
        if c then 1 else 0)
    ∧ Lands2 (.fclass m o) o s (fun x y => BitVec.ofNat 32 (2 ^ cls x) &&& y)
    ∧ Lands1 (.frnd m o) o s (fun x => match v x with
        | .nan => 0x7FC00000
        | .inf _ => x
        | .fin n man exp => if man = 0 ∨ 0 ≤ exp then x
          else BitVec.ofNat 32 (roundExt F32 .rn false (.fin n (roundQ m.rnd n man exp 0 false) 0)))

/-- The packed half functions (R112) in `F16` and `BF16`: each half of the result is that half's own function, rounded once;
and `hdot2` (R113), the exact sum of two products and the accumulator, rounded once. -/
def Obligations.PackedHalfArithmetic : Prop :=
  ∀ (m : LaneMod) (o : Fields) (s : State) (H : FloatFmt), (m.fmt = .f16 ∨ m.fmt = .bf16) → floatFmt m.fmt = some H →
    let half (x : Word) (h : Nat) : Nat := x.toNat / 65536 ^ h % 65536
    let v (x : Word) (h : Nat) : Ext := floatVal H (half x h)
    let neg (x : Word) (h : Nat) : Bool := decide (32768 ≤ half x h)
    let less (x y : Word) (h : Nat) : Bool := decide (cmpExt (v x h) (v y h) < 0)
      || (decide (cmpExt (v x h) (v y h) = 0) && neg x h && !neg y h)
    let pick (x y : Word) (h r : Nat) : Nat :=
      if v x h = .nan then (if v y h = .nan then H.canonNaN else half y h) else if v y h = .nan then half x h else r
    (∃ f, Lands2 (.hadd2 m o) o s f ∧ ∀ x y h, h < 2 → half (f x y) h = roundExt H m.rnd m.sat (addExt m.rnd (v x h) (v y h)))
    ∧ (∃ f, Lands2 (.hmul2 m o) o s f ∧ ∀ x y h, h < 2 → half (f x y) h = roundExt H m.rnd m.sat (mulExt (v x h) (v y h)))
    ∧ (∃ f, Lands3 (.hfma2 m o) o s f ∧ ∀ x y z h, h < 2 →
        half (f x y z) h = roundExt H m.rnd m.sat (fmaExt m.rnd (v x h) (v y h) (v z h)))
    ∧ (∃ f, Lands2 (.hmin2 m o) o s f ∧ ∀ x y h, h < 2 →
        half (f x y) h = pick x y h (if less x y h then half x h else half y h))
    ∧ (∃ f, Lands2 (.hmax2 m o) o s f ∧ ∀ x y h, h < 2 →
        half (f x y) h = pick x y h (if less x y h then half y h else half x h))
    ∧ Lands3 (.hdot2 m o) o s (fun x y z => BitVec.ofNat 32 (roundExt F32 m.rnd m.sat
        (sumExt (m.rnd == .rd) (floatVal F32 z.toNat) [mulExt (v x 0) (v y 0), mulExt (v x 1) (v y 1)])))

/-- Moves (R115 to R117): `mov`, `sel`, `plog`, `rdl`, and the three forms of `amov`. -/
def Obligations.Moves : Prop :=
  ∀ (m : LaneMod) (o : Fields) (s : State),
    Lands1 (.mov m o) o s (fun x => x)
    ∧ Lands3 (.sel m o) o s (fun x y z => if z ≠ 0 then x else y)
    ∧ Lands3 (.plog m o) o s (fun x y z => if o.imm.getLsbD (4 * x.toNat + 2 * y.toNat + z.toNat) then 1 else 0)
    ∧ Lands (.rdl m o) o s (fun l => if (val64 s o.imm o.a l).getLsbD l then 1 else 0)
    ∧ (m.sub = 0 → LandsAddr (.amov m o) o s (val64 s o.imm o.a 0))
    ∧ (∀ k, m.sub = 1 → o.a = .s k →
        LandsAddr (.amov m o) o s (s.cur.readS (k.val + 1) ++ s.cur.readS k.val))
    ∧ (∀ n, m.sub = 2 → o.d = .s n → ∃ g : Group, exec (.amov m o) s = .next (State.advance { s with cur := g })
        ∧ g = { s.cur with s := g.s } ∧ ∀ k,
          g.readS k = if s.cur.acts o.guard = true ∧ k = n.val then (val64 s o.imm o.a 0).setWidth 32
            else if s.cur.acts o.guard = true ∧ k = n.val + 1 then (val64 s o.imm o.a 0 >>> 32).setWidth 32
            else s.cur.readS k)

/-- `cvt` (R118), by the kinds of its two formats: the element of the source, converted once, spread over 32 bits. `pack` and
`unpack` (R119, R120), bit by bit: the pair of elements 2N and 2N+1 is replaced and every other bit of the destination is
kept; `unpack` converts element N. -/
def Obligations.ConversionAndPacking : Prop :=
  (∀ (m : LaneMod) (o : Fields) (s : State) (G : Fmt), G = fmtByCode (m.sub.toNat % 16) → G ≠ .rns34 → m.fmt ≠ .rns34 →
     let F := m.fmt
     let elem (x : Word) : Nat := x.toNat % 2 ^ fmtBits G
     let int (x : Word) : Int := if isSigned G then (BitVec.ofNat (intBits G) (elem x)).toInt else (elem x : Int)
     let into (k : Int) : Word := if m.sat then BitVec.ofInt 32 (if k < intMin F then intMin F else if intMax F < k then intMax F else k)
       else if isSigned F then BitVec.ofInt 32 (BitVec.ofInt (intBits F) k).toInt else BitVec.ofNat 32 (BitVec.ofInt (intBits F) k).toNat
     Lands1 (.cvt m o) o s (fun x => match floatFmt G, floatFmt F with
       | some g, some f => BitVec.ofNat 32 (convFloat g f m.rnd m.sat (floatVal g (elem x)))
       | none, some f => BitVec.ofNat 32 (roundExt f m.rnd m.sat (if int x < 0 then .fin true (int x).natAbs 0 else .fin false (int x).natAbs 0))
       | some g, none => match floatVal g (elem x) with
         | .nan => 0
         | .inf n => BitVec.ofInt 32 (if n then intMin F else intMax F)
         | .fin n man exp => into (if n then -(roundQ m.rnd n man exp 0 false : Int) else (roundQ m.rnd n man exp 0 false : Int))
       | none, none => into (int x)))
  ∧
  (∀ (m : LaneMod) (o : Fields) (s : State), m.fmt ∈ [Fmt.f16, .bf16, .f8a, .f8b, .i16, .i12, .i8, .u8, .i4] →
     let w := fmtBits m.fmt
     let n := m.sub.toNat
     let W := wideOf m.fmt
     (2 * w * (n + 1) ≤ 32 → ∃ f : Word → Word → Word → Word,
       Lands (.pack m o) o s (fun l => f (val s o.imm o.d l) (val s o.imm o.a l) (val s o.imm o.b l))
       ∧ ∀ old x y i, i < 32 → (f old x y).getLsbD i =
           if i / (2 * w) = n then
             (let src := if i % (2 * w) < w then x else y
              let e := convElem W m.fmt m.rnd m.sat src.toNat
              (if m.fmt = .i12 then BitVec.ofInt 32 (intVal .i12 e) else BitVec.ofNat 32 e).getLsbD (i % w))
           else old.getLsbD i)
     ∧ (w * (n + 1) ≤ 32 → Lands1 (.unpack m o) o s (fun x =>
         let e := x.toNat / 2 ^ (w * n) % 2 ^ w
         match floatFmt m.fmt with
         | some f => BitVec.ofNat 32 (roundExt F32 .rn false (floatVal f e))
         | none => BitVec.ofInt 32 (intVal m.fmt e))))

/-- The transcendental functions run in every lane, with the special values of R122's table and the exact values that R122
names, `lg2` of 1 among them, in every rounding mode; `fdiv` with its special cases; `exsm` is the exponential of R80. Values
between are enclosed and rounded (log 11). -/
def Obligations.TranscendentalValues : Prop :=
  ∀ (m : LaneMod) (o : Fields) (s : State),
    let nan : Word := 0x7FC00000
    let one : Word := 0x3F800000
    let pinf : Word := 0x7F800000
    let ninf : Word := 0xFF800000
    let nz : Word := 0x80000000
    let neg (x : Word) : Prop := 0x80000000 < x.toNat ∧ x.toNat < 0xFF800000
    let row (f : Word → Word) (a b c d e : Word) : Prop :=
      f ninf = a ∧ f nz = b ∧ f 0 = c ∧ f pinf = d ∧ (∀ x, floatVal F32 x.toNat = .nan → f x = e)
    (∃ f, Lands1 (.rcp m o) o s f ∧ row f nz ninf pinf 0 nan ∧ f 0x40000000 = 0x3F000000)
    ∧ (∃ f, Lands1 (.rsqrt m o) o s f ∧ row f nan ninf pinf 0 nan ∧ (∀ x, neg x → f x = nan) ∧ f 0x40800000 = 0x3F000000)
    ∧ (∃ f, Lands1 (.sqrt m o) o s f ∧ row f nan nz 0 pinf nan ∧ (∀ x, neg x → f x = nan) ∧ f 0x40800000 = 0x40000000)
    ∧ (∃ f, Lands1 (.ex2 m o) o s f ∧ row f 0 one one pinf nan ∧ f 0x40400000 = 0x41000000)
    ∧ (∃ f, Lands1 (.lg2 m o) o s f ∧ row f nan ninf ninf pinf nan ∧ (∀ x, neg x → f x = nan) ∧ f one = 0
        ∧ f 0x3E800000 = 0xC0000000)
    ∧ (∃ f, Lands1 (.sin m o) o s f ∧ row f nan nz 0 nan nan)
    ∧ (∃ f, Lands1 (.cos m o) o s f ∧ row f nan one one nan nan)
    ∧ (∃ f, Lands1 (.tanh m o) o s f ∧ row f 0xBF800000 nz 0 one nan)
    ∧ Lands1 (.exsm m o) o s expSm
    ∧ (∃ f, Lands2 (.fdiv m o) o s f ∧ ∀ x y,
        let sign : Bool := x.getLsbD 31 != y.getLsbD 31
        let inf : Word := if sign then ninf else pinf
        let zero : Word := if sign then nz else 0
        match floatVal F32 x.toNat, floatVal F32 y.toNat with
        | .nan, _ => f x y = nan
        | _, .nan => f x y = nan
        | .inf _, .inf _ => f x y = nan
        | .inf _, .fin _ _ _ => f x y = inf
        | .fin _ _ _, .inf _ => f x y = zero
        | .fin _ a _, .fin _ b _ => (b = 0 → a = 0 → f x y = nan) ∧ (b = 0 → a ≠ 0 → f x y = inf)
          ∧ (b ≠ 0 → a = 0 → f x y = zero))

/-! ### Cross-lane instructions (R140 to R152) -/

/-- `vote` without and with a stale predicate, and the lanes of `shfl` (R141 to R145). `lred` reduces over a fixed tree of 64
positions, where a lane that takes no effect carries the neutral element; `qx` and `bcast` (R146 to R148); a lane of `qx`
reads its partner's number for itself, constants of the lane among them (log 22: the model's choice, no rule of the spec). -/
def Obligations.VoteShuffleAndReduce : Prop :=
  (∀ (m : CrossMod) (o : Fields) (s : State),
     let eff (l : Nat) : Bool := (s.cur.effect o.guard).getLsbD l
     let member (x : Opnd) (l : Nat) : Bool := if val64 s o.imm x 0 = 0 then !s.cur.exited.getLsbD l else (val64 s o.imm x 0).getLsbD l
     let t (l : Nat) : Bool := member o.b l && eff l && decide (val s o.imm o.a l ≠ 0)
     let from_ (l : Nat) : Nat :=
       let x := (val s o.imm o.b l).toNat
       let x := if m.w then 64 / 2 ^ min x 7 else x
       let j := match m.fn.toNat with
         | 0 => x % 64 | 1 => if l < x then l else l - x | 2 => if 64 ≤ l + x then l else l + x | _ => (l ^^^ x) % 64
       if val64 s o.imm o.c 0 ≠ 0 ∧ (val64 s o.imm o.c 0).getLsbD j = false then l else j
     let staled (i : CrossMod → Instr) (stale : Nat → Prop) : Prop := 8 ≤ m.st.toNat → m.st.toNat < 15 → ∃ g h : Group,
       exec (i { m with st := 0 }) s = .next (State.advance { s with cur := g })
       ∧ exec (i m) s = .next (State.advance { s with cur := h }) ∧ h = { g with p := h.p }
       ∧ ∀ n l, l < 64 → ((n = m.st.toNat - 8 ∧ eff l = true) → ((h.readP n).getLsbD l = true ↔ stale l))
         ∧ (¬ (n = m.st.toNat - 8 ∧ eff l = true) → (h.readP n).getLsbD l = (g.readP n).getLsbD l)
     (m.st = 0 → (∀ n, o.d ≠ .a n) → m.fn = 0 →
         Lands (.vote m o) o s fun _ => if (List.range 64).all fun l => !member o.b l || t l then 1 else 0)
     ∧ (m.st = 0 → (∀ n, o.d ≠ .a n) → m.fn = 1 → Lands (.vote m o) o s fun _ => if (List.range 64).any t then 1 else 0)
     ∧ (m.st = 0 → m.fn = 2 → (∃ n, o.d = .a n) →
         ∃ x : DWord, LandsAddr (.vote m o) o s x ∧ ∀ l < 64, x.getLsbD l = t l)
     ∧ (m.st = 0 → (∀ n, o.d ≠ .a n) → m.fn = 3 →
         Lands (.vote m o) o s fun _ => BitVec.ofNat 32 ((List.range 64).countP t))
     ∧ staled (fun m => .vote m o) (fun _ => ∃ j < 64, member o.b j = true ∧ s.cur.live.getLsbD j = false)
     ∧ (m.st = 0 → Lands (.shfl m o) o s fun l =>
         if s.cur.exited.getLsbD (from_ l) then 0 else val s o.imm o.a (from_ l))
     ∧ staled (fun m => .shfl m o) (fun l => s.cur.live.getLsbD (from_ l) = false))
  ∧
  (∀ (m : CrossMod) (o : Fields) (s : State),
     (∀ f e, (m.fmt, m.fn.toNat, f, e) ∈ ([(.f32, 0, faddRn, 0x80000000), (.f32, 1, fminOp, 0x7F800000), (.f32, 2, fmaxOp, 0xFF800000),
           (.i32, 0, fun x y => x + y, 0), (.u32, 0, fun x y => x + y, 0),
           (.i32, 1, fun x y => if x.toInt < y.toInt then x else y, 0x7FFFFFFF),
           (.i32, 2, fun x y => if y.toInt < x.toInt then x else y, 0x80000000),
           (.u32, 1, fun x y => if x.toNat < y.toNat then x else y, 0xFFFFFFFF),
           (.u32, 2, fun x y => if y.toNat < x.toNat then x else y, 0),
           (.i32, 3, fun x y => x &&& y, 0xFFFFFFFF), (.u32, 3, fun x y => x &&& y, 0xFFFFFFFF), (.i32, 4, fun x y => x ||| y, 0),
           (.u32, 4, fun x y => x ||| y, 0), (.i32, 5, fun x y => x ^^^ y, 0), (.u32, 5, fun x y => x ^^^ y, 0)] :
             List (Fmt × Nat × (Word → Word → Word) × Word)) →
       ∃ T : Nat → Nat → Word,
         (∀ i < 64, T 0 i = if (s.cur.effect o.guard).getLsbD i then val s o.imm o.a i else e)
         ∧ (∀ k i, k < 6 → i < 2 ^ (5 - k) → T (k + 1) i = f (T k (2 * i)) (T k (2 * i + 1)))
         ∧ Lands (.lred m o) o s fun _ => T 6 0)
     ∧ Lands (.qx m o) o s (fun l => val s o.imm o.a
         (if m.fn = 0 then l ^^^ 1 else if m.fn = 1 then l ^^^ 2 else if m.fn = 2 then l ^^^ 3
          else 4 * (l / 4) + (val s o.imm o.b l).toNat % 4))
     ∧ Lands (.bcast m o) o s (fun _ =>
         let j := (val s o.imm o.b 0).toNat % 64
         if s.cur.exited.getLsbD j then 0 else val s o.imm o.a j))

/-- The permutation network (R149 to R151): `pset` loads a setting of eleven scalars, which becomes valid four cycles later;
`perm` routes by a permutation of the lanes that the switches make, stage by stage, and that is the identity when every switch
is straight. -/
def Obligations.PermutationNetwork : Prop :=
  ∀ (m : CrossMod) (o : Fields) (s : State),
    let n := m.st.toNat % 8
    let dist (st : Nat) : Nat := if st ≤ 5 then 2 ^ (5 - st) else 2 ^ (st - 5)
    let low (st p : Nat) : Nat := if p / dist st % 2 = 1 then p - dist st else p
    let switch (st p : Nat) : Nat := ((List.range (low st p)).filter fun q => q / dist st % 2 = 0).length
    let other (st p : Nat) : Nat := if p / dist st % 2 = 1 then p - dist st else p + dist st
    let pm := s.cur.readPm n
    let src (j : Nat) : Word := if s.cur.exited.getLsbD j && !s.cur.helpers.getLsbD j then 0 else val s o.imm o.a j
    (∃ P : Nat → Nat → Nat, (∀ p < 64, P 0 p = p)
      ∧ (∀ st p, st < 11 → p < 64 → P (st + 1) p = P st (if pm.getLsbD (32 * st + switch st p) then other st p else p))
      ∧ (∀ p < 64, P 11 p < 64) ∧ (∀ p q, p < 64 → q < 64 → P 11 p = P 11 q → p = q)
      ∧ (pm = 0 → ∀ p < 64, P 11 p = p)
      ∧ Lands (.perm m o) o s fun l => if l < 64 then src (P 11 l) else 0)
    ∧ ∀ k, o.a = .s k → ∃ g : Group, exec (.pset m o) s = .next (State.advance { s with cur := g })
        ∧ g = { s.cur with pm := g.pm, pmReady := g.pmReady }
        ∧ (s.cur.acts o.guard = true → sfind g.pmReady n = some (some (s.now + 4))
            ∧ (∀ i j, i < 11 → j < 32 → (g.readPm n).getLsbD (32 * i + j) = (s.cur.readS (k.val + i)).getLsbD j)
            ∧ ∀ r, r ≠ n → g.readPm r = s.cur.readPm r ∧ sfind g.pmReady r = sfind s.cur.pmReady r)
        ∧ (s.cur.acts o.guard = false → g = s.cur)

/-! ### Program-counter values, flow and transfers (R27, R90, R129 to R139) -/

/-- The next point of R130, with the wrap of the line address, and the direct target of R90; both are program-counter values
under R27. -/
def Obligations.NextPointAndDirectTarget : Prop :=
  ∀ (x : DWord) (imm : Word), isPc x = true →
    (pcSlot x < 4 → pcLine (nextPoint x) = pcLine x ∧ pcSlot (nextPoint x) = pcSlot x + 1)
    ∧ (pcSlot x = 4 → pcLine (nextPoint x) = (pcLine x + 64) % 2 ^ 54 ∧ pcSlot (nextPoint x) = 0)
    ∧ isPc (nextPoint x) = true
    ∧ (imm.toNat % 8 < 5 → (pcLine (directTarget x imm) : Int) = ((pcLine x : Int) + 64 * (imm.sshiftRight 3).toInt) % 2 ^ 54
        ∧ pcSlot (directTarget x imm) = imm.toNat % 8 ∧ isPc (directTarget x imm) = true)

/-- The transfers of the whole-path rule (R129 to R131): not taken, they only go on; taken, the target is checked first, then
the link is written (of `call` and `callx`, whose target is read before), and the whole slot stands at the target; a target
that fails its check traps at the transferring instruction with the target in `xarg`, with no link written. `nop`, `exit` and
`ebrk` (R135, R137, R139): the lanes that take effect have exited; a slot that has lanes left goes on, and one that has none
is given up; a group that has none left leaves a held rendezvous of its team split (R195). -/
def Obligations.TransfersAndEnds : Prop :=
  (∀ (o : Fields) (s : State),
     let whole : Prop := (∃ l < 64, (s.cur.effect o.guard).getLsbD l = true)
       ∧ ∀ l < 64, s.cur.live.getLsbD l = true → (s.cur.guardMask o.guard).getLsbD l = true
     let direct := directTarget s.cur.pc o.imm
     let link (g : Group) : Group := match o.d with | .a n => g.writeA n.val (nextPoint s.cur.pc) | _ => g
     let goes (i : Instr) (target : DWord) (after : Group → Group) : Prop :=
       (¬ whole → exec i s = .next s.advance)
       ∧ (whole → ∀ u, s.checkTransfer target = (.ok (), u) →
           exec i s = .next (State.enterLine { u with cur := after u.cur } target))
       ∧ (whole → ∀ e u, s.checkTransfer target = (.error e, u) →
           exec i s = .next (u.takeTrap { code := e.1, cause := e.2, slot := pcSlot u.cur.pc, tpc := u.cur.pc,
                                          resume := u.cur.pc, xarg := target.toNat }))
     goes (.br o) direct id ∧ goes (.brx o) (val64 s o.imm o.a 0) id ∧ goes (.call o) direct link
       ∧ goes (.callx o) (val64 s o.imm o.a 0) link ∧ goes (.ret o) (val64 s o.imm o.a 0) id
       ∧ goes (.yield_ 0 o) direct id
       ∧ ∀ wf, wf ≠ 0 → (¬ whole → exec (.yield_ wf o) s = .next s.advance)
         ∧ (whole → ∀ u, s.checkTransfer direct = (.ok (), u) → exec (.yield_ wf o) s = .next { u with
             cur := { u.cur.setSlot { u.cur.slot with pc := direct, park := some wf, copy := 0 } with
               inClause := false, stall := none } }))
  ∧
  (∀ (o : Fields) (s : State),
     let T := s.cur.effect o.guard
     let g : Group := { s.cur.setSlot { s.cur.slot with mask := s.cur.slot.mask &&& ~~~T } with exited := s.cur.exited ||| T }
     exec (.nop o) s = .next s.advance
     ∧ (s.cur.pathMask &&& ~~~T ≠ 0 → exec (.exit_ o) s = .next (State.advance { s with cur := g }))
     ∧ (s.cur.pathMask &&& ~~~T = 0 → s.cur.exited ||| T ≠ BitVec.allOnes 64 →
         exec (.exit_ o) s = .next (State.dropSlot { s with cur := g }))
     ∧ (s.cur.exited ||| T = BitVec.allOnes 64 →
         exec (.exit_ o) s = .next (State.dropSlot (State.partnerGone { s with cur := g } g)))
     ∧ (s.cur.acts o.guard = true → exec (.ebrk o) s = .next (s.trap 13 0 [] o.imm.toNat))
     ∧ (s.cur.acts o.guard = false → exec (.ebrk o) s = .next s.advance))

/-- The split of a path (R132): no lane takes effect, and nothing happens; every lane does, and the slot moves; else, once the
target and then the next point have passed their checks, the lanes that take effect go to the target and the others stand at
the next point, in the other slot or on the pending-path stack; a push that cannot be written traps with `PAGE_ERR` (R477), a
full stack with `ILLEGAL_OP` cause 13, the slot still at its `brd` (log 70: the model's choice). How a slot goes on (R25, R130, R223 to R225): within its line it moves to the next slot; at the end of the line, and at a
transfer, the clause is over and the slot stands at an entry point; a slot that comes to stand where the other one stands
joins it in slot 0 at once (log 10: the model's choice of the moment), with both masks, and the top of a pending-path stack
that is not empty takes slot 1, less the lanes that have exited since; a path without any is passed over. -/
def Obligations.PathsSplitAndMerge : Prop :=
  (∀ (o : Fields) (s : State),
     let T := s.cur.effect o.guard
     let F := s.cur.pathMask &&& ~~~T
     let target := directTarget s.cur.pc o.imm
     let next := nextPoint s.cur.pc
     (T = 0 → exec (.brd o) s = .next s.advance)
     ∧ (T ≠ 0 → F = 0 → ∀ u, s.checkTransfer target = (.ok (), u) → exec (.brd o) s = .next (u.enterLine target))
     ∧ (T ≠ 0 → ∀ e u, s.checkTransfer target = (.error e, u) → exec (.brd o) s = .next (u.trapTarget e target))
     ∧ (T ≠ 0 → F ≠ 0 → ∀ e u v, s.checkTransfer target = (.ok (), u) → u.checkTarget u.cur next = (.error e, v) →
         exec (.brd o) s = .next (v.trapTarget e next))
     ∧ (T ≠ 0 → F ≠ 0 → ∀ u v, s.checkTransfer target = (.ok (), u) → u.cur = s.cur →
         u.checkTarget u.cur next = (.ok (), v) → v.cur = s.cur →
         (s.cur.otherSlot.valid = false → exec (.brd o) s = .next (State.enterLine { v with
             cur := (s.cur.setOther ⟨next, F, true, none, 0⟩).setSlot { s.cur.slot with mask := T } } target))
         ∧ (s.cur.otherSlot.valid = true → s.cur.pstk < 62 → ∀ w, v.pushPath next F = (true, w) →
             exec (.brd o) s = .next (State.enterLine { w with
               cur := w.cur.setSlot { w.cur.slot with mask := T } } target))
         ∧ (s.cur.otherSlot.valid = true → s.cur.pstk < 62 → ∀ w, v.pushPath next F = (false, w) →
             exec (.brd o) s = .next (w.trapHere 12 1 (w.cur.sgk.limit - 16 * (w.cur.pstk + 1))))
         ∧ (s.cur.otherSlot.valid = true → 62 ≤ s.cur.pstk → exec (.brd o) s = .next (v.trapHere 1 13))))
  ∧
  (∀ (s : State) (x : DWord),
     let g : Group := { s.cur.setSlot { s.cur.slot with pc := x, copy := 0 } with inClause := false, stall := none }
     let park := if s.cur.slot0.park.isSome then s.cur.slot0.park else s.cur.slot1.park
     let both : Group := { g with slot0 := ⟨x, s.cur.slot0.mask ||| s.cur.slot1.mask, true, park, 0⟩,
                                  slot1 := ⟨0, 0, false, none, 0⟩, issue1 := false, wait0 := none, wait1 := none }
     let together : Prop := s.cur.slot0.valid = true ∧ s.cur.slot1.valid = true ∧ s.cur.otherSlot.pc = x
     (pcSlot s.cur.pc < 4 → s.advance
         = { s with cur := { s.cur.setSlot { s.cur.slot with pc := nextPoint s.cur.pc } with stall := none } })
     ∧ (4 ≤ pcSlot s.cur.pc → s.advance = s.enterLine (nextPoint s.cur.pc))
     ∧ (¬ together ∨ s.cur.stepLeft ≠ 0 → s.enterLine x = { s with cur := g })
     ∧ (together → s.cur.stepLeft = 0 → s.cur.pstk = 0 → s.enterLine x = { s with cur := both })
     ∧ (together → s.cur.stepLeft = 0 → s.cur.pstk ≠ 0 → ∀ p u, State.topPath { s with cur := both } = (.ok p, u) →
         u.cur = both →
           (p.mask ≠ 0 → p.pc ≠ x → s.enterLine x = { u with cur := { both with slot1 := p, pstk := s.cur.pstk - 1 } })
           ∧ (p.mask = 0 → s.cur.pstk = 1 → s.enterLine x = { u with cur := { both with pstk := 0 } })
           ∧ p.mask &&& s.cur.exited = 0))

/-- The structured instructions (R133, R134): the new depth counter of every lane, the skip where no lane of the path is left
with the counter zero, the way back of `endl`, and the trap of a counter that would pass 255, before any counter is written.
Only the counters change. -/
def Obligations.StructuredControl : Prop :=
  ∀ (lvl : BitVec 8) (o : Fields) (s : State),
    let M (l : Nat) : Bool := s.cur.pathMask.getLsbD l
    let gd (l : Nat) : Bool := (s.cur.guardMask o.guard).getLsbD l
    let eff (l : Nat) : Bool := (s.cur.effect o.guard).getLsbD l
    let ctr (l : Nat) : Nat := (s.cur.ctrOf l).toNat
    let target := directTarget s.cur.pc o.imm
    let sets (c : Sparse (BitVec 8)) (new : Nat → Nat) : Prop := ∀ l < 64, (sget 0 c l).toNat = new l
    let zero (new : Nat → Nat) : Prop := ∃ l < 64, M l = true ∧ new l = 0
    let with_ (u : State) (c : Sparse (BitVec 8)) : State := { u with cur := { u.cur with ctr := c } }
    let skips (i : Instr) (new : Nat → Nat) : Prop :=
      ((∀ l < 64, new l ≤ 255) → ∃ c, sets c new
        ∧ (zero new → exec i s = .next (with_ s c).advance)
        ∧ (¬ zero new → (∀ u, s.checkTransfer target = (.ok (), u) → exec i s = .next ((with_ u c).enterLine target))
          ∧ ∀ e u, s.checkTransfer target = (.error e, u) → exec i s = .next (u.trapTarget e target)))
      ∧ ((∃ l < 64, 255 < new l) → exec i s = .next (s.trap 1 1))
    let ifNew (l : Nat) : Nat := if M l then (if 0 < ctr l then ctr l + 1 else if gd l then 0 else 1) else ctr l
    let elseNew (l : Nat) : Nat := if M l then (if ctr l = 0 then 1 else if ctr l = 1 then 0 else ctr l) else ctr l
    let loopNew (l : Nat) : Nat := if M l ∧ 0 < ctr l then ctr l + 2 else ctr l
    let endifNew (l : Nat) : Nat := if M l ∧ 0 < ctr l then ctr l - 1 else ctr l
    let endlNew (l : Nat) : Nat :=
      if M l then (if ctr l = 0 then (if gd l then 0 else 2) else if ctr l = 1 then 0 else ctr l) else ctr l
    skips (.if_ o) ifNew ∧ skips (.else_ o) elseNew ∧ skips (.loop_ o) loopNew
      ∧ (lvl.toNat < 254 → skips (.lbrk lvl o) fun l => if eff l then lvl.toNat + 2 else ctr l)
      ∧ (lvl.toNat < 254 → skips (.cont lvl o) fun l => if eff l then lvl.toNat + 1 else ctr l)
      ∧ (∃ c, sets c endifNew ∧ exec (.endif_ o) s = .next (with_ s c).advance)
      ∧ (∃ c, sets c endlNew ∧ (zero endlNew → (∀ u, s.checkTransfer target = (.ok (), u) →
          exec (.endl o) s = .next ((with_ u c).enterLine target))
          ∧ ∀ e u, s.checkTransfer target = (.error e, u) → exec (.endl o) s = .next (u.trapTarget e target)))
      ∧ (¬ zero endlNew → ∃ c, sets c (fun l => if M l ∧ 2 ≤ endlNew l then endlNew l - 2 else endlNew l)
          ∧ exec (.endl o) s = .next (with_ s c).advance)

/-- `grow` and `shrink` (R41, R176, R228): with no lane that takes effect, or n = 0, they only go on. A `grow` whose blocks
are free, while no request of the slice waits, is granted at once: the blocks come at the top of the range and read zero;
another one is held, and stays held until it is granted, whereupon it goes on, or denied, whereupon it traps; one that passes
the budget or 16 blocks traps. A `shrink` notes the blocks, and traps where none would remain; the noted blocks leave the top
of the range at the group's next line entry, and what they held is lost. That entry also frees the entries of the group's failure
ring whose status is `ABORT` and that raise no trap (log 81: the model's choice). -/
def Obligations.GrowAndShrink : Prop :=
  (∀ (o : Fields) (s : State),
    let n := (val s o.imm o.a 0).toNat
    let g := s.cur
    (g.acts o.guard = false ∨ n = 0 → exec (.grow o) s = .next s.advance ∧ exec (.shrink o) s = .next s.advance)
    ∧ (g.acts o.guard = true → 0 < n →
        (g.grow = .none → g.vblocks + n ≤ 16 → g.vblocks + n ≤ g.budget →
          ((s.growWaiters g.coreNo g.slice) = [] → n ≤ s.freeBlocks g.coreNo g.slice → ∃ v,
            exec (.grow o) s = .next (State.advance { s with cur := { g with vblocks := g.vblocks + n, v := v } })
            ∧ ∀ r l, l < 64 → sget 0 v (r * 64 + l)
                = if g.vblocks * 16 ≤ r ∧ r < (g.vblocks + n) * 16 then 0 else g.readV r l)
          ∧ ((s.growWaiters g.coreNo g.slice) ≠ [] ∨ s.freeBlocks g.coreNo g.slice < n →
              exec (.grow o) s = .next { s with cur := { g with grow := .asked n s.now s.steps, stall := some .grow } }))
        ∧ (g.grow = .none → 16 < g.vblocks + n ∨ g.budget < g.vblocks + n → exec (.grow o) s = .next (s.trapHere 8 0))
        ∧ (∀ m t k, g.grow = .asked m t k → exec (.grow o) s = .next { s with cur := { g with stall := some .grow } })
        ∧ (g.grow = .granted → exec (.grow o) s = .next (State.advance { s with cur := { g with grow := .none } }))
        ∧ (g.grow = .denied → exec (.grow o) s = .next (s.trapHere 8 1))
        ∧ (g.vblocks - g.shrink ≤ n → exec (.shrink o) s = .next (s.trap 1 5))
        ∧ (n < g.vblocks - g.shrink →
            exec (.shrink o) s = .next (State.advance { s with cur := { g with shrink := g.shrink + n } }))))
  ∧
  (∀ s : State, s.cur.waitingRecs = [] → ∃ v,
     s.atEntry = { s with cur := { s.cur with vblocks := s.cur.vblocks - s.cur.shrink, shrink := 0, v := v,
                                              ring := s.cur.ring.filter fun e => e.raised || e.status != 3 } }
     ∧ ∀ r l, l < 64 → sget 0 v (r * 64 + l)
         = if (s.cur.vblocks - s.cur.shrink) * 16 ≤ r ∧ r < (s.cur.vblocks - s.cur.shrink + s.cur.shrink) * 16 then 0
           else s.cur.readV r l)

/-! ### Traps (R239 to R244) -/

/-- A trap that a handler takes (R239, R241), where no wait stands that the write of the record could end: every lane that has
not exited joins one path in slot 0 at `.tvec` with its depth counter zero, slot 1 becomes invalid, `busy` is set, and the
registers, predicates, flags, tiles, permutation registers and `sr.pstk` keep their values; a trap during a STEP stops the
group (R440), as a STOP that is due would (R437). A trap without a handler ends the group (R233, R240): with `busy` set, with `.tvec` zero, or with a cause that
no handler may take, the group's lanes have all exited and no slot is valid. -/
def Obligations.TrapEntry : Prop :=
  (∀ (s : State) (t : TrapInfo) (u v : State), s.cur.busy = false → s.cur.tvec ≠ 0 → t.code ≠ 1 ∨ (t.cause ≠ 11 ∧ t.cause ≠ 13) →
     s.mon = [] →
     (let w := State.partnerGone (s.modCur fun g => g.atTrap t) s.cur; w.recordWritable w.cur = (true, u)) →
     (u.writeRecord t).checkTarget (u.writeRecord t).cur s.cur.tvec = (.ok (), v) →
     ∃ x, s.takeTrap t = x
       ∧ x.cur.slot0 = ⟨s.cur.tvec, ~~~s.cur.exited, true, none, 0⟩ ∧ x.cur.slot1.valid = false ∧ x.cur.issue1 = false
       ∧ x.cur.busy = true ∧ x.cur.inClause = false ∧ x.cur.serving = t.ring ∧ x.cur.exited = s.cur.exited
       ∧ (∀ l, s.cur.exited.getLsbD l = false → x.cur.ctrOf l = 0)
       ∧ x.cur.v = s.cur.v ∧ x.cur.s = s.cur.s ∧ x.cur.a = s.cur.a ∧ x.cur.p = s.cur.p ∧ x.cur.eta = s.cur.eta
       ∧ x.cur.pm = s.cur.pm ∧ x.cur.flags = s.cur.flags ∧ x.cur.tiles = s.cur.tiles ∧ x.cur.pstk = s.cur.pstk
       ∧ x.cur.tvec = s.cur.tvec ∧ x.cur.tscr = s.cur.tscr ∧ x.ops = s.ops
       ∧ x.cur.stopped = (s.cur.stopped || decide (0 < s.cur.stepLeft)) ∧ x.cur.stepLeft = 0
       ∧ x.cur.stopReq = (s.cur.stopReq && decide (s.cur.stepLeft = 0)))
  ∧
  (∀ (s : State) (t : TrapInfo), s.cur.busy = true ∨ s.cur.tvec = 0 ∨ (t.code = 1 ∧ (t.cause = 11 ∨ t.cause = 13)) →
     (s.takeTrap t).cur.exited = BitVec.allOnes 64 ∧ (s.takeTrap t).cur.slot0.valid = false
       ∧ (s.takeTrap t).cur.slot1.valid = false ∧ (s.takeTrap t).cur.busy = false ∧ (s.takeTrap t).cur.gid = s.cur.gid)

/-- The trap record's header and depth counters (R242, R243): every field at its offset. -/
def Obligations.TrapRecordLayout : Prop :=
  ∀ (s : State) (g : Group) (t : TrapInfo),
    let b := trapHeader s g t
    let pc0 := if g.slot0.valid then g.slot0.pc.toNat else 0
    let pc1 := if g.slot1.valid then g.slot1.pc.toNat else 0
    b.length = 0xC0 ∧ fieldAt b 0 2 = t.code % 65536 ∧ fieldAt b 2 2 = t.cause % 65536 ∧ fieldAt b 4 1 = t.step % 256
      ∧ fieldAt b 5 1 = t.test % 256 ∧ fieldAt b 6 1 = t.slot % 256 ∧ fieldAt b 7 1 % 2 = 1
      ∧ (fieldAt b 7 1 / 2 % 2 = 1 ↔ t.deferred = true) ∧ fieldAt b 8 8 = t.tpc.toNat ∧ fieldAt b 0x10 8 = t.xarg % 2 ^ 64
      ∧ (∀ l < 64, (fieldAt b 0x18 8).testBit l = true ↔ ∃ f ∈ t.lanes, f.lane = l)
      ∧ fieldAt b 0x20 8 = pc0 ∧ fieldAt b 0x28 8 = (if g.slot0.valid then g.slot0.mask.toNat else 0)
      ∧ fieldAt b 0x30 8 = pc1 ∧ fieldAt b 0x38 8 = (if g.slot1.valid then g.slot1.mask.toNat else 0)
      ∧ fieldAt b 0x40 1 = (if g.slot0.valid then 1 else 0) + (if g.slot1.valid then 2 else 0)
      ∧ fieldAt b 0x41 1 = g.pstk % 256 ∧ fieldAt b 0x48 8 = g.sgk.base % 2 ^ 64 ∧ fieldAt b 0x50 8 = g.exited.toNat
      ∧ ∀ l < 64, fieldAt b (0x80 + l) 1 = (g.ctrOf l).toNat

/-- `rte` (R179, R244): with no lane that takes effect it only goes on; a diverged group traps; while an earlier access may
name bytes that it reads it waits (log 14). A record or a stack entry that cannot be read gives `PAGE_ERR` cause 1, a poisoned one
cause 3. From a record whose paths cover each lane that has not exited once, it restores the slots, the depth counters and
`sr.pstk`, clears `busy`, in the group and in its record (`State.clearBusy`; log 71: the model's choice), and frees the served
ring entry; a record that fails a check traps with `ILLEGAL_OP` cause 11, the slots looked at before the stack (log 55: the
model's choice). -/
def Obligations.ReturnFromTrap : Prop :=
  ∀ (o : Fields) (s : State),
    let va := (val64 s o.imm o.a 0).toNat
    let slot (p : PcSlot) : PcSlot := if p.valid then p else ⟨0, 0, false, none, 0⟩
    let cause (f : TrFault) : Nat := if f = .poison then 3 else 1
    (s.cur.acts o.guard = false → exec (.rte o) s = .next s.advance)
    ∧ (s.cur.acts o.guard = true → s.cur.converged = false → exec (.rte o) s = .next (s.trap 2 0))
    ∧ (s.cur.acts o.guard = true → s.cur.converged = true → s.rteWaits va = true →
        exec (.rte o) s = .next { s with cur := { s.cur with stall := some .sys } })
    ∧ (s.cur.acts o.guard = true → s.cur.converged = true → s.rteWaits va = false →
        (2 ^ 54 ≤ va + 0xBF → exec (.rte o) s = .next (s.trap 12 1))
        ∧ (va + 0xBF < 2 ^ 54 →
            (∀ at_ f u, s.readVa s.cur.agent va 0xC0 = (.fault at_ f, u) → exec (.rte o) s = .next (u.trap 12 (cause f)))
            ∧ ∀ x u, s.readVa s.cur.agent va 0xC0 = (.ok x, u) →
                let r := restoreOf x.bytes
                (x.psn = true → exec (.rte o) s = .next (u.trap 12 3))
                ∧ (x.psn = false → r.slotsOk u.cur = false → exec (.rte o) s = .next (u.trap 1 11))
                ∧ (x.psn = false → r.slotsOk u.cur = true →
                    (∀ c v, stackMasks r.pstk u = (.error c, v) → exec (.rte o) s = .next (v.trap 12 c))
                    ∧ ∀ ms v, stackMasks r.pstk u = (.ok ms, v) →
                        (coversOnce v.cur (r.slots.map (·.mask) ++ ms) = true → ∃ c,
                          exec (.rte o) s = .next (State.retryHeld { v.clearBusy with cur := { v.clearBusy.cur with
                            slot0 := slot r.slot0, slot1 := slot r.slot1, issue1 := false, pstk := r.pstk, ctr := c,
                            busy := false, serving := none,
                            ring := v.clearBusy.cur.ring.filter (fun e => some e.idx ≠ v.clearBusy.cur.serving),
                            inClause := false, wait0 := none, wait1 := none, stall := none } } v.cur.gid)
                          ∧ ∀ l < 64, sget 0 c l = (x.bytes.getD (0x80 + l) 0))
                        ∧ (coversOnce v.cur (r.slots.map (·.mask) ++ ms) = false → exec (.rte o) s = .next (v.trap 1 11)))))

/-- A class 0xE instruction is refused at line entry in a group that is not privileged, by test 9, and that test traps with
`PRIV` (R93, R177, R238). `segld` and `srw` (R47, R178, R180): the ranges of each segment register, the trap of a value
outside them, the pending-path stack that must be empty before `sg.k` moves, tested after the ranges (log 55: the model's choice), and the
control registers. -/
def Obligations.PrivilegeAndControlRegisters : Prop :=
  (∀ (e : EntryEnv) (w : SlotWord) (i : Instr), decodeSlot e w = .ok i → (rawOf w).opc / 64 = 0xE →
     decodeSlot { e with priv := false } w = .error (.failed 9)
     ∧ ∀ x n, n < 5 → lineSlot x n = w → badSlot { e with priv := false } x n = some ⟨7, 0, 4, 9, n⟩)
  ∧
  (∀ (o : Fields) (s : State),
     let b64 := (val64 s o.imm o.a 0).toNat
     let b32 := (val s o.imm o.a 0).toNat
     let limit := (val s o.imm o.b 0).toNat
     let round (b : Nat) : Prop := b % 256 = 0 ∧ limit % 256 = 0
     let okK : Prop := round b64 ∧ b64 < 2 ^ 54 ∧ 4096 ≤ limit ∧ limit ≤ 2 ^ 32 - 256
     let okS : Prop := round b32 ∧ b32 ≤ 0x7FF00 ∧ b32 + limit ≤ 0x80000
     let okY : Prop := round b32 ∧ b32 ≤ 0x5FFFF00 ∧ b32 + limit ≤ 0x6000000
     (s.cur.acts o.guard = false → (∀ seg, exec (.segld seg o) s = .next s.advance) ∧ ∀ r, exec (.srw r o) s = .next s.advance)
     ∧ (s.cur.acts o.guard = true →
         (okK → s.cur.pstk = 0 → exec (.segld .k o) s = .next (State.advance { s with cur := { s.cur with sgk := ⟨b64, limit⟩ } }))
         ∧ (okK → s.cur.pstk ≠ 0 → exec (.segld .k o) s = .next (s.trap 1 6))
         ∧ (¬ okK → exec (.segld .k o) s = .next (s.trap 1 7))
         ∧ (okS → exec (.segld .s o) s = .next (State.advance { s with cur := { s.cur with sgs := ⟨b32, limit⟩ } }))
         ∧ (¬ okS → exec (.segld .s o) s = .next (s.trap 1 7))
         ∧ (okY → exec (.segld .y o) s = .next (State.advance { s with cur := { s.cur with sgy := ⟨b32, limit⟩ } }))
         ∧ (¬ okY → exec (.segld .y o) s = .next (s.trap 1 7))
         ∧ exec (.srw .tvec o) s = .next (State.advance { s with cur := { s.cur with tvec := val64 s o.imm o.a 0 } })
         ∧ exec (.srw .tscr o) s = .next (State.advance { s with cur := { s.cur with tscr := val64 s o.imm o.a 0 } })
         ∧ exec (.srw .wdog o) s = .next (State.advance { s with
             cur := { s.cur with wdog := b64, wdogOn := decide (b64 ≠ 0) } })))

/-! ### Loads, stores and their completion (R153 to R158, R24) -/

/-- `ld` and `ldb` (R155 to R158): with no lane that fails a check, the lanes that act are read and one pending operation is
issued, which holds each register that it will write, in which lane, with the value that R157 and R158 give it; with no lane,
they only go on; an `ld` of which every lane fails traps with what the lanes met (R154). The bytes are read at issue (logs 12
and 18: the model's choice); lanes that fail beside lanes that do not are stated of stores alone. The checks of a segment access (R153): the limit first, with the top 1,024 bytes of `.k` left out, then the
alignment; for `.s` and `.y` the bytes lie at the segment's base plus the offset; for `.k` the address is translated. -/
def Obligations.LocalLoads : Prop :=
  (∀ (m : LocalMod) (o : Fields) (s u v : State) (ok : List (Nat × List Nat × List Place)) (vals : List (Nat × List Nat))
     (psn : List LaneOp),
     let act := actLanes s.cur o (uniformDest o.d)
     let eff := maskLanes (s.cur.effect o.guard)
     let n := 2 ^ m.w.toNat
     let ext (x : Nat) : DWord := if m.sx then ((BitVec.ofNat (8 * n) x).signExtend 32).setWidth 64 else BitVec.ofNat 64 x
     let dests : List RegRef := match o.d with
       | .v k => if m.w = 3 then [.v k.val, .v (k.val + 1)] else [.v k.val]
       | .s k => [.s k.val] | .a k => [.a k.val] | _ => []
     let put (l : Nat) (xs : List Nat) : List (RegRef × Nat × DWord) :=
       let x := xs.headD 0
       match o.d with
       | .v k => if m.w = 3 then [(.v k.val, l, BitVec.ofNat 64 (x % 2 ^ 32)), (.v (k.val + 1), l, BitVec.ofNat 64 (x / 2 ^ 32))]
           else [(.v k.val, l, ext x)]
       | .s k => [(.s k.val, 0, ext x)] | .a k => [(.a k.val, 0, BitVec.ofNat 64 x)] | _ => []
     let one := act.map fun l => (l, [(val s o.imm o.a l + val s o.imm o.b l).toNat])
     let run := eff.map fun l => (l, (List.range (m.cnt.toNat + 1)).map fun i =>
       (val s o.imm o.a l + val s o.imm o.b l).toNat + 4 * (64 * i + l))
     (act = [] → exec (.ld m o) s = .next s.advance)
     ∧ (act ≠ [] → checkLanes m.sp .read n n n 0 one s = (ok, [], u) → u.mustWait m.sp (laneLocs u.cur m.sp one) n false = false →
         readLanes m.sp n ok u = (vals, psn, v) → v.cur = s.cur →
         Issues (exec (.ld m o) s) v o 0x180 noQueue dests
           (.load (spaceNo m.sp) n ((vals.map fun e => put e.1 e.2).flatten) psn))
     ∧ (∀ bad, act ≠ [] → checkLanes m.sp .read n n n 0 one s = ([], bad, u) → bad ≠ [] →
         u.mustWait m.sp (laneLocs u.cur m.sp one) n false = false → exec (.ld m o) s = .next (u.laneTrap bad))
     ∧ ∀ k, o.d = .v k →
         (eff = [] → exec (.ldb m o) s = .next s.advance)
         ∧ (eff ≠ [] → checkLanes m.sp .read 4 4 4 0 run s = (ok, [], u) → u.mustWait m.sp (laneLocs u.cur m.sp run) 4 false = false →
             readLanes m.sp 4 ok u = (vals, psn, v) → v.cur = s.cur →
             Issues (exec (.ldb m o) s) v o 0x182 noQueue ((List.range (m.cnt.toNat + 1)).map fun i => .v (k.val + i))
               (.load (spaceNo m.sp) 4
                 ((vals.map fun e => (e.2.zipIdx).map fun x => (.v (k.val + x.2), e.1, BitVec.ofNat 64 x.1)).flatten) psn)))
  ∧
  (∀ (s : State) (sp : Space) (acc : Acc) (off n align : Nat), sp ≠ .g → 0 < align →
     let sg := s.cur.seg sp
     let lim := if sp = .k then sg.limit - 1024 else sg.limit
     (lim < off + n → s.segPlace sp acc off n align = (.error (5, 0), s))
     ∧ (off + n ≤ lim → off % align ≠ 0 → s.segPlace sp acc off n align = (.error (6, 0), s))
     ∧ (off + n ≤ lim → off % align = 0 →
         (sp ≠ .k → s.segPlace sp acc off n align = (.ok ⟨sg.base + off, 0⟩, s))
         ∧ (sp = .k → 2 ^ 54 ≤ sg.base + off → s.segPlace sp acc off n align = (.error (12, 1), s))
         ∧ (sp = .k → sg.base + off < 2 ^ 54 →
             (∀ pa attr r w u, s.translate (some s.cur.coreNo) s.cur.ctx (sg.base + off) acc = (.ok pa attr r w, u) →
               s.segPlace sp acc off n align = (.ok ⟨pa, attr⟩, u))
             ∧ ∀ f u, s.translate (some s.cur.coreNo) s.cur.ctx (sg.base + off) acc = (.fault f, u) →
               s.segPlace sp acc off n align = (.error (12, if f = .poison then 3 else 1), u))))

/-- An unsigned load of one, two or four bytes from `.s`, in a memory without poison, reads the core's memory at its issue (R155,
R157; log 12: the model's choice of the moment): for each lane the bytes from the segment's base plus its offset,
lowest first. No state but the operation, the flags and the slot changes. A store to `.s`, where no wait stands that it could
end (R168), changes exactly the bytes that it names (R155, R157): lane l stores n bytes from the segment's base plus its offset on, the highest lane that covers a byte
wins, every other byte of the core's memory and every byte of DRAM and of the Yards reads as before, and no register, flag or
other state changes. -/
def Obligations.SharedMemoryAccess : Prop :=
  (∀ (m : LocalMod) (o : Fields) (s : State) (k : Fin 256),
     let eff := maskLanes (s.cur.effect o.guard)
     let n := 2 ^ m.w.toNat
     let off (l : Nat) : Nat := (val s o.imm o.a l + val s o.imm o.b l).toNat
     let value (l : Nat) : Nat := ofLe (s.sharedBytesAt s.cur.coreNo (s.cur.sgs.base + off l) n)
     m.sp = .s → m.w ≠ 3 → m.sx = false → o.d = .v k → eff ≠ [] → s.mem.sharedPsn = [] →
     (∀ l ∈ eff, off l + n ≤ s.cur.sgs.limit ∧ off l % n = 0) →
     s.mustWait .s (eff.map fun l => s.cur.sgs.base + off l) n false = false →
     Issues (exec (.ld m o) s) s o 0x180 noQueue [.v k.val]
       (.load 1 n (eff.map fun l => (.v k.val, l, BitVec.ofNat 64 (value l))) []))
  ∧
  (∀ (m : LocalMod) (o : Fields) (s : State),
     let eff := maskLanes (s.cur.effect o.guard)
     let n := 2 ^ m.w.toNat
     let at_ (l : Nat) : Nat := s.cur.sgs.base + (val s o.imm o.a l + val s o.imm o.b l).toNat
     let data (l : Nat) : Nat := (if m.w = 3 then valPair s o.imm o.c l else val64 s o.imm o.c l).toNat
     let covers (l a : Nat) : Prop := l ∈ eff ∧ at_ l ≤ a ∧ a < at_ l + n
     m.sp = .s → s.mon = [] →
     (∀ l ∈ eff, at_ l + n ≤ s.cur.sgs.base + s.cur.sgs.limit ∧ (at_ l - s.cur.sgs.base) % n = 0) →
     s.cur.sgs.base + s.cur.sgs.limit ≤ Config.sharedBytes →
     s.mustWait .s (eff.map at_) n false = false →
     ∃ t, exec (.st m o) s = .next (State.advance t)
       ∧ t = { s with mem := { s.mem with shared := t.mem.shared, sharedPsn := t.mem.sharedPsn } }
       ∧ ∀ core a, a < Config.sharedBytes →
           (core ≠ s.cur.coreNo ∨ (∀ l, ¬ covers l a) → t.sharedByte core a = s.sharedByte core a)
           ∧ ∀ l, core = s.cur.coreNo → covers l a → (∀ j, covers j a → j ≤ l) →
               t.sharedByte core a = BitVec.ofNat 8 (data l / 2 ^ (8 * (a - at_ l))))

/-- `st` and `stb` (R154, R155, R157, R158): the lanes that pass the checks are performed in ascending order, and then the
slot goes on where none failed, or the instruction traps with the first code that a lane has. A lane of `stb` with a word that
fails writes none of its words, and its words are checked from the lowest on (logs 18, 85: the model's choices). A lane-varying
constant in `stb` is read by each lane for itself, as an offset and as the one word stored (log 22: the model's reading of R87). -/
def Obligations.LocalStores : Prop :=
  ∀ (m : LocalMod) (o : Fields) (s u : State) (ok : List (Nat × List Nat × List Place)) (bad : List LaneFault),
    let eff := maskLanes (s.cur.effect o.guard)
    let n := 2 ^ m.w.toNat
    let one := eff.map fun l => (l, [(val s o.imm o.a l + val s o.imm o.b l).toNat])
    let run := eff.map fun l => (l, (List.range (m.cnt.toNat + 1)).map fun i =>
      (val s o.imm o.a l + val s o.imm o.b l).toNat + 4 * (64 * i + l))
    let word (l i : Nat) : Word := match o.c with | .v k => s.cur.readV (k.val + i) l | x => val s o.imm x l
    let ends (i : Instr) (t : State) : Prop := (bad = [] → exec i s = .next t.advance) ∧ (bad ≠ [] → exec i s = .next (t.laneTrap bad))
    (checkLanes m.sp .write n n n 1 one s = (ok, bad, u) → u.mustWait m.sp (laneLocs u.cur m.sp one) n false = false →
      ends (.st m o) (ok.foldl (fun t e => writeWords m.sp e.2.2
        [leBytes n (if m.w = 3 then valPair s o.imm o.c e.1 else val64 s o.imm o.c e.1).toNat] t) u))
    ∧ (checkLanes m.sp .write 4 4 4 1 run s = (ok, bad, u) → u.mustWait m.sp (laneLocs u.cur m.sp run) 4 false = false →
        ends (.stb m o) (ok.foldl (fun t e => writeWords m.sp e.2.2
          ((List.range (m.cnt.toNat + 1)).map fun i => leBytes 4 (word e.1 i).toNat) t) u))

/-- A store to `.k` writes device memory at the places that its checks have given (R155, R264, R362): with no sweep function
registered and no wait to end, a DRAM location that no byte of a place stands at reads as before, and no register changes. -/
def Obligations.DeviceStoreFrame : Prop :=
  ∀ (m : LocalMod) (o : Fields) (s u : State) (ok : List (Nat × List Nat × List Place)),
    let eff := maskLanes (s.cur.effect o.guard)
    let n := 2 ^ m.w.toNat
    let one := eff.map fun l => (l, [(val s o.imm o.a l + val s o.imm o.b l).toNat])
    let frames (p : Place) : List Nat :=
      if p.attr = 2 then (List.range 4).map fun d => p.pa + 3 * d * Config.regionBytes else [p.pa]
    m.sp = .k → checkLanes .k .write n n n 1 one s = (ok, [], u) → u.cur = s.cur → u.mon = [] → u.sweep.regs = [] →
    u.mustWait .k (laneLocs u.cur .k one) n false = false →
    ∃ t, exec (.st m o) s = .next (State.advance t) ∧ t.cur = s.cur ∧ t.others = u.others ∧ t.ops = u.ops
      ∧ t.mem.shared = u.mem.shared ∧ t.mem.yard = u.mem.yard ∧ t.mem.matrix = u.mem.matrix
      ∧ ∀ loc, (∀ e ∈ ok, ∀ p ∈ e.2.2, ∀ pa ∈ frames p, loc ∉ u.locs pa n) → t.dramByte loc = u.dramByte loc

/-- A load's values arrive (R21, R24), in a group with no tile that a turned name has left behind (R289): the registers take
the values that the operation holds, its flags go down by one, its entry is gone, every other operation stays, and memory is
unchanged. -/
def Obligations.LoadReturns : Prop :=
  ∀ (id : Nat) (s : State) (op : Op) (sp n : Nat) (outs : List (RegRef × Nat × DWord)), sfind s.ops id = some op →
    op.work = .load sp n outs [] → op.phase = .queued → op.gid = s.cur.gid → op.queue = noQueue → op.grant = 0 → op.status = 0 →
    op.census = [] → op.deferred = [] → (∀ e ∈ s.cur.tiles, e.2.turned = none) →
    ∃ t, exec (.loadReturn id) s = .next t ∧ t.cur = (outs.foldl (fun g w => g.writeReg w.1 w.2.1 w.2.2) s.cur).lower op.flags
      ∧ t.mem = s.mem ∧ sfind t.ops id = none ∧ (∀ j, j ≠ id → sfind t.ops j = sfind s.ops j)
      ∧ t.others = s.others ∧ t.outbox = s.outbox

/-! ### Barriers and fences (R170 to R175) -/

/-- `fence` and `qfence` (R171, R175): a fence goes on once everything earlier is performed, with the effect of its order on
the read buffers, and waits until then; a release at `.dom` or `.sys` waits for the acknowledgement of the group's fabric writes
too, and one at `.sys` then sends its zero-length reads and waits for their completion (R448; log 72: a completion is an input
of the model). A `qfence` over two or more queues leaves one entry. `bar` and `gbar` (R172): a
diverged group traps; a group whose earlier accesses are not all performed waits; the last partner to arrive releases every
other one and goes on, an earlier one waits; a released one goes on. -/
def Obligations.FencesAndWholeGroupBarriers : Prop :=
  (∀ (m : FenceMod) (o : Fields) (s : State),
     let mask := (val s o.imm o.a 0).toNat % 64
     (s.cur.acts o.guard = false → exec (.fence m o) s = .next s.advance ∧ exec (.qfence o) s = .next s.advance)
     ∧ (s.cur.acts o.guard = true →
         let key := fenceKey s.cur.gid
         let waits (u : State) : Out := .next { u with cur := { u.cur with stall := some .fence } }
         (s.performedAll m.ord = true → s.relWaits s.cur.gid key m.ord m.scope = false → exec (.fence m o) s
            = .next ((s.order m.ord (flushedScope m.scope) s.cur.die).endReads key).advance)
         ∧ (s.performedAll m.ord = false → exec (.fence m o) s = waits s)
         ∧ (s.performedAll m.ord = true → s.relWaits s.cur.gid key m.ord m.scope = true →
              exec (.fence m o) s = waits (s.sendReads s.cur.gid key m.ord m.scope))
         ∧ (s.performedAll m.ord = true → isRel m.ord = true → m.scope = .sys → s.fabricOwes s.cur.gid = false →
              s.readsOf key = none → ∃ t, exec (.fence m o) s = waits t ∧ t.mem = s.mem ∧ .zeroRead ∈ t.outbox
                ∧ ∃ l, t.readsOf key = some (0 :: l) ∧ ∀ w ∈ s.fabric.writes, w.gid = s.cur.gid → s.fabric.up = true →
                    w.device + 1 ∈ l ∧ .fabric 5 [w.device] ∈ t.outbox)
         ∧ ((List.range 6).countP mask.testBit < 2 → exec (.qfence o) s = .next s.advance)
         ∧ (2 ≤ (List.range 6).countP mask.testBit → ∃ q : List QFence,
             exec (.qfence o) s = .next (State.advance { s with qfences := q ++ [⟨s.cur.gid, s.cur.coreNo, mask, s.nextId, 0⟩] })
             ∧ q.Sublist s.qfences ∧ ∀ f ∈ s.qfences, (∃ e ∈ s.ops, e.1 < f.id ∧ e.2.core = f.core) → f ∈ q)))
  ∧
  (∀ (o : Fields) (s : State),
     let one (i : Instr) (gang : Bool) : Prop :=
       let u := s.order .ar (if gang then .die else .core) s.cur.die
       let me : BarState := if gang then .gang else .team
       let here : State := { u with cur := { u.cur with bar := me } }
       (s.cur.bar = .released → s.cur.converged = true →
           exec i s = .next (State.advance { s with cur := { s.cur with bar := .none } }))
       ∧ (s.cur.converged = false → exec i s = .next (s.trap 2 0))
       ∧ (s.cur.bar ≠ .released → s.cur.converged = true → s.performedAll .ar = false →
           exec i s = .next { s with cur := { s.cur with stall := some .barwait } })
       ∧ (s.cur.bar ≠ .released → s.cur.converged = true → s.performedAll .ar = true →
           ((∃ g ∈ here.partners gang, g.bar ≠ me) →
             exec i s = .next { u with cur := { u.cur with bar := me, stall := some .barwait } })
           ∧ ((∀ g ∈ here.partners gang, g.bar = me) → ∃ t, exec i s = .next (State.advance t) ∧ t.mem = u.mem
               ∧ t.cur = { s.cur with bar := .none }
               ∧ ∀ g ∈ here.partners gang, g.gid ≠ s.cur.gid → (∃ k, sfind u.others g.gid = some k) →
                   (t.findGroup g.gid).map (·.bar) = some .released))
     one (.bar o) false ∧ one (.gbar o) true)
  ∧
  (∀ (s : State) (key link : Nat),
     (s.readsOf key = none → s.linkRead key link = .fault .notEnabled)
     ∧ ∀ l, s.readsOf key = some l →
         (link ∉ l → s.linkRead key link = .fault .notEnabled)
         ∧ (link ∈ l → ∃ t, s.linkRead key link = .next t ∧ t.readsOf key = some (l.filter (· ≠ link))
             ∧ (∀ k, k ≠ key → t.readsOf k = s.readsOf k) ∧ t.cur = s.cur ∧ t.mem = s.mem))

/-- The phase-bit barrier functions (R173, R174) on an object that no access still pending holds: an object outside the segment
or misaligned traps, and so does a poisoned one, but for `init`, which writes a new object. An arrival counts, and a phase
whose arrivals are in and whose bytes are paid completes after each function: the generation moves on modulo 256, the arrivals
start again and the partners that have quit are taken off. An access still pending holds the function with `FENCE` (log 14: the model's choice).
`quit` also leaves the barrier, and traps where no partner would
remain; both wait for the group's earlier accesses. `wait` goes on where the generation that it found has moved on, and is
held where it has not; `test` and `gen` read. During a STEP, and only then, they trap where a lane outside the
focus has not exited (R440; log 47: the model's reading). -/
def Obligations.PhaseBarriers : Prop :=
  ∀ (o : Fields) (s : State) (b : Phbar),
    let all : List (Fields → Instr) := [.phbarInit, .phbarArr, .phbarQuit, .phbarWait, .phbarTest, .phbarGen]
    let off := (val s o.imm o.a 0).toNat
    let at_ := s.cur.sgs.base + off
    let n := (val s o.imm o.b 0).toNat
    let store (b : Phbar) : State := s.writeLocal .s s.cur.coreNo at_ b.toBytes
    let done (b : Phbar) : Phbar := if b.got = b.need ∧ b.pend = 0
      then { b with gen := (b.gen + 1) % 256, got := 0, need := (b.need + 256 - b.left) % 256, left := 0 } else b
    let up : Phbar := if b.got = b.need then { b with ovr := true } else { b with got := (b.got + 1) % 256 }
    let seen : State := if done b = b then s else store (done b)
    let wait (t : State) (r : Stall) : Out := .next { t with cur := { t.cur with stall := some r } }
    (s.cur.outsideFocus = true → ∀ f ∈ all, exec (f o) s = .next (s.trap 2 0))
    ∧ (s.cur.outsideFocus = false →
        (s.cur.acts o.guard = false → ∀ f ∈ all, exec (f o) s = .next s.advance)
        ∧ (s.cur.acts o.guard = true → s.cur.sgs.limit < off + 16 → ∀ f ∈ all, exec (f o) s = .next (s.trap 5 0))
        ∧ (s.cur.acts o.guard = true → off + 16 ≤ s.cur.sgs.limit → off % 16 ≠ 0 → ∀ f ∈ all, exec (f o) s = .next (s.trap 6 0))
        ∧ (s.cur.acts o.guard = true → off + 16 ≤ s.cur.sgs.limit → off % 16 = 0 → s.mustWait .s [at_] 16 false = true →
            ∀ f ∈ all, exec (f o) s = wait s .fence)
        ∧ (s.cur.acts o.guard = true → off + 16 ≤ s.cur.sgs.limit → off % 16 = 0 → s.mustWait .s [at_] 16 false = false →
            (1 ≤ n → n ≤ 255 → exec (.phbarInit o) s = .next (store ⟨0, n, 0, 0, 0, false, false⟩).advance)
            ∧ (n = 0 ∨ 255 < n → exec (.phbarInit o) s = .next (s.trap 1 4))
            ∧ (s.phbarAt s.cur.coreNo at_ = some b →
                (s.performedAll .rel = true → exec (.phbarArr o) s = .next (store (done up)).advance)
                ∧ (s.performedAll .rel = false → exec (.phbarArr o) s = wait s .fence)
                ∧ (b.need = b.left + 1 → exec (.phbarQuit o) s = .next (s.trap 1 4))
                ∧ (b.need ≠ b.left + 1 → s.performedAll .rel = true →
                    exec (.phbarQuit o) s = .next (store (done { up with left := (b.left + 1) % 256 })).advance)
                ∧ (b.need ≠ b.left + 1 → s.performedAll .rel = false → exec (.phbarQuit o) s = wait s .fence)
                ∧ (s.mon = [] → b.gen ≠ n % 256 → exec (.phbarWait o) s = .next seen.advance)
                ∧ (s.mon = [] → b.gen = n % 256 → exec (.phbarWait o) s = wait seen .barwait)
                ∧ (s.mon = [] → exec (.phbarTest o) s
                    = .next (writeResult seen o fun _ => if b.gen ≠ n % 256 then 1 else 0).advance)
                ∧ exec (.phbarGen o) s = .next (writeResult seen o fun _ => BitVec.ofNat 32 b.gen).advance
                ∧ (done b = b → Lands (.phbarTest o) o s (fun _ => if b.gen ≠ n % 256 then 1 else 0)
                    ∧ Lands (.phbarGen o) o s (fun _ => BitVec.ofNat 32 b.gen)))
            ∧ (s.phbarAt s.cur.coreNo at_ = none →
                ∀ f ∈ ([.phbarArr, .phbarQuit, .phbarWait, .phbarTest, .phbarGen] : List (Fields → Instr)),
                  exec (f o) s = .next (s.trap 12 3))))

/-! ### Copies, atomics and waits (R159 to R169, R185, R344) -/

/-- The issue of `cpy`, `cpyf`, `cpyg`, `cpys` and `coll` without a barrier (R160 to R162, R164): with no lane that takes
effect nothing happens. With every range in its segment or canonical and aligned, one command enters its queue, holding the
places of its bytes; a `cpy` or `cpyf` of no bytes is over at its issue. One that is out of a segment, misaligned, or not
canonical traps, the first of these counting; a `cpyg` or `cpys` of which every lane fails traps with what the lanes met. A
counted `cpyf` owes its bytes to its barrier at its issue (R160, R174): the object's pending count grows by the count of the
copy, before the command is in its queue. -/
def Obligations.CopyCommands : Prop :=
  (∀ (m : CopyMod) (o : Fields) (s : State),
     let addr (sp : Space) (x : Opnd) : Nat := if sp = .g then (val64 s o.imm x 0).toNat else (val s o.imm x 0).toNat
     let at_ (sp : Space) (a : Nat) : Nat := if sp = .g then a else (s.cur.seg sp).base + a
     let n := (val s o.imm o.c 0).toNat
     let inside (sp : Space) (a : Nat) : Prop := sp = .g ∨ a + n ≤ (s.cur.seg sp).limit
     let canon (sp : Space) (a : Nat) : Prop := sp = .g → a < 2 ^ 54
     let dst := addr m.ds o.a
     let src := addr m.ss o.b
     let eff := maskLanes (s.cur.effect o.guard)
     let N := 4 * 2 ^ m.es.toNat
     let va (l : Nat) : Nat := (valPair s o.imm o.a l).toNat
     let off (l : Nat) : Nat := (val s o.imm o.b l).toNat
     let laneOk (sp : Space) (l : Nat) : Prop := segCheck s.cur sp (off l) N N = none ∧ va l % N = 0 ∧ va l < 2 ^ 54
     let lanes (sp : Space) : List LaneOp := eff.map fun l => ⟨l, va l, (s.cur.seg sp).base + off l, va l, 0⟩
     let faults (sp : Space) (kind : Nat) : List LaneFault := eff.map fun l => match segCheck s.cur sp (off l) N N with
       | some c => ⟨l, off l, c, 0, spaceNo sp, N, kind⟩
       | none => ⟨l, va l, if va l % N ≠ 0 then 6 else 12, 0, 3, N, kind⟩
     let cva := (val64 s o.imm o.a 0).toNat
     let quiet : Prop := ∀ gr, s.gridOf s.cur.grid = some gr → gr.tlen = 0
     let finished (out : Out) : Prop := ∃ t, out = .next (State.advance t) ∧ t.mem = s.mem
       ∧ ∃ q, sfind t.ops s.nextId = some q ∧ q.phase = .ended ∧ q.status = 0 ∧ q.queue = 0
     (s.cur.acts o.guard = false → ∀ f ∈ [Instr.cpy m, .cpyf m, .cpyg m, .cpys m, .coll m], exec (f o) s = .next s.advance)
     ∧ (s.cur.acts o.guard = true → ∀ c, o.d = .const c →
         (inside m.ds dst → inside m.ss src → n % 4 = 0 → dst % 4 = 0 → src % 4 = 0 → canon m.ds dst → canon m.ss src →
           (0 < n → Issues (exec (.cpy m o) s) s o 0x1C0 0 [] (.copy m.ds m.ss m.lu (at_ m.ds dst) (at_ m.ss src) n none))
           ∧ (n = 0 → quiet → finished (exec (.cpy m o) s)))
         ∧ (inside m.ds dst → n % 4 = 0 → dst % 4 = 0 → canon m.ds dst →
           (0 < n → Issues (exec (.cpyf m o) s) s o 0x1C3 0 [] (.fill m.ds m.lu (at_ m.ds dst) (val s o.imm o.b 0) n none))
           ∧ (n = 0 → quiet → finished (exec (.cpyf m o) s)))
         ∧ (¬ inside m.ds dst ∨ ¬ inside m.ss src → exec (.cpy m o) s = .next (s.trap 5 0))
         ∧ (inside m.ds dst → inside m.ss src → n % 4 ≠ 0 ∨ dst % 4 ≠ 0 ∨ src % 4 ≠ 0 → exec (.cpy m o) s = .next (s.trap 6 0))
         ∧ (inside m.ds dst → inside m.ss src → n % 4 = 0 → dst % 4 = 0 → src % 4 = 0 → ¬ canon m.ds dst ∨ ¬ canon m.ss src →
           exec (.cpy m o) s = .next (s.trap 12 0))
         ∧ (¬ inside m.ds dst → exec (.cpyf m o) s = .next (s.trap 5 0))
         ∧ (inside m.ds dst → n % 4 ≠ 0 ∨ dst % 4 ≠ 0 → exec (.cpyf m o) s = .next (s.trap 6 0))
         ∧ (inside m.ds dst → n % 4 = 0 → dst % 4 = 0 → ¬ canon m.ds dst → exec (.cpyf m o) s = .next (s.trap 12 0))
         ∧ ((∀ l ∈ eff, laneOk m.ds l) → Issues (exec (.cpyg m o) s) s o 0x1C1 1 [] (.gather m.ds m.lu N (lanes m.ds) none))
         ∧ ((∀ l ∈ eff, ¬ laneOk m.ds l) → exec (.cpyg m o) s = .next (s.laneTrap (faults m.ds 4))))
     ∧ (s.cur.acts o.guard = true →
         ((∀ l ∈ eff, laneOk m.ss l) → Issues (exec (.cpys m o) s) s o 0x1C2 1 [] (.scatter m.ss m.lu N (lanes m.ss)))
         ∧ ((∀ l ∈ eff, ¬ laneOk m.ss l) → exec (.cpys m o) s = .next (s.laneTrap (faults m.ss 5)))
         ∧ (cva % 4 = 0 → cva < 2 ^ 54 → Issues (exec (.coll m o) s) s o 0x1C4 2 [] (.coll cva [] []))
         ∧ (cva % 4 ≠ 0 → exec (.coll m o) s = .next (s.trap 6 0))
         ∧ (cva % 4 = 0 → 2 ^ 54 ≤ cva → exec (.coll m o) s = .next (s.trap 12 0))))
  ∧
  (∀ (m : CopyMod) (o : Fields) (s : State) (b : Phbar) (off : Nat),
     let n := (val s o.imm o.c 0).toNat
     let at_ := s.cur.sgs.base + off
     let dst := (val s o.imm o.a 0).toNat
     let owed : Phbar := if 2 ^ 48 - 1 < b.pend + n then { b with pend := 2 ^ 48 - 1, ovr := true } else { b with pend := b.pend + n }
     s.cur.acts o.guard = true → m.ds = .s → barrierOff s o = some off → off % 16 = 0 → off + 16 ≤ s.cur.sgs.limit →
     dst + n ≤ s.cur.sgs.limit → dst % 4 = 0 → n % 4 = 0 → 0 < n → s.phbarAt s.cur.coreNo at_ = some b →
     (s.writeLocal .s s.cur.coreNo at_ owed.settle.toBytes).cur = s.cur →
     Issues (exec (.cpyf m o) s) (s.writeLocal .s s.cur.coreNo at_ owed.settle.toBytes) o 0x1C3 0 []
       (.fill .s m.lu (s.cur.sgs.base + dst) (val s o.imm o.b 0) n (some at_)))

/-- The issue of `atom`, `cas`, `waitv` and `wake` (R165 to R169): the lanes that act become one pending operation whose
destination waits for the old value or the code, and a wait's operation holds the expected value; with no lane nothing
happens; where every lane fails its check, the instruction traps with what the lanes met. A `wake` on `.s` or `.y` wakes the waiters
that R169 names and gives their number at once: their waits are over and their monitor entries free; with no waiter it has no
effect but its result of 0. A `wake` on `.g` goes on as well, and is over or stays outstanding for its page. A `wake` is performed at
its issue (log 12), and its fault entry has kind 2 and size 4 (log 70): the model's choices. -/
def Obligations.AtomicsIssue : Prop :=
  (∀ (m : AtomMod) (o : Fields) (s u : State) (ok : List LaneOp),
     let act := actLanes s.cur o (uniformDest o.d)
     let n := if m.sz then 8 else 4
     let addr (l : Nat) : Nat := if m.sp = .g then (valPair s o.imm o.a l).toNat else (val s o.imm o.a l).toNat
     let arg (x : Opnd) (l : Nat) : Nat := if m.sz then (valPair s o.imm x l).toNat else (val s o.imm x l).toNat
     let rel : Bool := m.ord == .rel || m.ord == .ar
     let dst : Dest := match o.d with | .v k => .v k.val m.sz | .s k => .s k.val | .a k => .a k.val | _ => .none
     let regs : List RegRef := match o.d with
       | .v k => if m.sz then [.v k.val, .v (k.val + 1)] else [.v k.val] | .s k => [.s k.val] | .a k => [.a k.val] | _ => []
     let one : List LaneOp := act.map fun l => ⟨l, addr l, 0, arg o.b l, 0⟩
     let two : List LaneOp := act.map fun l => ⟨l, addr l, 0, arg o.b l, arg o.c l⟩
     (act = [] → exec (.atom m o) s = .next s.advance ∧ exec (.cas m o) s = .next s.advance)
     ∧ (act ≠ [] → u.cur = s.cur → u.mustWait m.sp (ok.map (·.loc)) n rel = false →
         (atomLanes m.sp n 2 one s = (ok, [], u) →
           Issues (exec (.atom m o) s) u o 0x200 noQueue regs (.atomic m.sp false m.aop.toNat m.sz m.ord m.scope dst ok))
         ∧ (atomLanes m.sp n 2 two s = (ok, [], u) →
           Issues (exec (.cas m o) s) u o 0x201 noQueue regs (.atomic m.sp true m.aop.toNat m.sz m.ord m.scope dst ok))
         ∧ ∀ bad, bad ≠ [] → ok = [] →
           (atomLanes m.sp n 2 one s = ([], bad, u) → exec (.atom m o) s = .next (u.laneTrap bad))
           ∧ (atomLanes m.sp n 2 two s = ([], bad, u) → exec (.cas m o) s = .next (u.laneTrap bad)))
     ∧ (∀ d, o.d = .s d → s.cur.acts o.guard = false →
         exec (.waitv m o) s = .next s.advance ∧ exec (.wake m o) s = .next s.advance)
     ∧ (∀ d l loc, o.d = .s d → act.head? = some l → u.cur = s.cur →
         (s.atomCheck m.sp (addr l) n 3 l = (.ok loc, u) → u.mustWait m.sp [loc] n false = false →
           Issues (exec (.waitv m o) s) u o 0x202 noQueue [.s d.val]
             (.wait m.sp (m.aop.getLsbD 0) m.sz m.ord m.scope d.val loc (addr l) (val s o.imm o.c l).toNat)
           ∧ ∀ t, exec (.waitv m o) s = .next t →
               (sfind t.ops u.nextId).map (·.result) = some (BitVec.ofNat 64 (arg o.b l))))
     ∧ (∀ d l f, o.d = .s d → act.head? = some l →
         (s.atomCheck m.sp (addr l) n 3 l = (.error f, u) → exec (.waitv m o) s = .next (u.laneTrap [f]))
         ∧ (s.atomCheck m.sp (addr l) 4 2 l = (.error f, u) → exec (.wake m o) s = .next (u.laneTrap [f])))
     ∧ (∀ d l, m.sp = .g → o.d = .s d → act.head? = some l → addr l % 4 = 0 → addr l < 2 ^ 54 →
         s.mustWait .g [addr l] 4 true = false →
         ∃ t, exec (.wake m o) s = .next (State.advance t) ∧ (sfind t.ops s.nextId = none
           ∨ ∃ q, sfind t.ops s.nextId = some q ∧ q.work = .wake .g (m.aop.getLsbD 0) m.scope d.val (addr l) (addr l))))
  ∧
  (∀ (m : AtomMod) (o : Fields) (s : State) (d : Fin 64) (l : Nat),
     let off := (val s o.imm o.a l).toNat
     let at_ := (s.cur.seg m.sp).base + off
     let all := s.wakeOrder m.sp m.scope s.cur.coreNo (at_ / 64)
     let woken := if m.aop.getLsbD 0 then all else all.take 1
     m.sp = .s ∨ m.sp = .y → o.d = .s d → (actLanes s.cur o true).head? = some l → off + 4 ≤ (s.cur.seg m.sp).limit →
     off % 4 = 0 → s.mustWait m.sp [at_] 4 true = false →
     ∃ t, exec (.wake m o) s = .next (State.advance t) ∧ t.cur.readS d.val = BitVec.ofNat 32 woken.length
       ∧ (woken = [] → t.mon = s.mon ∧ ∀ k, k ≠ d.val → t.cur.readS k = s.cur.readS k)
       ∧ ((∀ e ∈ woken, e.op < s.nextId ∧ ∃ q sp x w ord sc dst loc a lim,
             sfind s.ops e.op = some q ∧ q.work = .wait sp x w ord sc dst loc a lim) →
           t.mon = (s.mon.filter fun e => !(woken.any fun w => w.op = e.op)) ∧ ∀ e ∈ woken, sfind t.ops e.op = none))

/-- One read-modify-write of a lane in a core's memory (R166, R167): the old value goes to the destination, the new value
stands in memory (or nothing is written), every other byte of that memory reads as before, and the operation is over. A wait
reaches its place in a core's memory (R168): a value that differs from the expected one gives code 1, a full table code 3, and
else the entry is installed and the wait sleeps; past its cycle limit a sleeping wait gives code 2. -/
def Obligations.AtomicsAndWaitsArrive : Prop :=
  (∀ (id : Nat) (s : State) (op : Op) (cas wide : Bool) (aop : Nat) (ord : Ord) (scope : Scope) (d : Fin 64) (l : LaneOp),
     let n := if wide then 8 else 4
     let old := ofLe (s.sharedBytesAt op.core l.loc n)
     let b := l.x
     let so := (BitVec.ofNat (8 * n) old).toInt
     let sb := (BitVec.ofNat (8 * n) b).toInt
     let new : Nat := if cas then (if old = b then l.y else old) else match aop with
       | 0 => (old + b) % 2 ^ (8 * n) | 1 => (faddRn (BitVec.ofNat 32 old) (BitVec.ofNat 32 b)).toNat
       | 2 => min old b | 3 => if so < sb then old else b | 4 => fminmax F32 false old b
       | 5 => max old b | 6 => if sb < so then old else b | 7 => fminmax F32 true old b
       | 8 => old &&& b | 9 => old ||| b | 10 => old ^^^ b | 11 => b | _ => if 0 < so then old - 1 else old
     sfind s.ops id = some op → op.work = .atomic .s cas aop wide ord scope (.s d.val) [l] → op.phase = .queued → op.progress = 0 →
     op.outs = [] → op.deferred = [] → op.census = [] → op.grant = 0 → op.status = 0 → op.queue = noQueue → op.gid = s.cur.gid →
     s.mon = [] → s.mem.sharedPsn = [] → l.loc + n ≤ Config.sharedBytes → b < 2 ^ (8 * n) → l.y < 2 ^ (8 * n) →
     ∃ t, exec (.atomicPerform id) s = .next t
       ∧ t.cur.readS d.val = BitVec.ofNat 32 old ∧ (∀ k, k ≠ d.val → t.cur.readS k = s.cur.readS k) ∧ t.cur.v = s.cur.v
       ∧ ofLe (t.sharedBytesAt op.core l.loc n) = new
       ∧ (∀ core a, a < Config.sharedBytes → core ≠ op.core ∨ a < l.loc ∨ l.loc + n ≤ a → t.sharedByte core a = s.sharedByte core a)
       ∧ sfind t.ops id = none ∧ ∀ k, k < 12 → t.cur.flagCount k = if op.flags.getLsbD k then s.cur.flagCount k - 1 else s.cur.flagCount k)
  ∧
  (∀ (id : Nat) (s : State) (op : Op) (x wide : Bool) (scope : Scope) (d : Fin 64) (loc at_ limit : Nat),
     let n := if wide then 8 else 4
     let v := ofLe (s.sharedBytesAt op.core loc n)
     let codes (i : Instr) (c : Nat) : Prop := ∃ t, exec i s = .next t ∧ t.cur.readS d.val = BitVec.ofNat 32 c
       ∧ sfind t.ops id = none ∧ (∀ e ∈ t.mon, e ∈ s.mon ∧ e.op ≠ id) ∧ t.mem = s.mem
     sfind s.ops id = some op → op.work = .wait .s x wide .rlx scope d.val loc at_ limit → op.deferred = [] → op.gid = s.cur.gid →
     s.mem.sharedPsn = [] →
     (op.phase = .queued → (v ≠ op.result.toNat → codes (.atomicPerform id) 1)
       ∧ (v = op.result.toNat → s.monRoom op.core op.grid = false → codes (.atomicPerform id) 3)
       ∧ (v = op.result.toNat → s.monRoom op.core op.grid = true → ∃ t, exec (.atomicPerform id) s = .next t
           ∧ t.mon = s.mon ++ [⟨op.core, .s, loc / 64, x, scope, id, op.grid⟩] ∧ t.mem = s.mem ∧ t.cur = s.cur
           ∧ ∃ q, sfind t.ops id = some q ∧ q.phase = .running ∧ q.since = s.now))
     ∧ (op.phase = .running → limit ≠ 0 → op.since + limit ≤ s.now → codes (.waitvTimeout id) 2))

/-- The start, the leave and the completion of a command of one group (R15, R185, R267, R344), for a copy whose grid keeps no
trace: a copy below 1 MiB runs at once; a larger one asks for its leave, and waits in the list behind the requests of earlier
cycles (log 70: a request is granted in a later cycle than its own); the oldest request is granted 243 mLU of the pool once
they are free, and runs (log 13 for the units of the work); and one whose work is over, in a group with no tile that a
turned name has left behind (R289), lowers its flags and goes. A unit of a copy within a core's memory (R161): at most 64 bytes, read before any is written; every other byte of that memory
reads as before; the command has moved on by as much, and its work is over with its last byte. -/
def Obligations.EngineCommandsRun : Prop :=
  (∀ (id : Nat) (s : State) (op : Op) (ds ss : Space) (lu : Bool) (dst src count : Nat) (bar : Option Nat),
     sfind s.ops id = some op → op.work = .copy ds ss lu dst src count bar → op.mates = [] → op.status = 0 → op.progress = 0 →
     op.grant = 0 → op.replayed = false → op.census = [] → op.deferred = [] → op.outs = [] → op.gid = s.cur.gid →
     (∀ gr, s.gridOf op.grid = some gr → gr.tlen = 0) →
     (s.commandReady id op = true → 0 < count → count < 2 ^ 20 →
         exec (.engineCommandStart id) s = .next (s.modOp id fun op => { op with phase := .running }))
     ∧ (s.commandReady id op = true → 2 ^ 20 ≤ count →
         ∃ t, exec (.engineCommandStart id) s = .next t ∧ t.leave.free = s.leave.free ∧ t.mem = s.mem ∧ t.cur = s.cur
           ∧ (∃ l r, t.leave.waiting = l ++ id :: r ∧ s.leave.waiting = l ++ r
               ∧ ∀ h ∈ l, s.askedAt h ≠ some s.now ∨ s.leaveRank h ≤ s.leaveRank id)
           ∧ ∃ q, sfind t.ops id = some q ∧ q.phase = .leave ∧ q.grant = 0 ∧ q.since = s.now)
     ∧ (2 ^ 20 ≤ count → s.leave.waiting.head? = some id → 243 ≤ s.leave.free → op.since < s.now → ∃ t,
         exec (.leaveGrant id) s = .next t ∧ t.leave.free = s.leave.free - 243 ∧ id ∉ t.leave.waiting
         ∧ ∃ q, sfind t.ops id = some q ∧ q.phase = .running ∧ q.grant = 243)
     ∧ (s.leave.waiting.head? = some id → s.leave.free < 243 ∨ s.now ≤ op.since → 2 ^ 20 ≤ count →
         exec (.leaveGrant id) s = .fault .notEnabled)
     ∧ (op.phase = .ended → (∀ e ∈ s.cur.tiles, e.2.turned = none) →
         ∃ t, exec (.commandComplete id) s = .next t ∧ sfind t.ops id = none ∧ t.mem = s.mem
         ∧ (∀ j, j ≠ id → sfind t.ops j = sfind s.ops j) ∧ t.cur.v = s.cur.v ∧ t.cur.s = s.cur.s
         ∧ ∀ k, k < 12 → t.cur.flagCount k = if op.flags.getLsbD k then s.cur.flagCount k - 1 else s.cur.flagCount k))
  ∧
  (∀ (id : Nat) (s : State) (op : Op) (lu : Bool) (dst src count : Nat),
     let n := min 64 (count - op.progress)
     sfind s.ops id = some op → op.phase = .running → op.work = .copy .s .s lu dst src count none → op.progress < count →
     s.mon = [] → s.mem.sharedPsn = [] → dst + count ≤ Config.sharedBytes → src + count ≤ Config.sharedBytes →
     ∃ t, exec (.copyUnitWrite id) s = .next t
       ∧ (∀ i < n, t.sharedByte op.core (dst + op.progress + i) = s.sharedByte op.core (src + op.progress + i))
       ∧ (∀ core a, a < Config.sharedBytes → core ≠ op.core ∨ a < dst + op.progress ∨ dst + op.progress + n ≤ a →
           t.sharedByte core a = s.sharedByte core a)
       ∧ t.cur = s.cur ∧ t.mem.hbm = s.mem.hbm ∧ t.mem.yard = s.mem.yard
       ∧ ∃ q, sfind t.ops id = some q ∧ q.progress = op.progress + n ∧ q.done = op.done + n
         ∧ (q.phase = .ended ↔ op.progress + n = count))

/-! ### Matrix, correcting, attention and side commands at issue (R183 to R217) -/

/-- The multiply-accumulate in three residue channels and its reconversion are exact (R69 to R71): where the sum of the
products lies in the signed range of the moduli 2,047, 2,048 and 2,049, the partial of a chain of products from zero
reconverts to that sum. An exact value that a pattern of `F32` holds is returned exactly, in every mode, with and without
`.sat` (R64, R107, R122): rounding the value of a pattern that is no NaN gives the pattern. What the tile commands do when they
run (R193, R194, R196, R286, R290): `mrd` settles its tile, keeps it so, and writes its elements in row order, converted; `mwr`
reads 4,096 elements into its tile; `mclr` has nothing more to do; an `mma` to one granule whose chain does not fit its tile ends with 4
and leaves it; on the float path each element takes the sum of its products with one rounding, and on the residue path over
integers each partial takes its products in the three channels, and `.fin` adds its value to the element. A command that asks
for leave runs with its grant, another one at its start. Each is done whole in that one step, an `mma` up to its first granule
(log 13: the model's choice), and an `mma` on a loaded tile takes its chain before it meets poison in A (log 79: the model's
choice). -/
def Obligations.ExactArithmetic : Prop :=
  (∀ l : List (Int × Int),
     let t := (l.map fun e => e.1 * e.2).sum
     t < 4294966272 → -4294966272 ≤ t → rnsVal (l.foldl (fun p e => rnsMac p e.1 e.2) 0) = t)
  ∧
  (∀ (r : Rnd) (sat : Bool) (x : Nat), x < 2 ^ 32 → floatVal F32 x ≠ .nan → roundExt F32 r sat (floatVal F32 x) = x)
  ∧
  (∀ (id : Nat) (s : State) (op : Op) (g : Group), sfind s.ops id = some op → s.tileGroup op.gid = some g →
     let one : Ext := .fin false 1 0
     let runs (st : Nat) (P : State → Prop) : Prop := ∃ t q, s.runWork id = some t ∧ sfind t.ops id = some q ∧ q.phase = .ended
       ∧ q.status = st ∧ P t
     let quiet : Prop := ∀ gr, s.gridOf op.grid = some gr → gr.tlen = 0
     (op.asksNothing = true → op.mates = [] → s.commandReady id op = true → quiet →
         ∀ t, s.runWork id = some t → exec (.engineCommandStart id) s = .next t)
     ∧ (0 < op.leave → op.mates = [] → s.leave.waiting.head? = some id → op.leave ≤ s.leave.free → op.since < s.now → quiet →
         ∀ t, (s.takeLeave id op.leave).runWork id = some t → exec (.leaveGrant id) s = .next t)
     ∧ (∀ nm tile fmt rnd sat sp dst, op.work = .mrd nm tile fmt rnd sat sp dst → s.mon = [] →
         let out (acc : Nat → Word) : Bytes :=
           ((List.range 4096).map fun e => leBytes (fmtBits fmt / 8) (convElem .f32 fmt rnd sat (acc e).toNat)).flatten
         let wrote (t : State) (acc : Nat → Word) : Prop := t.mem = (s.writeLocal sp (spaceUnit sp op.core) dst (out acc)).mem
         (tile = none → runs 0 fun t => wrote t fun _ => 0)
         ∧ ∀ k, tile = some k →
             (∀ tl, s.settle op.core (s.tileOf op.gid k) = .ok tl → skeysRise tl.acc = true →
               runs 0 fun t => wrote t (sget 0 tl.acc) ∧ t.tileOf op.gid k = tl)
             ∧ ∀ e, s.settle op.core (s.tileOf op.gid k) = .error e → runs e fun t => t.mem = s.mem)
     ∧ (∀ nm k sp src, op.work = .mwr nm k sp src →
         let x := s.readLocal sp (spaceUnit sp op.core) src 16384
         (x.psn = true → runs 2 fun t => t.mem = s.mem ∧ t.tileOf op.gid k = s.tileOf op.gid k)
         ∧ (x.psn = false → runs 0 fun t => t.mem = s.mem ∧ (t.tileOf op.gid k).res = (s.tileOf op.gid k).res
             ∧ ∀ e < 4096, sget 0 (t.tileOf op.gid k).acc e = BitVec.ofNat 32 (ofLe ((x.bytes.drop (4 * e)).take 4))))
     ∧ (∀ nm k, op.work = .mclr nm k →
         s.runWork id = some (s.modOp id fun op => { op with phase := .ended, status := 0 }))
     ∧ ∀ w, op.work = .mma w → op.progress = 0 → w.sg = 0 →
         let old := s.tileOf op.gid w.tile
         let new (t : State) : Tile := t.tileOf op.gid w.tile
         let adopts : Prop := old.loaded = true
           ∨ (old.residue = w.residue ∧ old.fa = w.fb.fa ∧ old.fb = w.fb.fb ∧ old.kb = w.fb.kb)
         let x := s.readLocal .s op.core w.aAt (64 * w.k * fmtBits w.fb.fa / 8)
         let A (i : Nat) : List Nat := (rowsOfA w.fb.fa w.k x.bytes).getD i []
         let B (j : Nat) : List Nat := (colsOfB w.fb.fb w.k w.b).getD j []
         (¬ adopts → runs 4 fun t => t.mem = s.mem ∧ new t = old)
         ∧ (adopts → x.psn = true → runs 2 fun t => t.mem = s.mem ∧ (new t).acc = old.acc ∧ (new t).res = old.res)
         ∧ (adopts → x.psn = false → old.bad = false → skeysRise old.acc = true → skeysRise old.res = true →
             (w.residue = false → w.fin = false → runs 0 fun t => t.mem = s.mem ∧ (new t).kpos = old.kpos + w.k
               ∧ ∀ i < 64, ∀ j < 64, sget 0 (new t).acc (64 * i + j)
                 = floatCell w.fb.fa w.fb.fb (A i) (B j) (sget 0 old.acc (64 * i + j)))
             ∧ (w.residue = true → floatFmt w.fb.fa = none → floatFmt w.fb.fb = none → w.fb.kb = 0 → w.k % 32 = 0 →
                 w.fb.src.hsa = false → w.fb.src.hsb = false →
                 let part (i j : Nat) : BitVec 34 := (((A i).map (intVal w.fb.fa)).zip ((B j).map (intVal w.fb.fb))).foldl
                   (fun p e => rnsMac p e.1 e.2) (sget 0 old.res (64 * i + j))
                 runs 0 fun t => t.mem = s.mem ∧ ∀ i < 64, ∀ j < 64,
                   let e := 64 * i + j
                   (w.fin = false → sget 0 (new t).acc e = sget 0 old.acc e ∧ sget 0 (new t).res e = part i j)
                   ∧ (w.fin = true → sget 0 (new t).res e = 0 ∧ sget 0 (new t).acc e = if part i j = 0 then sget 0 old.acc e
                       else addTerm (sget 0 old.acc e) (residueTerm (rnsVal (part i j)) one one 0)))))

/-- The issue of the tile commands (R183, R193 to R196, R285): in a group whose lanes are all live and take effect, on a name
that no verdict holds, one command enters the matrix queue; `mma` that opens a chain and `mwr` bind the name to a spare tile
of zeros at issue (`State.openChain`, `State.rename`), and `mclr` unbinds it. Where no lane takes effect they only go on; where
only some lanes take part they trap with `ILLEGAL_CONV`. `mmq` and `corq` (R195, R200, R291): in a team with a quartet, each
brings what it has read and is held, and in another team it traps with cause 1; a held group whose partner is gone traps with
`QUARTET_SPLIT` cause 2 (the causes as log 51 numbers them: the model's choice). Four held instructions that agree issue: each group's command enters the matrix queue with the whole
of what the four have brought and with the other three as its mates, and the hold ends. Four that do not agree trap with the cause "shape". They do not meet while
one of them is stopped or its watchdog has run out, and one that has been told to stop does so where it would issue (R233, R437), the other three stopping with it (log 60: the
model's choice). -/
def Obligations.MatrixCommands : Prop :=
  (∀ (mm : MmaMod) (m : TileMod) (o : Fields) (s : State),
     let live (l : Nat) : Prop := s.cur.live.getLsbD l = true
     let eff (l : Nat) : Prop := (s.cur.effect o.guard).getLsbD l = true
     let whole : Prop := ∀ l < 64, s.cur.exited.getLsbD l = false → live l
     let all : Prop := whole ∧ (∀ l < 64, live l → eff l) ∧ ∃ l < 64, live l
     let some_ : Prop := ¬ whole ∨ ((∃ l < 64, eff l) ∧ ∃ l < 64, live l ∧ ¬ eff l)
     let d := tileNo o.d
     let a := tileNo o.a
     let offA := (val s o.imm o.a 0).toNat
     let offB := (val s o.imm o.b 0).toNat
     let at_ (off : Nat) : Nat := (s.cur.seg m.sp).base + off
     let four : List Instr := [.mma mm o, .mwr m o, .mrd m o, .mclr o]
     (all → s.verdict d = .clear →
         (∀ w, mmaPrep s mm o false = .ok w → Issues (exec (.mma mm o) s) (s.openChain w) o 0x280 3 [] (.mma w))
         ∧ (∀ c k, mmaPrep s mm o false = .trap c k → exec (.mma mm o) s = .next (s.trap c k))
         ∧ (∀ i, segCheck s.cur m.sp offA 16384 256 = none → s.spare d = some i →
           Issues (exec (.mwr m o) s) (s.rename d i { Tile.zero with loaded := true }) o 0x283 3 []
             (.mwr d (2 * d + i) m.sp (at_ offA)))
         ∧ Issues (exec (.mclr o) s)
             { s with cur := { s.cur.turnAway d s.nextId with liveTile := sdel s.cur.liveTile d } } o 0x284 3 []
             (.mclr d ((sfind s.cur.liveTile d).map fun i => 2 * d + i)))
     ∧ (all → s.verdict a = .clear → segCheck s.cur m.sp offB (4096 * (fmtBits m.fmt / 8)) 256 = none →
         Issues (exec (.mrd m o) s) s o 0x282 3 []
           (.mrd a ((sfind s.cur.liveTile a).map fun i => 2 * a + i) m.fmt m.rnd m.sat m.sp (at_ offB)))
     ∧ (whole → (∀ l < 64, ¬ eff l) → ∀ i ∈ four, exec i s = .next s.advance)
     ∧ (some_ → ∀ i ∈ four, exec i s = .next (s.trap 2 0)))
  ∧
  (∀ (mm : MmaMod) (m : CorMod) (o : Fields) (s : State),
     let ready : Prop := s.cur.rdv = none ∧ s.cur.collective o.guard true = .act ∧ s.verdict (tileNo o.d) = .clear
     let held (r : Rdv) : Out := .next { s with cur := { s.cur with rdv := some r, stall := some .quartet } }
     let rdv : List Instr := [.mmq mm o, .corq m o]
     (ready → s.hasQuartet = true → ∀ w, mmaPrep s mm o true = .ok w → exec (.mmq mm o) s = held (.mmq w o))
     ∧ (ready → s.hasQuartet = true → ∀ w, corPrep s m o true = .ok w → exec (.corq m o) s = held (.corq w o))
     ∧ (ready → s.hasQuartet = false → exec (.mmq mm o) s = .next (s.trapHere 11 1) ∧ exec (.corq m o) s = .next (s.trapHere 11 1))
     ∧ (s.cur.rdv.isSome = true → s.cur.converged = false → ∀ i ∈ rdv, exec i s = .next (s.trap 2 0))
     ∧ (s.cur.converged = true → ∀ c, s.cur.rdv = some (.split c) → ∀ i ∈ rdv, exec i s = .next (s.trapHere 11 c))
     ∧ ∀ (gs : List Group) (ms : List (Group × MmaWork × Fields)) (cs : List (Group × CorWork × Fields)),
         gs = s.quartet.mergeSort (fun g h => g.slice ≤ h.slice) → gs.length = 4 → s.cur.gid ≠ 0 →
         let free : Prop := ∀ g ∈ gs, g.stopped = false ∧ g.expired = false
         let go : Prop := free ∧ ∀ g ∈ gs, g.stopReq = false
         ms = gs.filterMap (fun g => g.mmqOf.map fun e => (g, e)) → cs = gs.filterMap (fun g => g.corqOf.map fun e => (g, e)) →
         let ids := (List.range 4).map (s.nextId + ·)
         let issued (t : State) (k opc : Nat) (g : Group) (w : Work) : Prop := ∃ q h, sfind t.ops (s.nextId + k) = some q
           ∧ q.gid = g.gid ∧ q.opc = opc ∧ q.queue = 3 ∧ q.phase = .queued ∧ q.work = w
           ∧ q.mates = ids.filter (· ≠ s.nextId + k) ∧ t.findGroup g.gid = some h ∧ h.rdv = none
         let found : Prop := (∀ e ∈ s.others, e.2.gid = e.1 ∧ e.1 ≠ s.cur.gid ∧ e.1 ≠ 0) ∧ skeysRise s.others = true
           ∧ ∀ g ∈ gs, pcSlot g.pc < 4
         (go → ms.length = 4 → cs = [] → (∀ e ∈ ms, ∀ x, ms.head? = some x → e.2.1.agrees x.2.1 = true) →
           exec (.quartetRendezvous s.cur.gid) s = .next ((s.mmqMeet ms).focus s.cur.gid)
           ∧ (found → ∀ k e, ms[k]? = some e → issued ((s.mmqMeet ms).focus s.cur.gid) k 0x281 e.1
               (.mma { e.2.1 with b := (ms.map fun e => e.2.1.b).flatten })))
         ∧ (go → ms = [] → cs.length = 4 → (∀ e ∈ cs, ∀ x, cs.head? = some x → e.2.1.agrees x.2.1 = true) →
           exec (.quartetRendezvous s.cur.gid) s = .next ((s.corqMeet cs).focus s.cur.gid)
           ∧ (found → ∀ k e, cs[k]? = some e → issued ((s.corqMeet cs).focus s.cur.gid) k 0x2C1 e.1
               (.cor { e.2.1 with keys := (cs.map fun e => e.2.1.keys).flatten })))
         ∧ (go → ms.length = 4 → cs = [] → (∃ e ∈ ms, ∃ x, ms.head? = some x ∧ e.2.1.agrees x.2.1 = false) →
           exec (.quartetRendezvous s.cur.gid) s = .next (s.rdvSplit gs))
         ∧ (go → ms = [] → cs.length = 4 → (∃ e ∈ cs, ∃ x, cs.head? = some x ∧ e.2.1.agrees x.2.1 = false) →
           exec (.quartetRendezvous s.cur.gid) s = .next (s.rdvSplit gs))
         ∧ ((∃ g ∈ gs, g.stopped = true ∨ g.expired = true) → exec (.quartetRendezvous s.cur.gid) s = .fault .notEnabled)
         ∧ (free → ms.length + cs.length = 4 → (∃ g ∈ gs, g.stopReq = true) →
           exec (.quartetRendezvous s.cur.gid) s = .next (s.stopQuartet gs)))

/-- The issue of `cor`, `gram` and `trsv` (R183, R184, R199 to R204), in a group whose lanes are all live and take effect: the
keys and values of the lanes are read at issue, an exited lane supplying zero, and one command enters the matrix queue, whose
register results wait for it. Where no lane takes effect they only go on; a group that is not whole traps with
`ILLEGAL_CONV`. What they do when they run (R200, R201, R203, R204, R293): `gram` gives the products of each key with the earlier
ones, `trsv` solves by forward substitution, `cor.rsp` gives the residuals of the settled tile; `cor.add`, and `cor.upd` for one key,
build each element of the new tile from the settled live one, with one rounding, and end with 6 where the new tile diverges, and a
step size of zero, or that is no number, ends an update at once. A command that completes with 0 writes its lanes' results
and binds the tile that it built. -/
def Obligations.CorrectingCommands : Prop :=
  ∀ (m : CorMod) (o : Fields) (s : State),
    let all : Prop := (∀ l < 64, s.cur.exited.getLsbD l = false → s.cur.live.getLsbD l = true ∧ (s.cur.effect o.guard).getLsbD l = true)
      ∧ s.cur.exited ≠ BitVec.allOnes 64
    let n := m.kn.toNat + 1
    let read (r count : Nat) : List Word :=
      ((List.range count).map fun t => (List.range 64).map fun l => if s.cur.exited.getLsbD l then 0 else s.cur.readV (r + t) l).flatten
    ((∃ l < 64, s.cur.exited.getLsbD l = false ∧ s.cur.live.getLsbD l = false) →
        ∀ i ∈ [Instr.cor m o, .gram m o, .trsv m o], exec i s = .next (s.trap 2 0))
    ∧ ((∀ l < 64, s.cur.exited.getLsbD l = false → s.cur.live.getLsbD l = true) → (∀ l < 64, (s.cur.effect o.guard).getLsbD l = false) →
        ∀ i ∈ [Instr.cor m o, .gram m o, .trsv m o], exec i s = .next s.advance)
    ∧ ∀ d a b, vregNo o.d = d → vregNo o.a = a → vregNo o.b = b → all →
      Issues (exec (.gram m o) s) s o 0x2C2 3 ((List.range n).map fun t => .v (d + t)) (.gram n d (~~~s.cur.exited) (read a n))
      ∧ Issues (exec (.trsv m o) s) s o 0x2C3 3 ((List.range n).map fun t => .v (d + t))
          (.trsv n d (~~~s.cur.exited) (s.cur.readEta m.es.toNat) (read a n) (read b n))
      ∧ ∀ w, s.verdict (tileNo o.d) = .clear → corPrep s m o false = .ok w →
          Issues (exec (.cor m o) s) (s.takeBuild w) o 0x2C0 3 (if m.mode = .rsp then (List.range n).map fun t => .v (b + t) else []) (.cor w)
          ∧ w.keys = read a n ∧ w.vals = read b n ∧ w.n = n ∧ w.mode = m.mode ∧ w.eta = s.cur.readEta m.es.toNat
    ∧ ∀ (id : Nat) (op : Op), sfind s.ops id = some op →
        let reg (l : List Word) (t i : Nat) : Word := l.getD (64 * t + i) 0
        let runs (st : Nat) (P : State → Op → Prop) : Prop := ∃ t q, s.runWork id = some t ∧ sfind t.ops id = some q
          ∧ q.phase = .ended ∧ q.status = st ∧ P t q
        let gives (mask : LaneMask) (d n : Nat) (x : Nat → Nat → Word) : Prop := runs 0 fun t q => t.mem = s.mem
          ∧ q.outs = regOuts mask d ((List.range n).map fun t => (List.range 64).map (x t))
        (∀ n d mask keys, op.work = .gram n d mask keys → keys.length = 64 * n →
          gives mask d n fun t u => if u < t then dotRn (regAt keys t) (regAt keys u) else 0)
        ∧ (∀ n d mask eta rows rhs (x : Nat → Nat → Word), op.work = .trsv n d mask eta rows rhs → rhs.length = 64 * n →
            (∀ t l, x t l = sumRn (f32 (reg rhs t l)) ((List.range t).map fun u =>
              negExt (mulExt (mulExt (f32 eta) (f32 (reg rows t u))) (f32 (x u l))))) → n ≤ 16 → gives mask d n x)
        ∧ (∀ w g tl, op.work = .cor w → op.progress = 0 → s.tileGroup op.gid = some g →
            s.settle op.core (s.corTile op.gid w) = .ok tl → skeysRise tl.acc = true →
            w.keys.length = 64 * w.n → w.vals.length = 64 * w.n →
            let S (i : Nat) : List Word := (List.range 64).map fun j => sget 0 tl.acc (64 * i + j)
            let e (t i : Nat) : Word := fsubRn (reg w.vals t i) (dotRn (S i) (regAt w.keys t))
            let made (b : Nat) (x : Nat → Nat → Word) : Prop :=
              runs (if diverged w.lim ((List.range 64).map fun i => (List.range 64).map (x i)) then 6 else 0) fun t q => t.mem = s.mem
                ∧ q.outs = op.outs ∧ (∀ k, w.tile = some k → k ≠ b → t.tileOf op.gid k = tl)
                ∧ ∀ i < 64, ∀ j < 64, sget 0 (t.tileOf op.gid b).acc (64 * i + j) = x i j
            (w.mode = .rsp → gives w.mask w.vreg w.n e)
            ∧ (w.mode ≠ .rsp → ∀ st, etaStatus w.eta = some st → runs st fun t _ => t.mem = s.mem)
            ∧ ∀ b, w.mode ≠ .rsp → etaStatus w.eta = none → w.build = some b → tl.bad = false →
                (w.mode = .add → made b fun i j => sumRn (f32 ((S i).getD j 0)) ((List.range w.n).map fun t =>
                  mulExt (mulExt (f32 w.eta) (f32 (reg w.vals t i))) (f32 (reg w.keys t j))))
                ∧ (w.mode = .upd → w.n = 1 → made b fun i j =>
                    sumRn (f32 ((S i).getD j 0)) [mulExt (mulExt (f32 w.eta) (f32 (e 0 i))) (f32 (reg w.keys 0 j))]))
        ∧ (op.phase = .ended → op.status = 0 → op.mates = [] → op.deferred = [] → op.census = [] → op.replayed = false →
            op.gid = s.cur.gid → (∀ x ∈ s.cur.tiles, x.2.turned = none) → (∀ gr, s.gridOf op.grid = some gr → gr.tlen = 0) →
            ∃ t, exec (.commandComplete id) s = .next t ∧ sfind t.ops id = none ∧ t.mem = s.mem
              ∧ (∀ w b, op.work = .cor w → w.build = some b → sfind t.cur.liveTile w.name = some (b % 2))
              ∧ ∀ mask d rows, op.outs = regOuts mask d rows → ∀ k < rows.length, ∀ l < 64,
                  t.cur.readV (d + k) l = if mask.getLsbD l then (rows.getD k []).getD l 0 else s.cur.readV (d + k) l)

/-- The issue of `attn` and of the key-value commands (R183, R184, R205, R206): with no lane nothing happens; a descriptor is
read at issue and checked, poison in it trapping at once, and then the address of its first block for alignment (logs 50, 73:
the model's choices); an address of a block or pool is checked for
alignment and then for its form. The issue of the side commands (R183, R184, R211, R214 to R217): with no lane nothing happens;
a sweep descriptor and a message to a Crib are read at issue; an offset or an address that fails its check traps; each enters
the side queue with its result register waiting. What the key-value commands do when they run, as one acquire and release at
`.dev` (R208 to R210, R301): `kvalloc` takes the pool's first block, writes it an empty header of the pool's shape with its tag and moves the
pool on to its successor, or gives 7 where there is none; `kvcommit` sets the count of a tentative block; `kvrel` frees a block to its pool;
`kvlink` sets a successor and the successor's sequence number; `kvchk` compares the tag. A header is written whole with its tag; one that
does not fit changes nothing and gives 8 or 4, and a first read that fails or meets poison gives its status; `kvalloc` then
writes 0 to its address register, where its page is refused too (log 52: the model's choice). Each is done whole at its start
(log 13: the model's choice). -/
def Obligations.AttentionAndSideCommands : Prop :=
  (∀ (m : AttnMod) (o : Fields) (s : State),
     let off := (val s o.imm o.a 0).toNat
     let blk := (val64 s o.imm o.a 0).toNat
     let b64 := (val64 s o.imm o.b 0).toNat
     let b32 := (val s o.imm o.b 0).toNat
     let okVa (va : Nat) : Prop := va % 256 = 0 ∧ va < 2 ^ 54
     let d := uniNo o.d
     let x := s.readLocal .s s.cur.coreNo (s.cur.sgs.base + off) 64
     let two : List Instr := [.kvrel m o, .kvlink m o]
     let five : List Instr := [.kvalloc m o, .kvcommit m o, .kvchk m o] ++ two
     (s.cur.acts o.guard = false → ∀ i ∈ .attn m o :: five, exec i s = .next s.advance)
     ∧ (s.cur.acts o.guard = true →
         (off + 64 ≤ s.cur.sgs.limit → off % 64 = 0 → x.psn = false →
           (∀ desc, attnDesc x.bytes = .ok desc →
             (desc.kv % 256 = 0 → Issues (exec (.attn m o) s) s o 0x300 4 [.s d] (.attn d m.sg.toNat desc))
             ∧ (desc.kv % 256 ≠ 0 → exec (.attn m o) s = .next (s.trap 6 0)))
           ∧ ∀ e, attnDesc x.bytes = .error e → exec (.attn m o) s = .next (s.trap e.1 e.2))
         ∧ (s.cur.sgs.limit < off + 64 → exec (.attn m o) s = .next (s.trap 5 0))
         ∧ (off + 64 ≤ s.cur.sgs.limit → off % 64 ≠ 0 → exec (.attn m o) s = .next (s.trap 6 0))
         ∧ (off + 64 ≤ s.cur.sgs.limit → off % 64 = 0 → x.psn = true → exec (.attn m o) s = .next (s.trap 12 3))
         ∧ (okVa blk →
             Issues (exec (.kvalloc m o) s) s o 0x301 4 [.a d] (.kv 1 m.t (.a d) blk 0)
             ∧ Issues (exec (.kvcommit m o) s) s o 0x302 4 [.s d] (.kv 2 m.t (.s d) blk b32)
             ∧ Issues (exec (.kvchk m o) s) s o 0x305 4 [.s d] (.kv 5 false (.s d) blk 0)
             ∧ (okVa b64 → Issues (exec (.kvrel m o) s) s o 0x303 4 [.s d] (.kv 3 false (.s d) blk b64)
                 ∧ Issues (exec (.kvlink m o) s) s o 0x304 4 [.s d] (.kv 4 false (.s d) blk b64))
             ∧ (b64 % 256 ≠ 0 → ∀ i ∈ two, exec i s = .next (s.trap 6 0))
             ∧ (b64 % 256 = 0 → 2 ^ 54 ≤ b64 → ∀ i ∈ two, exec i s = .next (s.trap 12 0)))
         ∧ (blk % 256 ≠ 0 → ∀ i ∈ five, exec i s = .next (s.trap 6 0))
         ∧ (blk % 256 = 0 → 2 ^ 54 ≤ blk → ∀ i ∈ five, exec i s = .next (s.trap 12 0))))
  ∧
  (∀ (o : Fields) (s : State),
     let a32 := (val s o.imm o.a 0).toNat
     let b32 := (val s o.imm o.b 0).toNat
     let card := (val64 s o.imm o.a 0).toNat
     let d := uniNo o.d
     let rd (off n : Nat) : Got := s.readLocal .s s.cur.coreNo (s.cur.sgs.base + off) n
     let fits (off n : Nat) : Prop := off + n ≤ s.cur.sgs.limit ∧ off % n = 0
     let checks (i : Instr) (off n : Nat) : Prop := (s.cur.sgs.limit < off + n → exec i s = .next (s.trap 5 0))
       ∧ (off + n ≤ s.cur.sgs.limit → off % n ≠ 0 → exec i s = .next (s.trap 6 0))
     (s.cur.acts o.guard = false →
       ∀ f ∈ [Instr.swarm, .swreq, .swcan, .swst, .shedj, .cbs, .cbr, .cbw], exec (f o) s = .next s.advance)
     ∧ (s.cur.acts o.guard = true →
         checks (.swarm o) a32 32 ∧ checks (.cbs o) b32 64 ∧ checks (.cbr o) b32 64
         ∧ (fits a32 32 → (rd a32 32).psn = false → Issues (exec (.swarm o) s) s o 0x340 5 [.s d]
           (.swarm d (sweepDesc (rd a32 32).bytes) (s.cur.sgs.base + a32)))
         ∧ (fits a32 32 → (rd a32 32).psn = true → exec (.swarm o) s = .next (s.trap 12 3))
         ∧ Issues (exec (.swreq o) s) s o 0x341 5 [.s d] (.sweep 1 d a32)
         ∧ Issues (exec (.swcan o) s) s o 0x342 5 [.s d] (.sweep 2 d a32)
         ∧ Issues (exec (.swst o) s) s o 0x343 5 [.s d] (.sweep 3 d a32)
         ∧ (card % 128 = 0 → card < 2 ^ 54 → Issues (exec (.shedj o) s) s o 0x344 5 [.s d] (.shedj d card b32))
         ∧ (card % 128 ≠ 0 → exec (.shedj o) s = .next (s.trap 6 0))
         ∧ (card % 128 = 0 → 2 ^ 54 ≤ card → exec (.shedj o) s = .next (s.trap 12 0))
         ∧ (fits b32 64 → (rd b32 64).psn = false → Issues (exec (.cbs o) s) s o 0x345 5 [.s d] (.cbs d a32 (rd b32 64).bytes))
         ∧ (fits b32 64 → (rd b32 64).psn = true → exec (.cbs o) s = .next (s.trap 12 3))
         ∧ (fits b32 64 → Issues (exec (.cbr o) s) s o 0x346 5 [.s d] (.cbr d a32 (s.cur.sgs.base + b32)))
         ∧ Issues (exec (.cbw o) s) s o 0x347 5 [.s d] (.cbw d a32 (val s o.imm o.c 0).toNat)))
  ∧
  (∀ (id : Nat) (s : State) (op : Op) (fn : Nat) (t : Bool) (dst : Dest) (blk arg : Nat),
     sfind s.ops id = some op → op.work = .kv fn t dst blk arg → op.mates = [] → s.commandReady id op = true →
     (∀ gr, s.gridOf op.grid = some gr → gr.tlen = 0) →
     let die := dieOfCore op.core
     let u := (s.modOp id fun op => { op with phase := .running }).order .ar .dev die
     let starts (t : State) : Prop := exec (.engineCommandStart id) s = .next t
     let ends (v : State) (st x : Nat) : Prop := starts ((v.order .rel .dev die).modOp id fun op =>
       { op with phase := .ended, status := st, faddr := 0, outs := dst.put 0 x })
     let rd (u : State) (va n : Nat) (x : Bytes) (v : State) : Prop := u.opRead id .g va n = (.ok ⟨x, false⟩, v)
     let wr (u : State) (va : Nat) (b : Bytes) (v : State) : Prop := ∃ y, u.opWrite id .g va b false = (.ok y, v)
     let payload (u : State) (va : Nat) (h : KvHead) (p : Bytes) (v : State) : Prop :=
       (h.count = 0 ∧ p = [] ∧ v = u) ∨ (h.count ≠ 0 ∧ ∃ k l w, rd u (va + 256) (2 * h.hdh * h.count) k w
         ∧ rd w (va + 256 + 2 * h.hdh * h.cap) (2 * h.hdh * h.count) l v ∧ p = k ++ l)
     let put (u : State) (va : Nat) (tail : Bytes) (h : KvHead) (v : State) : Prop := ∃ p w, payload u va h p w
       ∧ wr w va ((h.bytes ++ tail).take 248 ++ leBytes 8 (kvTag (h.bytes ++ tail) p)) v
     (∀ n, (if fn = 1 then n = 64 else n = 256) → fn ≤ 5 →
         (∀ x v, u.opRead id .g blk n = (.ok x, v) → x.psn = true → starts (u.modOp id fun op =>
           { op with phase := .ended, status := 2, faddr := blk, outs := dst.put 0 (if fn = 1 then 0 else 2) }))
         ∧ ∀ st va rep v, u.opRead id .g blk n = (.fail st va rep, v) → starts (u.modOp id fun op =>
           { op with phase := .ended, status := st, faddr := va, outs := dst.put 0 (if fn = 1 then 0 else st) }))
     ∧ (fn = 1 → ∀ p v, rd u blk 64 p v →
         let head := fieldAt p 0 8
         (head = 0 → ends v 7 0)
         ∧ (head ≠ 0 → ∀ x w y z, rd v head 256 x w →
             put w head (leBytes 232 0) ⟨0x0100, t, 0, 0, fieldAt p 12 2, fieldAt p 14 2, 0⟩ y →
             wr y blk (leBytes 8 (fieldAt x 16 8) ++ leBytes 4 (fieldAt p 8 4 + (2 ^ 32 - 1))) z → ends z 0 head))
     ∧ (fn = 2 → ∀ x v, rd u blk 256 x v →
         let h := kvHead x
         let bad : Prop := h.ver = 0 ∨ h.tent = false ∨ (if t then h.cap else h.count) < arg
         (bad → ends v 8 8) ∧ (¬ bad → ∀ w, put v blk (x.drop 24) { h with count := arg, tent := t } w → ends w 0 0))
     ∧ (fn = 3 → ∀ x v p w, rd u blk 256 x v → rd v arg 64 p w →
         let h := kvHead x
         let fits : Prop := h.cap = fieldAt p 12 2 ∧ h.hdh = fieldAt p 14 2
         (h.ver = 0 → ends w 8 8) ∧ (h.ver ≠ 0 → ¬ fits → ends w 4 4)
         ∧ (h.ver ≠ 0 → fits → ∀ y z,
             put w blk (x.drop 24) { h with ver := 0, count := 0, tent := false, succ := fieldAt p 0 8 } y →
             wr y arg (leBytes 8 blk ++ leBytes 4 (fieldAt p 8 4 + 1)) z → ends z 0 0))
     ∧ (fn = 4 → ∀ x v, rd u blk 256 x v →
         let h := kvHead x
         (h.ver = 0 → ends v 8 8)
         ∧ (h.ver ≠ 0 → arg = 0 → ∀ w, put v blk (x.drop 24) { h with succ := 0 } w → ends w 0 0)
         ∧ (h.ver ≠ 0 → arg ≠ 0 → ∀ y w, rd v arg 256 y w →
             ((kvHead y).ver = 0 → ends w 8 8)
             ∧ ((kvHead y).ver ≠ 0 → ∀ a b c, put w blk (x.drop 24) { h with succ := arg } a → ∀ z, rd a arg 256 z b →
                 put b arg (z.drop 24) { kvHead z with seq := h.seq + 1 } c → ends c 0 0)))
     ∧ (fn = 5 → ∀ x v p w, rd u blk 256 x v → payload v blk (kvHead x) p w →
         (kvTag x p = fieldAt x 248 8 → ends w 0 0) ∧ (kvTag x p ≠ fieldAt x 248 8 → ends w 2 2)))

/-! ### Line entry, translation faults and invalidations (R25, R34 to R37, R138, R177, R181, R182, R223, R248 to R252) -/

/-- A line entry of the slot that the group offers, in a group between clauses that is not stopped. Of two slots that may issue
it offers the one with the lower program-counter value, or the other where only that one's wait mask is met (R223). A line
that has been entered starts its clause once the flags of its wait mask are clear, and waits until then (R25). A line from
the instruction buffer is checked first; one that fails a check traps at the entry point with its step and test (R34), and a
launch entry point without its `tgt` bit with `BAD_TARGET` (R28), tested before those checks (log 57: the model's choice, as is
the slot that a failure reports). A copy whose parity fails is fetched once more, and traps with `LINE_PARITY` where that one fails
too (R30). A line that is not in the buffer is filled from memory, or traps with `PAGE_ERR` (R36, R37). A parked slot goes on once its flags are clear, and joins a slot that stands where it goes
(R138, R224; log 10: the model's choice of the moment). -/
def Obligations.LineEntry : Prop :=
  ∀ (s : State) (b : Bool),
    let g : Group := { s.cur with issue1 := b }
    let u : State := { s with cur := g }
    let e := pcSlot g.slot.pc
    let clear (f : BitVec 12) : Prop := ∀ n, n < 12 → f.getLsbD n = true → s.cur.flagCount n = 0
    let may (p : PcSlot) : Prop := p.valid = true ∧ p.park = none
    let apart : Prop := s.cur.together = false ∨ s.cur.stepLeft ≠ 0
    let starts (i : Instr) (v : State) (x : LineBits) : Prop :=
      (clear (BitVec.ofNat 12 (lineWait x)) → exec i s = .next { v with
        cur := { v.cur.setWait b none with inClause := true, line := x, stall := none } })
      ∧ (¬ clear (BitVec.ofNat 12 (lineWait x)) → exec i s = .next { v with cur := { v.cur with stall := some .flagwait } })
    s.cur.gid ≠ 0 → s.cur.resident = true → s.cur.stopped = false → s.cur.expired = false → s.cur.inClause = false →
    (s.cur.stepLeft = 0 → may s.cur.slot0 → may s.cur.slot1 → s.offer = some (
        let low := decide (s.cur.slot1.pc.toNat < s.cur.slot0.pc.toNat)
        if s.masked low = true ∧ s.masked (!low) = false then !low else low))
    ∧ (s.cur.stepLeft = 0 → may s.cur.slot0 → ¬ may s.cur.slot1 → s.offer = some false)
    ∧ (s.cur.stepLeft = 0 → ¬ may s.cur.slot0 → may s.cur.slot1 → s.offer = some true)
    ∧ (s.stopsHere = false → s.offer = some b →
        (∀ x, s.cur.waitOf b = some x → starts .clauseStart u x)
        ∧ (∀ x, s.cur.waitOf b = none → s.cur.shrink = 0 → s.cur.ring = [] → s.cur.waitingRecs = [] → apart →
            s.ibufFind s.cur.coreNo s.cur.ctx (pcLine g.slot.pc) = some x → lineParity x.data = true →
            let v : State := u.modCur fun g => { g.setSlot { g.slot with copy := 0 } with fresh := false }
            (s.cur.fresh = false ∨ (isPc g.slot.pc = true ∧ lineTgt x.data e = true) →
              (lineFail s.cur.env x.data e = none → starts .clauseStart
                ((v.modCur fun g => g.setWait b (some x.data)).enterIbuf (pcLine g.slot.pc)) x.data)
              ∧ ∀ f, lineFail s.cur.env x.data e = some f → exec .clauseStart s = .next (v.takeTrap
                { code := f.code, cause := f.cause, step := f.step, test := f.test, slot := f.slot, tpc := g.slot.pc,
                  resume := g.slot.pc }))
            ∧ (s.cur.fresh = true → isPc g.slot.pc = true → lineTgt x.data e = false →
                exec .clauseStart s = .next (u.trapLaunch 0)))
        ∧ (∀ x, s.cur.waitOf b = none → s.cur.shrink = 0 → s.cur.ring = [] → s.cur.waitingRecs = [] → apart →
            s.ibufFind s.cur.coreNo s.cur.ctx (pcLine g.slot.pc) = some x → lineParity x.data = false →
            s.cur.fresh = false ∨ (isPc g.slot.pc = true ∧ lineTgt x.data e = true) →
            let line := pcLine g.slot.pc
            let v : State := u.modCur fun g => { g.setSlot { g.slot with copy := 0 } with fresh := false }
            let w := v.setIbuf g.coreNo ((v.ibufOf g.coreNo).filter fun y => !(y.line = line && y.ctx = g.ctx && y.copy = 0))
            (∀ c k, w.fillLine v.cur.agent line = (.error c, k) → k.cur = v.cur → exec .clauseStart s = .next (k.trapEntry 12 c 0 0 e))
            ∧ ∀ y k, w.fillLine v.cur.agent line = (.ok y, k) → k.cur = v.cur →
                let k := k.setIbuf g.coreNo (⟨line, g.ctx, y, 0⟩ :: k.ibufRoom g.coreNo)
                (lineParity y = false → exec .clauseStart s
                  = .next ((k.noteError levelIbuf true line g.ctx).trapEntry 4 0 1 0 e))
                ∧ (lineParity y = true → lineFail s.cur.env y e = none → starts .clauseStart
                    (((k.noteError levelIbuf false line g.ctx).modCur fun g => g.setWait b (some y)).enterIbuf line) y))
        ∧ (s.cur.waitOf b = none → s.ibufFind s.cur.coreNo s.cur.ctx (pcLine g.slot.pc) = none → s.cur.unraised = none →
            s.cur.fresh = false ∨ isPc g.slot.pc = true →
            let h : State := { s with cur := { g with stall := some .ifetch } }
            (∀ x v, h.fillLine g.agent (pcLine g.slot.pc) = (.ok x, v) → exec .ifetchFill s = .next
                (v.setIbuf g.coreNo (⟨pcLine g.slot.pc, g.ctx, x, 0⟩ :: v.ibufRoom g.coreNo)))
            ∧ ∀ c v, h.fillLine g.agent (pcLine g.slot.pc) = (.error c, v) →
                exec .ifetchFill s = .next (v.trapEntry 12 c 0 0 (pcSlot v.cur.pc))))
    ∧ (∀ f, s.cur.slot0.valid = true → s.cur.slot0.park = some f → clear f →
        let v : State := { s with cur := { s.cur with slot0 := { s.cur.slot0 with park := none }, stall := none } }
        exec .yieldResume s = .next (settleSlots 64 v) ∧ (apart → settleSlots 64 v = v))
    ∧ (∀ f, s.cur.slot0.park = none → s.cur.slot1.valid = true → s.cur.slot1.park = some f → clear f →
        let v : State := { s with cur := { s.cur with slot1 := { s.cur.slot1 with park := none }, stall := none } }
        exec .yieldResume s = .next (settleSlots 64 v) ∧ (apart → settleSlots 64 v = v))

/-- A command that meets a granule that a pager has yet to supply (R248 to R251, R361): without a registered pager, or where
it was upcalled for that granule to that pager before, it is refused there; else it enters its group's operand log without its
translations (an `attn` stays on its engine), and the granule's one upcall counts it. The pager's answer puts it back at the head
of its queue, with the refusal where the pager refused or where a pinned page is not as it was (R357), and the upcall is over. The
Groom posts the oldest upcall of a pager that has not been posted: the message, then its stamp, then the tail; the upcall keeps
its message number and the context's pinned pages (log 42: that these are compared, and the refusal without a pager, are the
model's choices). With a full queue it counts the upcalls that it holds back (R359
to R361). -/
def Obligations.FaultsUpcallsAndAnswers : Prop :=
  (∀ (s : State) (id : Nat) (op : Op), sfind s.ops id = some op →
     (∀ m : Miss, firstMiss (fun s va acc => s.opTranslate id va acc) (s.waitsFor id) op.work.independent
         (spanParts (s.spansOf id op)) s = some m →
       let same (u : Upcall) : Bool := u.ctx = op.ctx && u.pager = m.pager && u.granule = m.granule
       let rd : Bool := m.acc ≠ .write
       let wr : Bool := m.acc ≠ .read
       let key := m.granule * 2048 + m.pager
       (s.hasPager op.ctx m.pager = false ∨ op.upcalled.contains key = true →
         exec (.translationFault id) s = .next { s with
           ops := supd s.ops id fun op => { op with refused := (m.granule, 1) :: op.refused } })
       ∧ (s.hasPager op.ctx m.pager = true → op.upcalled.contains key = false →
           ∃ t, exec (.translationFault id) s = .next t ∧ t.mem = s.mem ∧ t.cur = s.cur ∧ t.others = s.others
             ∧ ((∃ d sg q, op.work = .attn d sg q) → sfind t.ops id = some { op with upcalled := key :: op.upcalled })
             ∧ ((∀ d sg q, op.work ≠ .attn d sg q) →
                 sfind t.ops id = some { op with phase := .logged, xl := [], upcalled := key :: op.upcalled })
             ∧ (s.xlate.upcalls.any same = false → t.xlate.upcalls = s.xlate.upcalls ++
                 [⟨op.ctx, m.pager, m.granule, sget 1 s.xlate.nextUid op.ctx, op.work.srcCode, rd, wr, none, [id], []⟩])
             ∧ (s.xlate.upcalls.any same = true → t.xlate.upcalls = s.xlate.upcalls.map fun u =>
                 if same u then { u with ops := u.ops ++ [id], read := u.read || rd, write := u.write || wr } else u)))
     ∧ (∀ (ctx pager h : Nat) (q : PagerQueue) (u : Upcall) (v : State) (answer : Nat), s.pagerHeader ctx pager = some h →
         s.pagerQueue ctx h = some (q, v) → (v.upcallsOf ctx pager).find? (fun u => (v.answerOf ctx q u).isSome) = some u →
         v.answerOf ctx q u = some answer → u.ops = [id] → v.ops = s.ops → v.offCore op = false → op.phase = .logged →
         let code := if u.pins.all (v.pinKept ctx) = true then answer else 1
         ∃ t, exec (.pagerAnswer ctx pager) s = .next t ∧ t.xlate.upcalls = v.xlate.upcalls.filter (· ≠ u) ∧ t.mem = v.mem
           ∧ sfind t.ops id = some { op with
                 phase := .queued, replayed := true, lead := v.steps + 1,
                 refused := if code = 0 then op.refused else (u.granule, code) :: op.refused }))
  ∧
  (∀ (s : State) (ctx pager h : Nat) (u : Upcall) (rest : List Upcall) (q : PagerQueue) (v : State),
     s.pagerHeader ctx pager = some h → (s.upcallsOf ctx pager).filter (·.msg.isNone) = u :: rest →
     s.pagerQueue ctx h = some (q, v) →
     (∀ x ∈ v.upcallsOf ctx pager, ∀ i, x.msg = some i → q.head ≤ i) →
     (q.tail - q.head < q.nent → (q.nent ≤ q.tail + 1 - q.head → rest.length = q.held) → (q.tail + 1 - q.head < q.nent → q.held = 0) →
       let at_ := q.ring + 64 * (q.tail % q.nent)
       let w := (v.outWrite ctx at_ u.message).outWrite ctx (at_ + 56) (leBytes 8 (q.tail + 1))
       let w := (w.order .rel .dev 0).outWrite ctx (h + 16) (leBytes 8 (q.tail + 1))
       exec (.upcallPost ctx pager) s = .next { w with xlate := { w.xlate with
         upcalls := w.xlate.upcalls.map fun x =>
           if x = u then { x with msg := some q.tail, pins := w.pinned ctx } else x } })
     ∧ (q.nent ≤ q.tail - q.head → rest.length + 1 ≠ q.held →
         exec (.upcallPost ctx pager) s = .next (v.outWrite ctx (h + 32) (leBytes 4 (rest.length + 1)))))

/-- `mapld` and `tlbi` with their acknowledgements, and the invalidation of a read buffer (R177, R181, R182, R252, R265, R363,
R364). `mapld` gives its code and switches the region's matrix only with code 0; `tlbi` waits until every translation unit has
acknowledged; a unit acknowledges once, dropping the entries that the shoot-down covers, and not while a command of its core
uses such a translation. The model's choices in it: an image that is not aligned gives 1 and one that is not canonical traps with
cause 0 (log 55), it is held while an earlier access may still name its image (log 14), every held block is promoted (log 56),
and which commands count as using a translation (logs 56, 74). -/
def Obligations.MapsAndShootdowns : Prop :=
  ∀ (o : Fields) (s : State) (form : TlbForm),
    let va := (val64 s o.imm o.a 0).toNat
    let region := (val s o.imm o.b 0).toNat
    let hold (u : State) : Out := .next { u with cur := { u.cur with stall := some .sys } }
    (s.cur.acts o.guard = false → exec (.mapld o) s = .next s.advance ∧ exec (.tlbi form o) s = .next s.advance)
    ∧ (s.cur.acts o.guard = true →
        (va + 127 < 2 ^ 54 → s.mustWait .g [va] 128 false = true → exec (.mapld o) s = hold s)
        ∧ (va + 127 < 2 ^ 54 → s.mustWait .g [va] 128 false = false →
          ∀ x u, s.readVa s.cur.agent va 128 = (.ok x, u) → x.psn = false → u.cur = s.cur →
          (region < Config.regions ∧ (u.stackCtl (region % 12)).asleep = true → exec (.mapld o) s = hold u)
          ∧ (¬ (region < Config.regions ∧ (u.stackCtl (region % 12)).asleep = true) → ∀ d, o.d = .s d →
              let code := if va % 4 = 0 then u.mapCode region x.bytes else 1
              let w : State := if code = 0 then u.switchMatrix region x.bytes else u
              ∃ g : Group, exec (.mapld o) s = .next (State.advance { w with cur := g })
                ∧ g = { s.cur with s := g.s } ∧ ∀ n, g.readS n = if n = d.val then BitVec.ofNat 32 code else s.cur.readS n))
        ∧ (2 ^ 54 ≤ va + 127 → exec (.mapld o) s = .next (s.trap 12 0))
        ∧ (s.cur.shoot = none → s.performedAll .rel = false → exec (.tlbi form o) s = hold s)
        ∧ (s.cur.shoot = none → s.performedAll .rel = true →
            let u := s.order .rel .dev s.cur.die
            ∃ h : Shoot, h.acked = [] ∧ h.form = form
              ∧ exec (.tlbi form o) s = hold { u with
                    nextId := u.nextId + 1, shoots := sput u.shoots u.nextId h,
                    mem := { u.mem with held := [] }, cur := { u.cur with shoot := some u.nextId } })
        ∧ ∀ k h, s.cur.shoot = some k → sfind s.shoots k = some h →
            (h.acked.length < xlateUnits → exec (.tlbi form o) s = hold s)
            ∧ (xlateUnits ≤ h.acked.length → exec (.tlbi form o) s
                = .next (State.advance { s with shoots := sdel s.shoots k, cur := { s.cur with shoot := none } })))
    ∧ (∀ key unit h, sfind s.shoots key = some h → unit < xlateUnits → h.acked.contains unit = false →
        (∀ e ∈ s.ops, e.2.core = unit → s.usesXl e.1 e.2 = true → ∀ x ∈ e.2.xl, h.covers e.2.ctx x = false) →
        ∃ t, exec (.shootdownAck key unit) s = .next t ∧ sfind t.shoots key = some { h with acked := unit :: h.acked }
          ∧ (∀ e ∈ (t.tlb unit).small ++ (t.tlb unit).large, h.takes true e = false)
          ∧ (∀ e ∈ (t.tlb unit).walk, h.takes false e = false)
          ∧ (∀ n, n ≠ unit → t.tlb n = s.tlb n) ∧ t.mem = s.mem ∧ t.cur = s.cur)
    ∧ ∀ die line x, sfind s.mem.rbuf (rbufKey die line) = some x → x ≠ s.homeLine line →
        exec (.readBufferInvalidation die line) s = .next { s with mem := { s.mem with rbuf := sdel s.mem.rbuf (rbufKey die line) } }

/-! ### Groups, teams and grids at their ends (R228, R229, R232 to R237) -/

/-- The ends of groups and teams (R226, R233 to R236). A group whose watchdog has run out, at a clause boundary or held at
issue, ends (where no wait and no sweep registration stands): its lanes have exited and its grid counts a failure. A group
whose lanes have all exited and that waits for no vector result retires (in a grid that keeps no trace): it leaves its slot,
and its waits end. A team with no group and no command left releases, and the last
team of a gang ends the gang. A `grow` request that waits (R228, R229): the oldest of a slice is granted once its blocks are
free, and not before, and the granted blocks read zero; where every group of a core that has a path is held in one, and none
can be granted, the most recent request, of requests of one cycle that of the higher slice and there the last made, is
denied. -/
def Obligations.GrowRequestsAndGroupEnds : Prop :=
  (∀ (s : State) (gid : Nat) (g : Group), gid ≠ 0 → s.findGroup gid = some g →
     (g.expired = true → g.resident = true → g.exited ≠ BitVec.allOnes 64 →
       g.inClause = false ∨ g.stall ≠ none → s.mon = [] → s.sweep.regs = [] →
       ∃ t h, exec (.watchdogExpiry gid) s = .next t ∧ t.findGroup gid = some h ∧ h.exited = BitVec.allOnes 64
         ∧ h.slot0.valid = false ∧ h.slot1.valid = false
         ∧ ∀ gr, s.gridOf g.grid = some gr → gr.fails < 32 → ∃ gr', t.gridOf g.grid = some gr' ∧ gr'.fails = gr.fails + 1)
     ∧ (g.exited = BitVec.allOnes 64 → s.vectorPending gid = false → g.waitingRecs = [] →
         (∀ e ∈ s.ops, e.2.gid = gid → ∀ gr, s.gridOf e.2.grid = some gr → gr.tlen = 0) →
         ∃ t, exec (.groupRetire gid) s = .next t ∧ t.mem = s.mem
           ∧ (s.cur.gid = gid → t.cur = Group.vacant ∧ t.others = s.others)
           ∧ (s.cur.gid ≠ gid → t.cur = s.cur ∧ ∀ k, sfind t.others k = if k = gid then none else sfind s.others k)
           ∧ t.launch.retired = s.launch.retired ++ [{ g with resident := false }]
           ∧ t.ops = (s.ops.filter fun e => !(e.2.gid = gid && e.2.endsWithGroup))
           ∧ t.mon = s.mon.filter fun e => !(s.ops.any fun x => x.1 = e.op && x.2.gid = gid && x.2.endsWithGroup))
     ∧ (g.exited ≠ BitVec.allOnes 64 → exec (.groupRetire gid) s = .fault .notEnabled)
     ∧ ∀ (grid gang team : Nat) (x : Gang) (tm : Team),
         let mine (k : Group) : Bool := k.grid = grid && k.gngx = gang && k.tign = team
         let teams := x.teams.set team { tm with released := true }
         let kept := s.launch.retired.filter fun k => !mine k
         s.launch.gangs.find? (fun y => y.grid = grid && y.gngx = gang) = some x → x.teams[team]? = some tm → tm.released = false →
         s.groups.any mine = false → s.teamBusy grid (gang * x.teams.length + team) = false →
         ((∃ y ∈ teams, y.released = false) → exec (.teamRelease grid gang team) s = .next { s with launch := { s.launch with
             gangs := s.launch.gangs.map fun y => if y.grid = grid ∧ y.gngx = gang then { x with teams := teams } else y,
             retired := kept } })
         ∧ ((∀ y ∈ teams, y.released = true) → exec (.teamRelease grid gang team) s = .next { s with launch := { s.launch with
             gangs := s.launch.gangs.filter fun y => !(y.grid = grid && y.gngx = gang),
             grids := supd s.launch.grids grid fun y => { y with gangsLeft := y.gangsLeft - 1 }, retired := kept } }))
  ∧
  (∀ (s : State) (core slice n t i : Nat) (h : Group), h.grow = .asked n t i →
     (h ∈ s.growWaiters core slice → (∀ k ∈ s.growWaiters core slice, k = h ∨ ∀ m u j, k.grow = .asked m u j → i < j) →
       (s.freeBlocks core slice < n → exec (.growGrant core slice) s = .fault .notEnabled)
       ∧ (n ≤ s.freeBlocks core slice → ∃ f : Group → Group, exec (.growGrant core slice) s = .next (s.modGroup h.gid f)
           ∧ ∀ g, f g = { g with vblocks := g.vblocks + n, v := (f g).v, grow := .granted }
             ∧ ∀ r l, l < 64 → (f g).readV r l = if g.vblocks * 16 ≤ r ∧ r < (g.vblocks + n) * 16 then 0 else g.readV r l))
     ∧ (s.growStuck core = true → h ∈ s.groups → h.coreNo = core → h.expired = false →
         (∀ k ∈ s.groups, k.coreNo = core → k.expired = false → ∀ m u j, k.grow = .asked m u j →
           k = h ∨ u < t ∨ (u = t ∧ (k.slice < h.slice ∨ (k.slice = h.slice ∧ j < i)))) →
         exec (.growDeny core) s = .next (s.modGroup h.gid fun g => { g with grow := .denied })))

/-! ### Launches (R28, R55, R218 to R222, R316 to R328, R335 to R341) -/

/-- A launch queue's head entry (R337 to R340): a launch that passes its checks starts a grid whose gangs are pending; an
entry that breaks its layout, is poisoned or fails a check starts none; both are consumed (`State.consume`), and the queue has
had its turn. A load entry loads its file or is refused with the reason of the first failing step (R328). A grid whose gangs
have released, whose jobs are over, whose accesses are performed and completed and whose samples have left ends, and not before; one without
a record area with its completion word and its interrupt (R237, R339, R446). System software resets a queue whose head is not stamped. -/
def Obligations.LaunchEntriesAndGridEnds : Prop :=
  ∀ (n : Nat) (s : State),
    (∀ q h e v, s.headEntry n = some (q, h, e, v) → v.queueTurn q h.prio = true → v.mon = [] → v.sweep.regs = [] →
      let c := v.consume n q h
      let gone (x : LaunchQueue) : LaunchQueue := { x with seen := x.seen.filter fun y => h.head ≤ y.1 }
      let served := sput v.launch.served h.prio q.reg
      let none_ (i : Instr) : Prop := ∃ t, exec i s = .next t ∧ t.launch.pending = v.launch.pending
        ∧ t.launch.queues = supd v.launch.queues n gone ∧ t.launch.served = served
        ∧ (∀ vec, e.irq = some vec → vec < 2048 → .msix vec ∈ t.outbox)
      (e.poison = true → none_ (.launchEntryConsume n))
      ∧ (e.poison = false → e.bad = true → none_ (.launchEntryConsume n))
      ∧ (e.poison = false → e.bad = false → e.kind ≠ 1 →
          (c.groomRead h.ctx e.desc 256 = none → none_ (.launchEntryConsume n))
          ∧ ∀ b u, c.groomRead h.ctx e.desc 256 = some (b, u) →
              (u.refusal h b ≠ 0 → none_ (.launchEntryConsume n))
              ∧ (u.refusal h b = 0 → ∃ t gr, exec (.launchEntryConsume n) s = .next t ∧ t.launch.served = served
                  ∧ t.gridOf v.launch.nextOrder = some gr ∧ gr.ctx = h.ctx ∧ gr.queue = n ∧ gr.desc = launchDesc b
                  ∧ gr.gangsLeft = gr.desc.gangs ∧ gr.jobs = 0 ∧ gr.ended = false ∧ gr.prio = h.prio
                  ∧ (∀ k < gr.desc.gangs, (v.launch.nextOrder, k) ∈ t.launch.pending)
                  ∧ ∀ x, sfind v.launch.queues n = some x →
                      sfind t.launch.queues n = some { gone x with running := x.running ++ [v.launch.nextOrder] }))
      ∧ (e.poison = false → e.bad = false → e.kind = 1 →
          (∀ r, c.loadFile h.ctx e.desc = .error r → none_ (.fileLoad n))
          ∧ ∀ u, c.loadFile h.ctx e.desc = .ok ((), u) →
              exec (.fileLoad n) s = .next ((u.order .rel .sys 0).endLoad h n e)))
    ∧ (∀ q h v, sfind s.launch.queues n = some q → s.queueHead q = some (h, v) → v.headEntry n = none →
        exec (.launchQueueReset n) s = .next ((List.range h.nent).foldl
          (fun s i => s.outWrite h.ctx (h.ring + 64 * i + 56) (leBytes 8 0)) (v.outWrite q.ctx (q.header + 16) (leBytes 20 0))))
    ∧ ∀ gr, s.gridOf n = some gr →
        let performed : Prop := ∀ e ∈ s.ops, e.2.grid = n → e.2.unperformed = false ∧ e.2.incomplete = false
        let drained : Prop := ∀ e ∈ s.prof.queues, ∀ x ∈ e.2, x.grid ≠ n
        (gr.ended = true ∨ gr.gangsLeft ≠ 0 ∨ gr.jobs ≠ 0 ∨ ¬ performed ∨ ¬ drained → exec (.gridEnd n) s = .fault .notEnabled)
        ∧ (gr.ended = false → gr.gangsLeft = 0 → gr.jobs = 0 → performed → drained → gr.rec_ = 0 → s.mon = [] → s.sweep.regs = [] →
            let u := (s.order .rel .dev 0).order .rel .sys 0
            let out := if gr.fails + gr.xfail = 0 then 0 else 1
            let w := if gr.cw = 0 then u else u.outWrite gr.ctx gr.cw (leBytes 8 (gr.cv % 2 ^ 48 + out * 2 ^ 56))
            ∃ t gr', exec (.gridEnd n) s = .next t ∧ t.gridOf n = some gr' ∧ gr'.ended = true ∧ t.mem = w.mem
              ∧ u.outbox = s.outbox ++ [.zeroRead] ∧ t.outbox = w.outbox ++ ((gr.irq.filter (· < 2048)).map Output.msix).toList
              ∧ ∀ e ∈ t.launch.queues, n ∉ e.2.running)

/-- The distributor places a pending gang whole (R55, R220 to R222, R341): its window in the Yard and its teams' windows of
shared memory read zero, but for the format blocks that the launch puts there, and each group stands in its seat as R55 says:
with its arguments, its vector registers, predicates, `eta` registers and depth counters at zero, its permutation registers
valid and the identity, its path from the entry, and an empty stack, whose base is kept whole past 2^54 (log 70: the model's
choice). No wait stands that the writes of the launch could end. -/
def Obligations.GangIsPlaced : Prop :=
  ∀ (grid gang : Nat) (s : State) (gr : Grid) (p : GangSeat), s.gridOf grid = some gr → s.mayPlace grid gang = true →
    s.savedGang grid gang = none → s.gangSeat gr.desc.gangNeed s.room = some p → s.mon = [] →
    let d := gr.desc
    ∃ t, exec (.gangPlace grid gang) s = .next t ∧ (grid, gang) ∉ t.launch.pending
      ∧ t.launch.gangs = s.launch.gangs ++ [⟨grid, gang, p.die, p.yBase, p.teams.map (·.1), s.steps, false⟩]
      ∧ t.cur = s.cur ∧ (∀ k, k < s.nextId → sfind t.others k = sfind s.others k)
      ∧ (∀ i, i < d.yard → t.yardByte p.die (p.yBase + i) = 0)
      ∧ (∀ tm seats, (tm, seats) ∈ p.teams → ∀ i < tm.shLen,
          gr.blocks = [] ∨ (p.teams.length = 1 ∧ ∀ e ∈ gr.blocks, i < e.1 ∨ e.1 + e.2.length ≤ i) →
          t.sharedByte tm.core (tm.shBase + i) = 0)
      ∧ ∀ j tm seats, p.teams[j]? = some (tm, seats) → ∀ i x, seats[i]? = some x →
          ∃ gid g, s.nextId ≤ gid ∧ sfind t.others gid = some g ∧ g.gid = gid ∧ g.grid = grid ∧ g.ctx = gr.ctx ∧ g.gngx = gang
            ∧ g.tign = j ∧ g.gidx = i ∧ g.die = p.die ∧ g.slice = x.slice ∧ g.gslot = x.gslot ∧ g.resident = true
            ∧ g.vblocks = x.blocks ∧ g.role = d.role i ∧ g.priv = d.priv ∧ g.tvec = d.tvec ∧ g.wdog = d.wdog
            ∧ g.slot0 = ⟨d.entry, g.launched, true, none, 0⟩ ∧ g.slot1.valid = false ∧ g.exited = ~~~g.launched
            ∧ (∀ l, l < 64 → (g.launched.getLsbD l = true ↔ l < d.lanes))
            ∧ (∀ n l, g.readV n l = 0) ∧ (∀ n, g.readP n = if n = 7 then BitVec.allOnes 64 else 0)
            ∧ (∀ n, g.readS n = d.sarg.getD n 0) ∧ (∀ n, g.readA n = d.aarg.getD n 0) ∧ g.core = x.core % Config.coresPerDie
            ∧ g.sgk = ⟨d.kbase + ((gang * d.teams + j) * d.groups + i) * d.ksize, d.ksize⟩
            ∧ g.sgs = ⟨tm.shBase, d.shared⟩ ∧ g.sgy = ⟨p.yBase, d.yard⟩
            ∧ (∀ n, g.readEta n = 0) ∧ (∀ n, g.readPm n = 0 ∧ sfind g.pmReady n = none) ∧ (∀ l, g.ctrOf l = 0) ∧ g.pstk = 0
            ∧ (∀ n, g.flagCount n = 0) ∧ g.busy = false ∧ g.ring = [] ∧ g.tiles = [] ∧ g.liveTile = [] ∧ g.inClause = false

/-! ### Pre-emption and contexts (R56, R345 to R350) -/

/-- A gang that must yield is told to stop, but none of a team that serves an upcall (R253; log 76 for which teams do); once its
groups have stopped it is taken off whole (where no wait and no sweep registration stands; when that is, and how its operations
are settled, are the model's choices of logs 41 and 75): its groups are saved with their registers, its commands are settled and wait, and it is pending again
(R345 to R348); placed again, each saved group, but for one that a RESUME has reached meanwhile (R441), stands in its new seat
with its registers, paths and counters (R349). System software switches a context out, lets it back, and tears it down (R350):
a context switched out keeps its state; one torn down, once its sweep registrations can be cancelled (R389), is registered no
more, with its launch queues and its NVMe queue pairs. -/
def Obligations.GangsAndContexts : Prop :=
  (∀ (grid gang : Nat) (s : State),
     (s.servesUpcall grid = true → exec (.preemptGang grid gang) s = .fault .notEnabled)
     ∧ (∀ x, s.launch.gangs.find? (fun g => g.grid = grid && g.gngx = gang) = some x → s.mustYield x = true → x.leaving = false →
       s.servesUpcall grid = false → (∀ e ∈ s.gangOps grid gang, e.2.cut = false) → s.gangStopped grid gang = false →
       exec (.preemptGang grid gang) s = .next { s with launch := { s.launch with gangs := s.launch.gangs.map fun y =>
         if y.grid = grid ∧ y.gngx = gang then { y with leaving := true } else y } })
     ∧ (∀ x, s.launch.gangs.find? (fun g => g.grid = grid && g.gngx = gang) = some x → s.mustYield x = true ∨ x.leaving = true →
       s.servesUpcall grid = false → (∀ e ∈ s.gangOps grid gang, e.2.cut = false) → s.gangStopped grid gang = true → s.mon = [] → s.sweep.regs = [] →
       ∃ t sv, exec (.preemptGang grid gang) s = .next t ∧ (∀ g ∈ t.groups, ¬ (g.gid ≠ 0 ∧ g.grid = grid ∧ g.gngx = gang))
         ∧ (∀ g ∈ t.launch.gangs, ¬ (g.grid = grid ∧ g.gngx = gang)) ∧ (grid, gang) ∈ t.launch.pending
         ∧ sv ∈ t.launch.saved ∧ sv.grid = grid ∧ sv.gngx = gang ∧ sv.teams = x.teams
         ∧ (∀ g ∈ s.gangGroups grid gang, { g with
             resident := false, wait0 := none, wait1 := none, stall := none, runLen := 0,
             slot0 := { g.slot0 with copy := 0 }, slot1 := { g.slot1 with copy := 0 } } ∈ sv.groups)
         ∧ ∀ e ∈ s.gangOps grid gang, e.2.phase = .queued ∨ e.2.phase = .running ∨ e.2.phase = .leave →
             ∃ q, sfind t.ops e.1 = some q ∧ q.phase = .saved)
     ∧ ∀ (gr : Grid) (x : SavedGang) (p : GangSeat), s.gridOf grid = some gr → s.savedGang grid gang = some x → s.mayPlace grid gang = true →
         s.gangSeat (x.need gr.desc) s.room = some p → (x.groups.map (·.gid)).Nodup → (∀ g ∈ x.groups, g.refill = false) →
         ∃ t, exec (.gangRestore grid gang) s = .next t ∧ (grid, gang) ∉ t.launch.pending
           ∧ (∀ y ∈ t.launch.saved, ¬ (y.grid = grid ∧ y.gngx = gang)) ∧ t.cur = s.cur
           ∧ (∀ e ∈ t.ops, e.2.phase = .saved → ∀ j < p.teams.length, ¬ (e.2.grid = x.grid ∧ e.2.team = x.gngx * x.teams.length + j))
           ∧ ∀ j tm seats, p.teams[j]? = some (tm, seats) → ∀ (i : Nat) (g : Group) (y : Seat),
               (x.groups.filter fun (g : Group) => g.grid = x.grid && g.gngx = x.gngx && g.tign = j)[i]? = some g → seats[i]? = some y →
               ∃ h, sfind t.others g.gid = some h
                 ∧ h = { g with
                     die := p.die, core := y.core % Config.coresPerDie, slice := y.slice, gslot := y.gslot, resident := true,
                     sgs := ⟨h.sgs.base, g.sgs.limit⟩, sgy := ⟨h.sgy.base, g.sgy.limit⟩, tiles := h.tiles }
                 ∧ ∀ old, x.teams[j]? = some old → g.sgs.base = old.shBase → h.sgs.base = tm.shBase)
  ∧
  (∀ (n : Nat) (s : State) (c : Ctx), sfind s.xlate.ctxs n = some c →
     let put (out : Bool) : Out := .next { s with xlate := { s.xlate with ctxs := sput s.xlate.ctxs n { c with switchedOut := out } } }
     (c.switchedOut = false → exec (.contextSwitch n) s = put true ∧ exec (.contextLetBack n) s = .fault .notEnabled)
     ∧ (c.switchedOut = true → exec (.contextLetBack n) s = put false ∧ exec (.contextSwitch n) s = .fault .notEnabled)
     ∧ (s.sweepsCancel n = false → exec (.contextTeardown n) s = .fault .notEnabled)
     ∧ (s.sweepsCancel n = true → ∃ t, exec (.contextTeardown n) s = .next t ∧ sfind t.xlate.ctxs n = none ∧ (∀ e ∈ t.launch.queues, e.2.ctx ≠ n)
         ∧ (∀ e ∈ t.nvme.pairs, e.2.ctx ≠ n) ∧ ∀ r ∈ t.nvme.reqs, r.ctx ≠ n))

/-! ### Stacks and sweeps (R211 to R215, R365 to R389, R466 to R469) -/

/-- The stacks' controllers and the sensors (R367, R368, R383 to R385, R466 to R470). A refresh slot takes the next bank, and
bank 0 of the next period after bank 15, where a change of the refresh regime takes effect that a sample has noted, whatever
later samples say (log 59: the model's choice); above 95 °C a stack gives notice, enters self-refresh once the accesses that were
under way toward it are performed (log 19 for these), hot as R468 says, and leaves it after ten samples below 90 °C; the patrol
scrub reads the next row of its pseudo-channel, and a line whose check finds an error is counted, poisoned where the error
cannot be corrected, and makes its row due for repair (R460, R465; log 63); a row that is due is repaired from one of 32 spares
of its bank, and reported without one; above 110 °C the device stops. With no sweep registration nothing else changes. -/
def Obligations.StackControllers : Prop :=
  ∀ (n ch row : Nat) (temp : Int) (s : State),
    let c := s.stackCtl n
    let set (c : StackCtl) : State := { s with sweep := { s.sweep with ctls := sput s.sweep.ctls n c } }
    let awake : Prop := n < 12 ∧ s.stackUsed n = true ∧ c.asleep = false
    let bank := row / 16 % 64 * 16 + row % 16
    let used := sget 0 c.spares bank
    let mended := { c with rowErrs := sdel c.rowErrs row }
    let scrub := sget 0 c.scrubRow ch
    let scrubbed := (scrub / 16 % 36864 / 1024 * 12 + n) * 2 ^ 20 + scrub / 16 % 36864 % 1024 * 1024 + ch * 16 + scrub % 16
    (awake → s.sweep.regs = [] →
        exec (.refreshSlot n) s = .next (set (if c.bank < 15 then { c with bank := c.bank + 1 }
          else { c with bank := 0, period := c.period + 1, hot := c.hot != c.change, change := false }))
        ∧ (ch < 64 →
            exec (.patrolScrub n ⟨ch, []⟩) s = .next (set { c with scrubRow := sput c.scrubRow ch (scrub + 1) })
            ∧ ∀ i fatal, i < 16 → ∃ t, exec (.patrolScrub n ⟨ch, [(i, fatal)]⟩) s = .next t
                ∧ (fatal = true → sfind t.mem.hbmPsn (scrubbed * 16 + i) = some true ∧ t.repairDue scrubbed = true)
                ∧ (fatal = false → t.mem = s.mem ∧ sget 0 t.mgmt.corr 0 = min (2 ^ 32 - 1) (sget 0 s.mgmt.corr 0 + 1))
                ∧ (∀ loc, t.dramByte loc = s.dramByte loc) ∧ t.cur = s.cur
                ∧ sget 0 (t.stackCtl n).scrubRow ch = scrub + 1))
    ∧ (n < 12 → s.stackUsed n = true →
        let told := { c with temp := temp, change := c.change || c.hot != decide (85 < temp) }
        (temp ≤ 110 → exec (.stackSensorSample n temp) s = .next (set (
          if c.asleep then { told with cool := if temp < 90 then c.cool + 1 else 0 }
          else if 95 < temp ∧ c.closing = false then
            { told with closing := true, drain := (s.ops.filter fun e => s.toward n e.2).map (·.1) }
          else told)))
        ∧ (110 < temp → ∃ t, exec (.stackSensorSample n temp) s = .next t ∧ t.mgmt.tripped = true ∧ t.mgmt.mode = 2
            ∧ ∀ k, t.stackUsed k = false))
    ∧ (awake → c.closing = true → (∀ i ∈ c.drain, ∀ op, sfind s.ops i = some op → op.underway = false) →
        exec (.selfRefreshEntry n) s = .next (set { c with
          asleep := true, closing := false, drain := [], cool := 0, since := s.now, hot := true, change := false }))
    ∧ (∀ i op, i ∈ c.drain → sfind s.ops i = some op → op.underway = true →
        exec (.selfRefreshEntry n) s = .fault .notEnabled)
    ∧ (c.closing = false → exec (.selfRefreshEntry n) s = .fault .notEnabled)
    ∧ (c.asleep = true → c.cool < 10 → exec (.selfRefreshExit n) s = .fault .notEnabled)
    ∧ (c.asleep = true → 10 ≤ c.cool → s.stackUsed n = true → ∃ t, exec (.selfRefreshExit n) s = .next t
        ∧ t.stackCtl n = { c with asleep := false, cool := 0 }
        ∧ (s.sweep.regs = [] → t = set { c with asleep := false, cool := 0 }))
    ∧ (awake → row < Config.regions * 2 ^ 20 → rowStack row = n →
        (s.repairDue row = false → exec (.rowRepair row) s = .fault .notEnabled)
        ∧ (s.repairDue row = true → used < 32 →
            exec (.rowRepair row) s = .next (set { mended with spares := sput c.spares bank (used + 1) }))
        ∧ (s.repairDue row = true → 32 ≤ used →
            exec (.rowRepair row) s = .next { set mended with mgmt := { s.mgmt with log := s.mgmt.log ++ [leBytes 8 row] } }))
    ∧ (n < 5 → temp ≤ 110 → s.mgmt.mode ≠ 2 → ∃ t, exec (.dieSensorSample n temp) s = .next t ∧ sfind t.mgmt.temps n = some temp
        ∧ (100 < temp → n ∈ t.leave.hot) ∧ (temp < 95 → n ∉ t.leave.hot)
        ∧ (95 ≤ temp → temp ≤ 100 → t.leave = s.leave))

/-- A sweep registration (R214, R372, R375, R376, R388): a controller that is awake installs its entries once, on the rows that
the region then occupies in its stack (log 53: the model's choice, as is that a failed row is transformed no more); with every controller installed, and a flag that can be written (its page is mapped,
and the write needs no stack in self-refresh), it is armed, its handle stands in the descriptor and its `swarm` reports 0.
Then a refresh slot applies a live function to a row that has never failed and holds no poisoned line: each element takes the
function's value, once where the registration is not `REP`, and no other byte of DRAM changes. -/
def Obligations.SweepRegistrations : Prop :=
  ∀ (key : Nat) (s : State) (r : SweepReg), sfind s.sweep.regs key = some r →
    (∀ n, r.phase = .installing → n ∈ r.stacks → n ∉ r.installed → (s.stackCtl n).asleep = false →
      exec (.sweepInstall key n) s = .next { s with sweep := { s.sweep with
        regs := sput s.sweep.regs key { s.settleRows r n with installed := r.installed ++ [n] } } })
    ∧ (∀ n, r.phase ≠ .installing ∨ n ∉ r.stacks ∨ n ∈ r.installed ∨ (s.stackCtl n).asleep = true →
        exec (.sweepInstall key n) s = .fault .notEnabled)
    ∧ (r.phase = .installing → (∀ n ∈ r.stacks, n ∈ r.installed) → s.mon = [] →
        ∀ pa attr x w u v, (s.writeLocal .s r.core (r.loc + 28) (leBytes 4 r.hdl)).opTranslate r.op r.desc.flag .write
          = (.ok pa attr x w, u) →
        (s.writeLocal .s r.core (r.loc + 28) (leBytes 4 r.hdl)).writeSweepFlag
          { r with phase := .armed, order := s.sweep.nextOrder, armedAt := s.now } = some v →
        ∀ op d sd loc, sfind s.ops r.op = some op → op.work = .swarm d sd loc →
        ∃ t r' q, exec (.sweepArmPoint key) s = .next t ∧ sfind t.sweep.regs key = some r' ∧ r'.phase ≠ .installing
          ∧ r'.order = s.sweep.nextOrder ∧ r'.armedAt = s.now ∧ t.sweep.nextOrder = s.sweep.nextOrder + 1
          ∧ sfind t.ops r.op = some q ∧ q.phase = .ended ∧ q.status = 0 ∧ q.outs = [(.s d, 0, 0)])
    ∧ ∀ (row w : Nat), s.sweep.regs = [(key, r)] → r.liveAt row = true → sget false r.app row = false →
        sget false r.failed row = false → sweepEtBytes r.desc.et = some w → r.desc.fn < 8 → rowPoisoned s row = false →
        let t := refreshRow s row
        (∀ j, w * j < 1024 → ofLe ((List.range w).map fun i => t.dramByte (row * 1024 + w * j + i))
            = sweepElem r.desc.fn r.desc.et r.desc.arg (ofLe ((List.range w).map fun i => s.dramByte (row * 1024 + w * j + i))))
        ∧ (∀ loc, loc / 1024 ≠ row → t.dramByte loc = s.dramByte loc)
        ∧ (r.desc.rep = false → refreshRow t row = t ∧ touchRow t row = t)

/-- The side queue (R211, R215 to R217, R361): its head goes to its unit, and a command that needs no page reports at once: a
state read its code; a request on a `ONCE` registration that still applies gives its rows demand activations and waits; a
cancellation writes the flag, and waits for a stack in self-refresh (R384); a message to a Crib that the context may use, that is open and has room is appended with its number, and
one is taken from a Crib that holds one; a `cbw` waits for one, up to its limit; a job card that passes its check enters its
stack's queue and its grid counts it. -/
def Obligations.SideQueueHandover : Prop :=
  ∀ (core id : Nat) (s : State) (op : Op),
    s.ops.find? (fun e => e.2.core = core && e.2.queue = 5 && s.canStart e.1 e.2) = some (id, op) →
    let u := s.trace id 1 0
    let rep (u : State) (d st v : Nat) : Out := .next (u.modOp id fun op =>
      { op with phase := .ended, status := st, outs := [(.s d, 0, BitVec.ofNat 64 v)] })
    let code (st d : Nat) : Prop := exec (.sideQueueHandover core) s = rep u d st st
    (∀ d hdl, op.work = .sweep 3 d hdl →
      (sfind u.sweep.regs (op.ctx * 2 ^ 32 + hdl) = none → code 0 d)
      ∧ ∀ r, sfind u.sweep.regs (op.ctx * 2 ^ 32 + hdl) = some r → exec (.sideQueueHandover core) s = rep u d 0 (
          match r.phase with
          | .installing => 0 | .armed => if r.desc.rep then (if r.badRow then 7 else 5) else 2
          | .complete => 3 | .cancelled => 4 | .failed => 6))
    ∧ (∀ fn d hdl, fn = 1 ∨ fn = 2 → op.work = .sweep fn d hdl →
        (sfind u.sweep.regs (op.ctx * 2 ^ 32 + hdl) = none → code 8 d)
        ∧ ∀ r, sfind u.sweep.regs (op.ctx * 2 ^ 32 + hdl) = some r →
            (r.phase = .installing ∨ r.phase = .cancelled → code 8 d)
            ∧ (fn = 1 → r.desc.rep = true → code 8 d)
            ∧ (r.phase = .complete ∨ r.phase = .failed → fn = 2 ∨ r.desc.rep = false → code 0 d)
            ∧ (r.phase = .armed → fn = 1 → r.desc.rep = false → ∃ rows : List Nat, rows.Pairwise (· ≤ ·)
                ∧ (∀ x, x ∈ rows ↔ x ∈ r.rows ∧ sget false r.app x = false ∧ (u.stackCtl (rowStack x)).shut = false)
                ∧ exec (.sideQueueHandover core) s = .next (rows.foldl touchRow (u.modOp id fun op => { op with phase := .running })))
            ∧ (r.phase = .armed → fn = 2 → (∃ x ∈ r.rows, (u.stackCtl (rowStack x)).asleep = true) →
                exec (.sideQueueHandover core) s = .fault .notEnabled)
            ∧ (r.phase = .armed → fn = 2 → (∀ x ∈ r.rows, (u.stackCtl (rowStack x)).asleep = false) → u.sweep.due = [] →
                let gone : SweepReg := { r with phase := .cancelled }
                let v : State := { u with sweep := { u.sweep with regs := sput u.sweep.regs (op.ctx * 2 ^ 32 + hdl) gone } }
                (r.desc.rep = false → v.flagValue gone % 2 ^ 32 = 2) ∧ (r.desc.rep = true → (v.flagValue gone).testBit 63 = true)
                ∧ (∀ w, v.writeSweepFlag gone = some w → exec (.sideQueueHandover core) s = rep w d 0 0)
                ∧ (v.writeSweepFlag gone = none → exec (.sideQueueHandover core) s
                    = rep { v with sweep := { v.sweep with due := [.flag (op.ctx * 2 ^ 32 + hdl)] } } d 0 0)))
    ∧ (∀ d crib m, op.work = .cbs d crib m →
        (u.cribFor op.ctx crib = none → code 13 d)
        ∧ ∀ c, u.cribFor op.ctx crib = some c →
            (c.closed = true → code 8 d) ∧ (c.closed = false → 16 ≤ c.out.length → code 12 d)
            ∧ (c.closed = false → c.out.length < 16 → u.episodeOf crib = none →
                exec (.sideQueueHandover core) s = rep (u.setCrib crib { c with
                  out := c.out ++ [leBytes 4 c.seqOut ++ m.drop 4], seqOut := (c.seqOut + 1) % 2 ^ 32,
                  headAt := if c.out.isEmpty then u.now else c.headAt }) d 0 0))
    ∧ (∀ d crib loc, op.work = .cbr d crib loc →
        (u.cribFor op.ctx crib = none → code 13 d)
        ∧ ∀ c, u.cribFor op.ctx crib = some c → (c.inb = [] → code 7 d)
          ∧ ∀ m rest, c.inb = m :: rest → m ≠ [] → exec (.sideQueueHandover core) s = rep (State.writeLocal
              (u.setCrib crib { c with inb := rest, closed := c.closed && decide (msgKind m ≠ 8) }) .s op.core loc m) d 0 0)
    ∧ (∀ d crib limit, op.work = .cbw d crib limit →
        (u.cribFor op.ctx crib = none → code 13 d)
        ∧ ∀ c, u.cribFor op.ctx crib = some c → (c.inb ≠ [] → code 0 d)
          ∧ (c.inb = [] → exec (.sideQueueHandover core) s = .next (u.modOp id fun op =>
              { op with phase := .running, since := u.now })))
    ∧ ∀ d card stack x v, op.work = .shedj d card stack → u.opRead id .g card 128 = (.ok x, v) →
        let q := (sfind v.shed.queues stack).getD []
        let ok : Prop := stack < 12 ∧ v.stackUsed stack = true ∧ cardOk x.bytes = true
        let done (st : Nat) : Prop := exec (.sideQueueHandover core) s = rep v d st st
        (x.psn = true → done 2) ∧ (x.psn = false → ¬ ok → done 4) ∧ (x.psn = false → ok → 64 ≤ q.length → done 12)
        ∧ (x.psn = false → ok → q.length < 64 → exec (.sideQueueHandover core) s = rep (State.modGrid { v with shed := { v.shed with
            queues := sput v.shed.queues stack (q ++ [⟨op.ctx, op.grid, op.gid, op.place, op.pc, op.seq, op.core, x.bytes⟩]) } }
            op.grid fun g => { g with jobs := g.jobs + 1 }) d 0 0)

/-- A `cbw` past its limit ends with 15 (R217), and the jobs of the Sheds (R394 to R402): an idle core takes the oldest card
and asks for its leave, which the power manager grants in a later cycle (log 70); a running job reads and writes one element
in a turn (log 54), and keeps the status and the address of a failure; a job whose elements are written, or that has failed,
ends with its flag, or with the orphan record alone where the flag's line is poisoned (log 39), and its core and its leave are
free. What the end writes is a claim for a state without a standing wait or a sweep registration. `rcopy` writes its source, and `rsum` over `I32` the sum of its sources. -/
def Obligations.ShedJobs : Prop :=
  ∀ (stack core : Nat) (s : State),
    let key := stack * 8 + core
    (∀ id op d crib limit, sfind s.ops id = some op → op.work = .cbw d crib limit → op.phase = .running → limit ≠ 0 →
      (op.since + limit ≤ s.now → exec (.cbwTimeout id) s = .next (s.modOp id fun op =>
        { op with phase := .ended, status := 15, outs := [(.s d, 0, 15)] }))
      ∧ (s.now < op.since + limit → exec (.cbwTimeout id) s = .fault .notEnabled))
    ∧ (stack < 12 → core < 8 → s.stackUsed stack = true → sget false s.shed.retired key = false → sfind s.shed.jobs key = none →
        ∀ c rest, sfind s.shed.queues stack = some (c :: rest) → s.mon = [] → s.sweep.regs = [] →
          (∀ e ∈ s.ops, e.1 ≠ s.nextId) →
          ∃ t j, exec (.shedJobStart stack core) s = .next t ∧ sfind t.shed.queues stack = some rest
            ∧ sfind t.shed.jobs key = some j ∧ j.card = c ∧ j.id = s.nextId ∧ j.progress = 0
            ∧ j.phase = .leave ∧ j.grant = 0 ∧ j.since = s.now ∧ t.leave.free = s.leave.free
            ∧ (∀ i, i ∈ t.leave.waiting ↔ i = s.nextId ∨ i ∈ s.leave.waiting))
    ∧ (∀ j k, sfind s.ops j.id = none → s.shed.jobs.find? (fun e => e.2.id = j.id) = some (k, j) →
        s.leave.waiting.head? = some j.id → (∀ gr, s.gridOf j.card.grid = some gr → gr.tlen = 0) →
        (937 ≤ s.leave.free → j.since < s.now → ∃ t, exec (.leaveGrant j.id) s = .next t
          ∧ sfind t.shed.jobs k = some { j with phase := .running, grant := 937 } ∧ t.leave.free = s.leave.free - 937
          ∧ j.id ∉ t.leave.waiting ∧ t.mem = s.mem ∧ t.ops = s.ops ∧ t.cur = s.cur)
        ∧ (s.leave.free < 937 ∨ s.now ≤ j.since → exec (.leaveGrant j.id) s = .fault .notEnabled))
    ∧ (∀ j, core < 8 → sfind s.shed.jobs key = some j → j.phase = .running → j.status = 0 →
        let c := cardFields j.card.bytes
        j.progress < c.count →
        let put (u : State) (j : ShedJob) : Out := .next { u with shed := { u.shed with jobs := sput u.shed.jobs key j } }
        let read := readSources stack j j.progress ((List.range c.n).map c.source) s
        (∀ st va u, read = (.error (.fail st va), u) →
          exec (.shedJobEnd stack core) s = put u { j with status := st, faddr := va })
        ∧ (∀ xs u, read = (.ok xs, u) →
            let place := u.jobPlace stack j (c.dst + 4 * j.progress) .write
            (∀ st va v, place = (.fail st va, v) →
              exec (.shedJobEnd stack core) s = put v { j with status := st, faddr := va })
            ∧ ∀ p v, place = (.ok p, v) → exec (.shedJobEnd stack core) s
                = put (v.writePa ⟨none, some (stack / 3), j.card.ctx, none⟩ p.attr p.pa (leBytes 4 (c.result xs)))
                    { j with progress := j.progress + 1 }))
    ∧ (∀ j v, core < 8 → sfind s.shed.jobs key = some j → j.phase = .running →
        let c := cardFields j.card.bytes
        j.status ≠ 0 ∨ c.count ≤ j.progress → s.jobFlag stack j c j.status = some v → v.mon = [] → v.sweep.regs = [] →
        ∃ t, exec (.shedJobEnd stack core) s = .next t ∧ sfind t.shed.jobs key = none ∧ t.leave.free = v.leave.free + j.grant
          ∧ ∀ gr, v.gridOf j.card.grid = some gr → ∃ gr', t.gridOf j.card.grid = some gr' ∧ gr'.jobs = gr.jobs - 1)
    ∧ ∀ (c : CardFields) (xs : List Nat), (∀ x ∈ xs, x < 2 ^ 32) →
        (∀ x, xs = [x] → c.result xs = x)
        ∧ (c.fmt = 5 → 1 ≤ xs.length → xs.length ≤ 16 → c.result xs = xs.sum % 2 ^ 32)
        ∧ ∀ x y, c.fmt = 0 → xs = [x, y] → c.result xs = (faddRn (BitVec.ofNat 32 x) (BitVec.ofNat 32 y)).toNat

/-! ### The attention engines (R81 to R83, R207, R302 to R307) -/

/-- The die's arbiter takes the next core in turn that has a ready `attn`, on the lowest free engine, which resumes the run
that it has saved or begins one, asks for its leave of 4,687 mLU, and runs once that is granted, in a later cycle (R15, R302,
R344; log 70). While a row runs, the prefetcher appends the next header to its window of five and reads the payload of a block
that a row needs (R303, R304); a step takes one block (log 13): each running row takes it, token by token, from that payload,
or from the memory where the window holds none yet; a block that breaks its chain ends the rows with status 11, and one whose
header cannot be read with that read's status; payload on a refused page counts before read poison (log 80). At the end of the
chain, and once the limit of the command is reached, every row ends, and the rows write their outputs and their status; the
rows that end NaN and those with every score masked are counted as they end (R83, R207, R303, R435). -/
def Obligations.AttentionRuns : Prop :=
  ∀ (s : State),
    (∀ die c n id op d sg desc, die < 4 →
      let cpd := Config.coresPerDie
      let last := sget (cpd - 1) s.attn.last die
      ((List.range cpd).map fun i => (last + 1 + i) % cpd).find? (fun c => (s.attnReady (die * cpd + c)).isSome) = some c →
      s.attnReady (die * cpd + c) = some id → sfind s.ops id = some op → op.work = .attn d sg desc →
      (List.range 16).find? (fun n => (sfind s.attn.engines (die * 16 + n)).isNone) = some n →
      (∀ gr, s.gridOf op.grid = some gr → gr.tlen = 0) →
      let run : AttnRun := ((sfind s.attn.saved id).map fun r => { r with blocks := 0 }).getD ⟨id, [], [], desc.kv, 0, 0, false⟩
      ∃ t q, exec (.attnEngineHandoff die) s = .next t ∧ sfind t.attn.engines (die * 16 + n) = some run
        ∧ sfind t.attn.saved id = none ∧ sfind t.attn.last die = some c ∧ sfind t.ops id = some q
        ∧ q.phase = .leave ∧ q.since = s.now ∧ t.leave.free = s.leave.free
        ∧ (∀ i, i ∈ t.leave.waiting ↔ i = id ∨ i ∈ s.leave.waiting))
    ∧ (∀ id op d sg desc, sfind s.ops id = some op → op.work = .attn d sg desc → op.mates = [] → op.phase = .leave →
        s.leave.waiting.head? = some id → (∀ gr, s.gridOf op.grid = some gr → gr.tlen = 0) →
        (4687 ≤ s.leave.free → op.since < s.now → ∃ t q, exec (.leaveGrant id) s = .next t ∧ t.leave.free = s.leave.free - 4687
          ∧ id ∉ t.leave.waiting ∧ sfind t.ops id = some q ∧ q.phase = .running ∧ q.grant = 4687 ∧ t.attn = s.attn)
        ∧ (s.leave.free < 4687 ∨ s.now ≤ op.since → exec (.leaveGrant id) s = .fault .notEnabled))
    ∧ ∀ key r op d sg desc, sfind s.attn.engines key = some r → sfind s.ops r.op = some op → op.work = .attn d sg desc →
        op.phase = .running → r.started = true →
        (r.next ≠ 0 → r.window.length < 5 → r.running = true → ∀ x v, s.opRead r.op .g r.next 256 = (.ok x, v) →
          let h := kvHead x.bytes
          let broken := h.ver = 0 || h.hdh ≠ desc.dh || h.cap < h.count
          let b : AttnBlock := ⟨r.next, h.count, h.cap, h.succ, broken, none, none⟩
          let p := r.window.foldl (fun p b => p + min b.count (desc.limit - p)) r.p
          let n := min h.count (desc.limit - p)
          let v' := v.dropDie (dieOfCore op.core)
          let put (u : State) (b : AttnBlock) : Out := .next (u.setEngine key { r with window := r.window ++ [b], next := h.succ })
          (x.psn = false →
            (broken = true ∨ r.needed desc p n = false → exec (.attnHeaderArrival key) s = put v' b)
            ∧ (broken = false → r.needed desc p n = true → ∀ k l y u w,
                v'.opRead r.op .g (b.va + 256) (2 * desc.dh * n) = (.ok k, u) →
                u.opRead r.op .g (b.va + 256 + 2 * desc.dh * h.cap) (2 * desc.dh * n) = (.ok l, w) →
                y = (if k.psn || l.psn then .bad 2 else .rows k.bytes l.bytes) →
                exec (.attnHeaderArrival key) s = put w { b with pay := some y }))
          ∧ (x.psn = true → exec (.attnHeaderArrival key) s = .next (v.setEngine key
            { r with window := r.window ++ [⟨r.next, 0, 0, 0, false, some 2, none⟩], next := 0 })))
        ∧ (r.running = false → exec (.attnHeaderArrival key) s = .fault .notEnabled)
        ∧ (r.running = true → r.p < desc.limit →
            let after (u : State) (fl : Nat) (r' : AttnRun) : Out :=
              .next ((u.tallyUp r.op desc.site 1 (endEvents fl r.rows r'.rows)).attnSettle key r' d desc)
            (∀ b rest, r.window = b :: rest →
              (∀ st, b.unreadable = some st → exec (.attnBlockProcess key) s = after s 0 (r.settle (.status st)))
              ∧ (b.unreadable = none → b.broken = true → exec (.attnBlockProcess key) s = after s 0 (r.settle (.status 11)))
              ∧ (b.unreadable = none → b.broken = false →
                  let n := min b.count (desc.limit - r.p)
                  let need : Bool := r.rows.zipIdx.any (r.needs desc n)
                  (need = false → exec (.attnBlockProcess key) s = after s 0 (r.consume desc n r.rows))
                  ∧ (∀ st w, need = true →
                      (b.pay = some (.bad st) ∧ w = s ∨ b.pay = none ∧ s.attnPayload r.op desc b n = some (.bad st, w)) →
                      exec (.attnBlockProcess key) s = after w 0 (r.consume desc n (r.rows.zipIdx.map fun e =>
                        if r.needs desc n e then { e.1 with phase := .status st } else e.1)))
                  ∧ ∀ k v x y w, need = true →
                      (b.pay = some (.rows k v) ∧ w = s ∨ b.pay = none ∧ s.attnPayload r.op desc b n = some (.rows k v, w)) →
                      x = tokenRows desc.dh n k v →
                      y = (r.rows.zipIdx.map fun e =>
                        if e.1.phase = .running then AttnRow.takeAll desc e.2 x r.p (e.1, 0) else (e.1, 0)) →
                      exec (.attnBlockProcess key) s = after w (y.map (·.2)).sum (r.consume desc n (y.map (·.1)))))
            ∧ (r.window = [] → r.next = 0 → exec (.attnBlockProcess key) s = after s 0 (r.settle .output))
            ∧ (r.window = [] → r.next ≠ 0 → exec (.attnBlockProcess key) s = .fault .notEnabled))
        ∧ (∀ n rows, desc.limit ≤ r.p + n ∨ (r.window.length ≤ 1 ∧ r.next = 0) →
            ∀ w ∈ (r.consume desc n rows).rows, w.phase ≠ .running)

/-! ### The Paddock (R407 to R420, R463, R470) -/

/-- Cribs and episodes (R408 to R419): a START at the head of an idle Crib is checked, its image is read, and a free core
takes it, with the registers and the image of R408; a WIDEN lengthens the window; an idle Crib discards what is no START with
a NOEP record. `txgo` appends the episode's message where there is room, and END ends it; `rxpop` takes a deliverable head. A
budget that has run out, an access fault or an illegal instruction at the pc, poison that it meets there, or a hard error of
its core kills an episode (log 8: a kill is a step of its own only where the hart's next instruction is that kill), and so does
a `txgo` or an `rxpop` that comes after the budget's last cycle, and an `rxpop` at a head that is uncorrectable: its Crib closes
and its core is free. -/
def Obligations.EpisodesOfThePaddock : Prop :=
  ∀ (crib core : Nat) (s : State) (c : Crib), sfind s.pad.cribs crib = some c →
    (c.closed = false → s.episodeOf crib = none → ∀ m rest, c.out = m :: rest →
      (msgKind m = 1 → c.image = none →
        (startOk m c.wmax = false → c.inb.length < 16 →
          exec (.cribStart crib) s = .next ((s.popOut crib).appendIn crib (cribRecord 9 1 m)))
        ∧ (startOk m c.wmax = true →
            (∀ b u, s.groomRead c.ctx (startFields m).image (startFields m).len = some (b, u) → u.sweep.touched = s.sweep.touched →
              exec (.cribStart crib) s = .next (u.setCrib crib { c with image := some b }))
            ∧ ((∀ b u, s.groomRead c.ctx (startFields m).image (startFields m).len = some (b, u) →
                  u.sweep.touched ≠ s.sweep.touched) → c.inb.length < 16 →
              exec (.cribStart crib) s = .next ((s.popOut crib).appendIn crib (cribRecord 9 2 m)))))
      ∧ (∀ img n, msgKind m = 1 → c.image = some img → s.freePaddock = some n → s.startTurn crib c = true →
          (∀ e ∈ s.pad.eps, e.2.crib ≠ crib) →
          ∃ t e, exec (.cribStart crib) s = .next t ∧ sfind t.pad.eps n = some e ∧ e.crib = crib ∧ e.pc = BitVec.ofNat 64 (fieldAt m 28 4)
            ∧ e.budget = fieldAt m 32 8 ∧ e.wlen = fieldAt m 44 4 ∧ e.startTag = fieldAt m 4 4 ∧ e.tag = fieldAt m 4 4
            ∧ (∀ r, sget 0 e.x r = if r = 2 then 0x00080000 else if r = 10 then 0x10000080 else 0)
            ∧ (∀ i, sget 0 e.mem i = img.getD i 0) ∧ e.instret = 0
            ∧ ∃ c', sfind t.pad.cribs crib = some c' ∧ c'.epno = c.epno + 1 ∧ c'.image = none ∧ c'.out = c.out)
      ∧ (msgKind m ≠ 1 → c.inb.length < 16 →
          let x := s.headBytes c m
          exec (.cribIdleDiscard crib) s = .next ((x.2.popOut crib).appendIn crib (cribRecord 10 0 x.1)))
      ∧ (msgKind m = 1 ∨ 16 ≤ c.inb.length → exec (.cribIdleDiscard crib) s = .fault .notEnabled))
    ∧ (∀ e m rest, s.episodeOf crib = some (core, e) → c.out = m :: rest → msgKind m = 3 →
        exec (.widen crib) s = .next (((s.setEpisode core { e with wlen := min c.wmax (max e.wlen (fieldAt m 16 4)) }).popOut
          crib).openStep crib))
    ∧ ∀ e, sfind s.pad.eps core = some e → e.crib = crib →
        let k := msgKind e.txbuf
        let killed (i : Instr) : Prop := ∃ t c', exec i s = .next t ∧ sfind t.pad.eps core = none
          ∧ sfind t.pad.cribs crib = some c' ∧ c'.closed = true ∧ c'.out = [] ∧ c'.inb.length = c.inb.length + 1
        (e.overdue = true → killed (.txgo core) ∧ killed (.rxpop core))
        ∧ (e.overdue = false → 8 ≤ k → k ≤ 10 → exec (.txgo core) s = .next (s.setEpisode core { e with txst := 4 }))
        ∧ (e.overdue = false → k < 8 ∨ 10 < k → 16 ≤ c.inb.length → exec (.txgo core) s = .next (s.setEpisode core { e with txst := 12 }))
        ∧ (e.overdue = false → k < 8 ∨ 10 < k → c.inb.length < 16 → s.ops = [] → ∃ t c' m, exec (.txgo core) s = .next t
            ∧ sfind t.pad.cribs crib = some c' ∧ c'.inb = c.inb ++ [m] ∧ m.take 4 = leBytes 4 c.seqIn
            ∧ m.drop 16 = e.txbuf.drop 16 ∧ (k = 2 → sfind t.pad.eps core = none)
            ∧ (k ≠ 2 → ∃ e', sfind t.pad.eps core = some e' ∧ e'.txst = 0))
        ∧ (∀ m rest, e.overdue = false → c.out = m :: rest →
            (m = [] → killed (.rxpop core))
            ∧ (e.delivers m = true → s.episodeOf crib = some (core, e) → ∃ t c' e', exec (.rxpop core) s = .next t
              ∧ sfind t.pad.cribs crib = some c' ∧ c'.out = rest ∧ sfind t.pad.eps core = some e' ∧ e'.tag = fieldAt m 4 4)
            ∧ (m ≠ [] → e.delivers m = false → exec (.rxpop core) s = .next s))
        ∧ (e.overdue = false → c.out = [] → exec (.rxpop core) s = .next s)
        ∧ (e.open_ = some 0 → killed (.stepBudgetExpiry core)) ∧ (e.open_ ≠ some 0 → exec (.stepBudgetExpiry core) s = .fault .notEnabled)
        ∧ (e.overdue = false → 0x80000 < e.pc.toNat + 2 → killed (.episodeFaultKill core 2))
        ∧ (∀ reason, reason = 2 ∨ reason = 3 ∨ reason = 5 →
            (s.hartStep core = .next (s.killEpisode core e reason) → killed (.episodeFaultKill core reason))
            ∧ (s.hartStep core ≠ .next (s.killEpisode core e reason) →
                exec (.episodeFaultKill core reason) s = .fault .notEnabled))
        ∧ (core < 256 → sget false s.pad.retired core = false → s.mgmt.mode ≠ 2 → killed (.paddockCoreHardError core))

/-! ### The debug port (R436 to R444) -/

/-- Breakpoints, stops and stepping (R436 to R441, R477): the issuing group stops at an instruction, or a pair, with a point that
a breakpoint register names and that these lanes have not just stopped at (log 57); STOP stops a group of a context that has
granted it at its next issue opportunity, and is refused for another; STEP lets the lanes in focus of a stopped group, on its
core or off it, go on for its count, its other lanes pushed as a path unless 62 stand there, and RESUME lets the group go on,
one that is off the core once it is back (log 60); the
breakpoint and queue-stop registers take their values, and a queue that is stopped is reported with its head. The port of a
device that has stopped, after a trip or a start that has failed, takes no command (R467, R471). -/
def Obligations.DebugStops : Prop :=
  ∀ (ctx gid : Nat) (s : State),
    let refused : Out := .next { s with outbox := s.outbox ++ [.port 2 []] }
    let tell (u : State) (code : Nat) (data : List Nat) : Out := .next { u with outbox := u.outbox ++ [.port code data] }
    let pc := s.cur.pc
    let points := if (pairFirsts (linePair s.cur.line)).contains (pcSlot pc) then [pc, nextPoint pc] else [pc]
    (s.cur.gid ≠ 0 → s.cur.inClause = true → s.cur.stopped = false → s.cur.passed = false → s.breaks s.cur points = true →
        exec .breakpointHit s = tell { s with cur := { s.cur with
          stopped := true, stopReq := false, stepLeft := 0, inClause := false, wait0 := none, wait1 := none,
          stall := some .stopped, bpPassed := some (pc, s.cur.slot.mask) } } 7 [s.cur.gid, pc.toNat])
    ∧ (s.cur.passed = true ∨ s.breaks s.cur points = false → exec .breakpointHit s = .fault .notEnabled)
    ∧ (s.mgmt.mode = 2 → exec (.stop ctx gid) s = .fault .notEnabled ∧ exec (.resume ctx gid) s = .fault .notEnabled
        ∧ (∀ f n, exec (.step ctx gid f n) s = .fault .notEnabled)
        ∧ ∀ core n v w, exec (.dbiWrite core n v) s = .fault .notEnabled ∧ exec (.queueStopWrite core w) s = .fault .notEnabled)
    ∧ (s.mgmt.mode ≠ 2 →
    (s.portGroup ctx gid = none → exec (.stop ctx gid) s = refused ∧ exec (.resume ctx gid) s = refused
        ∧ ∀ f n, exec (.step ctx gid f n) s = refused)
    ∧ (∀ g, s.portGroup ctx gid = some g →
        (g.stopped = false → exec (.stop ctx gid) s = tell (s.modGroup gid fun g => { g with stopReq := true }) 0 [gid] ∧ exec (.resume ctx gid) s = refused
          ∧ ∀ f n, exec (.step ctx gid f n) s = refused)
        ∧ (g.stopped = true → exec (.stop ctx gid) s = tell s 0 [gid]))
    ∧ (s.cur.gid = gid → gid ≠ 0 → s.cur.ctx = ctx → s.granted ctx = true → s.cur.stopped = true → s.cur.resident = true →
        s.cur.pstk = 0 → exec (.resume ctx gid) s = tell { s with
          cur := { s.cur with stopped := false, stepLeft := 0, stall := none, refill := false } } 0 [gid])
    ∧ (s.cur.gid = gid → gid ≠ 0 → s.cur.ctx = ctx → s.granted ctx = true → s.cur.stopped = true → s.cur.resident = false →
        exec (.resume ctx gid) s = tell { s with
          cur := { s.cur with stopped := false, stepLeft := 0, stall := none, refill := true } } 0 [gid])
    ∧ (∀ g focus n, s.stoppedGroup ctx gid = some g →
        (s.stepOffer g = none → exec (.step ctx gid focus n) s = refused)
        ∧ ∀ b, s.stepOffer g = some b →
            let m := (g.slotOf b).mask &&& ~~~g.exited
            let start : State := { s with cur := { g.unpark with issue1 := b } }
            let go (u : State) : Group := { u.cur.setSlot { u.cur.slot with mask := focus } with
              stopped := false, stepLeft := n, focus := focus, stall := none }
            (n = 0 ∨ 256 < n ∨ focus = 0 ∨ focus &&& ~~~m ≠ 0 ∨ (focus ≠ m ∧ 62 ≤ g.pstk) →
              exec (.step ctx gid focus n) s = refused)
            ∧ (1 ≤ n → n ≤ 256 → focus ≠ 0 → focus &&& ~~~m = 0 →
                (focus = m → exec (.step ctx gid focus n) s = tell (s.modGroup gid fun _ => go start) 0 [gid])
                ∧ (focus ≠ m → g.pstk < 62 → ∀ ok u, start.pushPath (g.slotOf b).pc (m &&& ~~~focus) = (ok, u) →
                    (ok = true → exec (.step ctx gid focus n) s
                      = tell (State.modGroup { u with cur := s.cur } gid fun _ => go u) 0 [gid])
                    ∧ (ok = false → exec (.step ctx gid focus n) s = refused))))
    ∧ (∀ core n (v : BitVec 128),
        (core < Config.cores → n < 8 → isPc (v.setWidth 64) = true → exec (.dbiWrite core n v) s = tell { s with
          dbg := { s.dbg with dbi := sput s.dbg.dbi (core * 8 + n) (BitVec.ofNat 128 (v.toNat % 2 ^ 82)) } } 0 [])
        ∧ (Config.cores ≤ core ∨ 8 ≤ n ∨ isPc (v.setWidth 64) = false → exec (.dbiWrite core n v) s = refused))
    ∧ ∀ core v, core < Config.cores → ∃ t, exec (.queueStopWrite core v) s = .next t
        ∧ t.dbg.qstop = sput s.dbg.qstop core (v % 2 ^ 17) ∧ t.dbg.dbi = s.dbg.dbi ∧ t.cur = s.cur ∧ t.ops = s.ops ∧ t.mem = s.mem
        ∧ ∀ q id op, q < 6 → t.queueHead? core q = some (id, op) → t.stopsAt id op = true →
            (core, q, op.seq) ∈ t.dbg.told ∧ .port 8 [core, q, op.seq] ∈ t.outbox)

/-- Register and memory access through the port (R442 to R444): a register of a stopped group reads as its value; a write to
one that no operation will write puts the value there, where a slot or the segment `sg.k` stays as R51 says, and one to a
pending register is deferred to its operation; memory in `.g` is read and written in a context that has granted it; everything else is refused or
answers with the fault. The port of a device that has stopped takes no command (R467, R471). -/
def Obligations.DebugAccess : Prop :=
  ∀ (ctx gid : Nat) (s : State),
    let tell (u : State) (code : Nat) (data : List Nat) : Out := .next { u with outbox := u.outbox ++ [.port code data] }
    (s.mgmt.mode = 2 → ∀ reg mask v sp addr n data, exec (.portRegRead ctx gid reg) s = .fault .notEnabled
      ∧ exec (.portRegWrite ctx gid reg mask v) s = .fault .notEnabled ∧ exec (.portMemRead ctx gid sp addr n) s = .fault .notEnabled
      ∧ exec (.portMemWrite ctx gid sp addr data) s = .fault .notEnabled)
    ∧ (s.mgmt.mode ≠ 2 →
    (s.stoppedGroup ctx gid = none → ∀ reg mask v, exec (.portRegRead ctx gid reg) s = tell s 2 []
      ∧ exec (.portRegWrite ctx gid reg mask v) s = tell s 2 [])
    ∧ (∀ g reg, s.stoppedGroup ctx gid = some g →
        (portInRange g reg = true → exec (.portRegRead ctx gid reg) s = tell s 5 [portValueOf s g reg])
        ∧ (portInRange g reg = false → exec (.portRegRead ctx gid reg) s = tell s 2 [])
        ∧ ∀ mask v, portInRange g reg = true →
            (∀ r id op, portPending reg = some r → (s.opsOf gid).find? (fun e => e.2.dests.contains r) = some (id, op) →
              ∃ t q, exec (.portRegWrite ctx gid reg mask v) s = .next t
                ∧ (sfind s.ops id = some op → sfind t.ops id = some q ∧ ⟨r, mask, BitVec.ofNat 64 v⟩ ∈ q.deferred)
                ∧ t.cur = s.cur ∧ t.others = s.others ∧ t.mem = s.mem)
            ∧ ((∀ r, portPending reg = some r → (s.opsOf gid).find? (fun e => e.2.dests.contains r) = none) →
                (portPut g reg mask v = none → exec (.portRegWrite ctx gid reg mask v) s = tell s 2 [])
                ∧ ∀ h, portPut g reg mask v = some h →
                  (portMovesPaths reg = false ∨ s.pathsOk h = true → exec (.portRegWrite ctx gid reg mask v) s = tell (s.modGroup gid fun _ => h) 0 [])
                  ∧ (portMovesPaths reg = true → s.pathsOk h = false → exec (.portRegWrite ctx gid reg mask v) s = tell s 2 [])))
    ∧ (∀ (g : Group) (n l : Nat) (mask : LaneMask) (v : Nat), ∃ h, portPut g (.v n 0) mask v = some h ∧ h = { g with v := h.v }
        ∧ (l < 64 → ∀ k, h.readV k l = if k = n ∧ mask.getLsbD l = true then BitVec.ofNat 32 v else g.readV k l))
    ∧ ∀ addr len (data : Bytes),
        (s.granted ctx = false → exec (.portMemRead ctx gid .g addr len) s = tell s 2 []
          ∧ exec (.portMemWrite ctx gid .g addr data) s = tell s 2 [])
        ∧ (s.granted ctx = true →
            (∀ x u, s.readVa (outside ctx) addr len = (.ok x, u) → exec (.portMemRead ctx gid .g addr len) s
              = tell u 5 ((if x.psn then 1 else 0) :: x.bytes.map (·.toNat)))
            ∧ ∀ va f u, s.readVa (outside ctx) addr len = (.fault va f, u) →
                exec (.portMemRead ctx gid .g addr len) s = tell u 6 [va, faultNo f])
        ∧ (s.granted ctx = true →
            (∀ x u, s.writeVa (outside ctx) addr data = (.ok x, u) → exec (.portMemWrite ctx gid .g addr data) s = tell u 0 [])
            ∧ ∀ va f u, s.writeVa (outside ctx) addr data = (.fault va f, u) →
                exec (.portMemWrite ctx gid .g addr data) s = tell u 6 [va, faultNo f])
        ∧ ∀ g, s.stoppedGroup ctx gid = some g → g.resident = true → addr + len ≤ g.sgs.limit →
            exec (.portMemRead ctx gid .s addr len) s = (
              let x := s.readLocal .s g.coreNo (g.sgs.base + addr) len
              tell s 5 ((if x.psn then 1 else 0) :: x.bytes.map (·.toNat))))

/-! ### The links (R445 to R458) -/

/-- The host's window (its accesses count as one of an `ATOMIC` page: log 62) and the fabric (R446, R447, R449 to R451, R472):
an access to memory in use is performed and answered, over the fabric in bursts; one to a stack that is not is logged or answered
with nothing, and so is a fabric access to a `REPLICA` page where not every die is in use. A line of a host write whose flit CRC
fails is written poisoned, and logged (R464, R465). A burst of the peer's is delivered in the order of the numbers; one of the device's own that has arrived at the
other end stands in no replay buffer any more, and no release waits for it (log 77 for the two numberings). A burst that fails
its CRC is sent or asked for again, at most 8 times, on its lane or, once a repair has changed the lane map, on the lane that
the map gives its number, and the fourth error within a millisecond closes its lane, which leaves the map once it has drained. A
burst whose eighth replay has failed takes the link down, and so does a repair that would leave too few lanes; accesses that are
outstanding meet a refusal, a collective under way ends with 1, contributions are dropped, and no release waits for a device any
more (log 61). The port is up again
after training with enough lanes, where numbers begin at zero (log 77). -/
def Obligations.HostAndFabric : Prop :=
  ∀ (s : State) (pa len lane seq : Nat) (data : Bytes) (crc : List Nat),
    let answers (u : State) (st : Nat) (b : Bytes) : Out := .next { u with outbox := u.outbox ++ [.access st b] }
    let bytes (x : Got) : Nat := if x.psn then 2 else 0
    let l := s.fabricLane lane
    let logs (b : Bytes) : State := { s with mgmt := { s.mgmt with log := s.mgmt.log ++ [b] } }
    let fourth : Prop := 3 ≤ (l.errors.filter fun t => s.now < t + 3600000).length
    (s.mgmt.mode ≠ 2 → len ≠ 0 → isDram (pa + len - 1) = true →
        (s.rangeUsed pa len = false → exec (.hostBar2Access false pa len ⟨data, crc⟩) s = answers (logs (leBytes 1 0 ++ leBytes 8 pa)) 1 [])
        ∧ (s.rangeUsed pa len = true →
            ∀ x u, s.readPa (outside 0) 0 pa len = (x, u) → exec (.hostBar2Access false pa len ⟨data, crc⟩) s = answers u (bytes x) x.bytes))
    ∧ (s.mgmt.mode ≠ 2 → data ≠ [] → isDram (pa + data.length - 1) = true →
        (s.rangeUsed pa data.length = false → exec (.hostBar2Access true pa len ⟨data, crc⟩) s = .next (logs (leBytes 1 1 ++ leBytes 8 pa)))
        ∧ (s.rangeUsed pa data.length = true → exec (.hostBar2Access true pa len ⟨data, crc⟩) s
            = .next (((unitsOf 64 pa data.length).filter fun n => crc.contains (n - pa / 64)).foldl
                (fun u n => u.poisonFlit 0 0 (64 * n)) (s.writePa (outside 0) 0 pa data))))
    ∧ (∀ ctx attr, (s.poisonFlit ctx attr pa).mem = (s.poisonPa attr pa 64).mem
        ∧ (s.poisonFlit ctx attr pa).mgmt.log = s.mgmt.log ++ [leBytes 1 9 ++ leBytes 8 pa ++ leBytes 2 ctx])
    ∧ (s.mgmt.mode = 2 → ∀ write, exec (.hostBar2Access write pa len ⟨data, crc⟩) s = .fault .notEnabled)
    ∧ (s.fabric.up = true → s.mgmt.mode ≠ 2 → ∀ access : RemoteAccess, (remoteRange access).2 ≠ 0 → access.attr = 2 →
        s.mgmt.dies ≠ 15 → exec (.fabricRemoteAccess access) s = answers s 1 [])
    ∧ (s.fabric.up = true → s.mgmt.mode ≠ 2 →
        (∀ attr, attr ≠ 2 ∨ s.mgmt.dies = 15 → len ≠ 0 → s.rangeUsed pa len = true → ∀ x u, s.readPa (outside 0) attr pa len = (x, u) →
          exec (.fabricRemoteAccess (.read pa attr len)) s = answers (u.burstsOf len) (bytes x) x.bytes)
        ∧ (∀ attr, attr ≠ 2 ∨ s.mgmt.dies = 15 → data ≠ [] → s.rangeUsed pa data.length = true →
            exec (.fabricRemoteAccess (.write pa attr data)) s = answers ((s.writePa (outside 0) attr pa data).burstsOf 1) 0 [])
        ∧ (∀ attr, len ≠ 0 → s.rangeUsed pa len = false → exec (.fabricRemoteAccess (.read pa attr len)) s = answers s 1 [])
        ∧ ∀ x v u, s.rangeUsed pa 4 = true → pa % 4 = 0 → s.readPa (outside 0) 0 pa 4 = (v, u) →
            v.psn = false → exec (.fabricRemoteAccess (.atomic pa 0 false 11 false x 0)) s
              = .next (State.burstsOf { u.writePa (outside 0) 0 pa (leBytes 4 x) with
                  outbox := (u.writePa (outside 0) 0 pa (leBytes 4 x)).outbox ++ [.access 0 (leBytes 4 (ofLe v.bytes))] } 4))
    ∧ (s.fabric.up = true →
        (lane < 72 → seq ∈ l.replay → s.fabric.waiting = 0 ∨ seq < s.fabric.sendSeq →
            ∃ t, exec (.burstReceive (.own seq) data) s = .next t ∧ (∀ n, seq ∉ (t.fabricLane n).replay)
              ∧ (∀ w ∈ t.fabric.writes, seq ∉ w.open_) ∧ t.fabric.recvSeq = s.fabric.recvSeq ∧ t.fabric.early = s.fabric.early)
        ∧ ((∀ n < 72, seq ∉ (s.fabricLane n).replay) → exec (.burstReceive (.own seq) data) s = .fault .notEnabled)
        ∧ (s.fabric.early = [] → s.fabric.recvSeq ≤ seq → ∃ t, exec (.burstReceive (.peer seq) data) s = .next t
            ∧ t.fabric.lanes = s.fabric.lanes ∧ t.fabric.writes = s.fabric.writes
            ∧ (seq = s.fabric.recvSeq → t.fabric.recvSeq = seq + 1 ∧ t.fabric.early = []
                ∧ t.outbox = s.outbox ++ [.fabric 0 (seq :: data.map (·.toNat))])
            ∧ (seq ≠ s.fabric.recvSeq → t.fabric.recvSeq = s.fabric.recvSeq ∧ t.fabric.early = [(seq, data)] ∧ t.outbox = s.outbox))
        ∧ (seq < s.fabric.recvSeq → exec (.burstReceive (.peer seq) data) s = .fault .notEnabled
            ∧ exec (.burstCrcFail lane (.peer seq)) s = .fault .notEnabled)
        ∧ (lane < 72 → s.laneMap ≠ [] → seq ∈ l.replay →
            let n := sget 0 s.fabric.replays seq
            let again := if s.fabric.remapped = true ∨ l.active = false then s.laneMap.getD (seq % s.laneMap.length) lane else lane
            ∃ t, exec (.burstCrcFail lane (.own seq)) s = .next t ∧ sget 0 t.fabric.replays seq = n + 1
              ∧ (∃ k, seq ∈ (t.fabricLane k).replay) ∧ (t.fabricLane lane).active = l.active
              ∧ ((t.fabricLane lane).closing = true ↔ l.closing = true ∨ l.active = true ∧ fourth)
              ∧ t.outbox = if n < 8 then s.outbox ++ [.fabric 4 [seq, again]] else s.outbox)
        ∧ (seq ∉ l.replay → exec (.burstCrcFail lane (.own seq)) s = .fault .notEnabled)
        ∧ (lane < 72 → s.laneMap ≠ [] → s.fabric.recvSeq ≤ seq →
            let n := sget 0 s.fabric.asked seq
            ∃ t, exec (.burstCrcFail lane (.peer seq)) s = .next t ∧ sget 0 t.fabric.asked seq = n + 1
              ∧ t.fabric.replays = s.fabric.replays ∧ (t.fabricLane lane).replay = l.replay
              ∧ ((t.fabricLane lane).closing = true ↔ l.closing = true ∨ l.active = true ∧ fourth)
              ∧ t.outbox = if n < 8 then s.outbox ++ [.fabric 1 [seq, lane]] else s.outbox))
    ∧ (s.fabric.up = true → l.closing = true → l.replay = [] → 36 < s.laneMap.length → ∃ t, exec (.laneRepair lane) s = .next t
        ∧ t.fabricLane lane = { l with active := false, closing := false, errors := [] } ∧ t.fabric.remapped = true)
    ∧ (s.laneMap.length ≤ 36 → exec (.laneRepair lane) s = .fault .notEnabled)
    ∧ (∀ reason, s.fabric.up = true →
        reason = 1 ∧ (9 ≤ sget 0 s.fabric.replays seq ∨ 9 ≤ sget 0 s.fabric.asked seq)
          ∨ reason = 2 ∧ s.laneMap.length ≤ 36 ∧ lane < 72 ∧ l.closing = true →
        let v := logs (leBytes 1 reason ++ s.laneMap.map (BitVec.ofNat 8) ++ leBytes 8 seq)
        ∃ t, exec (.linkDown reason seq) s = .next t ∧ t.fabric.up = false ∧ t.fabric.contribs = [] ∧ t.fabric.waiting = 0
          ∧ (∀ w ∈ t.fabric.writes, w.open_ = []) ∧ (∀ r ∈ t.fabric.reads, ∀ k ∈ r.open_, k = 0) ∧ t.mgmt = v.mgmt
          ∧ ((∀ e ∈ s.ops, s.collOut e.2 = false) → t.ops = s.ops.map fun e => (e.1, v.unlinked e.2))
          ∧ ∀ id op, sfind s.ops id = some op → s.collOut op = true →
              ∃ q, sfind t.ops id = some q ∧ q.phase = .ended ∧ q.status = 1)
    ∧ (sget 0 s.fabric.replays seq < 9 → sget 0 s.fabric.asked seq < 9 → exec (.linkDown 1 seq) s = .fault .notEnabled)
    ∧ ∀ lanes : List Nat, s.fabric.up = false → s.mgmt.mode ≠ 2 →
        (36 ≤ (lanes.filter (· < 72)).eraseDups.length → ∃ t, exec (.fabricLinkRetrain lanes) s = .next t ∧ t.fabric.up = true
          ∧ t.fabric.replays = [] ∧ t.fabric.asked = [] ∧ t.fabric.sendSeq = 0 ∧ t.fabric.recvSeq = 0 ∧ t.fabric.remapped = false
          ∧ ∀ n < 72, (t.fabricLane n).active = lanes.contains n)
        ∧ ((lanes.filter (· < 72)).eraseDups.length < 36 → exec (.fabricLinkRetrain lanes) s = .fault .notEnabled)

/-- Collectives and the NVMe initiator (R164, R453 to R458). A `coll` with a fault of its descriptor ends with 4 (log 84 for the
faults that R164 does not list); a running one takes the next piece for which every member's part has arrived: the fold of the
parts in ascending rank where it is this member's chunk of a reduction, and else the part itself, written from `dst` on at the
chunk's place (log 28: the model's choice of that place); parts whose descriptors disagree end it with 5. The fold of `I32` is the sum or the largest, and of `F32` the
rounded sums in order. A member's part is kept until it is used, and where a member's link fails what waits for its part ends
with 1; destroying a communicator drops what it holds. A request of a queue pair that breaks its layout completes with 4 and
nothing written; a good one asks the SSD for its blocks, writes them, and completes with 0; a media error ends it with 2; the
completion stands at the tail, and then the tail moves on (log 78 for `shead`). -/
def Obligations.CollectivesAndNvme : Prop :=
  ∀ (s : State) (comm chunk rank pair : Nat) (desc data : Bytes),
    (∀ id op at_ todo, sfind s.ops id = some op → op.phase = .running → op.work = .coll at_ desc todo →
      let d := collDesc desc
      let found := sfind s.fabric.comms d.comm
      let size := collBytes d.cfmt
      (op.progress = 0 → found = none ∨ (d.bad = true ∧ found ≠ none) →
        exec (.copyUnitWrite id) s = .next (s.modOp id fun op => { op with phase := .ended, status := 4 }))
      ∧ ∀ cm c, found = some cm → 0 < op.progress →
          todo.find? (fun c => (s.pieceBytes d cm.members cm.rank c).isSome) = some c →
          let folds : Bool := d.cop ≠ 2 && d.cop ≠ 4 && c = cm.rank
          let from_ := if folds then List.range cm.members else [if d.cop = 4 then d.root else c]
          let parts := from_.filterMap fun r => s.contribution d.comm c r
          let first := d.count * c / cm.members
          let n := d.count * (c + 1) / cm.members - first
          let place := if d.cop = 2 then d.count * c else if d.cop = 4 then 0 else first
          let b : Bytes := if folds then ((List.range n).map (foldAt d (parts.map (·.bytes)))).flatten
            else (parts.map (·.bytes)).flatten
          ((∃ x ∈ parts, (collDesc x.desc).agrees d = false) →
            exec (.copyUnitWrite id) s = .next (s.modOp id fun op => { op with phase := .ended, status := 5 }))
          ∧ ((∀ x ∈ parts, (collDesc x.desc).agrees d = true) →
              (∀ st va rep u, s.opWrite id .g (d.dst + size * place) b false = (.fail st va rep, u) →
                exec (.copyUnitWrite id) s = .next (u.modOp id fun op => { op with phase := .ended, status := st, faddr := va }))
              ∧ ∀ x u, s.opWrite id .g (d.dst + size * place) b false = (.ok x, u) →
                  ∃ t, exec (.copyUnitWrite id) s = .next t ∧ t.mem = u.mem
                    ∧ ∀ q, sfind u.ops id = some q → ∃ q', sfind t.ops id = some q' ∧ q'.done = q.done + b.length
                        ∧ q'.phase = if todo.erase c = [] then .ended else q.phase))
    ∧ (∀ (d : CollDesc) (parts : List Bytes) i, parts ≠ [] →
        let el (b : Bytes) : Nat := fieldAt b (4 * i) 4
        let w (b : Bytes) : Word := BitVec.ofNat 32 (el b)
        let r := ofLe (foldAt d parts i)
        (d.cfmt = 5 → d.cop ≠ 1 → r = (parts.map el).sum % 2 ^ 32)
        ∧ (d.cfmt = 5 → d.cop = 1 → (∀ b ∈ parts, sext (el b) 32 ≤ sext r 32) ∧ ∃ b ∈ parts, r = el b)
        ∧ ∀ x y z, d.cfmt = 0 → d.cop ≠ 1 → parts = [x, y, z] → r = (faddRn (faddRn (w x) (w y)) (w z)).toNat)
    ∧ (∀ c, sfind s.fabric.comms comm = some c →
      (s.fabric.up = true → rank < c.members → rank ≠ c.rank →
        exec (.collContribution comm chunk rank desc (some data)) s
          = .next { s with fabric := { s.fabric with contribs := s.fabric.contribs ++ [⟨comm, chunk, rank, desc, data⟩] } }
        ∧ ∃ t, exec (.collContribution comm chunk rank desc none) s = .next t ∧ t.mem = s.mem
            ∧ ∀ id op, sfind s.ops id = some op → s.collNeeds comm rank c op = true →
                ∃ q, sfind t.ops id = some q ∧ q.phase = .ended ∧ q.status = 1)
      ∧ (c.members ≤ rank ∨ rank = c.rank → ∀ part, exec (.collContribution comm chunk rank desc part) s = .fault .notEnabled)
      ∧ (s.mgmt.mode ≠ 2 → ∃ t, exec (.communicatorDestroy comm) s = .next t ∧ sfind t.fabric.comms comm = none
          ∧ ∀ x ∈ t.fabric.contribs, x.comm ≠ comm))
    ∧ (∀ p f u failed, s.nvmeNext pair = some (p, f, u) →
        let v := (List.range 4).foldl State.dropDie u
        let w : State := { v with outbox := v.outbox ++ [.flash p.ns f.lba f.nlb] }
        let done (v : State) (st n : Nat) : Out := .next { v with nvme :=
          ⟨sput v.nvme.pairs pair { p with taken := p.taken + 1 }, v.nvme.reqs ++ [⟨pair, p.taken, p.ctx, f.tag, st, n⟩]⟩ }
        let lines (n : Nat) : List Nat := failed.filter (· < 64 * n)
        (f.ok = false → ∀ media, exec (.nvmeRequest pair data ⟨media, failed⟩) s = done v 4 0)
        ∧ (f.ok = true → data.length = 4096 * f.nlb →
            (∀ n bad x, writeBlocksTo p.ctx f.nlb f.dst data w = (n, bad, x) →
              exec (.nvmeRequest pair data ⟨false, failed⟩) s = done (x.poisonLines p.ctx f.dst (lines n))
                (if bad then 1 else if f.op = 2 ∧ f.checks data = false then 3 else 0) n)
            ∧ exec (.nvmeRequest pair data ⟨true, failed⟩) s = .fault .notEnabled)
        ∧ (f.ok = true → ∀ k, k < f.nlb → data.length = 4096 * k →
            (∀ n bad x, writeBlocksTo p.ctx k f.dst data w = (n, bad, x) →
              exec (.nvmeRequest pair data ⟨true, failed⟩) s = done (x.poisonLines p.ctx f.dst (lines n)) (if bad then 1 else 2) n)
            ∧ exec (.nvmeRequest pair data ⟨false, failed⟩) s = .fault .notEnabled))
    ∧ ∀ p r q u, sfind s.nvme.pairs pair = some p → s.nvmeDone pair = some r → s.nvmeHead p.ctx p.header = some (q, u) →
        let v := u.outWrite p.ctx (q.cq + 16 * (q.ctail % q.nent)) (leBytes 8 r.tag ++ leBytes 1 r.status ++ leBytes 3 0 ++ leBytes 4 r.written)
        let w := (v.order .rel .dev 0).outWrite p.ctx (p.header + 40) (leBytes 8 (q.ctail + 1))
        exec (.nvmeCompletion pair) s = .next { w with nvme := { w.nvme with reqs := w.nvme.reqs.erase r } }

/-! ### Sampling, starts and management (R8, R431 to R433, R465, R471 to R476) -/

/-- Stall sampling (R431, R433): each sample that is due puts one record of each resident group of its grid into the slice's
queue, in increasing `gslot`; what comes beyond 16 is dropped and counted in its grid's `sdrop`; the grid's next sample there is
due a period later; the oldest record of a queue goes to its grid's buffer. -/
def Obligations.StallSampling : Prop :=
  ∀ (core slice : Nat) (s : State),
    let key := core * 4 + slice
    let q := (sfind s.prof.queues key).getD []
    let due := s.dueSamples key
    let groups (grid : Nat) : List Group :=
      (s.groups.filter fun g => g.grid = grid && g.coreNo = core && g.slice = slice && g.resident).mergeSort
        fun g h => g.gslot ≤ h.gslot
    let all := q ++ due.flatMap fun x => (groups x.1).map fun g => (⟨x.1, s.sampleRecord g x.2⟩ : Sample)
    (due = [] → exec (.stallSample core slice) s = .fault .notEnabled)
    ∧ (due ≠ [] → q.length ≤ 16 →
        ∃ t, exec (.stallSample core slice) s = .next t
          ∧ (sfind t.prof.queues key).getD [] = all.take 16
          ∧ (∀ n, (t.gridOf n).map (·.sdrop)
              = (s.gridOf n).map fun g => g.sdrop + (all.drop 16).countP fun x => x.grid = n)
          ∧ (∀ x ∈ due, t.nextSample x.1 key = x.2 + 1)
          ∧ t.cur = s.cur ∧ t.others = s.others ∧ t.mem = s.mem)
    ∧ (q = [] → exec (.sampleDrain core slice) s = .fault .notEnabled)
    ∧ ∀ x rest gr, q = x :: rest → s.gridOf x.grid = some gr →
        let u : State := { s with prof := { s.prof with queues := sput s.prof.queues key rest } }
        (gr.slen < gr.sused + 16 → exec (.sampleDrain core slice) s = .next (u.modGrid x.grid fun g => { g with sdrop := g.sdrop + 1 }))
        ∧ (gr.sused + 16 ≤ gr.slen →
            (∀ y v, u.writeVa (outside gr.ctx) (gr.sbuf + gr.sused) x.bytes = (.ok y, v) → exec (.sampleDrain core slice) s
              = .next (v.modGrid x.grid fun g => { g with sused := g.sused + 16 }))
            ∧ ∀ a f v, u.writeVa (outside gr.ctx) (gr.sbuf + gr.sused) x.bytes = (.fault a f, v) → exec (.sampleDrain core slice) s
              = .next (v.modGrid x.grid fun g => { g with sdrop := g.sdrop + 1 }))

/-- Starts, attestation and images (R471 to R476): a start leaves no group, no operation, no context and no grid; its mode is
0 after stages without a failure, 2 after a failure, which it counts, with the fabric port down, and 1 after three counted
failures; a full start needs every die to pass stage 4, and a minimal one takes the lowest that passes; stages 1 and 5 fail
where a signature of the image does not hold of its digest; `mmexit` makes the next start full; an image is verified on receipt
and refused where a part's signature does not hold, a good one runs from the next start on, and one whose start fails at
stage 1 or 5 gives way to the other bank's; the measurements are those that the last start took, with a signature over the request and them
(log 66: what a signature check answers, what the request holds and what stands for a stage that has not run are the model's
free values and choices). The registers that system
software writes (R8, R336, R352, R359, R409, R436, R453, R454, R473, R474): a root that is 2 MiB aligned, a pager's and a launch
queue's header in a context that exists, the debug grant, an NVMe queue pair, a communicator, a Crib for a context, and
`mmexit`; the other words of BAR0 are read-only. -/
def Obligations.StartsImagesAndRegisters : Prop :=
  (∀ (s : State) (failed : Option StartFailure) (dies : Nat) (digests signatures : FwParts) (version : Nat),
     let began := if s.mgmt.mmexit then 0 else s.mgmt.nvCount
     let image := if s.mgmt.fresh then s.mgmt.other else s.mgmt.active
     let good (d g : Bytes) : Bool := d.length = 48 && g.length = 96 && Config.verifies d g
     let holds (part : FwParts → Bytes) : Bool := match image.signed with | none => true | some (d, g) => good (part d) (part g)
     let tested : Bool := if began < 3 then dies % 16 = 15 else (List.range 4).any fun n => dies.testBit n
     (∀ c, failed = some (.stage c) → c = 0 ∨ 6 < c → exec (.deviceStart failed dies) s = .fault .notEnabled)
     ∧ (∀ n, failed = some (.trip n) → 5 < n → exec (.deviceStart failed dies) s = .fault .notEnabled)
     ∧ ((∀ c, failed = some (.stage c) → 1 ≤ c ∧ c ≤ 6) → (∀ n, failed = some (.trip n) → n ≤ 5) →
       ∃ t, exec (.deviceStart failed dies) s = .next t
         ∧ t.groups = [] ∧ t.ops = [] ∧ t.xlate.ctxs = [] ∧ t.launch.grids = [] ∧ t.dbg = State.reset.dbg ∧ t.mgmt.mmexit = false
         ∧ (t.mgmt.mode = 2 → t.fabric.up = false ∧ t.mgmt.dies = 0 ∧ t.mgmt.nvCount = began + 1)
         ∧ (failed ≠ none → t.mgmt.mode = 2)
         ∧ (∀ c, failed = some (.stage c) → t.mgmt.lastf.head? = some (if c = 1 ∨ holds (·.groom) = false then 1
             else if c < 4 then c else if c = 4 ∨ tested = false then 4
             else if c = 5 ∨ holds (·.shed) = false ∨ (began < 3 ∧ holds (·.monitor) = false) then 5 else 6))
         ∧ (failed = some (.trip 0) → t.mgmt.lastf.head? = some 7)
         ∧ (failed = none → holds (·.groom) = false → t.mgmt.mode = 2 ∧ t.mgmt.lastf.head? = some 1)
         ∧ (failed = none → holds (·.groom) = true → tested = false → t.mgmt.mode = 2 ∧ t.mgmt.lastf.head? = some 4)
         ∧ (failed = none → holds (·.groom) = true → tested = true →
             holds (·.shed) = false ∨ (began < 3 ∧ holds (·.monitor) = false) → t.mgmt.mode = 2 ∧ t.mgmt.lastf.head? = some 5)
         ∧ (failed = none → holds (·.groom) = true → tested = true → holds (·.shed) = true →
             (began < 3 → holds (·.monitor) = true → t.mgmt.mode = 0 ∧ t.mgmt.dies = 15 ∧ t.mgmt.nvCount = 0 ∧ t.fabric.up = true)
             ∧ (3 ≤ began → ∀ n < 4, dies.testBit n = true → (∀ m < n, dies.testBit m = false) →
                  t.mgmt.mode = 1 ∧ t.mgmt.dies = 2 ^ n ∧ t.mgmt.nvCount = 0))
         ∧ (s.mgmt.fresh = true → t.mgmt.mode ≠ 2 → t.mgmt.active = s.mgmt.other ∧ t.mgmt.other = s.mgmt.active)
         ∧ (s.mgmt.fresh = false ∨ t.mgmt.mode = 2 ∧ (t.mgmt.lastf.head? = some 1 ∨ t.mgmt.lastf.head? = some 5) →
             t.mgmt.active = s.mgmt.active ∧ t.mgmt.other = s.mgmt.other)
         ∧ t.mgmt.fresh = false ∧ t.mgmt.measurements.length = 4 ∧ t.mgmt.measurements.getD 3 [] = t.mgmt.boot
         ∧ (∀ d g, image.signed = some (d, g) → failed ≠ some (.trip 0) → t.mgmt.measurements.getD 0 [] = d.groom)
         ∧ (∀ d g, image.signed = some (d, g) → t.mgmt.mode ≠ 2 → t.mgmt.measurements.getD 1 [] = d.shed
             ∧ (began < 3 → t.mgmt.measurements.getD 2 [] = d.monitor))
         ∧ (3 ≤ began → t.mgmt.measurements.getD 2 [] = leBytes 48 0))
     ∧ exec .mmexit s = .next { s with mgmt := { s.mgmt with mmexit := true } }
     ∧ exec (.firmwareImageWrite digests version signatures) s
         = .next (if good digests.groom signatures.groom && good digests.shed signatures.shed && good digests.monitor signatures.monitor
             then { s with mgmt := { s.mgmt with other := ⟨some (digests, signatures), version % 65536⟩, fresh := true },
                           outbox := s.outbox ++ [.access 0 []] }
             else { s with outbox := s.outbox ++ [.access 1 []] })
     ∧ exec .getMeasurements s = .next { s with free := s.free + 1, outbox := s.outbox ++
         [.spdm s.mgmt.measurements (signatureOf (Config.spdmRequest s.free :: s.mgmt.measurements))] })
  ∧
  (∀ (s : State) (ctx n a b ns : Nat) (on : Bool), s.mgmt.tripped = false → s.mgmt.mode ≠ 2 →
     let ctxPut (c : Ctx) : State := { s with xlate := { s.xlate with ctxs := sput s.xlate.ctxs ctx c } }
     let changed (t : State) (f : Ctx → Ctx) : Prop := (∀ k, sfind t.xlate.ctxs k
       = if k = ctx then (sfind s.xlate.ctxs k).map f else sfind s.xlate.ctxs k) ∧ t.mem = s.mem ∧ t.cur = s.cur
     (∀ off v, (off = 0x10 ∧ v = 1 → exec (.registerWrite (.bar0 off v)) s = .next { s with mgmt := { s.mgmt with mmexit := true } })
       ∧ (¬ (off = 0x10 ∧ v = 1) → exec (.registerWrite (.bar0 off v)) s = .next s))
     ∧ (ctx < 65536 → a % 2 ^ 21 = 0 → sfind s.xlate.ctxs ctx = none →
         exec (.registerWrite (.ctxRoot ctx a)) s = .next (ctxPut ⟨a, [], false, false⟩))
     ∧ (a % 2 ^ 21 ≠ 0 → exec (.registerWrite (.ctxRoot ctx a)) s = .fault .notEnabled)
     ∧ (sfind s.xlate.ctxs ctx = none → exec (.registerWrite (.debugGrant ctx on)) s = .fault .notEnabled)
     ∧ ∀ c, sfind s.xlate.ctxs ctx = some c →
         (ctx < 65536 → a % 2 ^ 21 = 0 → ∃ t, exec (.registerWrite (.ctxRoot ctx a)) s = .next t ∧ changed t fun c => { c with root := a })
         ∧ (1 ≤ n → n ≤ 2047 → a % 64 = 0 → ∃ t, exec (.registerWrite (.pager ctx n a)) s = .next t
             ∧ changed t fun c => { c with pagers := sput c.pagers n a })
         ∧ (∃ t, exec (.registerWrite (.debugGrant ctx on)) s = .next t ∧ changed t fun c => { c with debugGrant := on })
         ∧ (n < 1024 → a % 64 = 0 → exec (.registerWrite (.launchQueue n ctx a)) s
             = .next { s with launch := { s.launch with
                 queues := sput s.launch.queues n ⟨ctx, a, [], s.launch.nextReg, []⟩, nextReg := s.launch.nextReg + 1 } })
         ∧ (n < 64 → a % 64 = 0 → exec (.registerWrite (.nvmePair n ctx ns a)) s
             = .next { s with nvme := { s.nvme with pairs := sput s.nvme.pairs n ⟨ctx, ns, a, 0⟩ } })
         ∧ (b < a → exec (.registerWrite (.communicator n a b)) s
             = .next { s with fabric := { s.fabric with comms := sput s.fabric.comms n ⟨a, b⟩ } })
         ∧ ∀ frames : List Nat, s.mgmt.mode = 0 → sfind s.pad.cribs n = none → n < 2048 → a = frames.length * 65536 → a ≤ 2 ^ 28 →
             ∃ t c', exec (.registerWrite (.cribAssign n ctx a frames)) s = .next t ∧ sfind t.pad.cribs n = some c' ∧ c'.ctx = ctx
               ∧ c'.wmax = a ∧ c'.out = [] ∧ c'.inb = [] ∧ c'.closed = false)
end

