-- ==== Sys2Proof/Laws/Bits.lean ====
section
/-! SUPPORT. The laws of lane masks and of bytes. -/

namespace Sys2Proof.Machine

/-- The number that a test gives over a list, its first element in the lowest bit. -/
theorem testBit_foldr (p : Nat → Bool) (l : List Nat) (i : Nat) :
    (l.foldr (fun l acc => if p l then 1 + 2 * acc else 2 * acc) 0).testBit i = (match l[i]? with | some x => p x | none => false) := by
  induction l generalizing i with
  | nil => simp
  | cons a t ih =>
    cases i with
    | zero =>
      simp only [List.foldr_cons, List.getElem?_cons_zero]
      by_cases h : p a
      · simp [h, Nat.testBit_zero]
      · simp [h, Nat.testBit_zero]
    | succ n =>
      simp only [List.foldr_cons, List.getElem?_cons_succ, ← ih n, Nat.testBit_succ]
      by_cases h : p a
      · simp only [h, if_true]; congr 1; omega
      · simp only [h]; congr 1; simp

@[simp] theorem laneSet_getLsbD (p : Nat → Bool) (l : Nat) : (laneSet p).getLsbD l = (decide (l < 64) && p l) := by
  unfold laneSet
  rw [BitVec.getLsbD_ofNat, testBit_foldr]
  by_cases h : l < 64
  · simp [h]
  · simp [h]

theorem mem_maskLanes (m : LaneMask) (l : Nat) : l ∈ maskLanes m ↔ l < 64 ∧ m.getLsbD l = true := by
  simp [maskLanes]

theorem maskLanes_nodup (m : LaneMask) : (maskLanes m).Nodup := List.Nodup.filter _ List.nodup_range

theorem leBytes_length (n x : Nat) : (leBytes n x).length = n := by
  induction n generalizing x with
  | zero => rfl
  | succ n ih => simp [leBytes, ih]

/-- Bytes written in order and read back. -/
theorem ofLe_leBytes (n x : Nat) : ofLe (leBytes n x) = x % 2 ^ (8 * n) := by
  induction n generalizing x with
  | zero => simp [leBytes, ofLe, Nat.mod_one]
  | succ n ih =>
    simp only [leBytes, ofLe, ih, BitVec.toNat_ofNat]
    have : 2 ^ (8 * (n + 1)) = 256 * 2 ^ (8 * n) := by rw [Nat.mul_add, Nat.pow_add]; ring
    rw [this, Nat.mod_mul]

end Sys2Proof.Machine
end

