-- ==== Sys2Proof/Laws/Encoding.lean ====
section
/-! SUPPORT. Each modifier reads back from its bits. -/

set_option linter.unusedSimpArgs false

namespace Sys2Proof.Machine

theorem fmtCode_lt (f : Fmt) : fmtCode f < 13 := by cases f <;> decide
theorem rndCode_lt (r : Rnd) : rndCode r < 4 := by cases r <;> decide
theorem ordCode_lt (r : Ord) : ordCode r < 4 := by cases r <;> decide
theorem scopeCode_lt (r : Scope) : scopeCode r < 6 := by cases r <;> decide
theorem spaceCode_lt (r : Space) : spaceCode r < 4 := by cases r <;> decide
theorem cspaceCode_lt (r : Space) : cspaceCode r < 4 := by cases r <;> decide
theorem corModeCode_lt (r : CorMode) : corModeCode r < 3 := by cases r <;> decide
theorem bit_lt (b : Bool) : bit b < 2 := by cases b <;> decide

@[simp] theorem fmtOf_fmtCode (f : Fmt) : fmtOf (fmtCode f) = some f := by cases f <;> rfl
@[simp] theorem rndOf_rndCode (r : Rnd) : rndOf (rndCode r) = r := by cases r <;> rfl
@[simp] theorem ordOf_ordCode (r : Ord) : ordOf (ordCode r) = r := by cases r <;> rfl
@[simp] theorem scopeOf_scopeCode (r : Scope) : scopeOf (scopeCode r) = some r := by cases r <;> rfl
@[simp] theorem spaceOf_spaceCode (r : Space) : spaceOf (spaceCode r) = r := by cases r <;> rfl
@[simp] theorem cspaceOf_cspaceCode (r : Space) : cspaceOf (cspaceCode r) = r := by cases r <;> rfl
@[simp] theorem corModeOf_corModeCode (r : CorMode) : corModeOf (corModeCode r) = some r := by cases r <;> rfl
@[simp] theorem bit_beq_one (b : Bool) : (bit b == 1) = b := by cases b <;> rfl

/-- A field of 12 modifier bits, as a number. -/
theorem mf_ofNat (x hi lo : Nat) (h : x < 4096) : mf (BitVec.ofNat 12 x) hi lo = x / 2 ^ lo % 2 ^ (hi + 1 - lo) := by
  simp [mf, bits, Nat.mod_eq_of_lt h]

theorem laneOf_laneBits (m : LaneMod) : laneOf (laneBits m) = some m := by
  obtain ⟨f, r, b, x⟩ := m
  have h_f := fmtCode_lt f
  have h_r := rndCode_lt r
  have h_b := bit_lt b
  have h_x := x.isLt
  unfold laneOf laneBits
  have hb : fmtCode f * 256 + rndCode r * 64 + bit b * 32 + x.toNat < 4096 := by omega
  have h0 : (fmtCode f * 256 + rndCode r * 64 + bit b * 32 + x.toNat) / 2 ^ 8 % 2 ^ (11 + 1 - 8) = fmtCode f := by omega
  have h1 : (fmtCode f * 256 + rndCode r * 64 + bit b * 32 + x.toNat) / 2 ^ 6 % 2 ^ (7 + 1 - 6) = rndCode r := by omega
  have h2 : (fmtCode f * 256 + rndCode r * 64 + bit b * 32 + x.toNat) / 2 ^ 5 % 2 ^ (5 + 1 - 5) = bit b := by omega
  have h3 : (fmtCode f * 256 + rndCode r * 64 + bit b * 32 + x.toNat) / 2 ^ 0 % 2 ^ (4 + 1 - 0) = x.toNat := by omega
  simp only [mf_ofNat _ _ _ hb, h0, h1, h2, h3,
    fmtOf_fmtCode, rndOf_rndCode, ordOf_ordCode, scopeOf_scopeCode, spaceOf_spaceCode, cspaceOf_cspaceCode,
    corModeOf_corModeCode, bit_beq_one, Option.map_some, BitVec.ofNat_toNat, BitVec.setWidth_eq, if_true]

theorem crossOf_crossBits (m : CrossMod) : crossOf (crossBits m) = some m := by
  obtain ⟨f, x, b, y⟩ := m
  have h_f := fmtCode_lt f
  have h_x := x.isLt
  have h_b := bit_lt b
  have h_y := y.isLt
  unfold crossOf crossBits
  have hb : fmtCode f * 256 + x.toNat * 32 + bit b * 16 + y.toNat < 4096 := by omega
  have h0 : (fmtCode f * 256 + x.toNat * 32 + bit b * 16 + y.toNat) / 2 ^ 8 % 2 ^ (11 + 1 - 8) = fmtCode f := by omega
  have h1 : (fmtCode f * 256 + x.toNat * 32 + bit b * 16 + y.toNat) / 2 ^ 5 % 2 ^ (7 + 1 - 5) = x.toNat := by omega
  have h2 : (fmtCode f * 256 + x.toNat * 32 + bit b * 16 + y.toNat) / 2 ^ 4 % 2 ^ (4 + 1 - 4) = bit b := by omega
  have h3 : (fmtCode f * 256 + x.toNat * 32 + bit b * 16 + y.toNat) / 2 ^ 0 % 2 ^ (3 + 1 - 0) = y.toNat := by omega
  simp only [mf_ofNat _ _ _ hb, h0, h1, h2, h3,
    fmtOf_fmtCode, rndOf_rndCode, ordOf_ordCode, scopeOf_scopeCode, spaceOf_spaceCode, cspaceOf_cspaceCode,
    corModeOf_corModeCode, bit_beq_one, Option.map_some, BitVec.ofNat_toNat, BitVec.setWidth_eq, if_true]

theorem localOf_localBits (m : LocalMod) : localOf (localBits m) = some m := by
  obtain ⟨f, x, b, y⟩ := m
  have h_f := spaceCode_lt f
  have h_x := x.isLt
  have h_b := bit_lt b
  have h_y := y.isLt
  unfold localOf localBits
  have hb : spaceCode f * 1024 + x.toNat * 256 + bit b * 128 + y.toNat * 8 < 4096 := by omega
  have h0 : (spaceCode f * 1024 + x.toNat * 256 + bit b * 128 + y.toNat * 8) / 2 ^ 0 % 2 ^ (2 + 1 - 0) = 0 := by omega
  have h1 : (spaceCode f * 1024 + x.toNat * 256 + bit b * 128 + y.toNat * 8) / 2 ^ 10 % 2 ^ (11 + 1 - 10) = spaceCode f := by omega
  have h2 : (spaceCode f * 1024 + x.toNat * 256 + bit b * 128 + y.toNat * 8) / 2 ^ 8 % 2 ^ (9 + 1 - 8) = x.toNat := by omega
  have h3 : (spaceCode f * 1024 + x.toNat * 256 + bit b * 128 + y.toNat * 8) / 2 ^ 7 % 2 ^ (7 + 1 - 7) = bit b := by omega
  have h4 : (spaceCode f * 1024 + x.toNat * 256 + bit b * 128 + y.toNat * 8) / 2 ^ 3 % 2 ^ (6 + 1 - 3) = y.toNat := by omega
  simp only [mf_ofNat _ _ _ hb, h0, h1, h2, h3, h4,
    fmtOf_fmtCode, rndOf_rndCode, ordOf_ordCode, scopeOf_scopeCode, spaceOf_spaceCode, cspaceOf_cspaceCode,
    corModeOf_corModeCode, bit_beq_one, Option.map_some, BitVec.ofNat_toNat, BitVec.setWidth_eq, if_true]

theorem copyOf_copyBits (m : CopyMod) : copyOf (copyBits m) = some m := by
  obtain ⟨b, f, g, x⟩ := m
  have h_b := bit_lt b
  have h_f := cspaceCode_lt f
  have h_g := cspaceCode_lt g
  have h_x := x.isLt
  unfold copyOf copyBits
  have hb : bit b * 2048 + cspaceCode f * 512 + cspaceCode g * 128 + x.toNat * 32 < 4096 := by omega
  have h0 : (bit b * 2048 + cspaceCode f * 512 + cspaceCode g * 128 + x.toNat * 32) / 2 ^ 0 % 2 ^ (4 + 1 - 0) = 0 := by omega
  have h1 : (bit b * 2048 + cspaceCode f * 512 + cspaceCode g * 128 + x.toNat * 32) / 2 ^ 11 % 2 ^ (11 + 1 - 11) = bit b := by omega
  have h2 : (bit b * 2048 + cspaceCode f * 512 + cspaceCode g * 128 + x.toNat * 32) / 2 ^ 9 % 2 ^ (10 + 1 - 9) = cspaceCode f := by omega
  have h3 : (bit b * 2048 + cspaceCode f * 512 + cspaceCode g * 128 + x.toNat * 32) / 2 ^ 7 % 2 ^ (8 + 1 - 7) = cspaceCode g := by omega
  have h4 : (bit b * 2048 + cspaceCode f * 512 + cspaceCode g * 128 + x.toNat * 32) / 2 ^ 5 % 2 ^ (6 + 1 - 5) = x.toNat := by omega
  simp only [mf_ofNat _ _ _ hb, h0, h1, h2, h3, h4,
    fmtOf_fmtCode, rndOf_rndCode, ordOf_ordCode, scopeOf_scopeCode, spaceOf_spaceCode, cspaceOf_cspaceCode,
    corModeOf_corModeCode, bit_beq_one, Option.map_some, BitVec.ofNat_toNat, BitVec.setWidth_eq, if_true]

theorem atomOf_atomBits (m : AtomMod) : atomOf (atomBits m) = some m := by
  obtain ⟨f, x, b, r, c⟩ := m
  have h_f := spaceCode_lt f
  have h_x := x.isLt
  have h_b := bit_lt b
  have h_r := ordCode_lt r
  have h_c := scopeCode_lt c
  unfold atomOf atomBits
  have hb : spaceCode f * 1024 + x.toNat * 64 + bit b * 32 + ordCode r * 8 + scopeCode c < 4096 := by omega
  have h0 : (spaceCode f * 1024 + x.toNat * 64 + bit b * 32 + ordCode r * 8 + scopeCode c) / 2 ^ 0 % 2 ^ (2 + 1 - 0) = scopeCode c := by omega
  have h1 : (spaceCode f * 1024 + x.toNat * 64 + bit b * 32 + ordCode r * 8 + scopeCode c) / 2 ^ 10 % 2 ^ (11 + 1 - 10) = spaceCode f := by omega
  have h2 : (spaceCode f * 1024 + x.toNat * 64 + bit b * 32 + ordCode r * 8 + scopeCode c) / 2 ^ 6 % 2 ^ (9 + 1 - 6) = x.toNat := by omega
  have h3 : (spaceCode f * 1024 + x.toNat * 64 + bit b * 32 + ordCode r * 8 + scopeCode c) / 2 ^ 5 % 2 ^ (5 + 1 - 5) = bit b := by omega
  have h4 : (spaceCode f * 1024 + x.toNat * 64 + bit b * 32 + ordCode r * 8 + scopeCode c) / 2 ^ 3 % 2 ^ (4 + 1 - 3) = ordCode r := by omega
  simp only [mf_ofNat _ _ _ hb, h0, h1, h2, h3, h4,
    fmtOf_fmtCode, rndOf_rndCode, ordOf_ordCode, scopeOf_scopeCode, spaceOf_spaceCode, cspaceOf_cspaceCode,
    corModeOf_corModeCode, bit_beq_one, Option.map_some, BitVec.ofNat_toNat, BitVec.setWidth_eq, if_true]

theorem fenceOf_fenceBits (m : FenceMod) : fenceOf (fenceBits m) = some m := by
  obtain ⟨r, c⟩ := m
  have h_r := ordCode_lt r
  have h_c := scopeCode_lt c
  unfold fenceOf fenceBits
  have hb : ordCode r * 8 + scopeCode c < 4096 := by omega
  have h0 : (ordCode r * 8 + scopeCode c) / 2 ^ 5 % 2 ^ (11 + 1 - 5) = 0 := by omega
  have h1 : (ordCode r * 8 + scopeCode c) / 2 ^ 0 % 2 ^ (2 + 1 - 0) = scopeCode c := by omega
  have h2 : (ordCode r * 8 + scopeCode c) / 2 ^ 3 % 2 ^ (4 + 1 - 3) = ordCode r := by omega
  simp only [mf_ofNat _ _ _ hb, h0, h1, h2,
    fmtOf_fmtCode, rndOf_rndCode, ordOf_ordCode, scopeOf_scopeCode, spaceOf_spaceCode, cspaceOf_cspaceCode,
    corModeOf_corModeCode, bit_beq_one, Option.map_some, BitVec.ofNat_toNat, BitVec.setWidth_eq, if_true]

theorem mmaOf_mmaBits (m : MmaMod) : mmaOf (mmaBits m) = some m := by
  obtain ⟨a, b, c, x⟩ := m
  have h_a := bit_lt a
  have h_b := bit_lt b
  have h_c := bit_lt c
  have h_x := x.isLt
  unfold mmaOf mmaBits
  have hb : bit a * 2048 + bit b * 1024 + bit c * 512 + x.toNat * 128 < 4096 := by omega
  have h0 : (bit a * 2048 + bit b * 1024 + bit c * 512 + x.toNat * 128) / 2 ^ 0 % 2 ^ (6 + 1 - 0) = 0 := by omega
  have h1 : (bit a * 2048 + bit b * 1024 + bit c * 512 + x.toNat * 128) / 2 ^ 11 % 2 ^ (11 + 1 - 11) = bit a := by omega
  have h2 : (bit a * 2048 + bit b * 1024 + bit c * 512 + x.toNat * 128) / 2 ^ 10 % 2 ^ (10 + 1 - 10) = bit b := by omega
  have h3 : (bit a * 2048 + bit b * 1024 + bit c * 512 + x.toNat * 128) / 2 ^ 9 % 2 ^ (9 + 1 - 9) = bit c := by omega
  have h4 : (bit a * 2048 + bit b * 1024 + bit c * 512 + x.toNat * 128) / 2 ^ 7 % 2 ^ (8 + 1 - 7) = x.toNat := by omega
  simp only [mf_ofNat _ _ _ hb, h0, h1, h2, h3, h4,
    fmtOf_fmtCode, rndOf_rndCode, ordOf_ordCode, scopeOf_scopeCode, spaceOf_spaceCode, cspaceOf_cspaceCode,
    corModeOf_corModeCode, bit_beq_one, Option.map_some, BitVec.ofNat_toNat, BitVec.setWidth_eq, if_true]

theorem tileOf_tileBits (m : TileMod) : tileOf (tileBits m) = some m := by
  obtain ⟨f, r, b, c⟩ := m
  have h_f := fmtCode_lt f
  have h_r := rndCode_lt r
  have h_b := bit_lt b
  have h_c := spaceCode_lt c
  unfold tileOf tileBits
  have hb : fmtCode f * 256 + rndCode r * 64 + bit b * 32 + spaceCode c * 8 < 4096 := by omega
  have h0 : (fmtCode f * 256 + rndCode r * 64 + bit b * 32 + spaceCode c * 8) / 2 ^ 0 % 2 ^ (2 + 1 - 0) = 0 := by omega
  have h1 : (fmtCode f * 256 + rndCode r * 64 + bit b * 32 + spaceCode c * 8) / 2 ^ 8 % 2 ^ (11 + 1 - 8) = fmtCode f := by omega
  have h2 : (fmtCode f * 256 + rndCode r * 64 + bit b * 32 + spaceCode c * 8) / 2 ^ 6 % 2 ^ (7 + 1 - 6) = rndCode r := by omega
  have h3 : (fmtCode f * 256 + rndCode r * 64 + bit b * 32 + spaceCode c * 8) / 2 ^ 5 % 2 ^ (5 + 1 - 5) = bit b := by omega
  have h4 : (fmtCode f * 256 + rndCode r * 64 + bit b * 32 + spaceCode c * 8) / 2 ^ 3 % 2 ^ (4 + 1 - 3) = spaceCode c := by omega
  simp only [mf_ofNat _ _ _ hb, h0, h1, h2, h3, h4,
    fmtOf_fmtCode, rndOf_rndCode, ordOf_ordCode, scopeOf_scopeCode, spaceOf_spaceCode, cspaceOf_cspaceCode,
    corModeOf_corModeCode, bit_beq_one, Option.map_some, BitVec.ofNat_toNat, BitVec.setWidth_eq, if_true]

theorem corOf_corBits (m : CorMod) : corOf (corBits m) = some m := by
  obtain ⟨f, x, y, b⟩ := m
  have h_f := corModeCode_lt f
  have h_x := x.isLt
  have h_y := y.isLt
  have h_b := bit_lt b
  unfold corOf corBits
  have hb : corModeCode f * 1024 + x.toNat * 256 + y.toNat * 16 + bit b * 8 < 4096 := by omega
  have h0 : (corModeCode f * 1024 + x.toNat * 256 + y.toNat * 16 + bit b * 8) / 2 ^ 0 % 2 ^ (2 + 1 - 0) = 0 := by omega
  have h1 : (corModeCode f * 1024 + x.toNat * 256 + y.toNat * 16 + bit b * 8) / 2 ^ 10 % 2 ^ (11 + 1 - 10) = corModeCode f := by omega
  have h2 : (corModeCode f * 1024 + x.toNat * 256 + y.toNat * 16 + bit b * 8) / 2 ^ 8 % 2 ^ (9 + 1 - 8) = x.toNat := by omega
  have h3 : (corModeCode f * 1024 + x.toNat * 256 + y.toNat * 16 + bit b * 8) / 2 ^ 4 % 2 ^ (7 + 1 - 4) = y.toNat := by omega
  have h4 : (corModeCode f * 1024 + x.toNat * 256 + y.toNat * 16 + bit b * 8) / 2 ^ 3 % 2 ^ (3 + 1 - 3) = bit b := by omega
  simp only [mf_ofNat _ _ _ hb, h0, h1, h2, h3, h4,
    fmtOf_fmtCode, rndOf_rndCode, ordOf_ordCode, scopeOf_scopeCode, spaceOf_spaceCode, cspaceOf_cspaceCode,
    corModeOf_corModeCode, bit_beq_one, Option.map_some, BitVec.ofNat_toNat, BitVec.setWidth_eq, if_true]

theorem attnOf_attnBits (m : AttnMod) : attnOf (attnBits m) = some m := by
  obtain ⟨b, x⟩ := m
  have h_b := bit_lt b
  have h_x := x.isLt
  unfold attnOf attnBits
  have hb : bit b * 2048 + x.toNat < 4096 := by omega
  have h0 : (bit b * 2048 + x.toNat) / 2 ^ 2 % 2 ^ (10 + 1 - 2) = 0 := by omega
  have h1 : (bit b * 2048 + x.toNat) / 2 ^ 11 % 2 ^ (11 + 1 - 11) = bit b := by omega
  have h2 : (bit b * 2048 + x.toNat) / 2 ^ 0 % 2 ^ (1 + 1 - 0) = x.toNat := by omega
  simp only [mf_ofNat _ _ _ hb, h0, h1, h2,
    fmtOf_fmtCode, rndOf_rndCode, ordOf_ordCode, scopeOf_scopeCode, spaceOf_spaceCode, cspaceOf_cspaceCode,
    corModeOf_corModeCode, bit_beq_one, Option.map_some, BitVec.ofNat_toNat, BitVec.setWidth_eq, if_true]

theorem segOf_segBits (x : Space) : segOf (segBits x) = some x := by cases x <;> rfl
theorem ctlRegOf_ctlRegBits (x : CtlReg) : ctlRegOf (ctlRegBits x) = some x := by cases x <;> rfl
theorem tlbFormOf_tlbFormBits (x : TlbForm) : tlbFormOf (tlbFormBits x) = some x := by cases x <;> rfl

/-- An eight-bit level reads back from a modifier. -/
theorem setWidth_setWidth_lvl (x : BitVec 8) : (x.setWidth 12).setWidth 8 = x := by
  simp

end Sys2Proof.Machine
end

