-- ==== Sys2Proof/Laws/Sparse.lean ====
section
/-! SUPPORT. The laws of finite maps: what a read gives after a change, and that each change keeps the canonical form. -/

namespace Sys2Proof.Machine

variable {α : Type}

/-! ### Reads after changes -/

theorem sfind_sput (m : Sparse α) (k j : Nat) (v : α) : sfind (sput m k v) j = if j = k then some v else sfind m j := by
  induction m with
  | nil => simp [sput, sfind]
  | cons e t ih =>
    obtain ⟨k', v'⟩ := e
    simp only [sput]
    split
    · simp [sfind]
    · split
      · rename_i h; subst h
        by_cases hj : j = k <;> simp [sfind, hj]
      · rename_i h1 h2
        by_cases hj : j = k'
        · subst hj
          have : j ≠ k := fun h => h2 h.symm
          simp [sfind, this]
        · simp [sfind, hj, ih]

@[simp] theorem sfind_sput_same (m : Sparse α) (k : Nat) (v : α) : sfind (sput m k v) k = some v := by simp [sfind_sput]

theorem sfind_filter (m : Sparse α) (p : Nat → Bool) (k : Nat) :
    sfind (m.filter fun e => p e.1) k = if p k then sfind m k else none := by
  induction m with
  | nil => simp [sfind]
  | cons e t ih =>
    obtain ⟨k', v'⟩ := e
    by_cases hp : p k' <;> by_cases hk : k = k'
    · subst hk; simp [sfind, hp]
    · simp [sfind, hp, hk, ih]
    · subst hk; simp [hp, ih]
    · simp [sfind, hp, hk, ih]

theorem sfind_sdel (m : Sparse α) (k j : Nat) : sfind (sdel m k) j = if j = k then none else sfind m j := by
  have := sfind_filter m (fun i => decide (i ≠ k)) j
  by_cases h : j = k <;> simp_all [sdel]

@[simp] theorem sfind_nil (k : Nat) : sfind ([] : Sparse α) k = none := rfl

@[simp] theorem sget_nil (d : α) (k : Nat) : sget d [] k = d := rfl

theorem sget_sput (d : α) (m : Sparse α) (k j : Nat) (v : α) : sget d (sput m k v) j = if j = k then v else sget d m j := by
  by_cases h : j = k <;> simp [sget, sfind_sput, h]

/-- A read after a write: the value written, and every other place as it was. -/
theorem sget_sset [DecidableEq α] (d : α) (m : Sparse α) (k j : Nat) (v : α) :
    sget d (sset d m k v) j = if j = k then v else sget d m j := by
  unfold sset
  by_cases hv : v = d
  · by_cases h : j = k <;> simp [hv, sget, sfind_sdel, h]
  · simp [hv, sget_sput]

theorem sget_sclear (d : α) (m : Sparse α) (lo n j : Nat) :
    sget d (sclear m lo n) j = if lo ≤ j ∧ j < lo + n then d else sget d m j := by
  have := sfind_filter m (fun i => decide (i < lo ∨ lo + n ≤ i)) j
  unfold sclear sget
  rw [show (m.filter fun e => decide (e.1 < lo ∨ lo + n ≤ e.1)) = m.filter fun e => (fun i => decide (i < lo ∨ lo + n ≤ i)) e.1
    from rfl, this]
  by_cases h : lo ≤ j ∧ j < lo + n
  · have : ¬ (j < lo ∨ lo + n ≤ j) := by omega
    simp [this, h]
  · have : j < lo ∨ lo + n ≤ j := by omega
    simp [this, h]

theorem sfind_supd (m : Sparse α) (k j : Nat) (f : α → α) :
    sfind (supd m k f) j = if j = k then (sfind m j).map f else sfind m j := by
  induction m with
  | nil => simp [supd]
  | cons e t ih =>
    obtain ⟨k', v'⟩ := e
    simp only [supd, List.map_cons] at ih ⊢
    by_cases hk : k' = k
    · subst hk
      by_cases hj : j = k' <;> simp [sfind, hj, ih]
    · by_cases hj : j = k'
      · subst hj; simp [sfind, hk]
      · simp [sfind, hk, hj, ih]

/-- A write repeated over a list of distinct places. -/
theorem sget_foldl_sset [DecidableEq α] {β : Type} (d : α) (l : List β) (key : β → Nat) (val : β → α) (m : Sparse α) (j : Nat)
    (hl : (l.map key).Nodup) :
    sget d (l.foldl (fun m b => sset d m (key b) (val b)) m) j
      = match l.find? fun b => key b = j with | some b => val b | none => sget d m j := by
  induction l generalizing m with
  | nil => simp
  | cons b t ih =>
    rw [List.map_cons, List.nodup_cons] at hl
    rw [List.foldl_cons, ih _ hl.2]
    by_cases h : key b = j
    · have hn : (t.find? fun b => decide (key b = j)) = none := by
        rw [List.find?_eq_none]
        intro x hx
        simp only [decide_eq_true_eq]
        intro hxj
        exact hl.1 (List.mem_map.mpr ⟨x, hx, hxj.trans h.symm⟩)
      simp [h, hn, sget_sset]
    · have : j ≠ key b := fun e => h e.symm
      simp [h, sget_sset, this]

/-! ### The canonical form -/

/-- Every key of the map is above a bound. -/
def above (b : Nat) (m : Sparse α) : Prop := ∀ e ∈ m, b < e.1

theorem skeysRise_cons (e : Nat × α) (m : Sparse α) : skeysRise (e :: m) = true ↔ above e.1 m ∧ skeysRise m = true := by
  induction m generalizing e with
  | nil => simp [skeysRise, above]
  | cons a t ih =>
    simp only [skeysRise, Bool.and_eq_true, decide_eq_true_eq]
    constructor
    · rintro ⟨h, hr⟩
      refine ⟨?_, hr⟩
      intro x hx
      rcases List.mem_cons.mp hx with rfl | hx
      · exact h
      · exact lt_trans h (((ih a).mp hr).1 x hx)
    · rintro ⟨h, hr⟩
      exact ⟨h a (by simp), hr⟩

theorem skeysRise_filter (m : Sparse α) (p : Nat × α → Bool) (h : skeysRise m = true) : skeysRise (m.filter p) = true := by
  induction m with
  | nil => simpa using h
  | cons e t ih =>
    rw [skeysRise_cons] at h
    by_cases hp : p e
    · rw [List.filter_cons_of_pos hp, skeysRise_cons]
      exact ⟨fun x hx => h.1 x (List.mem_filter.mp hx).1, ih h.2⟩
    · rw [List.filter_cons_of_neg hp]; exact ih h.2

theorem above_sput (b : Nat) (m : Sparse α) (k : Nat) (v : α) (hm : above b m) (hk : b < k) : above b (sput m k v) := by
  induction m with
  | nil => intro e he; simp [sput] at he; subst he; exact hk
  | cons a t ih =>
    obtain ⟨k', v'⟩ := a
    have ht : above b t := fun e he => hm e (List.mem_cons_of_mem _ he)
    have ha : b < k' := hm (k', v') (by simp)
    intro e he
    simp only [sput] at he
    split at he
    · rcases List.mem_cons.mp he with rfl | he
      · exact hk
      · exact hm e he
    · split at he
      · rcases List.mem_cons.mp he with rfl | he
        · exact hk
        · exact ht e he
      · rcases List.mem_cons.mp he with rfl | he
        · exact ha
        · exact ih ht e he

theorem skeysRise_sput (m : Sparse α) (k : Nat) (v : α) (h : skeysRise m = true) : skeysRise (sput m k v) = true := by
  induction m with
  | nil => simp [sput, skeysRise]
  | cons a t ih =>
    obtain ⟨k', v'⟩ := a
    have hc := (skeysRise_cons _ _).mp h
    simp only [sput]
    split
    · rename_i hlt
      rw [skeysRise_cons]
      refine ⟨?_, h⟩
      intro e he
      rcases List.mem_cons.mp he with rfl | he
      · exact hlt
      · exact lt_trans hlt (hc.1 e he)
    · split
      · rename_i he; subst he
        rw [skeysRise_cons]; exact ⟨hc.1, hc.2⟩
      · rename_i h1 h2
        rw [skeysRise_cons]
        exact ⟨above_sput k' t k v hc.1 (by omega), ih hc.2⟩

theorem swf_iff [DecidableEq α] (d : α) (m : Sparse α) : swf d m = true ↔ skeysRise m = true ∧ ∀ e ∈ m, e.2 ≠ d := by
  simp [swf]

theorem mem_sput (m : Sparse α) (k : Nat) (v : α) (e : Nat × α) (h : e ∈ sput m k v) : e = (k, v) ∨ e ∈ m := by
  induction m with
  | nil => simpa [sput] using h
  | cons a t ih =>
    obtain ⟨k', v'⟩ := a
    simp only [sput] at h
    split at h
    · simpa using h
    · split at h
      · rcases List.mem_cons.mp h with h | h
        · exact .inl h
        · exact .inr (List.mem_cons_of_mem _ h)
      · rcases List.mem_cons.mp h with h | h
        · exact .inr (by simp [h])
        · exact (ih h).imp id (List.mem_cons_of_mem _)

theorem swf_sput [DecidableEq α] (d : α) (m : Sparse α) (k : Nat) (v : α) (hv : v ≠ d) (h : swf d m = true) :
    swf d (sput m k v) = true := by
  rw [swf_iff] at *
  refine ⟨skeysRise_sput m k v h.1, fun e he => ?_⟩
  rcases mem_sput m k v e he with rfl | he
  · exact hv
  · exact h.2 e he

theorem swf_filter [DecidableEq α] (d : α) (m : Sparse α) (p : Nat × α → Bool) (h : swf d m = true) :
    swf d (m.filter p) = true := by
  rw [swf_iff] at *
  exact ⟨skeysRise_filter m p h.1, fun e he => h.2 e (List.mem_filter.mp he).1⟩

theorem swf_sdel [DecidableEq α] (d : α) (m : Sparse α) (k : Nat) (h : swf d m = true) : swf d (sdel m k) = true :=
  swf_filter d m _ h

theorem swf_sset [DecidableEq α] (d : α) (m : Sparse α) (k : Nat) (v : α) (h : swf d m = true) :
    swf d (sset d m k v) = true := by
  unfold sset
  split
  · exact swf_sdel d m k h
  · exact swf_sput d m k v ‹_› h

theorem swf_sclear [DecidableEq α] (d : α) (m : Sparse α) (lo n : Nat) (h : swf d m = true) : swf d (sclear m lo n) = true :=
  swf_filter d m _ h

/-- A fold of changes that each keep a property keeps it. -/
theorem foldl_keeps {σ β : Type} (P : σ → Prop) (f : σ → β → σ) (l : List β) (s : σ) (hs : P s)
    (hf : ∀ s b, P s → P (f s b)) : P (l.foldl f s) := by
  induction l generalizing s with
  | nil => exact hs
  | cons b t ih => exact ih _ (hf s b hs)

end Sys2Proof.Machine
end

