-- ==== Sys2Proof/Laws/Ops.lean ====
section
/-! SUPPORT. The laws of registers and flags: what each read gives after each write. -/

namespace Sys2Proof.Machine

/-! ### Uniform registers -/

@[simp] theorem Group.readS_writeS (g : Group) (n m : Nat) (x : Word) :
    (g.writeS n x).readS m = if m = n then x else g.readS m := sget_sset _ _ _ _ _

@[simp] theorem Group.readA_writeA (g : Group) (n m : Nat) (x : DWord) :
    (g.writeA n x).readA m = if m = n then x else g.readA m := sget_sset _ _ _ _ _

@[simp] theorem Group.readEta_writeEta (g : Group) (n m : Nat) (x : Word) :
    (g.writeEta n x).readEta m = if m = n then x else g.readEta m := sget_sset _ _ _ _ _

/-! ### Vector registers -/

/-- A lane of a vector register after a write in the lanes of a mask (R97, R98). -/
theorem Group.readV_writeV (g : Group) (n : Nat) (k : LaneMask) (f : Nat → Word) (m l : Nat) (hl : l < 64) :
    (g.writeV n k f).readV m l = if m = n ∧ k.getLsbD l = true then f l else g.readV m l := by
  have hnd : ((maskLanes k).map fun l => n * 64 + l).Nodup := by
    refine (maskLanes_nodup k).map ?_
    intro a b hab
    simpa using hab
  unfold Group.writeV Group.readV
  rw [sget_foldl_sset 0 (maskLanes k) (fun l => n * 64 + l) f g.v (m * 64 + l) hnd]
  by_cases h : m = n ∧ k.getLsbD l = true
  · rw [if_pos h]
    have hmem : l ∈ maskLanes k := (mem_maskLanes k l).mpr ⟨hl, h.2⟩
    have : ∃ y, (maskLanes k).find? (fun b => decide (n * 64 + b = m * 64 + l)) = some y := by
      rw [← Option.isSome_iff_exists, List.find?_isSome]
      exact ⟨l, hmem, by simp [h.1]⟩
    obtain ⟨y, hy⟩ := this
    have hp := List.find?_some hy
    have : y = l := by
      have := h.1
      simp only [decide_eq_true_eq] at hp
      omega
    rw [hy, this]
  · rw [if_neg h]
    have : (maskLanes k).find? (fun b => decide (n * 64 + b = m * 64 + l)) = none := by
      rw [List.find?_eq_none]
      intro b hb
      have hb' := (mem_maskLanes k b).mp hb
      simp only [decide_eq_true_eq]
      intro he
      have h1 : n = m := by omega
      have h2 : b = l := by omega
      exact h ⟨h1.symm, h2 ▸ hb'.2⟩
    rw [this]

/-! ### Predicates -/

@[simp] theorem Group.readP_seven (g : Group) : g.readP 7 = BitVec.allOnes 64 := rfl

/-- A predicate after a write in the lanes of a mask: a write to `p7` is discarded (R43). -/
theorem Group.readP_writeP (g : Group) (n : Nat) (k x : LaneMask) (m l : Nat) :
    ((g.writeP n k x).readP m).getLsbD l
      = if m = n ∧ n ≠ 7 ∧ k.getLsbD l = true then x.getLsbD l else (g.readP m).getLsbD l := by
  unfold Group.writeP Group.readP
  by_cases h7 : n = 7
  · simp [h7]
  · by_cases hm : m = 7
    · simp [hm, h7]
      omega
    · by_cases hmn : m = n
      · subst hmn
        simp only [h7, if_false, sget_sset, if_true, BitVec.getLsbD_or, BitVec.getLsbD_and, BitVec.getLsbD_not]
        by_cases hl : l < 64
        · cases hk : k.getLsbD l <;> simp [h7, hl]
        · simp [BitVec.getLsbD_of_ge _ _ (Nat.le_of_not_lt hl)]
      · simp [h7, hm, hmn, sget_sset]

/-! ### Flags -/

theorem sget_flagFold (m : BitVec 12) (f : Nat → Nat) (l : List Nat) (fl : Sparse Nat) (j : Nat) (hl : l.Nodup) :
    sget 0 (l.foldl (fun fl n => if m.getLsbD n then sset 0 fl n (f (sget 0 fl n)) else fl) fl) j
      = if j ∈ l ∧ m.getLsbD j = true then f (sget 0 fl j) else sget 0 fl j := by
  induction l generalizing fl with
  | nil => simp
  | cons a t ih =>
    rw [List.nodup_cons] at hl
    rw [List.foldl_cons, ih _ hl.2]
    by_cases ha : m.getLsbD a = true
    · by_cases hj : j = a
      · subst hj; simp [ha, hl.1, sget_sset]
      · simp [ha, sget_sset, hj]
    · by_cases hj : j = a
      · subst hj; simp [ha]
      · simp [ha, hj]

/-- A flag's count after an operation raised the flags of a mask (R21). -/
theorem Group.flagCount_raise (g : Group) (m : BitVec 12) (n : Nat) (hn : n < 12) :
    (g.raise m).flagCount n = if m.getLsbD n = true then min 63 (g.flagCount n + 1) else g.flagCount n := by
  have := sget_flagFold m (fun x => min 63 (x + 1)) (List.range 12) g.flags n List.nodup_range
  simpa [Group.raise, Group.flagCount, hn] using this

/-- A flag's count after an operation lowered the flags of a mask (R21). -/
theorem Group.flagCount_lower (g : Group) (m : BitVec 12) (n : Nat) (hn : n < 12) :
    (g.lower m).flagCount n = if m.getLsbD n = true then g.flagCount n - 1 else g.flagCount n := by
  have := sget_flagFold m (fun x => x - 1) (List.range 12) g.flags n List.nodup_range
  simpa [Group.lower, Group.flagCount, hn] using this

/-! ### The issuing slot -/

@[simp] theorem Group.slot_setSlot (g : Group) (p : PcSlot) : (g.setSlot p).slot = p := by
  unfold Group.setSlot Group.slot; split <;> simp [*]

@[simp] theorem Group.otherSlot_setSlot (g : Group) (p : PcSlot) : (g.setSlot p).otherSlot = g.otherSlot := by
  unfold Group.setSlot Group.otherSlot; split <;> simp [*]

/-! ### Where a result goes (R98) -/

/-- A 32-bit result changes one register file of the issuing group, and nothing else of the state. -/
theorem writeResult_state (s : State) (o : Fields) (f : Nat → Word) :
    writeResult s o f = { s with cur := { s.cur with v := (writeResult s o f).cur.v, s := (writeResult s o f).cur.s,
                                                     p := (writeResult s o f).cur.p, eta := (writeResult s o f).cur.eta } } := by
  unfold writeResult
  split
  · rfl
  · split <;> rfl
  · split <;> rfl
  · simp only [State.modCur, Group.writeP]; split <;> rfl
  · rfl

end Sys2Proof.Machine
end

