-- ==== Sys2Proof/Laws/Lanes.lean ====
section
/-! SUPPORT. What the shared operations of the lane instructions do: `laneStep`, `writeAddr` and `advance`. -/

namespace Sys2Proof.Machine

/-- An instruction whose meaning is a lane step puts its value where `Lands` says (R98, R130). -/
theorem lands_of_laneStep {i : Instr} {o : Fields} {s : State} {f : Nat → Word} (h : exec i s = laneStep s o f) :
    Lands i o s f := by
  refine ⟨(writeResult s o f).cur, ?_, ?_⟩
  · rw [h, laneStep]
    congr 2
    exact writeResult_state s o f ▸ rfl
  · unfold writeResult
    cases o.d with
    | v n => exact ⟨rfl, fun m l hl => Group.readV_writeV _ _ _ _ _ _ hl⟩
    | s n =>
      dsimp only
      split
      · exact ⟨rfl, fun m => by simp [State.modCur, *]⟩
      · exact ⟨rfl, fun m => by simp [*]⟩
    | eta n =>
      dsimp only
      split
      · exact ⟨rfl, fun m => by simp [State.modCur, *]⟩
      · exact ⟨rfl, fun m => by simp [*]⟩
    | p n =>
      refine ⟨?_, fun m l hl => ?_⟩
      · simp only [State.modCur, Group.writeP]; split <;> rfl
      · dsimp only [State.modCur]
        rw [Group.readP_writeP, laneSet_getLsbD]
        simp [hl]
    | _ => rfl

/-- A lane step on equal values is the same step. -/
theorem Lands.congr {i : Instr} {o : Fields} {s : State} {f g : Nat → Word} (h : Lands i o s f) (e : ∀ l, f l = g l) :
    Lands i o s g := (funext e : f = g) ▸ h

/-- An instruction whose meaning is the write of an address register puts its value where `LandsAddr` says (R42). -/
theorem landsAddr_of_writeAddr {i : Instr} {o : Fields} {s : State} {x : DWord}
    (h : exec i s = .next (writeAddr s o x).advance) : LandsAddr i o s x := by
  refine ⟨(writeAddr s o x).cur, ?_, ?_⟩
  · rw [h]
    congr 2
    unfold writeAddr
    split
    · split <;> rfl
    · rfl
  · unfold writeAddr
    cases o.d with
    | a n =>
      dsimp only
      split
      · exact ⟨rfl, fun m => by simp [State.modCur, *]⟩
      · exact ⟨rfl, fun m => by simp [*]⟩
    | _ => rfl

/-- Within a line the slot goes on to the next slot of the line, and nothing else changes but its stall reason (R130). -/
theorem advance_within {s : State} (h : pcSlot s.cur.pc < 4) :
    s.advance = { s with cur := { s.cur.setSlot { s.cur.slot with pc := nextPoint s.cur.pc } with stall := none } } := by
  simp [State.advance, h, State.modCur]

/-- At the end of a line the clause is over and the slot stands at the next line's entry (R25, R130). -/
theorem advance_end {s : State} (h : ¬ pcSlot s.cur.pc < 4) : s.advance = s.enterLine (nextPoint s.cur.pc) := by
  simp [State.advance, h]

end Sys2Proof.Machine
end

