-- ==== Sys2Proof/Laws/Memory.lean ====
section
/-! SUPPORT. The laws of memory: a read after a store, and that every operation on memory keeps its canonical form. -/

namespace Sys2Proof.Machine

/-! ### Stores -/

/-- A byte that a store does not name reads as before. -/
theorem sget_storeAt_other (m : Mem) (ls : List Nat) (b : Bytes) (a : Nat) (h : a ∉ ls) :
    sget 0 (storeAt m ls b) a = sget 0 m a := by
  induction ls generalizing m b with
  | nil => cases b <;> rfl
  | cons l t ih =>
    cases b with
    | nil => rfl
    | cons x bs =>
      rw [List.mem_cons, not_or] at h
      rw [storeAt, ih _ _ h.2, sget_sset, if_neg h.1]

/-- Bytes stored at distinct places and read back. -/
theorem map_sget_storeAt (m : Mem) (ls : List Nat) (b : Bytes) (hn : ls.Nodup) (hl : ls.length = b.length) :
    ls.map (fun l => sget 0 (storeAt m ls b) l) = b := by
  induction ls generalizing m b with
  | nil => cases b with
    | nil => rfl
    | cons _ _ => simp at hl
  | cons l t ih =>
    cases b with
    | nil => simp at hl
    | cons x bs =>
      rw [List.nodup_cons] at hn
      simp only [List.map_cons, storeAt]
      rw [sget_storeAt_other _ _ _ _ hn.1, sget_sset, if_pos rfl, ih _ _ hn.2 (by simpa using hl)]

/-! ### The canonical form -/

theorem swf_storeAt (m : Mem) (ls : List Nat) (b : Bytes) (h : swf 0 m = true) : swf 0 (storeAt m ls b) = true := by
  induction ls generalizing m b with
  | nil => cases b <;> exact h
  | cons l t ih =>
    cases b with
    | nil => exact h
    | cons x bs => exact ih _ _ (swf_sset 0 m l x h)

theorem swf_clearCovered (u : Nat) (p : Sparse Bool) (ls : List Nat) (h : swf false p = true) :
    swf false (clearCovered u p ls) = true := by
  unfold clearCovered
  split
  · exact h
  · refine foldl_keeps (fun p => swf false p = true) _ _ _ h fun p x hp => ?_
    split
    · exact swf_sdel _ _ _ hp
    · exact hp

theorem swf_putTrue (p : Sparse Bool) (l : List Nat) (h : swf false p = true) :
    swf false (l.foldl (fun p u => sput p u true) p) = true :=
  foldl_keeps (fun p => swf false p = true) _ _ _ h fun p _ hp => swf_sput _ _ _ _ (by decide) hp

theorem swf_putBack {α : Type} [DecidableEq α] (d : α) (m : Sparse α) (lo : Nat) (l : Sparse α) (h : swf d m = true) :
    swf d (putBack d m lo l) = true :=
  foldl_keeps (fun m => swf d m = true) _ _ _ h fun _ _ hm => swf_sset _ _ _ _ hm

theorem Memories.wf_iff {m : Memories} :
    m.wf = true ↔ swf 0 m.hbm = true ∧ swf 0 m.shared = true ∧ swf 0 m.yard = true ∧ swf false m.hbmPsn = true
      ∧ swf false m.sharedPsn = true ∧ swf false m.yardPsn = true ∧ skeysRise m.matrix = true ∧ skeysRise m.held = true
      ∧ skeysRise m.rbuf = true := by
  simp [Memories.wf, and_assoc]

theorem Memories.wf_reset : Memories.reset.wf = true := by decide

/-- Memory stands in its canonical form. -/
abbrev State.memOk (s : State) : Prop := s.mem.wf = true

variable {s : State}

theorem modGroup_mem (gid : Nat) (f : Group → Group) : (s.modGroup gid f).mem = s.mem := by
  unfold State.modGroup; dsimp only; split
  · rfl
  · split <;> rfl

theorem foldl_mem {β : Type} (f : State → β → State) (l : List β) (s : State) (hf : ∀ s b, (f s b).mem = s.mem) :
    (l.foldl f s).mem = s.mem := by
  induction l generalizing s with
  | nil => rfl
  | cons b t ih => rw [List.foldl_cons, ih, hf]

theorem endOp_mem (id : Nat) : (s.endOp id).mem = s.mem := by
  unfold State.endOp
  split
  · rfl
  · dsimp only
    refine (foldl_mem _ _ _ ?_).trans (modGroup_mem _ _)
    exact fun _ _ => rfl

theorem endWait_mem (id code : Nat) : (s.endWait id code).mem = s.mem := by
  unfold State.endWait
  split
  · split
    · exact endOp_mem id
    · rfl
  · rfl

theorem memOk_filterRbuf (p : Nat × BitVec 512 × Bool → Bool) (h : s.memOk) :
    ({ s with mem := { s.mem with rbuf := s.mem.rbuf.filter p } } : State).memOk := by
  rw [State.memOk, Memories.wf_iff] at *
  obtain ⟨a, b, c, d, e, f, g, hh, i⟩ := h
  exact ⟨a, b, c, d, e, f, g, hh, skeysRise_filter _ _ i⟩

theorem memOk_dropStale (h : s.memOk) : s.dropStale.memOk := memOk_filterRbuf _ h
theorem memOk_dropDie (die : Nat) (h : s.memOk) : (s.dropDie die).memOk := memOk_filterRbuf _ h
theorem memOk_dropLines (p : Nat → Bool) (l : List Nat) (h : s.memOk) : (s.dropLines p l).memOk := memOk_filterRbuf _ h

/-- The release half of an order keeps the canonical form. -/
theorem memOk_releaseAt (ord : Ord) (scope : Scope) (h : s.memOk) : (s.releaseAt ord scope).memOk := by
  unfold State.releaseAt
  dsimp only
  split
  · split
    · exact memOk_dropStale h
    · exact memOk_dropStale h
  · exact h

/-- The acquire half of an order keeps the canonical form. -/
theorem memOk_acquireAt (ord : Ord) (scope : Scope) (die : Nat) (h : s.memOk) : (s.acquireAt ord scope die).memOk := by
  unfold State.acquireAt
  split
  · exact memOk_dropDie die h
  · exact h

/-- An order on the read buffers keeps the canonical form. -/
theorem memOk_order (ord : Ord) (scope : Scope) (die : Nat) (h : s.memOk) : (s.order ord scope die).memOk :=
  memOk_acquireAt _ _ _ (memOk_releaseAt _ _ h)

theorem memOk_wakeWaiter (e : MonEntry) (h : s.memOk) : (s.wakeWaiter e).memOk := by
  unfold State.wakeWaiter
  split
  · split
    · rw [State.memOk, endWait_mem]
      exact memOk_acquireAt _ _ _ h
    · exact h
  · exact h

/-- The wake of waiters keeps the canonical form. -/
theorem memOk_wakeRange (sp : Space) (unit lo len : Nat) (h : s.memOk) : (s.wakeRange sp unit lo len).memOk := by
  unfold State.wakeRange
  split
  · exact h
  · refine foldl_keeps State.memOk _ _ _ h fun s b h => ?_
    unfold State.wakeBlock
    dsimp only
    split
    · exact h
    · refine foldl_keeps State.memOk _ _ _ ?_ fun _ e hs => memOk_wakeWaiter e hs
      split
      · exact memOk_dropLines _ _ h
      · exact h

theorem pump_mem (n : Nat) (s : State) : (s.pump n).mem = s.mem := by
  induction n generalizing s with
  | zero => rfl
  | succ n ih =>
    unfold State.pump
    dsimp only
    split
    · rfl
    · exact ih _

theorem burstsOf_mem (n : Nat) : (s.burstsOf n).mem = s.mem := pump_mem _ _

/-- Bursts sent over the fabric change no memory of this device. -/
theorem sendBursts_mem (ag : Agent) (write : Bool) (pa n : Nat) : (s.sendBursts ag write pa n).mem = s.mem := by
  unfold State.sendBursts
  split
  · dsimp only
    rw [burstsOf_mem]
    split
    · split <;> rfl
    · rfl
  · rfl

theorem memOk_sendBursts (ag : Agent) (write : Bool) (pa n : Nat) (h : s.memOk) : (s.sendBursts ag write pa n).memOk := by
  rw [State.memOk, sendBursts_mem]; exact h

theorem memOk_promote (ag : Agent) (pa n : Nat) (h : s.memOk) : (s.promote ag pa n).memOk := by
  unfold State.promote
  dsimp only
  split
  · exact h
  · split
    · refine memOk_dropStale ?_
      rw [State.memOk, Memories.wf_iff] at *
      obtain ⟨a, b, c, d, e, f, g, hh, i⟩ := h
      exact ⟨a, b, c, d, e, f, g, skeysRise_filter _ _ hh, i⟩
    · exact h

theorem memOk_transformRow (row attr : Nat) (d : SweepDesc) (h : s.memOk) : (transformRow s row attr d).memOk := by
  have key : ∀ hbm, swf 0 hbm = true → ({ s with mem := { s.mem with hbm := hbm } } : State).memOk := by
    intro hbm hm
    rw [State.memOk, Memories.wf_iff] at *
    obtain ⟨a, b, c, d, e, f, g, hh, i⟩ := h
    exact ⟨hm, b, c, d, e, f, g, hh, i⟩
  unfold transformRow
  dsimp only
  split
  · refine key _ ?_
    exact foldl_keeps (fun m => swf 0 m = true) _ _ _ (Memories.wf_iff.1 h).1 fun m _ hm => swf_sset _ _ _ _ hm
  · refine memOk_filterRbuf _ (key _ ?_)
    exact foldl_keeps (fun m => swf 0 m = true) _ _ _ (Memories.wf_iff.1 h).1 fun m _ hm => swf_sset _ _ _ _ hm

theorem memOk_applyReg (key : Nat) (r : SweepReg) (row : Nat) (h : s.memOk) : (applyReg s key r row).memOk := by
  unfold applyReg State.memOk
  dsimp only
  split
  · exact h
  · exact memOk_transformRow row _ r.desc h

theorem memOk_touchRow (row : Nat) (h : s.memOk) : (touchRow s row).memOk :=
  foldl_keeps State.memOk _ _ _ h fun _ _ hs => memOk_applyReg _ _ _ hs

theorem memOk_refreshRow (row : Nat) (h : s.memOk) : (refreshRow s row).memOk :=
  foldl_keeps State.memOk _ _ _ h fun _ _ hs => memOk_applyReg _ _ _ hs

theorem memOk_touchRows (rows : List Nat) (h : s.memOk) : (touchRows s rows).memOk := by
  unfold touchRows
  split
  · exact h
  · exact foldl_keeps State.memOk _ _ _ h fun _ _ hs => memOk_touchRow _ hs

theorem memOk_noteShut (locs : List Nat) (h : s.memOk) : (s.noteShut locs).memOk := by
  unfold State.noteShut
  split
  · exact h
  · exact h

theorem memOk_activate (locs : List Nat) (h : s.memOk) : (s.activate locs).memOk := by
  unfold State.activate
  dsimp only
  split
  · exact memOk_noteShut _ h
  · exact memOk_touchRows _ (memOk_noteShut _ h)

theorem memOk_fillRbuf (die line : Nat) (h : s.memOk) : (s.fillRbuf die line).memOk := by
  unfold State.fillRbuf
  split
  · exact h
  · rw [State.memOk, Memories.wf_iff] at *
    obtain ⟨a, b, c, d, e, f, g, hh, i⟩ := h
    exact ⟨a, b, c, d, e, f, g, hh, skeysRise_sput _ _ _ i⟩

/-- A read of device memory keeps the canonical form. -/
theorem memOk_readPa (ag : Agent) (attr pa n : Nat) (h : s.memOk) : (s.readPa ag attr pa n).2.memOk := by
  unfold State.readPa
  dsimp only
  split
  · exact foldl_keeps State.memOk _ _ _ (memOk_activate _ (memOk_promote _ _ _ (memOk_sendBursts _ _ _ _ h)))
      fun _ _ hs => memOk_fillRbuf _ _ hs
  · exact memOk_dropLines _ _ (memOk_activate _ (memOk_promote _ _ _ (memOk_sendBursts _ _ _ _ h)))

theorem memOk_writeFrame (ag : Agent) (attr pa : Nat) (b : Bytes) (h : s.memOk) : (s.writeFrame ag attr pa b).memOk := by
  unfold State.writeFrame
  dsimp only
  have hs := memOk_promote ag pa b.length h
  generalize s.promote ag pa b.length = t at hs ⊢
  have ha := memOk_activate (t.locs pa b.length) hs
  generalize t.locs pa b.length = ls at ha ⊢
  generalize t.activate ls = u at ha ⊢
  apply memOk_wakeRange
  apply memOk_dropLines
  rw [State.memOk, Memories.wf_iff] at *
  obtain ⟨a, b, c, d, e, f, g, hh, i⟩ := ha
  exact ⟨swf_storeAt _ _ _ a, b, c, swf_clearCovered _ _ _ d, e, f, g, hh, i⟩

theorem memOk_writeFrames (ag : Agent) (attr pa : Nat) (b : Bytes) (l : List Nat) (h : s.memOk) :
    (l.foldl (fun s d => s.writeFrame ag attr (pa + 3 * d * Config.regionBytes) b) s).memOk := by
  induction l generalizing s with
  | nil => exact h
  | cons d t ih => rw [List.foldl_cons]; exact ih (memOk_writeFrame _ _ _ _ h)

/-- A write of device memory keeps the canonical form. -/
theorem memOk_writePa (ag : Agent) (attr pa : Nat) (b : Bytes) (h : s.memOk) : (s.writePa ag attr pa b).memOk := by
  unfold State.writePa
  have hs := memOk_sendBursts ag true pa b.length h
  dsimp only
  split
  · exact memOk_writeFrames _ _ _ b _ hs
  · exact memOk_writeFrame _ _ _ b hs

theorem memOk_poisonPa (attr pa n : Nat) (h : s.memOk) : (s.poisonPa attr pa n).memOk := by
  have one (s : State) (pa : Nat) (h : s.memOk) : ({ s with mem := { s.mem with
        hbmPsn := ((s.locs pa n).map (· / 64)).eraseDups.foldl (fun p l => sput p l true) s.mem.hbmPsn } } : State).memOk := by
    rw [State.memOk, Memories.wf_iff] at *
    obtain ⟨a, b, c, d, e, f, g, hh, i⟩ := h
    exact ⟨a, b, c, swf_putTrue _ _ d, e, f, g, hh, i⟩
  unfold State.poisonPa
  dsimp only
  split
  · exact foldl_keeps State.memOk _ _ _ h fun _ _ hs => one _ _ hs
  · exact one _ _ h

/-- A write of a core's memory or of a Yard keeps the canonical form. -/
theorem memOk_writeLocal (sp : Space) (unit off : Nat) (b : Bytes) (h : s.memOk) : (s.writeLocal sp unit off b).memOk := by
  unfold State.writeLocal
  dsimp only
  split <;> refine memOk_wakeRange _ _ _ _ ?_ <;> rw [State.memOk, Memories.wf_iff] at * <;>
    obtain ⟨a, b', c, d, e, f, g, hh, i⟩ := h
  · exact ⟨a, swf_storeAt _ _ _ b', c, d, swf_clearCovered _ _ _ e, f, g, hh, i⟩
  · exact ⟨a, b', swf_storeAt _ _ _ c, d, e, swf_clearCovered _ _ _ f, g, hh, i⟩

theorem memOk_poisonLocal (sp : Space) (unit off n : Nat) (h : s.memOk) : (s.poisonLocal sp unit off n).memOk := by
  rw [State.memOk, Memories.wf_iff] at h
  obtain ⟨a, b, c, d, e, f, g, hh, i⟩ := h
  unfold State.poisonLocal
  dsimp only
  split <;> rw [State.memOk, Memories.wf_iff]
  · exact ⟨a, b, c, d, swf_putTrue _ _ e, f, g, hh, i⟩
  · exact ⟨a, b, c, d, e, swf_putTrue _ _ f, g, hh, i⟩

theorem memOk_clearShared (core base n : Nat) (h : s.memOk) : (s.clearShared core base n).memOk := by
  rw [State.memOk, Memories.wf_iff] at *
  obtain ⟨a, b, c, d, e, f, g, hh, i⟩ := h
  exact ⟨a, swf_sclear _ _ _ _ b, c, d, swf_sclear _ _ _ _ e, f, g, hh, i⟩

theorem memOk_clearYard (die base n : Nat) (h : s.memOk) : (s.clearYard die base n).memOk := by
  rw [State.memOk, Memories.wf_iff] at *
  obtain ⟨a, b, c, d, e, f, g, hh, i⟩ := h
  exact ⟨a, b, swf_sclear _ _ _ _ c, d, e, swf_sclear _ _ _ _ f, g, hh, i⟩

theorem memOk_reloadShared (t : Team) (l : Mem × Sparse Bool) (h : s.memOk) : (s.reloadShared t l).memOk := by
  unfold State.reloadShared
  split
  · exact h
  · have hs := memOk_clearShared t.core t.shBase t.shLen h
    rw [State.memOk, Memories.wf_iff] at *
    obtain ⟨a, b, c, d, e, f, g, hh, i⟩ := hs
    exact ⟨a, swf_putBack _ _ _ _ b, c, d, swf_putBack _ _ _ _ e, f, g, hh, i⟩

theorem memOk_reloadYard (die base n : Nat) (l : Mem × Sparse Bool) (h : s.memOk) : (s.reloadYard die base n l).memOk := by
  have hs := memOk_clearYard die base n h
  unfold State.reloadYard
  rw [State.memOk, Memories.wf_iff] at *
  obtain ⟨a, b, c, d, e, f, g, hh, i⟩ := hs
  exact ⟨a, b, swf_putBack _ _ _ _ c, d, e, swf_putBack _ _ _ _ f, g, hh, i⟩

theorem memOk_activateFrames (frames : List Nat) (h : s.memOk) : (s.activateFrames frames).memOk := by
  unfold State.activateFrames
  split
  · exact h
  · exact memOk_activate _ h

theorem memOk_scrubFrames (frames : List Nat) (h : s.memOk) : (s.scrubFrames frames).memOk := by
  have hs := memOk_activateFrames frames h
  unfold State.scrubFrames
  generalize s.activateFrames frames = t at hs ⊢
  rw [State.memOk, Memories.wf_iff] at *
  obtain ⟨a, b, c, d, e, f, g, hh, i⟩ := hs
  exact ⟨swf_filter _ _ _ a, b, c, swf_filter _ _ _ d, e, f, g, hh, i⟩

theorem memOk_holdBlock (core pa : Nat) (h : s.memOk) : (s.holdBlock core pa).memOk := by
  unfold State.holdBlock
  split
  · exact h
  · rw [State.memOk, Memories.wf_iff] at *
    obtain ⟨a, b, c, d, e, f, g, hh, i⟩ := h
    exact ⟨a, b, c, d, e, f, g, skeysRise_sput _ _ _ hh, i⟩

theorem memOk_switchMatrix (region : Nat) (image : Bytes) (h : s.memOk) : (s.switchMatrix region image).memOk := by
  rw [State.memOk, Memories.wf_iff] at *
  obtain ⟨a, b, c, d, e, f, g, hh, i⟩ := h
  refine ⟨a, b, c, d, e, f, ?_, hh, skeysRise_filter _ _ i⟩
  dsimp only [State.switchMatrix]
  split
  · exact skeysRise_filter _ _ g
  · exact skeysRise_sput _ _ _ g

end Sys2Proof.Machine
end

