-- ==== Sys2Proof/Laws/PerInstr.lean ====
section
/-! SUPPORT. What holds of every instruction as syntax: its opcode lies in the assigned classes (R92), and the opcode, the
modifier bits and the fields that stand for it give it back. -/

namespace Sys2Proof.Laws.Parts

open Sys2Proof.Machine

/-- The parts of an instruction's word name an opcode below class 0xF and build that instruction. -/
def Statement (i : Instr) : Prop :=
  ∀ opc m o, partsOf i = some (opc, m, o) → opc < 960 ∧ buildInstr opc m o = some i

/-- A device step has no word. -/
theorem of_none {i : Instr} (h : partsOf i = none) : Statement i := fun _ _ _ h' => by rw [h] at h'; cases h'

/-- An instruction with its parts. -/
theorem of_some {i : Instr} {c : Nat} {b : BitVec 12} {f : Fields} (h : partsOf i = some (c, b, f)) (hc : Nat.blt c 960 = true)
    (hb : buildInstr c b f = some i) : Statement i := by
  intro opc m o h'
  rw [h] at h'
  simp only [Option.some.injEq, Prod.mk.injEq] at h'
  obtain ⟨rfl, rfl, rfl⟩ := h'
  exact ⟨by simpa [Nat.blt_eq] using hc, hb⟩

theorem nop (o : Fields) : Statement (.nop o) := of_some rfl rfl rfl
theorem br (o : Fields) : Statement (.br o) := of_some rfl rfl rfl
theorem brd (o : Fields) : Statement (.brd o) := of_some rfl rfl rfl
theorem brx (o : Fields) : Statement (.brx o) := of_some rfl rfl rfl
theorem call (o : Fields) : Statement (.call o) := of_some rfl rfl rfl
theorem callx (o : Fields) : Statement (.callx o) := of_some rfl rfl rfl
theorem ret (o : Fields) : Statement (.ret o) := of_some rfl rfl rfl
theorem if_ (o : Fields) : Statement (.if_ o) := of_some rfl rfl rfl
theorem else_ (o : Fields) : Statement (.else_ o) := of_some rfl rfl rfl
theorem endif_ (o : Fields) : Statement (.endif_ o) := of_some rfl rfl rfl
theorem loop_ (o : Fields) : Statement (.loop_ o) := of_some rfl rfl rfl
theorem lbrk (lvl : BitVec 8) (o : Fields) : Statement (.lbrk lvl o) := of_some rfl rfl (congrArg (fun x => some (Instr.lbrk x o)) (setWidth_setWidth_lvl lvl))
theorem cont (lvl : BitVec 8) (o : Fields) : Statement (.cont lvl o) := of_some rfl rfl (congrArg (fun x => some (Instr.cont x o)) (setWidth_setWidth_lvl lvl))
theorem endl (o : Fields) : Statement (.endl o) := of_some rfl rfl rfl
theorem exit_ (o : Fields) : Statement (.exit_ o) := of_some rfl rfl rfl
theorem yield_ (wf : BitVec 12) (o : Fields) : Statement (.yield_ wf o) := of_some rfl rfl rfl
theorem ebrk (o : Fields) : Statement (.ebrk o) := of_some rfl rfl rfl
theorem grow (o : Fields) : Statement (.grow o) := of_some rfl rfl rfl
theorem shrink (o : Fields) : Statement (.shrink o) := of_some rfl rfl rfl
theorem add (m : LaneMod) (o : Fields) : Statement (.add m o) := of_some rfl rfl (congrArg (Option.map fun x => Instr.add x o) (laneOf_laneBits m))
theorem sub (m : LaneMod) (o : Fields) : Statement (.sub m o) := of_some rfl rfl (congrArg (Option.map fun x => Instr.sub x o) (laneOf_laneBits m))
theorem mul (m : LaneMod) (o : Fields) : Statement (.mul m o) := of_some rfl rfl (congrArg (Option.map fun x => Instr.mul x o) (laneOf_laneBits m))
theorem mulhi (m : LaneMod) (o : Fields) : Statement (.mulhi m o) := of_some rfl rfl (congrArg (Option.map fun x => Instr.mulhi x o) (laneOf_laneBits m))
theorem mad (m : LaneMod) (o : Fields) : Statement (.mad m o) := of_some rfl rfl (congrArg (Option.map fun x => Instr.mad x o) (laneOf_laneBits m))
theorem min_ (m : LaneMod) (o : Fields) : Statement (.min_ m o) := of_some rfl rfl (congrArg (Option.map fun x => Instr.min_ x o) (laneOf_laneBits m))
theorem max_ (m : LaneMod) (o : Fields) : Statement (.max_ m o) := of_some rfl rfl (congrArg (Option.map fun x => Instr.max_ x o) (laneOf_laneBits m))
theorem abs_ (m : LaneMod) (o : Fields) : Statement (.abs_ m o) := of_some rfl rfl (congrArg (Option.map fun x => Instr.abs_ x o) (laneOf_laneBits m))
theorem neg (m : LaneMod) (o : Fields) : Statement (.neg m o) := of_some rfl rfl (congrArg (Option.map fun x => Instr.neg x o) (laneOf_laneBits m))
theorem and_ (m : LaneMod) (o : Fields) : Statement (.and_ m o) := of_some rfl rfl (congrArg (Option.map fun x => Instr.and_ x o) (laneOf_laneBits m))
theorem or_ (m : LaneMod) (o : Fields) : Statement (.or_ m o) := of_some rfl rfl (congrArg (Option.map fun x => Instr.or_ x o) (laneOf_laneBits m))
theorem xor_ (m : LaneMod) (o : Fields) : Statement (.xor_ m o) := of_some rfl rfl (congrArg (Option.map fun x => Instr.xor_ x o) (laneOf_laneBits m))
theorem not_ (m : LaneMod) (o : Fields) : Statement (.not_ m o) := of_some rfl rfl (congrArg (Option.map fun x => Instr.not_ x o) (laneOf_laneBits m))
theorem shl (m : LaneMod) (o : Fields) : Statement (.shl m o) := of_some rfl rfl (congrArg (Option.map fun x => Instr.shl x o) (laneOf_laneBits m))
theorem shr (m : LaneMod) (o : Fields) : Statement (.shr m o) := of_some rfl rfl (congrArg (Option.map fun x => Instr.shr x o) (laneOf_laneBits m))
theorem sar (m : LaneMod) (o : Fields) : Statement (.sar m o) := of_some rfl rfl (congrArg (Option.map fun x => Instr.sar x o) (laneOf_laneBits m))
theorem popc (m : LaneMod) (o : Fields) : Statement (.popc m o) := of_some rfl rfl (congrArg (Option.map fun x => Instr.popc x o) (laneOf_laneBits m))
theorem clz (m : LaneMod) (o : Fields) : Statement (.clz m o) := of_some rfl rfl (congrArg (Option.map fun x => Instr.clz x o) (laneOf_laneBits m))
theorem brev (m : LaneMod) (o : Fields) : Statement (.brev m o) := of_some rfl rfl (congrArg (Option.map fun x => Instr.brev x o) (laneOf_laneBits m))
theorem bfe (m : LaneMod) (o : Fields) : Statement (.bfe m o) := of_some rfl rfl (congrArg (Option.map fun x => Instr.bfe x o) (laneOf_laneBits m))
theorem bfi (m : LaneMod) (o : Fields) : Statement (.bfi m o) := of_some rfl rfl (congrArg (Option.map fun x => Instr.bfi x o) (laneOf_laneBits m))
theorem icmp (m : LaneMod) (o : Fields) : Statement (.icmp m o) := of_some rfl rfl (congrArg (Option.map fun x => Instr.icmp x o) (laneOf_laneBits m))
theorem aadd (m : LaneMod) (o : Fields) : Statement (.aadd m o) := of_some rfl rfl (congrArg (Option.map fun x => Instr.aadd x o) (laneOf_laneBits m))
theorem aidx (m : LaneMod) (o : Fields) : Statement (.aidx m o) := of_some rfl rfl (congrArg (Option.map fun x => Instr.aidx x o) (laneOf_laneBits m))
theorem fadd (m : LaneMod) (o : Fields) : Statement (.fadd m o) := of_some rfl rfl (congrArg (Option.map fun x => Instr.fadd x o) (laneOf_laneBits m))
theorem fsub (m : LaneMod) (o : Fields) : Statement (.fsub m o) := of_some rfl rfl (congrArg (Option.map fun x => Instr.fsub x o) (laneOf_laneBits m))
theorem fmul (m : LaneMod) (o : Fields) : Statement (.fmul m o) := of_some rfl rfl (congrArg (Option.map fun x => Instr.fmul x o) (laneOf_laneBits m))
theorem fma (m : LaneMod) (o : Fields) : Statement (.fma m o) := of_some rfl rfl (congrArg (Option.map fun x => Instr.fma x o) (laneOf_laneBits m))
theorem fmin (m : LaneMod) (o : Fields) : Statement (.fmin m o) := of_some rfl rfl (congrArg (Option.map fun x => Instr.fmin x o) (laneOf_laneBits m))
theorem fmax (m : LaneMod) (o : Fields) : Statement (.fmax m o) := of_some rfl rfl (congrArg (Option.map fun x => Instr.fmax x o) (laneOf_laneBits m))
theorem fabs (m : LaneMod) (o : Fields) : Statement (.fabs m o) := of_some rfl rfl (congrArg (Option.map fun x => Instr.fabs x o) (laneOf_laneBits m))
theorem fneg (m : LaneMod) (o : Fields) : Statement (.fneg m o) := of_some rfl rfl (congrArg (Option.map fun x => Instr.fneg x o) (laneOf_laneBits m))
theorem fcmp (m : LaneMod) (o : Fields) : Statement (.fcmp m o) := of_some rfl rfl (congrArg (Option.map fun x => Instr.fcmp x o) (laneOf_laneBits m))
theorem fclass (m : LaneMod) (o : Fields) : Statement (.fclass m o) := of_some rfl rfl (congrArg (Option.map fun x => Instr.fclass x o) (laneOf_laneBits m))
theorem frnd (m : LaneMod) (o : Fields) : Statement (.frnd m o) := of_some rfl rfl (congrArg (Option.map fun x => Instr.frnd x o) (laneOf_laneBits m))
theorem hadd2 (m : LaneMod) (o : Fields) : Statement (.hadd2 m o) := of_some rfl rfl (congrArg (Option.map fun x => Instr.hadd2 x o) (laneOf_laneBits m))
theorem hmul2 (m : LaneMod) (o : Fields) : Statement (.hmul2 m o) := of_some rfl rfl (congrArg (Option.map fun x => Instr.hmul2 x o) (laneOf_laneBits m))
theorem hfma2 (m : LaneMod) (o : Fields) : Statement (.hfma2 m o) := of_some rfl rfl (congrArg (Option.map fun x => Instr.hfma2 x o) (laneOf_laneBits m))
theorem hmin2 (m : LaneMod) (o : Fields) : Statement (.hmin2 m o) := of_some rfl rfl (congrArg (Option.map fun x => Instr.hmin2 x o) (laneOf_laneBits m))
theorem hmax2 (m : LaneMod) (o : Fields) : Statement (.hmax2 m o) := of_some rfl rfl (congrArg (Option.map fun x => Instr.hmax2 x o) (laneOf_laneBits m))
theorem hdot2 (m : LaneMod) (o : Fields) : Statement (.hdot2 m o) := of_some rfl rfl (congrArg (Option.map fun x => Instr.hdot2 x o) (laneOf_laneBits m))
theorem mov (m : LaneMod) (o : Fields) : Statement (.mov m o) := of_some rfl rfl (congrArg (Option.map fun x => Instr.mov x o) (laneOf_laneBits m))
theorem cvt (m : LaneMod) (o : Fields) : Statement (.cvt m o) := of_some rfl rfl (congrArg (Option.map fun x => Instr.cvt x o) (laneOf_laneBits m))
theorem sel (m : LaneMod) (o : Fields) : Statement (.sel m o) := of_some rfl rfl (congrArg (Option.map fun x => Instr.sel x o) (laneOf_laneBits m))
theorem plog (m : LaneMod) (o : Fields) : Statement (.plog m o) := of_some rfl rfl (congrArg (Option.map fun x => Instr.plog x o) (laneOf_laneBits m))
theorem rdl (m : LaneMod) (o : Fields) : Statement (.rdl m o) := of_some rfl rfl (congrArg (Option.map fun x => Instr.rdl x o) (laneOf_laneBits m))
theorem amov (m : LaneMod) (o : Fields) : Statement (.amov m o) := of_some rfl rfl (congrArg (Option.map fun x => Instr.amov x o) (laneOf_laneBits m))
theorem pack (m : LaneMod) (o : Fields) : Statement (.pack m o) := of_some rfl rfl (congrArg (Option.map fun x => Instr.pack x o) (laneOf_laneBits m))
theorem unpack (m : LaneMod) (o : Fields) : Statement (.unpack m o) := of_some rfl rfl (congrArg (Option.map fun x => Instr.unpack x o) (laneOf_laneBits m))
theorem rcp (m : LaneMod) (o : Fields) : Statement (.rcp m o) := of_some rfl rfl (congrArg (Option.map fun x => Instr.rcp x o) (laneOf_laneBits m))
theorem rsqrt (m : LaneMod) (o : Fields) : Statement (.rsqrt m o) := of_some rfl rfl (congrArg (Option.map fun x => Instr.rsqrt x o) (laneOf_laneBits m))
theorem sqrt (m : LaneMod) (o : Fields) : Statement (.sqrt m o) := of_some rfl rfl (congrArg (Option.map fun x => Instr.sqrt x o) (laneOf_laneBits m))
theorem ex2 (m : LaneMod) (o : Fields) : Statement (.ex2 m o) := of_some rfl rfl (congrArg (Option.map fun x => Instr.ex2 x o) (laneOf_laneBits m))
theorem lg2 (m : LaneMod) (o : Fields) : Statement (.lg2 m o) := of_some rfl rfl (congrArg (Option.map fun x => Instr.lg2 x o) (laneOf_laneBits m))
theorem sin (m : LaneMod) (o : Fields) : Statement (.sin m o) := of_some rfl rfl (congrArg (Option.map fun x => Instr.sin x o) (laneOf_laneBits m))
theorem cos (m : LaneMod) (o : Fields) : Statement (.cos m o) := of_some rfl rfl (congrArg (Option.map fun x => Instr.cos x o) (laneOf_laneBits m))
theorem tanh (m : LaneMod) (o : Fields) : Statement (.tanh m o) := of_some rfl rfl (congrArg (Option.map fun x => Instr.tanh x o) (laneOf_laneBits m))
theorem exsm (m : LaneMod) (o : Fields) : Statement (.exsm m o) := of_some rfl rfl (congrArg (Option.map fun x => Instr.exsm x o) (laneOf_laneBits m))
theorem fdiv (m : LaneMod) (o : Fields) : Statement (.fdiv m o) := of_some rfl rfl (congrArg (Option.map fun x => Instr.fdiv x o) (laneOf_laneBits m))
theorem vote (m : CrossMod) (o : Fields) : Statement (.vote m o) := of_some rfl rfl (congrArg (Option.map fun x => Instr.vote x o) (crossOf_crossBits m))
theorem shfl (m : CrossMod) (o : Fields) : Statement (.shfl m o) := of_some rfl rfl (congrArg (Option.map fun x => Instr.shfl x o) (crossOf_crossBits m))
theorem lred (m : CrossMod) (o : Fields) : Statement (.lred m o) := of_some rfl rfl (congrArg (Option.map fun x => Instr.lred x o) (crossOf_crossBits m))
theorem qx (m : CrossMod) (o : Fields) : Statement (.qx m o) := of_some rfl rfl (congrArg (Option.map fun x => Instr.qx x o) (crossOf_crossBits m))
theorem pset (m : CrossMod) (o : Fields) : Statement (.pset m o) := of_some rfl rfl (congrArg (Option.map fun x => Instr.pset x o) (crossOf_crossBits m))
theorem perm (m : CrossMod) (o : Fields) : Statement (.perm m o) := of_some rfl rfl (congrArg (Option.map fun x => Instr.perm x o) (crossOf_crossBits m))
theorem bcast (m : CrossMod) (o : Fields) : Statement (.bcast m o) := of_some rfl rfl (congrArg (Option.map fun x => Instr.bcast x o) (crossOf_crossBits m))
theorem ld (m : LocalMod) (o : Fields) : Statement (.ld m o) := of_some rfl rfl (congrArg (Option.map fun x => Instr.ld x o) (localOf_localBits m))
theorem st (m : LocalMod) (o : Fields) : Statement (.st m o) := of_some rfl rfl (congrArg (Option.map fun x => Instr.st x o) (localOf_localBits m))
theorem ldb (m : LocalMod) (o : Fields) : Statement (.ldb m o) := of_some rfl rfl (congrArg (Option.map fun x => Instr.ldb x o) (localOf_localBits m))
theorem stb (m : LocalMod) (o : Fields) : Statement (.stb m o) := of_some rfl rfl (congrArg (Option.map fun x => Instr.stb x o) (localOf_localBits m))
theorem cpy (m : CopyMod) (o : Fields) : Statement (.cpy m o) := of_some rfl rfl (congrArg (Option.map fun x => Instr.cpy x o) (copyOf_copyBits m))
theorem cpyg (m : CopyMod) (o : Fields) : Statement (.cpyg m o) := of_some rfl rfl (congrArg (Option.map fun x => Instr.cpyg x o) (copyOf_copyBits m))
theorem cpys (m : CopyMod) (o : Fields) : Statement (.cpys m o) := of_some rfl rfl (congrArg (Option.map fun x => Instr.cpys x o) (copyOf_copyBits m))
theorem cpyf (m : CopyMod) (o : Fields) : Statement (.cpyf m o) := of_some rfl rfl (congrArg (Option.map fun x => Instr.cpyf x o) (copyOf_copyBits m))
theorem coll (m : CopyMod) (o : Fields) : Statement (.coll m o) := of_some rfl rfl (congrArg (Option.map fun x => Instr.coll x o) (copyOf_copyBits m))
theorem atom (m : AtomMod) (o : Fields) : Statement (.atom m o) := of_some rfl rfl (congrArg (Option.map fun x => Instr.atom x o) (atomOf_atomBits m))
theorem cas (m : AtomMod) (o : Fields) : Statement (.cas m o) := of_some rfl rfl (congrArg (Option.map fun x => Instr.cas x o) (atomOf_atomBits m))
theorem waitv (m : AtomMod) (o : Fields) : Statement (.waitv m o) := of_some rfl rfl (congrArg (Option.map fun x => Instr.waitv x o) (atomOf_atomBits m))
theorem wake (m : AtomMod) (o : Fields) : Statement (.wake m o) := of_some rfl rfl (congrArg (Option.map fun x => Instr.wake x o) (atomOf_atomBits m))
theorem fence (m : FenceMod) (o : Fields) : Statement (.fence m o) := of_some rfl rfl (congrArg (Option.map fun x => Instr.fence x o) (fenceOf_fenceBits m))
theorem bar (o : Fields) : Statement (.bar o) := of_some rfl rfl rfl
theorem gbar (o : Fields) : Statement (.gbar o) := of_some rfl rfl rfl
theorem phbarInit (o : Fields) : Statement (.phbarInit o) := of_some rfl rfl rfl
theorem phbarArr (o : Fields) : Statement (.phbarArr o) := of_some rfl rfl rfl
theorem phbarQuit (o : Fields) : Statement (.phbarQuit o) := of_some rfl rfl rfl
theorem phbarWait (o : Fields) : Statement (.phbarWait o) := of_some rfl rfl rfl
theorem phbarTest (o : Fields) : Statement (.phbarTest o) := of_some rfl rfl rfl
theorem phbarGen (o : Fields) : Statement (.phbarGen o) := of_some rfl rfl rfl
theorem qfence (o : Fields) : Statement (.qfence o) := of_some rfl rfl rfl
theorem mma (m : MmaMod) (o : Fields) : Statement (.mma m o) := of_some rfl rfl (congrArg (Option.map fun x => Instr.mma x o) (mmaOf_mmaBits m))
theorem mmq (m : MmaMod) (o : Fields) : Statement (.mmq m o) := of_some rfl rfl (congrArg (Option.map fun x => Instr.mmq x o) (mmaOf_mmaBits m))
theorem mrd (m : TileMod) (o : Fields) : Statement (.mrd m o) := of_some rfl rfl (congrArg (Option.map fun x => Instr.mrd x o) (tileOf_tileBits m))
theorem mwr (m : TileMod) (o : Fields) : Statement (.mwr m o) := of_some rfl rfl (congrArg (Option.map fun x => Instr.mwr x o) (tileOf_tileBits m))
theorem mclr (o : Fields) : Statement (.mclr o) := of_some rfl rfl rfl
theorem cor (m : CorMod) (o : Fields) : Statement (.cor m o) := of_some rfl rfl (congrArg (Option.map fun x => Instr.cor x o) (corOf_corBits m))
theorem corq (m : CorMod) (o : Fields) : Statement (.corq m o) := of_some rfl rfl (congrArg (Option.map fun x => Instr.corq x o) (corOf_corBits m))
theorem gram (m : CorMod) (o : Fields) : Statement (.gram m o) := of_some rfl rfl (congrArg (Option.map fun x => Instr.gram x o) (corOf_corBits m))
theorem trsv (m : CorMod) (o : Fields) : Statement (.trsv m o) := of_some rfl rfl (congrArg (Option.map fun x => Instr.trsv x o) (corOf_corBits m))
theorem attn (m : AttnMod) (o : Fields) : Statement (.attn m o) := of_some rfl rfl (congrArg (Option.map fun x => Instr.attn x o) (attnOf_attnBits m))
theorem kvalloc (m : AttnMod) (o : Fields) : Statement (.kvalloc m o) := of_some rfl rfl (congrArg (Option.map fun x => Instr.kvalloc x o) (attnOf_attnBits m))
theorem kvcommit (m : AttnMod) (o : Fields) : Statement (.kvcommit m o) := of_some rfl rfl (congrArg (Option.map fun x => Instr.kvcommit x o) (attnOf_attnBits m))
theorem kvrel (m : AttnMod) (o : Fields) : Statement (.kvrel m o) := of_some rfl rfl (congrArg (Option.map fun x => Instr.kvrel x o) (attnOf_attnBits m))
theorem kvlink (m : AttnMod) (o : Fields) : Statement (.kvlink m o) := of_some rfl rfl (congrArg (Option.map fun x => Instr.kvlink x o) (attnOf_attnBits m))
theorem kvchk (m : AttnMod) (o : Fields) : Statement (.kvchk m o) := of_some rfl rfl (congrArg (Option.map fun x => Instr.kvchk x o) (attnOf_attnBits m))
theorem swarm (o : Fields) : Statement (.swarm o) := of_some rfl rfl rfl
theorem swreq (o : Fields) : Statement (.swreq o) := of_some rfl rfl rfl
theorem swcan (o : Fields) : Statement (.swcan o) := of_some rfl rfl rfl
theorem swst (o : Fields) : Statement (.swst o) := of_some rfl rfl rfl
theorem shedj (o : Fields) : Statement (.shedj o) := of_some rfl rfl rfl
theorem cbs (o : Fields) : Statement (.cbs o) := of_some rfl rfl rfl
theorem cbr (o : Fields) : Statement (.cbr o) := of_some rfl rfl rfl
theorem cbw (o : Fields) : Statement (.cbw o) := of_some rfl rfl rfl
theorem segld (seg : Space) (o : Fields) : Statement (.segld seg o) := of_some rfl rfl (congrArg (Option.map fun x => Instr.segld x o) (segOf_segBits seg))
theorem rte (o : Fields) : Statement (.rte o) := of_some rfl rfl rfl
theorem srw (reg : CtlReg) (o : Fields) : Statement (.srw reg o) := of_some rfl rfl (congrArg (Option.map fun x => Instr.srw x o) (ctlRegOf_ctlRegBits reg))
theorem mapld (o : Fields) : Statement (.mapld o) := of_some rfl rfl rfl
theorem tlbi (form : TlbForm) (o : Fields) : Statement (.tlbi form o) := of_some rfl rfl (congrArg (Option.map fun x => Instr.tlbi x o) (tlbFormOf_tlbFormBits form))
theorem clauseStart : Statement .clauseStart := of_none rfl
theorem ifetchFill : Statement .ifetchFill := of_none rfl
theorem yieldResume : Statement .yieldResume := of_none rfl
theorem loadReturn (id : Nat) : Statement (.loadReturn id) := of_none rfl
theorem atomicPerform (id : Nat) : Statement (.atomicPerform id) := of_none rfl
theorem waitvTimeout (id : Nat) : Statement (.waitvTimeout id) := of_none rfl
theorem engineCommandStart (id : Nat) : Statement (.engineCommandStart id) := of_none rfl
theorem copyUnitWrite (id : Nat) : Statement (.copyUnitWrite id) := of_none rfl
theorem commandComplete (id : Nat) : Statement (.commandComplete id) := of_none rfl
theorem quartetRendezvous (gid : Nat) : Statement (.quartetRendezvous gid) := of_none rfl
theorem leaveGrant (id : Nat) : Statement (.leaveGrant id) := of_none rfl
theorem sideQueueHandover (core : Nat) : Statement (.sideQueueHandover core) := of_none rfl
theorem attnEngineHandoff (die : Nat) : Statement (.attnEngineHandoff die) := of_none rfl
theorem attnHeaderArrival (engine : Nat) : Statement (.attnHeaderArrival engine) := of_none rfl
theorem attnBlockProcess (engine : Nat) : Statement (.attnBlockProcess engine) := of_none rfl
theorem translationFault (id : Nat) : Statement (.translationFault id) := of_none rfl
theorem upcallPost (ctx pager : Nat) : Statement (.upcallPost ctx pager) := of_none rfl
theorem pagerAnswer (ctx pager : Nat) : Statement (.pagerAnswer ctx pager) := of_none rfl
theorem shootdownAck (key unit : Nat) : Statement (.shootdownAck key unit) := of_none rfl
theorem readBufferInvalidation (die line : Nat) : Statement (.readBufferInvalidation die line) := of_none rfl
theorem growGrant (core slice : Nat) : Statement (.growGrant core slice) := of_none rfl
theorem growDeny (core : Nat) : Statement (.growDeny core) := of_none rfl
theorem watchdogExpiry (gid : Nat) : Statement (.watchdogExpiry gid) := of_none rfl
theorem groupRetire (gid : Nat) : Statement (.groupRetire gid) := of_none rfl
theorem teamRelease (grid gang team : Nat) : Statement (.teamRelease grid gang team) := of_none rfl
theorem gridEnd (grid : Nat) : Statement (.gridEnd grid) := of_none rfl
theorem launchEntryConsume (queue : Nat) : Statement (.launchEntryConsume queue) := of_none rfl
theorem fileLoad (queue : Nat) : Statement (.fileLoad queue) := of_none rfl
theorem gangPlace (grid gang : Nat) : Statement (.gangPlace grid gang) := of_none rfl
theorem preemptGang (grid gang : Nat) : Statement (.preemptGang grid gang) := of_none rfl
theorem gangRestore (grid gang : Nat) : Statement (.gangRestore grid gang) := of_none rfl
theorem contextSwitch (ctx : Nat) : Statement (.contextSwitch ctx) := of_none rfl
theorem contextTeardown (ctx : Nat) : Statement (.contextTeardown ctx) := of_none rfl
theorem refreshSlot (stack : Nat) : Statement (.refreshSlot stack) := of_none rfl
theorem sweepInstall (key stack : Nat) : Statement (.sweepInstall key stack) := of_none rfl
theorem sweepArmPoint (key : Nat) : Statement (.sweepArmPoint key) := of_none rfl
theorem stackSensorSample (stack : Nat) (temp : Int) : Statement (.stackSensorSample stack temp) := of_none rfl
theorem selfRefreshEntry (stack : Nat) : Statement (.selfRefreshEntry stack) := of_none rfl
theorem selfRefreshExit (stack : Nat) : Statement (.selfRefreshExit stack) := of_none rfl
theorem shedJobStart (stack core : Nat) : Statement (.shedJobStart stack core) := of_none rfl
theorem shedJobEnd (stack core : Nat) : Statement (.shedJobEnd stack core) := of_none rfl
theorem cribStart (crib : Nat) : Statement (.cribStart crib) := of_none rfl
theorem widen (crib : Nat) : Statement (.widen crib) := of_none rfl
theorem cribIdleDiscard (crib : Nat) : Statement (.cribIdleDiscard crib) := of_none rfl
theorem txgo (core : Nat) : Statement (.txgo core) := of_none rfl
theorem rxpop (core : Nat) : Statement (.rxpop core) := of_none rfl
theorem stepBudgetExpiry (core : Nat) : Statement (.stepBudgetExpiry core) := of_none rfl
theorem episodeFaultKill (core reason : Nat) : Statement (.episodeFaultKill core reason) := of_none rfl
theorem cbwTimeout (id : Nat) : Statement (.cbwTimeout id) := of_none rfl
theorem breakpointHit : Statement .breakpointHit := of_none rfl
theorem stop (ctx gid : Nat) : Statement (.stop ctx gid) := of_none rfl
theorem step (ctx gid : Nat) (focus : LaneMask) (n : Nat) : Statement (.step ctx gid focus n) := of_none rfl
theorem resume (ctx gid : Nat) : Statement (.resume ctx gid) := of_none rfl
theorem portRegRead (ctx gid : Nat) (reg : PortReg) : Statement (.portRegRead ctx gid reg) := of_none rfl
theorem portRegWrite (ctx gid : Nat) (reg : PortReg) (mask : LaneMask) (value : Nat) : Statement (.portRegWrite ctx gid reg mask value) := of_none rfl
theorem portMemRead (ctx gid : Nat) (sp : Space) (addr len : Nat) : Statement (.portMemRead ctx gid sp addr len) := of_none rfl
theorem portMemWrite (ctx gid : Nat) (sp : Space) (addr : Nat) (data : Bytes) : Statement (.portMemWrite ctx gid sp addr data) := of_none rfl
theorem queueStopWrite (core value : Nat) : Statement (.queueStopWrite core value) := of_none rfl
theorem dbiWrite (core n : Nat) (value : BitVec 128) : Statement (.dbiWrite core n value) := of_none rfl
theorem registerWrite (reg : DevReg) : Statement (.registerWrite reg) := of_none rfl
theorem hostBar2Access (write : Bool) (pa len : Nat) (data : HostData) : Statement (.hostBar2Access write pa len data) := of_none rfl
theorem fabricRemoteAccess (access : RemoteAccess) : Statement (.fabricRemoteAccess access) := of_none rfl
theorem burstReceive (burst : Burst) (data : Bytes) : Statement (.burstReceive burst data) := of_none rfl
theorem burstCrcFail (lane : Nat) (burst : Burst) : Statement (.burstCrcFail lane burst) := of_none rfl
theorem laneRepair (lane : Nat) : Statement (.laneRepair lane) := of_none rfl
theorem linkDown (reason seq : Nat) : Statement (.linkDown reason seq) := of_none rfl
theorem collContribution (comm chunk rank : Nat) (desc : Bytes) (data : Option Bytes) : Statement (.collContribution comm chunk rank desc data) := of_none rfl
theorem nvmeRequest (pair : Nat) (data : Bytes) (flaws : FlashFlaws) : Statement (.nvmeRequest pair data flaws) := of_none rfl
theorem nvmeCompletion (pair : Nat) : Statement (.nvmeCompletion pair) := of_none rfl
theorem patrolScrub (stack : Nat) (scan : ScrubRead) : Statement (.patrolScrub stack scan) := of_none rfl
theorem rowRepair (row : Nat) : Statement (.rowRepair row) := of_none rfl
theorem dieSensorSample (unit : Nat) (temp : Int) : Statement (.dieSensorSample unit temp) := of_none rfl
theorem stallSample (core slice : Nat) : Statement (.stallSample core slice) := of_none rfl
theorem sampleDrain (core slice : Nat) : Statement (.sampleDrain core slice) := of_none rfl
theorem deviceStart (failed : Option StartFailure) (dies : Nat) : Statement (.deviceStart failed dies) := of_none rfl
theorem mmexit : Statement .mmexit := of_none rfl
theorem firmwareImageWrite (digests : FwParts) (version : Nat) (signatures : FwParts) : Statement (.firmwareImageWrite digests version signatures) := of_none rfl
theorem getMeasurements : Statement .getMeasurements := of_none rfl
theorem contextLetBack (ctx : Nat) : Statement (.contextLetBack ctx) := of_none rfl
theorem fabricLinkRetrain (lanes : List Nat) : Statement (.fabricLinkRetrain lanes) := of_none rfl
theorem communicatorDestroy (comm : Nat) : Statement (.communicatorDestroy comm) := of_none rfl
theorem launchQueueReset (queue : Nat) : Statement (.launchQueueReset queue) := of_none rfl
theorem paddockCoreHardError (core : Nat) : Statement (.paddockCoreHardError core) := of_none rfl

end Sys2Proof.Laws.Parts
end

