-- ==== Sys2Proof/Laws/State.lean ====
section
/-! SUPPORT. One lemma for each field of the state under each of the updates that the machine is built from. -/

namespace Sys2Proof.Machine

variable (s : State)

/-! ### `modCur` -/

@[simp] theorem State.modCur_cur (f : Group → Group) : (s.modCur f).cur = f s.cur := rfl
@[simp] theorem State.modCur_others (f : Group → Group) : (s.modCur f).others = s.others := rfl
@[simp] theorem State.modCur_agenda (f : Group → Group) : (s.modCur f).agenda = s.agenda := rfl
@[simp] theorem State.modCur_now (f : Group → Group) : (s.modCur f).now = s.now := rfl
@[simp] theorem State.modCur_steps (f : Group → Group) : (s.modCur f).steps = s.steps := rfl
@[simp] theorem State.modCur_free (f : Group → Group) : (s.modCur f).free = s.free := rfl
@[simp] theorem State.modCur_nextId (f : Group → Group) : (s.modCur f).nextId = s.nextId := rfl
@[simp] theorem State.modCur_mem (f : Group → Group) : (s.modCur f).mem = s.mem := rfl
@[simp] theorem State.modCur_xlate (f : Group → Group) : (s.modCur f).xlate = s.xlate := rfl
@[simp] theorem State.modCur_ibuf (f : Group → Group) : (s.modCur f).ibuf = s.ibuf := rfl
@[simp] theorem State.modCur_ops (f : Group → Group) : (s.modCur f).ops = s.ops := rfl
@[simp] theorem State.modCur_seqs (f : Group → Group) : (s.modCur f).seqs = s.seqs := rfl
@[simp] theorem State.modCur_qfences (f : Group → Group) : (s.modCur f).qfences = s.qfences := rfl
@[simp] theorem State.modCur_shoots (f : Group → Group) : (s.modCur f).shoots = s.shoots := rfl
@[simp] theorem State.modCur_mon (f : Group → Group) : (s.modCur f).mon = s.mon := rfl
@[simp] theorem State.modCur_attn (f : Group → Group) : (s.modCur f).attn = s.attn := rfl
@[simp] theorem State.modCur_leave (f : Group → Group) : (s.modCur f).leave = s.leave := rfl
@[simp] theorem State.modCur_sweep (f : Group → Group) : (s.modCur f).sweep = s.sweep := rfl
@[simp] theorem State.modCur_shed (f : Group → Group) : (s.modCur f).shed = s.shed := rfl
@[simp] theorem State.modCur_pad (f : Group → Group) : (s.modCur f).pad = s.pad := rfl
@[simp] theorem State.modCur_launch (f : Group → Group) : (s.modCur f).launch = s.launch := rfl
@[simp] theorem State.modCur_fabric (f : Group → Group) : (s.modCur f).fabric = s.fabric := rfl
@[simp] theorem State.modCur_nvme (f : Group → Group) : (s.modCur f).nvme = s.nvme := rfl
@[simp] theorem State.modCur_dbg (f : Group → Group) : (s.modCur f).dbg = s.dbg := rfl
@[simp] theorem State.modCur_prof (f : Group → Group) : (s.modCur f).prof = s.prof := rfl
@[simp] theorem State.modCur_mgmt (f : Group → Group) : (s.modCur f).mgmt = s.mgmt := rfl
@[simp] theorem State.modCur_outbox (f : Group → Group) : (s.modCur f).outbox = s.outbox := rfl

/-! ### `emit` -/

@[simp] theorem State.emit_cur (o : Output) : (s.emit o).cur = s.cur := rfl
@[simp] theorem State.emit_others (o : Output) : (s.emit o).others = s.others := rfl
@[simp] theorem State.emit_agenda (o : Output) : (s.emit o).agenda = s.agenda := rfl
@[simp] theorem State.emit_now (o : Output) : (s.emit o).now = s.now := rfl
@[simp] theorem State.emit_steps (o : Output) : (s.emit o).steps = s.steps := rfl
@[simp] theorem State.emit_free (o : Output) : (s.emit o).free = s.free := rfl
@[simp] theorem State.emit_nextId (o : Output) : (s.emit o).nextId = s.nextId := rfl
@[simp] theorem State.emit_mem (o : Output) : (s.emit o).mem = s.mem := rfl
@[simp] theorem State.emit_xlate (o : Output) : (s.emit o).xlate = s.xlate := rfl
@[simp] theorem State.emit_ibuf (o : Output) : (s.emit o).ibuf = s.ibuf := rfl
@[simp] theorem State.emit_ops (o : Output) : (s.emit o).ops = s.ops := rfl
@[simp] theorem State.emit_seqs (o : Output) : (s.emit o).seqs = s.seqs := rfl
@[simp] theorem State.emit_qfences (o : Output) : (s.emit o).qfences = s.qfences := rfl
@[simp] theorem State.emit_shoots (o : Output) : (s.emit o).shoots = s.shoots := rfl
@[simp] theorem State.emit_mon (o : Output) : (s.emit o).mon = s.mon := rfl
@[simp] theorem State.emit_attn (o : Output) : (s.emit o).attn = s.attn := rfl
@[simp] theorem State.emit_leave (o : Output) : (s.emit o).leave = s.leave := rfl
@[simp] theorem State.emit_sweep (o : Output) : (s.emit o).sweep = s.sweep := rfl
@[simp] theorem State.emit_shed (o : Output) : (s.emit o).shed = s.shed := rfl
@[simp] theorem State.emit_pad (o : Output) : (s.emit o).pad = s.pad := rfl
@[simp] theorem State.emit_launch (o : Output) : (s.emit o).launch = s.launch := rfl
@[simp] theorem State.emit_fabric (o : Output) : (s.emit o).fabric = s.fabric := rfl
@[simp] theorem State.emit_nvme (o : Output) : (s.emit o).nvme = s.nvme := rfl
@[simp] theorem State.emit_dbg (o : Output) : (s.emit o).dbg = s.dbg := rfl
@[simp] theorem State.emit_prof (o : Output) : (s.emit o).prof = s.prof := rfl
@[simp] theorem State.emit_mgmt (o : Output) : (s.emit o).mgmt = s.mgmt := rfl
@[simp] theorem State.emit_outbox (o : Output) : (s.emit o).outbox = s.outbox ++ [o] := rfl

/-! ### `modOp` -/

@[simp] theorem State.modOp_cur (id : Nat) (f : Op → Op) : (s.modOp id f).cur = s.cur := rfl
@[simp] theorem State.modOp_others (id : Nat) (f : Op → Op) : (s.modOp id f).others = s.others := rfl
@[simp] theorem State.modOp_agenda (id : Nat) (f : Op → Op) : (s.modOp id f).agenda = s.agenda := rfl
@[simp] theorem State.modOp_now (id : Nat) (f : Op → Op) : (s.modOp id f).now = s.now := rfl
@[simp] theorem State.modOp_steps (id : Nat) (f : Op → Op) : (s.modOp id f).steps = s.steps := rfl
@[simp] theorem State.modOp_free (id : Nat) (f : Op → Op) : (s.modOp id f).free = s.free := rfl
@[simp] theorem State.modOp_nextId (id : Nat) (f : Op → Op) : (s.modOp id f).nextId = s.nextId := rfl
@[simp] theorem State.modOp_mem (id : Nat) (f : Op → Op) : (s.modOp id f).mem = s.mem := rfl
@[simp] theorem State.modOp_xlate (id : Nat) (f : Op → Op) : (s.modOp id f).xlate = s.xlate := rfl
@[simp] theorem State.modOp_ibuf (id : Nat) (f : Op → Op) : (s.modOp id f).ibuf = s.ibuf := rfl
@[simp] theorem State.modOp_ops (id : Nat) (f : Op → Op) : (s.modOp id f).ops = supd s.ops id f := rfl
@[simp] theorem State.modOp_seqs (id : Nat) (f : Op → Op) : (s.modOp id f).seqs = s.seqs := rfl
@[simp] theorem State.modOp_qfences (id : Nat) (f : Op → Op) : (s.modOp id f).qfences = s.qfences := rfl
@[simp] theorem State.modOp_shoots (id : Nat) (f : Op → Op) : (s.modOp id f).shoots = s.shoots := rfl
@[simp] theorem State.modOp_mon (id : Nat) (f : Op → Op) : (s.modOp id f).mon = s.mon := rfl
@[simp] theorem State.modOp_attn (id : Nat) (f : Op → Op) : (s.modOp id f).attn = s.attn := rfl
@[simp] theorem State.modOp_leave (id : Nat) (f : Op → Op) : (s.modOp id f).leave = s.leave := rfl
@[simp] theorem State.modOp_sweep (id : Nat) (f : Op → Op) : (s.modOp id f).sweep = s.sweep := rfl
@[simp] theorem State.modOp_shed (id : Nat) (f : Op → Op) : (s.modOp id f).shed = s.shed := rfl
@[simp] theorem State.modOp_pad (id : Nat) (f : Op → Op) : (s.modOp id f).pad = s.pad := rfl
@[simp] theorem State.modOp_launch (id : Nat) (f : Op → Op) : (s.modOp id f).launch = s.launch := rfl
@[simp] theorem State.modOp_fabric (id : Nat) (f : Op → Op) : (s.modOp id f).fabric = s.fabric := rfl
@[simp] theorem State.modOp_nvme (id : Nat) (f : Op → Op) : (s.modOp id f).nvme = s.nvme := rfl
@[simp] theorem State.modOp_dbg (id : Nat) (f : Op → Op) : (s.modOp id f).dbg = s.dbg := rfl
@[simp] theorem State.modOp_prof (id : Nat) (f : Op → Op) : (s.modOp id f).prof = s.prof := rfl
@[simp] theorem State.modOp_mgmt (id : Nat) (f : Op → Op) : (s.modOp id f).mgmt = s.mgmt := rfl
@[simp] theorem State.modOp_outbox (id : Nat) (f : Op → Op) : (s.modOp id f).outbox = s.outbox := rfl

/-! ### `modGrid` -/

@[simp] theorem State.modGrid_cur (n : Nat) (f : Grid → Grid) : (s.modGrid n f).cur = s.cur := rfl
@[simp] theorem State.modGrid_others (n : Nat) (f : Grid → Grid) : (s.modGrid n f).others = s.others := rfl
@[simp] theorem State.modGrid_agenda (n : Nat) (f : Grid → Grid) : (s.modGrid n f).agenda = s.agenda := rfl
@[simp] theorem State.modGrid_now (n : Nat) (f : Grid → Grid) : (s.modGrid n f).now = s.now := rfl
@[simp] theorem State.modGrid_steps (n : Nat) (f : Grid → Grid) : (s.modGrid n f).steps = s.steps := rfl
@[simp] theorem State.modGrid_free (n : Nat) (f : Grid → Grid) : (s.modGrid n f).free = s.free := rfl
@[simp] theorem State.modGrid_nextId (n : Nat) (f : Grid → Grid) : (s.modGrid n f).nextId = s.nextId := rfl
@[simp] theorem State.modGrid_mem (n : Nat) (f : Grid → Grid) : (s.modGrid n f).mem = s.mem := rfl
@[simp] theorem State.modGrid_xlate (n : Nat) (f : Grid → Grid) : (s.modGrid n f).xlate = s.xlate := rfl
@[simp] theorem State.modGrid_ibuf (n : Nat) (f : Grid → Grid) : (s.modGrid n f).ibuf = s.ibuf := rfl
@[simp] theorem State.modGrid_ops (n : Nat) (f : Grid → Grid) : (s.modGrid n f).ops = s.ops := rfl
@[simp] theorem State.modGrid_seqs (n : Nat) (f : Grid → Grid) : (s.modGrid n f).seqs = s.seqs := rfl
@[simp] theorem State.modGrid_qfences (n : Nat) (f : Grid → Grid) : (s.modGrid n f).qfences = s.qfences := rfl
@[simp] theorem State.modGrid_shoots (n : Nat) (f : Grid → Grid) : (s.modGrid n f).shoots = s.shoots := rfl
@[simp] theorem State.modGrid_mon (n : Nat) (f : Grid → Grid) : (s.modGrid n f).mon = s.mon := rfl
@[simp] theorem State.modGrid_attn (n : Nat) (f : Grid → Grid) : (s.modGrid n f).attn = s.attn := rfl
@[simp] theorem State.modGrid_leave (n : Nat) (f : Grid → Grid) : (s.modGrid n f).leave = s.leave := rfl
@[simp] theorem State.modGrid_sweep (n : Nat) (f : Grid → Grid) : (s.modGrid n f).sweep = s.sweep := rfl
@[simp] theorem State.modGrid_shed (n : Nat) (f : Grid → Grid) : (s.modGrid n f).shed = s.shed := rfl
@[simp] theorem State.modGrid_pad (n : Nat) (f : Grid → Grid) : (s.modGrid n f).pad = s.pad := rfl
@[simp] theorem State.modGrid_grids (n : Nat) (f : Grid → Grid) : (s.modGrid n f).launch.grids = supd s.launch.grids n f := rfl
@[simp] theorem State.modGrid_fabric (n : Nat) (f : Grid → Grid) : (s.modGrid n f).fabric = s.fabric := rfl
@[simp] theorem State.modGrid_nvme (n : Nat) (f : Grid → Grid) : (s.modGrid n f).nvme = s.nvme := rfl
@[simp] theorem State.modGrid_dbg (n : Nat) (f : Grid → Grid) : (s.modGrid n f).dbg = s.dbg := rfl
@[simp] theorem State.modGrid_prof (n : Nat) (f : Grid → Grid) : (s.modGrid n f).prof = s.prof := rfl
@[simp] theorem State.modGrid_mgmt (n : Nat) (f : Grid → Grid) : (s.modGrid n f).mgmt = s.mgmt := rfl
@[simp] theorem State.modGrid_outbox (n : Nat) (f : Grid → Grid) : (s.modGrid n f).outbox = s.outbox := rfl

/-! ### Slots and stalls of the issuing group -/

@[simp] theorem Group.setSlot_v (g : Group) (x : PcSlot) : (g.setSlot x).v = g.v := by unfold Group.setSlot; split <;> rfl
@[simp] theorem Group.setSlot_s (g : Group) (x : PcSlot) : (g.setSlot x).s = g.s := by unfold Group.setSlot; split <;> rfl
@[simp] theorem Group.setSlot_a (g : Group) (x : PcSlot) : (g.setSlot x).a = g.a := by unfold Group.setSlot; split <;> rfl
@[simp] theorem Group.setSlot_p (g : Group) (x : PcSlot) : (g.setSlot x).p = g.p := by unfold Group.setSlot; split <;> rfl
@[simp] theorem Group.setSlot_eta (g : Group) (x : PcSlot) : (g.setSlot x).eta = g.eta := by unfold Group.setSlot; split <;> rfl
@[simp] theorem Group.setSlot_pm (g : Group) (x : PcSlot) : (g.setSlot x).pm = g.pm := by unfold Group.setSlot; split <;> rfl
@[simp] theorem Group.setSlot_flags (g : Group) (x : PcSlot) : (g.setSlot x).flags = g.flags := by unfold Group.setSlot; split <;> rfl
@[simp] theorem Group.setSlot_ctr (g : Group) (x : PcSlot) : (g.setSlot x).ctr = g.ctr := by unfold Group.setSlot; split <;> rfl
@[simp] theorem Group.setSlot_exited (g : Group) (x : PcSlot) : (g.setSlot x).exited = g.exited := by unfold Group.setSlot; split <;> rfl
@[simp] theorem Group.setSlot_pstk (g : Group) (x : PcSlot) : (g.setSlot x).pstk = g.pstk := by unfold Group.setSlot; split <;> rfl
@[simp] theorem Group.setSlot_sgk (g : Group) (x : PcSlot) : (g.setSlot x).sgk = g.sgk := by unfold Group.setSlot; split <;> rfl
@[simp] theorem Group.setSlot_sgs (g : Group) (x : PcSlot) : (g.setSlot x).sgs = g.sgs := by unfold Group.setSlot; split <;> rfl
@[simp] theorem Group.setSlot_sgy (g : Group) (x : PcSlot) : (g.setSlot x).sgy = g.sgy := by unfold Group.setSlot; split <;> rfl
@[simp] theorem Group.setSlot_vblocks (g : Group) (x : PcSlot) : (g.setSlot x).vblocks = g.vblocks := by unfold Group.setSlot; split <;> rfl
@[simp] theorem Group.setSlot_tvec (g : Group) (x : PcSlot) : (g.setSlot x).tvec = g.tvec := by unfold Group.setSlot; split <;> rfl
@[simp] theorem Group.setSlot_tscr (g : Group) (x : PcSlot) : (g.setSlot x).tscr = g.tscr := by unfold Group.setSlot; split <;> rfl
@[simp] theorem Group.setSlot_busy (g : Group) (x : PcSlot) : (g.setSlot x).busy = g.busy := by unfold Group.setSlot; split <;> rfl
@[simp] theorem Group.setSlot_ring (g : Group) (x : PcSlot) : (g.setSlot x).ring = g.ring := by unfold Group.setSlot; split <;> rfl
@[simp] theorem Group.setSlot_tiles (g : Group) (x : PcSlot) : (g.setSlot x).tiles = g.tiles := by unfold Group.setSlot; split <;> rfl
@[simp] theorem Group.setSlot_gid (g : Group) (x : PcSlot) : (g.setSlot x).gid = g.gid := by unfold Group.setSlot; split <;> rfl
@[simp] theorem Group.setSlot_ctx (g : Group) (x : PcSlot) : (g.setSlot x).ctx = g.ctx := by unfold Group.setSlot; split <;> rfl
@[simp] theorem Group.setSlot_core (g : Group) (x : PcSlot) : (g.setSlot x).core = g.core := by unfold Group.setSlot; split <;> rfl
@[simp] theorem Group.setSlot_die (g : Group) (x : PcSlot) : (g.setSlot x).die = g.die := by unfold Group.setSlot; split <;> rfl

end Sys2Proof.Machine
end

