-- ==== Sys2Proof/Tests/Slice0.lean ====
section
/-! SUPPORT. Tests of single definitions and steps: ill-formed terms that the check refuses, words that decode to what the
spec's tables say, and states that meet the hypotheses of the statements. -/

namespace Sys2Proof.Tests

open Sys2Proof Sys2Proof.Machine

set_option Elab.async false

/-- The state in which a privileged group of 64 lanes stands in its clause. -/
def probe : State := State.reset.withFetchWord 96 0x001EE170B85C000000000000

/-- The probe with its group changed. -/
def with_ (f : Group → Group) : State := { probe with cur := f probe.cur }

/-- Fields of an unguarded instruction, and of one whose guard is true in no lane. -/
def fl (d a b c : Opnd) (imm : Word) : Fields := ⟨⟨false, 7⟩, d, a, b, c, 0, imm⟩
def flOff (d a b c : Opnd) (imm : Word) : Fields := ⟨⟨false, 0⟩, d, a, b, c, 0, imm⟩
def z : Opnd := zeroOpnd

/-- What holds of the next state, where there is one. -/
def ran (o : Out) (p : State → Bool) : Bool := match o with | .next t => p t | _ => false
def stops (o : Out) : Bool := match o with | .next _ => false | _ => true

/-- A lane modifier of a format and a sub-code. -/
def lm (f : Fmt) (n : Nat) : LaneMod := ⟨f, .rn, false, BitVec.ofNat 5 n⟩

/-! ### Ill-formed terms (R93 tests 3 to 9) -/

/-- A group with one block, four tile names, role 0 and no privilege. -/
def small : EntryEnv := ⟨1, 4, 0, false⟩

theorem test_smoke_guard : wellFormed widestEnv (.nop ⟨⟨true, 7⟩, z, z, z, z, 0, 0⟩) = false := by decide +kernel
theorem test_smoke_reserved_word : decodeSlot widestEnv 0x001EE170BFDC000000000000 = .error (.failed 4) := by decide +kernel
theorem test_smoke_kind : wellFormed widestEnv (.add (lm .i32 0) (fl (.a 1) (.v 2) (.v 3) z 0)) = false := by decide +kernel
theorem test_smoke_format : wellFormed widestEnv (.add (lm .f32 0) (fl (.v 1) (.v 2) (.v 3) z 0)) = false := by decide +kernel
theorem test_smoke_unused : wellFormed widestEnv (.nop (fl z (.v 1) z z 0)) = false := by decide +kernel
theorem test_smoke_imm : wellFormed widestEnv (.nop (fl z z z z 1)) = false := by decide +kernel
theorem test_smoke_uniform : wellFormed widestEnv (.add (lm .i32 0) (fl (.s 1) (.v 2) (.s 3) z 0)) = false := by decide +kernel
theorem test_smoke_range : wellFormed small (.add (lm .i32 0) (fl (.v 16) (.v 2) (.v 3) z 0)) = false
    ∧ wellFormed small (.add (lm .i32 0) (fl (.v 15) (.v 2) (.v 3) z 0)) = true := by decide +kernel
theorem test_smoke_privilege : wellFormed small (.srw .tvec (fl z (.a 3) z z 0)) = false
    ∧ wellFormed widestEnv (.srw .tvec (fl z (.a 3) z z 0)) = true := by decide +kernel
theorem test_smoke_opcode : decodeSlot widestEnv 0xFC1EE170B85C000000000000 = .error (.failed 1)
    ∧ decodeSlot widestEnv 0x0B9EE170B85C000000000000 = .error (.failed 2) := by decide +kernel

/-! ### Words written out from R84, R86 and R92: opcode, guard 7, d, a, b, c, fs, m, imm -/

theorem test_decode_nop : decodeSlot widestEnv 0x001EE170B85C000000000000 = .ok (.nop (fl z z z z 0)) := by decide +kernel
theorem test_decode_brd : decodeSlot widestEnv 0x008EE170B85C00000000001A
    = .ok (.brd ⟨⟨false, 3⟩, z, z, z, z, 0, 0x1A⟩) := by decide +kernel
theorem test_decode_add : decodeSlot widestEnv 0x101C020201DC050000000000
    = .ok (.add (lm .i32 0) (fl (.v 1) (.v 2) (.v 3) z 0)) := by decide +kernel
theorem test_decode_st : decodeSlot widestEnv 0x605EE101FFC0860000000008
    = .ok (.st ⟨.s, 2, false, 0⟩ (fl z (.s 1) .imm (.s 2) 8)) := by decide +kernel
theorem test_decode_srw : decodeSlot widestEnv 0xE09EE14BB85C000000000000
    = .ok (.srw .tvec (fl z (.a 3) z z 0)) := by decide +kernel
theorem test_decode_atom : decodeSlot widestEnv 0x801E094AB85C1F0B00000000 ≠ .error (.failed 1) := by decide +kernel

/-! ### Witnesses: decoding, steps and operands -/

/-- Class 0x1 at its encoding, in a state whose next instruction it is. -/
def addV : Instr := .add (lm .i32 0) (fl (.v 1) (.v 2) (.v 3) z 0)

theorem test_DecodeAndEncodeAgree : wellFormed widestEnv addV = true ∧ encode addV = some 0x101C020201DC050000000000
    ∧ decodeSlot widestEnv 0x101C020201DC050000000000 = .ok addV := by decide +kernel

/-- A line whose slots 0 and 1 pair: an `add` beside a `nop` (R31). -/
def pairLine : LineBits := BitVec.ofNat 512 (0x101C020201DC050000000000 + 0x001EE170B85C000000000000 * 2 ^ 96
  + (2 ^ 16 + 1 * 2 ^ 25) * 2 ^ 480)

def nopI : Instr := .nop (fl z z z z 0)

theorem test_StepRunsDecodedInstruction : probe.agenda = [] ∧ probe.cur.gid ≠ 0 ∧ probe.cur.resident = true
    ∧ probe.cur.stopped = false ∧ probe.cur.stopReq = false ∧ probe.cur.inClause = true ∧ probe.cur.expired = false
    ∧ (pairFirsts (linePair probe.cur.line)).contains (pcSlot probe.cur.pc) = false ∧ probe.breaks probe.cur [probe.cur.pc] = false
    ∧ decodeSlot EntryEnv.all (lineSlot probe.cur.line (pcSlot probe.cur.pc)) = .ok nopI ∧ probe.issueHold nopI = none
    ∧ ran (exec nopI probe) (fun t => (t.afterIssue probe.cur).sweep.touched.isEmpty) = true := by decide +kernel
/-- A watchdog that has run out does not end a group in its clause that is not held, nor does a breakpoint stop it again. -/
theorem test_StepRunsDecodedInstruction_late : let s := { with_ fun g => { g with expired := true, wdogOn := true } with
      dbg := { probe.dbg with dbi := [(0, BitVec.ofNat 128 (probe.cur.pc.toNat + 2 ^ 80 + 2 ^ 81))] } }
    s.cur.stall = none ∧ s.breaks s.cur [s.cur.pc] = true ∧ s.cur.passed = true := by decide +kernel

theorem test_StepRunsOtherTurns_word : decodeSlot EntryEnv.all (BitVec.ofNat 96 0x101C020201DC050000000000) = .ok addV
    ∧ (State.reset.withFetchWord 96 0x101C020201DC050000000000).issueHold addV = none := by decide +kernel

theorem test_StepRunsOtherTurns_pair : let s := with_ fun g => { g with line := pairLine }
    s.cur.stopReq = false ∧ s.cur.expired = false
    ∧ (pairFirsts (linePair s.cur.line)).contains (pcSlot s.cur.pc) = true ∧ s.breaks s.cur [s.cur.pc, nextPoint s.cur.pc] = false
    ∧ decodeSlot EntryEnv.all (lineSlot s.cur.line 0) = .ok addV ∧ decodeSlot EntryEnv.all (lineSlot s.cur.line 1) = .ok nopI
    ∧ s.issueHold addV = none ∧ s.issueHold nopI = none ∧ ran (exec addV s) (fun _ => true) = true := by
  decide +kernel
theorem test_StepRunsOtherTurns_event : ({ probe with agenda := [.event .mmexit] } : State).agenda = .event .mmexit :: []
    ∧ (∀ core slice, Instr.mmexit ≠ .stallSample core slice) := ⟨rfl, fun _ _ h => nomatch h⟩
theorem test_StepRunsOtherTurns_sample :
    ({ probe with agenda := [.event (.stallSample 0 0)] } : State).agenda = .event (.stallSample 0 0) :: [] := rfl
theorem test_StepRunsOtherTurns_answers : ({ probe with agenda := [.linkRead 2 0] } : State).agenda = .linkRead 2 0 :: []
    ∧ ({ probe with agenda := [.certificates] } : State).agenda = .certificates :: [] := ⟨rfl, rfl⟩
theorem test_StepRunsOtherTurns_slice : probe.chooses 0 0 (ready probe) = some 1 ∧ (probe.findGroup 1).isSome = true := by
  decide +kernel

theorem test_StepKeepsMemoryCanonical : probe.mem.wf = true ∧ ran (step probe) (fun t => t.mem.wf) = true := by decide +kernel

theorem test_OperandsAndLanes : (63 : Nat) < 64 ∧ val64 probe 0 (.p 7) 63 = 1 := by decide +kernel
theorem test_OperandsAndLanes_status : (with_ fun g => { g with wdogOn := true }).cur.wdogOn = true ∧ probe.cur.gid ≠ 0
    ∧ val64 (with_ fun g => { g with gngx := 2, tpg := 3, tign := 1, vblocks := 5, role := 3 }) 0 (.const .tidx) 0 = 7
    ∧ val64 (with_ fun g => { g with vblocks := 5, tquota := 3, role := 3 }) 0 (.sr .alloc) 0 = 5 + 32 * 3 + 1024 * 3 := by decide +kernel

theorem test_IntegerArithmetic : (lm .i32 0).fmt = .i32 ∧ (lm .u32 0).fmt = .u32 := by decide
theorem test_CompareAndAddress : (lm .i32 5).fmt = .i32 ∧ (lm .i32 5).sub.toNat < 6 ∧ ∃ n, (fl (.v 4) (.a 1) (.v 2) z 0).d = .v n :=
  ⟨rfl, by decide, 4, rfl⟩
theorem test_PackedHalfArithmetic : (floatFmt (lm .f16 0).fmt).isSome = true ∧ (floatFmt (lm .bf16 0).fmt).isSome = true := by decide
theorem test_Moves : (lm .f32 0).sub = 0 ∧ (lm .f32 1).sub = 1 ∧ (lm .f32 2).sub = 2 ∧ (fl (.a 1) (.s 4) z z 0).a = .s 4
    ∧ (fl (.s 6) (.a 1) z z 0).d = .s 6 := by decide
theorem test_ConversionAndPacking : fmtByCode ((lm .i32 12).sub.toNat % 16) = .u32 ∧ (lm .i32 12).fmt ≠ .rns34
    ∧ (lm .i4 3).fmt ∈ [Fmt.f16, .bf16, .f8a, .f8b, .i16, .i12, .i8, .u8, .i4]
    ∧ 2 * fmtBits (lm .i4 3).fmt * ((lm .i4 3).sub.toNat + 1) ≤ 32 ∧ fmtBits (lm .i4 7).fmt * ((lm .i4 7).sub.toNat + 1) ≤ 32
    ∧ 31 < 32 := by decide

/-- A cross-lane modifier of a format, a function and a stale predicate. -/
def xm (f : Fmt) (fn st : Nat) : CrossMod := ⟨f, BitVec.ofNat 3 fn, false, BitVec.ofNat 4 st⟩

theorem test_VoteShuffleAndReduce : (xm .f32 0 0).st = 0 ∧ (xm .f32 1 0).fn = 1 ∧ (xm .f32 2 0).fn = 2 ∧ (xm .f32 3 0).fn = 3
    ∧ 8 ≤ (xm .f32 0 8).st.toNat ∧ (xm .f32 0 14).st.toNat < 15 ∧ (∀ n, (fl (.v 1) (.v 2) z z 0).d ≠ .a n)
    ∧ (fl (.a 1) (.v 2) z z 0).d = .a 1
    ∧ (Fmt.u32, 5, (fun x y : Word => x ^^^ y), (0 : Word)) ∈ [(Fmt.u32, 5, (fun x y : Word => x ^^^ y), (0 : Word))] :=
  ⟨rfl, rfl, rfl, rfl, by decide, by decide, by decide, rfl, List.mem_singleton.mpr rfl⟩
theorem test_PermutationNetwork : (fl z (.s 3) z z 0).a = .s 3 ∧ probe.cur.acts ⟨false, 7⟩ = true
    ∧ probe.cur.acts ⟨false, 0⟩ = false := by decide +kernel

theorem test_NextPointAndDirectTarget : isPc (mkPc 0x1000 3) = true ∧ pcSlot (mkPc 0x1000 3) < 4
    ∧ isPc (mkPc (2 ^ 54 - 64) 4) = true ∧ pcSlot (mkPc (2 ^ 54 - 64) 4) = 4 ∧ (0xFFFFFFFC : Word).toNat % 8 < 5 := by decide +kernel

/-! ### Witnesses: control flow and traps -/

/-- A line of five `nop`s, each a target. -/
def nopLine : LineBits :=
  let n := 0x001EE170B85C000000000000
  withParity (BitVec.ofNat 512 (n + n * 2 ^ 96 + n * 2 ^ 192 + n * 2 ^ 288 + n * 2 ^ 384 + (2 ^ 16 + 0x1F * 2 ^ 20) * 2 ^ 480))

/-- A probe in context 0, whose root table at 2 MiB maps the lowest 64 GiB to themselves, readable, writable and executable.
Its trap vector stands at 0x2000, and its core's buffer holds lines of `nop`s. -/
def base : State :=
  { (State.writePa { probe with xlate := { probe.xlate with ctxs := [(0, ⟨0x200000, [], true, false⟩)] } } (outside 0) 0 0x200000 (leBytes 8 0x1F)) with
    cur := { probe.cur with tvec := mkPc 0x2000 0 },
    ibuf := [(0, [0x1000, 0x1040, 0x2000, 0x3000].map fun x => ⟨x, 0, nopLine, 0⟩)] }

/-- The base with its group changed. -/
def on (f : Group → Group) : State := { base with cur := f base.cur }

/-- A first component gives the whole pair. -/
theorem fst_pair {α β : Type} {p : α × β} {a : α} (h : p.1 = a) : p = (a, p.2) := by subst h; rfl

/-- Fields of a whole transfer to line 0x1040, slot 0. -/
def go : Fields := fl z z z z 8

theorem test_TransfersAndEnds_whole : (∃ l < 64, (base.cur.effect go.guard).getLsbD l = true)
    ∧ (∀ l < 64, base.cur.live.getLsbD l = true → (base.cur.guardMask go.guard).getLsbD l = true)
    ∧ (base.checkTransfer (directTarget base.cur.pc go.imm)).1 = .ok () := by decide +kernel
theorem test_TransfersAndEnds_notTaken : ¬ (∃ l < 64, (base.cur.effect (flOff z z z z 8).guard).getLsbD l = true) := by decide +kernel
theorem test_TransfersAndEnds_badTarget : ((on fun g => g.writeA 5 7).checkTransfer 7).1 = .error (3, 1) := by decide +kernel
theorem test_TransfersAndEnds_exit : base.cur.pathMask &&& ~~~(base.cur.effect ⟨false, 0⟩) ≠ 0
    ∧ base.cur.exited ||| base.cur.effect ⟨false, 7⟩ = BitVec.allOnes 64
    ∧ base.cur.acts ⟨false, 7⟩ = true ∧ base.cur.acts ⟨false, 0⟩ = false := by decide +kernel

/-- The lower lanes in slot 0, the upper ones in slot 1 at another line. -/
def two (pc1 : DWord) : State := on fun g =>
  { g with slot0 := { g.slot0 with mask := 0xFFFFFFFF }, slot1 := ⟨pc1, ~~~0xFFFFFFFF, true, none, 0⟩ }

theorem test_TransfersAndEnds_drop : (two 0x2000).cur.pathMask &&& ~~~((two 0x2000).cur.effect ⟨false, 7⟩) = 0
    ∧ (two 0x2000).cur.exited ||| (two 0x2000).cur.effect ⟨false, 7⟩ ≠ BitVec.allOnes 64 := by decide +kernel

/-- Predicate 0 is true in the even lanes. -/
def evens (s : State) : State := { s with cur := s.cur.writeP 0 (BitVec.allOnes 64) 0x5555555555555555 }

theorem test_PathsSplitAndMerge_split : (evens base).cur.effect ⟨false, 0⟩ ≠ 0
    ∧ (evens base).cur.pathMask &&& ~~~((evens base).cur.effect ⟨false, 0⟩) ≠ 0
    ∧ ((evens base).checkTransfer (directTarget base.cur.pc 8)).1 = .ok ()
    ∧ ((evens base).checkTarget (evens base).cur (nextPoint base.cur.pc)).1 = .ok ()
    ∧ (evens base).cur.otherSlot.valid = false := by decide +kernel
theorem test_PathsSplitAndMerge_next : let s := { evens base with ibuf := [(0, [⟨0x1040, 0, nopLine, 0⟩, ⟨0x1000, 0, 0, 0⟩])] }
    let r := s.checkTransfer (directTarget s.cur.pc 8)
    r.1 = .ok () ∧ (r.2.checkTarget r.2.cur (nextPoint s.cur.pc)).1 = .error (3, 0) := by decide +kernel
theorem test_PathsSplitAndMerge_all : base.cur.effect ⟨false, 7⟩ ≠ 0 ∧ base.cur.pathMask &&& ~~~(base.cur.effect ⟨false, 7⟩) = 0
    ∧ base.cur.effect ⟨false, 0⟩ = 0
    ∧ (base.checkTransfer (directTarget base.cur.pc 7)).1 = .error (3, 1) := by decide +kernel
theorem test_PathsSplitAndMerge_push : (evens (two 0x2000)).cur.otherSlot.valid = true ∧ (evens (two 0x2000)).cur.pstk < 62
    ∧ ((evens (two 0x2000)).pushPath (nextPoint base.cur.pc) 1).1 = true := by decide +kernel
theorem test_PathsSplitAndMerge_full : 62 ≤ ({ (two 0x2000).cur with pstk := 62 } : Group).pstk := by decide +kernel
theorem test_PathsSplitAndMerge_merge : let s := two (mkPc 0x2000 0)
    s.cur.slot0.valid = true ∧ s.cur.slot1.valid = true ∧ s.cur.otherSlot.pc = mkPc 0x2000 0 ∧ s.cur.stepLeft = 0 ∧ s.cur.pstk = 0
    ∧ pcSlot s.cur.pc < 4 ∧ 4 ≤ pcSlot (mkPc 0x1000 4) := by decide +kernel
theorem test_PathsSplitAndMerge_pop : let s := (two (mkPc 0x2000 0)).pushPath (mkPc 0x3000 0) 1
    let g := { s.2.cur.setSlot { s.2.cur.slot with pc := mkPc 0x2000 0 } with inClause := false, stall := none }
    let both : Group := { g with slot0 := ⟨mkPc 0x2000 0, BitVec.allOnes 64, true, none, 0⟩, slot1 := ⟨0, 0, false, none, 0⟩ }
    s.2.cur.pstk ≠ 0 ∧ (State.topPath { s.2 with cur := both }).1 = .ok ⟨mkPc 0x3000 0, 1, true, none, 0⟩
    ∧ (State.topPath { s.2 with cur := both }).2.cur = both := by decide +kernel
/-- A stacked path whose only lane has exited since. -/
theorem test_PathsSplitAndMerge_gone : let s := (two (mkPc 0x2000 0)).pushPath (mkPc 0x3000 0) 1
    let g := { s.2.cur.setSlot { s.2.cur.slot with pc := mkPc 0x2000 0 } with inClause := false, stall := none, exited := 1 }
    let both : Group := { g with slot0 := ⟨mkPc 0x2000 0, BitVec.allOnes 64, true, none, 0⟩, slot1 := ⟨0, 0, false, none, 0⟩ }
    s.2.cur.pstk = 1 ∧ (State.topPath { s.2 with cur := both }).1 = .ok ⟨mkPc 0x3000 0, 0, true, none, 0⟩
    ∧ (State.topPath { s.2 with cur := both }).2.cur = both
    ∧ ran (.next (State.enterLine { s.2 with cur := { s.2.cur with exited := 1 } } (mkPc 0x2000 0)))
        (fun t => t.cur.pstk == 0 && !t.cur.slot1.valid) = true := by decide +kernel

theorem test_StructuredControl : (∃ l < 64, base.cur.pathMask.getLsbD l = true) ∧ ((253 : BitVec 8)).toNat < 254
    ∧ (base.checkTransfer (directTarget base.cur.pc 8)).1 = .ok ()
    ∧ ((on fun g => { g with ctr := [(0, 255)] }).cur.ctrOf 0).toNat + 1 > 255 := by decide +kernel

def asks (n : Word) (blocks budget : Nat) (gr : GrowState) : State := on fun g =>
  { g.writeS 1 n with vblocks := blocks, budget := budget, grow := gr }

theorem test_GrowAndShrink_granted : let s := asks 1 15 16 .none
    s.cur.acts ⟨false, 7⟩ = true ∧ (val s 0 (.s 1) 0).toNat = 1 ∧ s.cur.vblocks + 1 ≤ 16 ∧ s.cur.vblocks + 1 ≤ s.cur.budget
    ∧ s.growWaiters s.cur.coreNo s.cur.slice = [] ∧ 1 ≤ s.freeBlocks s.cur.coreNo s.cur.slice := by decide +kernel
theorem test_GrowAndShrink_stays : (asks 1 0 16 (.asked 1 0 0)).cur.grow = .asked 1 0 0 ∧ base.cur.waitingRecs = [] := by decide +kernel
theorem test_GrowAndShrink_waits : let s := asks 0 0 16 .none
    let t := { s with others := [(2, { s.cur with gid := 2, vblocks := 64 }), (3, { s.cur with gid := 3, grow := .asked 1 0 0 })] }
    t.freeBlocks t.cur.coreNo t.cur.slice < 1 ∧ t.growWaiters t.cur.coreNo t.cur.slice ≠ [] := by decide +kernel
theorem test_GrowAndShrink_ends : let s := asks 1 1 1 .none
    s.cur.budget < s.cur.vblocks + 1 ∧ 16 < (asks 1 16 16 .none).cur.vblocks + 1 ∧ s.cur.vblocks - s.cur.shrink ≤ 1
    ∧ 1 < (asks 1 2 2 .none).cur.vblocks - (asks 1 2 2 .none).cur.shrink ∧ (asks 1 1 1 .granted).cur.grow = .granted
    ∧ (asks 1 1 1 .denied).cur.grow = .denied := by decide +kernel

/-- A trap of the instruction. -/
def trapInfo : TrapInfo := { code := 13, cause := 0, slot := 0, tpc := base.cur.pc, resume := nextPoint base.cur.pc }

theorem test_TrapEntry_handler : let w := State.partnerGone (base.modCur fun g => g.atTrap trapInfo) base.cur
    base.cur.busy = false ∧ base.cur.tvec ≠ 0 ∧ trapInfo.code ≠ 1 ∧ base.mon = [] ∧ base.cur.stepLeft = 0
    ∧ (w.recordWritable w.cur).1 = true
    ∧ (((w.recordWritable w.cur).2.writeRecord trapInfo).checkTarget ((w.recordWritable w.cur).2.writeRecord trapInfo).cur
        base.cur.tvec).1 = .ok () := by decide +kernel
theorem test_TrapEntry_none : probe.cur.tvec = 0 ∧ (on fun g => { g with busy := true }).cur.busy = true := by decide +kernel

/-- The base after its trap: the record lies at 0, at the segment's base. -/
def trapped : State := base.takeTrap trapInfo

def rteF : Fields := fl z (.const .zero) z z 0

theorem test_ReturnFromTrap : let va := (val64 trapped rteF.imm rteF.a 0).toNat
    let r := trapped.readVa trapped.cur.agent va 0xC0
    ∃ x, r.1 = .ok x ∧ x.psn = false ∧ trapped.cur.acts rteF.guard = true ∧ trapped.cur.converged = true ∧ va + 0xBF < 2 ^ 54
      ∧ (restoreOf x.bytes).slotsOk r.2.cur = true ∧ (stackMasks (restoreOf x.bytes).pstk r.2).1 = .ok []
      ∧ coversOnce (stackMasks (restoreOf x.bytes).pstk r.2).2.cur ((restoreOf x.bytes).slots.map (·.mask) ++ []) = true := by
  refine ⟨(match (trapped.readVa trapped.cur.agent 0 0xC0).1 with | .ok x => x | .fault _ _ => ⟨[], true⟩), ?_⟩
  decide +kernel
theorem test_ReturnFromTrap_bad : (restoreOf (leBytes 192 0)).slotsOk trapped.cur = true
    ∧ coversOnce trapped.cur ((restoreOf (leBytes 192 0)).slots.map (·.mask) ++ []) = false
    ∧ (restoreOf (leBytes 64 0 ++ leBytes 128 1)).slotsOk trapped.cur = false := by decide +kernel

theorem test_PrivilegeAndControlRegisters : (rawOf 0xE09EE14BB85C000000000000).opc / 64 = 0xE
    ∧ (decodeSlot widestEnv 0xE09EE14BB85C000000000000).toOption.isSome = true
    ∧ lineSlot (BitVec.ofNat 512 0xE09EE14BB85C000000000000) 0 = 0xE09EE14BB85C000000000000
    ∧ base.cur.acts ⟨false, 7⟩ = true ∧ base.cur.pstk = 0 := by decide +kernel

/-! ### Witnesses: loads, stores, barriers, copies, atomics -/

def lmod (sp : Space) (w : Nat) : LocalMod := ⟨sp, BitVec.ofNat 2 w, false, 1⟩
/-- An access by lane number: lane l at offset 8 * l, from an offset on. -/
def strided (d c : Opnd) (imm : Word) : Fields := fl d (.v 1) .imm c imm
/-- The base with v1 holding 8 * lane. -/
def lanesBy8 : State := on fun g => { g with v := (List.range 64).foldl (fun v l => sput v (64 + l) (BitVec.ofNat 32 (8 * l))) g.v }

/-- Every lane's word at its own offset. -/
def words (s : State) (o : Fields) : List LaneWords :=
  (maskLanes (s.cur.effect o.guard)).map fun l => (l, [laneOffset s o l])

theorem test_LocalLoads_s : let s := lanesBy8; let o := strided (.v 2) z 0
    actLanes s.cur o (uniformDest o.d) ≠ [] ∧ (checkLanes .s .read 8 8 8 0 (words s o) s).2.1 = []
    ∧ s.mustWait .s (laneLocs s.cur .s (words s o)) 8 false = false
    ∧ (checkLanes .s .read 8 8 8 0 (words s o) s).2.2.cur = s.cur
    ∧ actLanes s.cur (flOff (.v 2) (.v 1) .imm z 0) false = [] := by decide +kernel
theorem test_LocalLoads_k : let s := lanesBy8; let o := strided (.v 2) z 0; let r := checkLanes .k .read 4 4 4 0 (words s o) s
    r.2.1 = [] ∧ r.2.2.mustWait .k (laneLocs r.2.2.cur .k (words s o)) 4 false = false
    ∧ (readLanes .k 4 r.1 r.2.2).2.2.cur = s.cur := by decide +kernel
theorem test_LocalLoads_ldb : let s := base; let o := fl (.v 2) (.s 1) .imm z 0
    let run := (maskLanes (s.cur.effect o.guard)).map fun l => (l, (List.range 2).map fun i => 4 * (64 * i + l))
    maskLanes (s.cur.effect o.guard) ≠ [] ∧ (checkLanes .s .read 4 4 4 0 run s).2.1 = []
    ∧ s.mustWait .s (laneLocs s.cur .s run) 4 false = false
    ∧ (readLanes .s 4 (checkLanes .s .read 4 4 4 0 run s).1 s).2.2.cur = s.cur := by decide +kernel
theorem test_LocalLoads_segPlace : let sg := base.cur.seg .k
    (0 : Nat) < 4 ∧ sg.limit - 1024 < (sg.limit - 1024) + 1 ∧ 64508 + 4 ≤ sg.limit - 1024 ∧ 64510 + 1 ≤ sg.limit - 1024
    ∧ 64510 % 4 ≠ 0 ∧ sg.base + 64508 < 2 ^ 54
    ∧ (match (base.translate (some base.cur.coreNo) base.cur.ctx (sg.base + 64508) .read).1 with
        | .ok pa _ _ _ => pa == 64508 | _ => false) = true := by decide +kernel
theorem test_LocalLoads_segFault : let s := on fun g => { g with sgk := ⟨2 ^ 54 - 4096, 8192⟩ }
    2 ^ 54 ≤ (s.cur.seg .k).base + 4096
    ∧ (match (s.translate (some s.cur.coreNo) s.cur.ctx (2 ^ 54 - 4096) .read).1 with
        | .fault f => f == .notPresent 0 | _ => false) = true := by decide +kernel

theorem test_SharedMemoryAccess_load : let s := lanesBy8; let o := strided (.v 2) z 0
    maskLanes (s.cur.effect o.guard) ≠ [] ∧ s.mem.sharedPsn = []
    ∧ (∀ l ∈ maskLanes (s.cur.effect o.guard), (val s o.imm o.a l + val s o.imm o.b l).toNat + 4 ≤ s.cur.sgs.limit
        ∧ (val s o.imm o.a l + val s o.imm o.b l).toNat % 4 = 0)
    ∧ s.mustWait .s ((maskLanes (s.cur.effect o.guard)).map fun l => s.cur.sgs.base + laneOffset s o l) 4 false = false := by
  decide +kernel
theorem test_SharedMemoryAccess_store : let s := lanesBy8; let o := strided z (.v 2) (65536 - 512)
    s.mon = [] ∧ s.cur.sgs.base + s.cur.sgs.limit ≤ Config.sharedBytes
    ∧ (∀ l ∈ maskLanes (s.cur.effect o.guard), laneOffset s o l + 8 ≤ s.cur.sgs.limit ∧ laneOffset s o l % 8 = 0)
    ∧ s.mustWait .s ((maskLanes (s.cur.effect o.guard)).map fun l => s.cur.sgs.base + laneOffset s o l) 8 false = false := by
  decide +kernel
theorem test_LocalStores : let s := lanesBy8; let o := strided z (.v 2) 65528
    let r := checkLanes .s .write 8 8 8 1 (words s o) s
    r.2.1.length = 63 ∧ r.1.length = 1 ∧ r.2.2.mustWait .s (laneLocs r.2.2.cur .s (words s o)) 8 false = false
    ∧ (checkLanes .s .write 8 8 8 1 (words s (strided z (.v 2) 0)) s).2.1 = [] := by decide +kernel
/-- `stb` of the constant `quad` (R87): lanes 4 to 7 store 1. -/
theorem test_stb_quad : ran (exec (.stb ⟨.s, 0, false, 0⟩ (fl z (.s 0) z (.const .quad) 0)) base)
    (fun t => t.sharedByte 0 (4 * 7) == 1 && t.sharedByte 0 (4 * 8) == 2 && t.sharedByte 0 (4 * 3) == 0) = true := by decide +kernel
theorem test_LocalStores_stb : let s := base
    let run := (maskLanes (s.cur.effect ⟨false, 7⟩)).map fun l => (l, (List.range 2).map fun i => 4 * (64 * i + l))
    let r := checkLanes .s .write 4 4 4 1 run s
    r.2.1 = [] ∧ r.2.2.mustWait .s (laneLocs r.2.2.cur .s run) 4 false = false := by
  decide +kernel
theorem test_DeviceStoreFrame : let s := lanesBy8; let o := strided z (.v 2) 0; let r := checkLanes .k .write 4 4 4 1 (words s o) s
    r.2.1 = [] ∧ r.2.2.cur = s.cur ∧ r.2.2.mon = [] ∧ r.2.2.sweep.regs = []
    ∧ r.2.2.mustWait .k (laneLocs r.2.2.cur .k (words s o)) 4 false = false := by decide +kernel

/-- An outstanding operation of the base's group. -/
def anOp (w : Work) (q : Nat) (ph : Phase) : Op :=
  { newOp base (fl z z z z 0) 0x180 q [] w with phase := ph }
/-- The base with one outstanding operation, number 5. -/
def opState (w : Work) (q : Nat) (ph : Phase) : State := { base with ops := [(5, anOp w q ph)], nextId := 6 }

theorem test_LoadReturns : let s := opState (.load 1 4 [(.v 2, 0, 7)] []) noQueue .queued
    sfind s.ops 5 = some (anOp (.load 1 4 [(.v 2, 0, 7)] []) noQueue .queued)
    ∧ (anOp (.load 1 4 [(.v 2, 0, 7)] []) noQueue .queued).gid = s.cur.gid := by decide +kernel

theorem test_FencesAndWholeGroupBarriers_fence : base.cur.acts ⟨false, 7⟩ = true ∧ base.performedAll .ar = true
    ∧ (opState (.load 1 4 [] []) noQueue .queued).performedAll .ar = false
    ∧ (List.range 6).countP (((3 : Word).toNat % 64).testBit) = 2 ∧ (List.range 6).countP (((1 : Word).toNat % 64).testBit) < 2 := by
  decide +kernel
theorem test_FencesAndWholeGroupBarriers_bar : base.cur.bar ≠ .released ∧ base.cur.converged = true
    ∧ (on fun g => { g with bar := .released }).cur.bar = .released
    ∧ (on fun g => { g with ctr := [(0, 1)] }).cur.converged = false := by decide +kernel
/-- The base with a partner of its team. -/
def pair2 : State := { base with others := [(2, { base.cur with gid := 2, gidx := 1 })] }
theorem test_FencesAndWholeGroupBarriers_last : let here (s : State) : State := { s with cur := { s.cur with bar := .team } }
    ((here pair2).partners false).any (fun g => g.bar ≠ .team) = true
    ∧ ((here { pair2 with others := [(2, { base.cur with gid := 2, bar := .team })] }).partners false).all (fun g => g.bar = .team) = true := by
  decide +kernel

theorem test_PhaseBarriers : let s := on fun g => g.writeS 1 (65536 - 16)
    s.cur.acts ⟨false, 7⟩ = true ∧ s.cur.stepLeft = 0 ∧ (val s 0 (.s 1) 0).toNat + 16 ≤ s.cur.sgs.limit
    ∧ (val s 0 (.s 1) 0).toNat % 16 = 0 ∧ s.phbarAt s.cur.coreNo (s.cur.sgs.base + 65520) = some ⟨0, 0, 0, 0, 0, false, false⟩
    ∧ s.performedAll .rel = true := by decide +kernel
/-- A barrier of two arrivals at offset 0, of which none has come. -/
def bar2 : State := base.writeLocal .s 0 0 (Phbar.toBytes ⟨0, 2, 0, 3, 0, false, false⟩)
theorem test_PhaseBarriers_quit : bar2.phbarAt bar2.cur.coreNo (bar2.cur.sgs.base + 0) = some ⟨0, 2, 0, 3, 0, false, false⟩
    ∧ (0 : Nat) + 1 < 2 ∧ (3 : Nat) = (3 : Word).toNat % 256 ∧ (3 : Nat) ≠ (4 : Word).toNat % 256 := by decide +kernel
theorem test_PhaseBarriers_bad : (on fun g => { g with sgs := ⟨0, 15⟩ }).cur.sgs.limit < 0 + 16
    ∧ ({ base with mem := { base.mem with sharedPsn := [(0, true)] } } : State).phbarAt 0 0 = none := by decide +kernel

def cmod (ds ss : Space) : CopyMod := ⟨false, ds, ss, 0⟩
theorem test_CopyCommands : let s := on fun g => (g.writeS 1 65472).writeS 2 64
    s.cur.acts ⟨false, 7⟩ = true ∧ (fl (.s 1) (.s 0) (.s 2) z 0).d = .s 1
    ∧ (val s 0 (.s 1) 0).toNat + (val s 0 (.s 2) 0).toNat ≤ (s.cur.seg .s).limit ∧ (val s 0 (.s 2) 0).toNat % 4 = 0
    ∧ (val s 0 (.s 1) 0).toNat % 4 = 0 ∧ ¬ ((val s 0 (.s 1) 0).toNat + 65 ≤ (s.cur.seg .s).limit) ∧ (65 : Nat) % 4 ≠ 0
    ∧ (val64 s 0 (.a 1) 0).toNat % 4 = 0 ∧ (val64 s 0 (.a 1) 0).toNat < 2 ^ 54 := by decide +kernel
theorem test_CopyCommands_lanes : let s := lanesBy8
    ∀ l ∈ maskLanes (s.cur.effect ⟨false, 7⟩), segCheck s.cur .s (val s 0 (.v 1) l).toNat 4 4 = none
      ∧ (valPair s 0 (.v 2) l).toNat % 4 = 0 ∧ (valPair s 0 (.v 2) l).toNat < 2 ^ 54 := by decide +kernel
theorem test_CopyCommands_counted : let s : State := { bar2 with cur := bar2.cur.writeS 1 64 }; let o := fl (.s 0) (.s 1) (.s 2) (.s 1) 0
    barrierOff s o = some 0 ∧ (val s o.imm o.a 0).toNat + (val s o.imm o.c 0).toNat ≤ s.cur.sgs.limit
    ∧ (s.writeLocal .s s.cur.coreNo 0 (Phbar.toBytes ⟨64, 2, 0, 3, 0, false, false⟩)).cur = s.cur := by decide +kernel

def amod (sp : Space) (aop : Nat) : AtomMod := ⟨sp, BitVec.ofNat 4 aop, false, .rlx, .core⟩
theorem test_AtomicsIssue : let s := lanesBy8; let o := fl (.v 3) (.v 1) (.v 2) z 0
    let ls := (actLanes s.cur o false).map fun l => (⟨l, (val s o.imm o.a l).toNat, 0, 0, 0⟩ : LaneOp)
    let r := atomLanes .s 4 2 ls s
    ls ≠ [] ∧ r.2.1 = [] ∧ r.2.2.cur = s.cur ∧ r.2.2.mustWait .s (r.1.map (·.loc)) 4 false = false
    ∧ (fl (.s 3) (.s 1) (.s 2) z 0).d = .s 3 ∧ s.cur.acts ⟨false, 0⟩ = false := by decide +kernel
theorem test_AtomicsIssue_wait : let s := base; let o := fl (.s 3) (.s 1) (.s 2) (.s 4) 0
    let r := s.atomCheck .s 0 4 3 0
    (actLanes s.cur o true).head? = some 0 ∧ r.1 = .ok 0 ∧ r.2.cur = s.cur ∧ r.2.mustWait .s [0] 4 false = false
    ∧ s.mustWait .s [0] 4 true = false ∧ 0 + 4 ≤ s.cur.sgs.limit ∧ s.wakeOrder .s .core 0 0 = [] := by decide +kernel

/-- An atomic of one lane in the core's memory, at the end of it. -/
def oneAtom : Work := .atomic .s false 0 true .rlx .core (.s 3) [⟨0, 524280, 524280, 1, 0⟩]
theorem test_AtomicsAndWaitsArrive_atom : let s := opState oneAtom noQueue .queued
    sfind s.ops 5 = some (anOp oneAtom noQueue .queued) ∧ (anOp oneAtom noQueue .queued).work = oneAtom
    ∧ s.mon = [] ∧ s.mem.sharedPsn = [] ∧ 524280 + 8 ≤ Config.sharedBytes ∧ (anOp oneAtom noQueue .queued).gid = s.cur.gid := by
  decide +kernel
def oneWait : Work := .wait .s false false .rlx .core 3 0 0 10
theorem test_AtomicsAndWaitsArrive_wait : let s := opState oneWait noQueue .queued
    sfind s.ops 5 = some (anOp oneWait noQueue .queued) ∧ (anOp oneWait noQueue .queued).result.toNat = 0
    ∧ ofLe (s.sharedBytesAt 0 0 4) = 0 ∧ s.monRoom 0 0 = true
    ∧ ofLe ((opState oneWait noQueue .queued).writeLocal .s 0 0 (leBytes 4 1) |>.sharedBytesAt 0 0 4) ≠ 0 := by decide +kernel
theorem test_AtomicsAndWaitsArrive_full : let s := { opState oneWait noQueue .queued with
    mon := (List.range 32).map fun i => (⟨0, .s, i, false, .core, i + 10, 0⟩ : MonEntry) }
    s.monRoom 0 0 = false := by decide +kernel
theorem test_AtomicsAndWaitsArrive_late : let s := { opState oneWait noQueue .running with now := 10 }
    (anOp oneWait noQueue .running).phase = .running ∧ (anOp oneWait noQueue .running).since + 10 ≤ s.now := by decide +kernel

def cpyW (n : Nat) : Work := .copy .s .s false 0x8000 0 n none
theorem test_EngineCommandsRun_small : let s := opState (cpyW (2 ^ 20 - 4)) 0 .queued
    s.commandReady 5 (anOp (cpyW (2 ^ 20 - 4)) 0 .queued) = true ∧ (anOp (cpyW 4) 0 .queued).gid = s.cur.gid
    ∧ s.gridOf (anOp (cpyW 4) 0 .queued).grid = none := by decide +kernel
theorem test_EngineCommandsRun_large : let s := opState (cpyW (2 ^ 20)) 0 .queued
    s.commandReady 5 (anOp (cpyW (2 ^ 20)) 0 .queued) = true ∧ s.leave.waiting = [] ∧ 243 ≤ s.leave.free
    ∧ ({ s with leave := { s.leave with free := 242 } } : State).commandReady 5 (anOp (cpyW (2 ^ 20)) 0 .queued) = true
    ∧ ({ s with leave := { s.leave with waiting := [5] } } : State).leave.waiting.head? = some 5 := by decide +kernel
theorem test_EngineCommandsRun_unit : let s := opState (cpyW 100) 0 .running
    sfind s.ops 5 = some (anOp (cpyW 100) 0 .running) ∧ s.mon = [] ∧ s.mem.sharedPsn = [] ∧ 0x8000 + 100 ≤ Config.sharedBytes := by
  decide +kernel

/-! ### Witnesses: matrix, side commands, line entry, translation, ends -/

theorem test_ExactArithmetic : ([(32767, 32767), (-1, 5)].map fun e : Int × Int => e.1 * e.2).sum < 4294966272
    ∧ floatVal F32 0x7F7FFFFF ≠ .nan ∧ floatVal F32 0xFF800000 ≠ .nan := by decide +kernel

/-- The base with a format block of `F16` by `F16` at offset 0. -/
def fmtState : State := base.writeLocal .s 0 0 (leBytes 1 (17 * fmtCode .f16) ++ leBytes 31 0)
def mm : MmaMod := ⟨false, true, false, 0⟩
def mmF : Fields := fl (.m 0) (.s 1) (.v 0) (.s 0) 0

theorem test_MatrixCommands_all : (∀ l < 64, fmtState.cur.exited.getLsbD l = false →
      fmtState.cur.live.getLsbD l = true ∧ (fmtState.cur.effect mmF.guard).getLsbD l = true)
    ∧ fmtState.cur.exited ≠ BitVec.allOnes 64 ∧ fmtState.verdict 0 = .clear ∧ fmtState.spare 0 = some 0
    ∧ segCheck fmtState.cur .s 0 16384 256 = none
    ∧ (match mmaPrep fmtState mm mmF false with | .ok _ => true | _ => false) = true := by decide +kernel
theorem test_MatrixCommands_conv : ∃ l < 64, (on fun g => { g with ctr := [(0, 1)] }).cur.exited.getLsbD l = false
    ∧ (on fun g => { g with ctr := [(0, 1)] }).cur.live.getLsbD l = false := by decide +kernel

/-- A launch descriptor of one gang of one team with four groups of role 2. -/
def desc4 : LaunchDesc :=
  { entry := mkPc 0x1000 0, tvec := 0, kbase := 0, ksize := 65536, shared := 0, yard := 0, lanes := 64, groups := 4, teams := 1, gangs := 1,
    monlim := 32, priv := false, dies := 15, roles := [2, 2, 2, 2], vblk := [4, 4, 4, 4], vbud := [4, 4, 4, 4], tq := [4, 4, 4, 4],
    wdog := 0, fmask := 0, sarg := [], aarg := [] }
def grid0 : Grid :=
  { ctx := 0, queue := 0, desc := desc4, blocks := [], prio := 0, order := 0, rec_ := 0, cw := 0, cv := 0, irq := none, gangsLeft := 1,
    jobs := 0, fails := 0, xfail := 0, orphs := 0, xorph := 0, census := [], xsite := 0, speriod := 0, sbuf := 0, slen := 0, sused := 0,
    sdrop := 0, tbuf := 0, tlen := 0, tused := 0, tdrop := 0, posted := 0, placed := none, endedAt := none, ifault := 0, iio := 0,
    ended := false, aborted := false }
/-- The format state with its team's four groups, one a slice. -/
def quartetState (r : Option Rdv) : State := { fmtState with
  cur := { fmtState.cur with rdv := r },
  others := [1, 2, 3].map fun n => (n + 1, { fmtState.cur with gid := n + 1, slice := n, rdv := r }),
  launch := { fmtState.launch with grids := [(0, grid0)] } }

theorem test_MatrixCommands_quartet : let s := quartetState none
    s.cur.rdv = none ∧ s.cur.collective mmF.guard true = .act ∧ s.verdict 0 = .clear ∧ s.hasQuartet = true ∧ s.quartet.length = 4
    ∧ (match mmaPrep s mm mmF true with | .ok _ => true | _ => false) = true
    ∧ (match corPrep s ⟨.upd, 0, 3, false⟩ (fl (.m 0) (.v 0) (.v 4) (.s 0) 0) true with | .ok _ => true | _ => false) = true
    ∧ (quartetState (some (.split 2))).cur.rdv = some (.split 2) := by decide +kernel

def mmqW : MmaWork := ⟨0, false, true, false, 0, ⟨.f16, .f16, 0, 0, ⟨false, false, 0, 0, 0, 0⟩⟩, 0, [], [], 64, 0, 16, 0, true⟩
theorem test_MatrixCommands_meet : let s := quartetState (some (.mmq mmqW mmF))
    let ms := s.quartet.filterMap fun g => g.mmqOf.map fun e => (g, e)
    s.quartet.length = 4 ∧ s.cur.gid ≠ 0 ∧ ms.length = 4 ∧ (s.quartet.filterMap fun g => g.corqOf.map fun e => (g, e)) = []
    ∧ (∀ e ∈ ms, ∀ x ∈ ms.head?, e.2.1.agrees x.2.1 = true)
    ∧ ({ mmqW with fin := true } : MmaWork).agrees mmqW = false := by decide +kernel
theorem test_MatrixCommands_order : let s := quartetState (some (.mmq mmqW mmF))
    (s.quartet.mergeSort fun g h => g.slice ≤ h.slice) = s.quartet := List.mergeSort_of_pairwise (by decide +kernel)
def corqW : CorWork := ⟨0, .upd, 0, 0, 4, false, [], [], 0, 0, none, none⟩
theorem test_MatrixCommands_meetCor : let s := quartetState (some (.corq corqW mmF))
    let cs := s.quartet.filterMap fun g => g.corqOf.map fun e => (g, e)
    cs.length = 4 ∧ (s.quartet.filterMap fun g => g.mmqOf.map fun e => (g, e)) = []
    ∧ (∀ e ∈ cs, ∀ x ∈ cs.head?, e.2.1.agrees x.2.1 = true) := by decide +kernel

theorem test_CorrectingCommands : vregNo (.v 0) = 0 ∧ base.verdict (tileNo (.m 0)) = .clear
    ∧ (match corPrep base ⟨.rsp, 0, 3, false⟩ (fl (.m 0) (.v 0) (.v 4) z 0) false with | .ok _ => true | _ => false) = true := by
  decide +kernel

/-! ### Witnesses: further clauses of the statements above -/

theorem test_PathsSplitAndMerge_pushFails : let s := evens { two 0x2000 with cur := { (two 0x2000).cur with sgk := ⟨2 ^ 36, 65536⟩ } }
    s.cur.otherSlot.valid = true ∧ s.cur.pstk < 62 ∧ (s.pushPath (nextPoint s.cur.pc) 1).1 = false := by decide +kernel
theorem test_StructuredControl_skips : (∀ l < 64, base.cur.ctrOf l = 0) ∧ (base.cur.guardMask ⟨false, 7⟩) = BitVec.allOnes 64
    ∧ (base.checkTransfer (directTarget base.cur.pc 7)).1 = .error (3, 1) ∧ (253 : BitVec 8).toNat < 254
    ∧ ((on fun g => { g with ctr := [(0, 254)] }).cur.ctrOf 0).toNat + 2 > 255 := by decide +kernel
theorem test_GrowAndShrink_none : base.cur.acts ⟨false, 0⟩ = false ∧ (val (asks 0 1 1 .none) 0 (.s 1) 0).toNat = 0 := by decide +kernel
theorem test_LocalLoads_none : let s := lanesBy8; let o := strided (.v 2) z 65536; let r := checkLanes .s .read 4 4 4 0 (words s o) s
    r.1 = [] ∧ r.2.1 ≠ [] ∧ r.2.2.mustWait .s (laneLocs r.2.2.cur .s (words s o)) 4 false = false := by decide +kernel
theorem test_PhaseBarriers_focus : (on fun g => { g with stepLeft := 1, focus := 1 }).cur.outsideFocus = true
    ∧ base.cur.outsideFocus = false ∧ base.cur.acts ⟨false, 0⟩ = false ∧ 8 + 16 ≤ base.cur.sgs.limit ∧ 8 % 16 ≠ 0 := by decide +kernel
/-- An atomic of the base's group still stands at offset 0, in the last bytes of an object; one of other bytes holds a release. -/
theorem test_PhaseBarriers_waits :
    let at_ (n : Nat) : State := opState (.atomic .s false 0 false .rlx .core (.s 3) [⟨0, n, n, 1, 0⟩]) noQueue .queued
    (at_ 12).mustWait .s [0] 16 false = true ∧ (at_ 16).mustWait .s [0] 16 false = false ∧ (at_ 16).performedAll .rel = false := by
  decide +kernel
/-- An object whose phase is complete but for a function that sees it, and the bounds of `init` and `quit`. -/
theorem test_PhaseBarriers_complete : let b : Phbar := ⟨0, 2, 2, 255, 1, false, false⟩
    (base.writeLocal .s 0 0 b.toBytes).phbarAt 0 0 = some b ∧ b.got = b.need ∧ b.pend = 0 ∧ b.need = b.left + 1
    ∧ (⟨0, 2, 2, 255, 0, false, false⟩ : Phbar).need ≠ 0 + 1 ∧ 1 ≤ (255 : Word).toNat ∧ (255 : Word).toNat ≤ 255
    ∧ 255 < (256 : Word).toNat := by decide +kernel
theorem test_CopyCommands_ends : let s := on fun g => ((g.writeS 1 0).writeS 2 65540).writeA 1 (2 ^ 54)
    (val s 0 (.s 1) 0).toNat = 0 ∧ (val s 0 (.s 1) 0).toNat % 4 = 0 ∧ 0 + 0 ≤ (s.cur.seg .s).limit
    ∧ (val64 s 0 (.a 1) 0).toNat % 4 = 0 ∧ 2 ^ 54 ≤ (val64 s 0 (.a 1) 0).toNat ∧ s.cur.acts ⟨false, 0⟩ = false
    ∧ (∀ l ∈ maskLanes (s.cur.effect ⟨false, 7⟩), segCheck s.cur .s (val s 0 (.s 2) l).toNat 4 4 ≠ none) := by decide +kernel
theorem test_CopyCommands_saturates : 2 ^ 48 - 1 < (⟨2 ^ 48 - 64, 2, 0, 0, 0, false, false⟩ : Phbar).pend + 64
    ∧ (base.writeLocal .s 0 0 (Phbar.toBytes ⟨2 ^ 48 - 64, 2, 0, 0, 0, false, false⟩)).phbarAt 0 0
      = some ⟨2 ^ 48 - 64, 2, 0, 0, 0, false, false⟩ := by decide +kernel
theorem test_AtomicsIssue_none : let s := on fun g => (g.writeS 1 65536).writeA 1 (2 ^ 54 - 4); let o := fl (.s 3) (.s 1) (.s 2) (.s 4) 0
    let r := atomLanes .s 4 2 [⟨0, 65536, 0, 0, 0⟩] s
    r.1 = [] ∧ r.2.1 ≠ [] ∧ r.2.2.cur = s.cur ∧ (actLanes s.cur o true).head? = some 0
    ∧ (match (s.atomCheck .s 65536 4 3 0).1, (s.atomCheck .s 65536 4 2 0).1 with | .error _, .error _ => true | _, _ => false) = true
    ∧ (val64 s 0 (.a 1) 0).toNat % 4 = 0 ∧ (val64 s 0 (.a 1) 0).toNat < 2 ^ 54 ∧ s.mustWait .g [2 ^ 54 - 4] 4 true = false
    ∧ actLanes s.cur (flOff (.s 3) (.s 1) (.s 2) z 0) true = [] := by decide +kernel
/-- A sleeper at block 0, whose operation is older than the next one. -/
theorem test_AtomicsIssue_woken : let w : Work := .wait .s false false .rlx .core 3 0 0 0
    let s := { opState w noQueue .running with mon := [⟨0, .s, 0, false, .core, 5, 0⟩] }
    s.wakeOrder .s .core 0 (0 / 64) = [⟨0, .s, 0, false, .core, 5, 0⟩] ∧ 5 < s.nextId ∧ (sfind s.ops 5).map (·.work) = some w
    ∧ s.mustWait .s [0] 4 true = false := by decide +kernel
theorem test_EngineCommandsRun_ends : (anOp (cpyW 4) 0 .ended).phase = .ended ∧ (∀ e ∈ base.cur.tiles, e.2.turned = none)
    ∧ ({ opState (cpyW (2 ^ 20)) 0 .leave with leave := { base.leave with waiting := [5] } } : State).leave.waiting.head? = some 5
    ∧ 243 ≤ base.leave.free := by decide +kernel
theorem test_MatrixCommands_part : (∀ l < 64, (fmtState.cur.effect ⟨false, 0⟩).getLsbD l = false)
    ∧ (∀ l < 64, fmtState.cur.exited.getLsbD l = false → fmtState.cur.live.getLsbD l = true)
    ∧ (∃ l < 64, ((evens base).cur.effect ⟨false, 0⟩).getLsbD l = true)
    ∧ (∃ l < 64, (evens base).cur.live.getLsbD l = true ∧ ((evens base).cur.effect ⟨false, 0⟩).getLsbD l = false)
    ∧ segCheck base.cur .s 0 (4096 * (fmtBits .f32 / 8)) 256 = none
    ∧ (match mmaPrep base mm (fl (.m 0) (.s 1) (.v 0) .imm 65536) false with | .trap _ _ => true | _ => false) = true := by decide +kernel
theorem test_MatrixCommands_found : let s := quartetState (some (.mmq mmqW mmF))
    (∀ e ∈ s.others, e.2.gid = e.1 ∧ e.1 ≠ s.cur.gid ∧ e.1 ≠ 0) ∧ skeysRise s.others = true ∧ (∀ g ∈ s.quartet, pcSlot g.pc < 4)
    ∧ base.hasQuartet = false ∧ base.cur.rdv = none ∧ base.cur.collective ⟨false, 7⟩ true = .act ∧ base.verdict 0 = .clear := by
  decide +kernel
theorem test_MatrixCommands_disagree : corqW.agrees { corqW with mode := .rsp } = false ∧ mmqW.agrees { mmqW with fin := true } = false := by
  decide +kernel
theorem test_CorrectingCommands_part : (∃ l < 64, (on fun g => { g with ctr := [(5, 1)] }).cur.exited.getLsbD l = false
      ∧ (on fun g => { g with ctr := [(5, 1)] }).cur.live.getLsbD l = false)
    ∧ (∀ l < 64, base.cur.exited.getLsbD l = false → base.cur.live.getLsbD l = true)
    ∧ (∀ l < 64, (base.cur.effect ⟨false, 0⟩).getLsbD l = false)
    ∧ base.cur.exited ≠ BitVec.allOnes 64 := by decide +kernel

/-- The base with an `attn` descriptor at offset 0: one row of 64 elements. -/
def attnBytes : Bytes :=
  leBytes 8 0x10000 ++ leBytes 8 0x20000 ++ leBytes 8 0x30000 ++ leBytes 8 0x40000 ++ leBytes 4 0x3F800000 ++ leBytes 4 0 ++ leBytes 4 4
    ++ leBytes 1 1 ++ leBytes 1 64 ++ leBytes 18 0
def attnState : State := base.writeLocal .s 0 0 attnBytes
theorem test_AttentionAndSideCommands_attn : let s := attnState; let x := s.readLocal .s s.cur.coreNo (s.cur.sgs.base + 0) 64
    s.cur.acts ⟨false, 7⟩ = true ∧ 0 + 64 ≤ s.cur.sgs.limit ∧ x.psn = false ∧ (attnDesc x.bytes).toOption.isSome = true
    ∧ (attnDesc (leBytes 64 0)).toOption.isNone = true ∧ s.cur.sgs.limit < 65536 + 64 := by decide +kernel
theorem test_AttentionAndSideCommands_addr : (0x3FFFFFFFFFFF00 : Nat) % 256 = 0 ∧ 0x3FFFFFFFFFFF00 < 2 ^ 54 ∧ (1 : Nat) % 256 ≠ 0
    ∧ (2 ^ 54 : Nat) % 256 = 0 ∧ (base.readLocal .s base.cur.coreNo (base.cur.sgs.base + 65504) 32).psn = false
    ∧ 65504 + 32 ≤ base.cur.sgs.limit ∧ 65504 % 32 = 0 ∧ (0x3FFFFFFFFFFF80 : Nat) % 128 = 0 := by decide +kernel

/-- The base between clauses. -/
def resting (f : Group → Group) : State := on fun g => f { g with inClause := false }
theorem test_LineEntry_offer : let s := resting id
    s.cur.gid ≠ 0 ∧ s.cur.resident = true ∧ s.cur.stopped = false ∧ s.cur.stepLeft = 0 ∧ s.cur.slot0.valid = true ∧ s.cur.slot0.park = none
    ∧ s.offer = some false ∧ s.cur.waitOf false = none ∧ s.cur.shrink = 0 ∧ s.cur.ring = [] ∧ s.cur.waitingRecs = [] ∧ s.cur.fresh = false
    ∧ (s.ibufFind s.cur.coreNo s.cur.ctx (pcLine s.cur.slot.pc)).map (·.data) = some nopLine ∧ lineParity nopLine = true
    ∧ lineFail s.cur.env nopLine 0 = none := by decide +kernel
theorem test_LineEntry_fails : (match lineFail base.cur.env (withParity 0) 0 with | some _ => true | none => false) = true
    ∧ lineParity (withParity 0) = true := by decide +kernel
theorem test_LineEntry_wait : (resting fun g => { g with wait0 := some nopLine }).cur.waitOf false = some nopLine
    ∧ (resting fun g => { g with wait0 := some nopLine }).offer = some false
    ∧ (∃ n < 12, (1 : BitVec 12).getLsbD n = true ∧ (on fun g => { g with flags := [(0, 1)] }).cur.flagCount n ≠ 0) := by decide +kernel
theorem test_LineEntry_fill : let s := { resting id with ibuf := [] }
    let h : State := { s with cur := { s.cur with issue1 := false, stall := some .ifetch } }
    s.offer = some false ∧ s.cur.waitOf false = none ∧ s.ibufFind s.cur.coreNo s.cur.ctx (pcLine s.cur.slot.pc) = none
    ∧ (h.fillLine s.cur.agent (pcLine s.cur.slot.pc)).1.toOption.isSome = true
    ∧ (h.fillLine ({ h.cur with ctx := 1 } : Group).agent 0x1000).1.toOption.isNone = true := by
  decide +kernel
theorem test_LineEntry_two : let s := resting fun g => { g with
      slot0 := { g.slot0 with mask := 1 }, slot1 := ⟨mkPc 0x2000 0, 2, true, none, 0⟩ }
    s.cur.slot1.valid = true ∧ s.offer = some false ∧ (resting fun g => { g with slot1 := ⟨mkPc 0x40 0, 2, true, none, 0⟩ }).offer = some true := by
  decide +kernel
theorem test_LineEntry_park : (resting fun g => { g with slot0 := { g.slot0 with park := some 1 } }).cur.slot0.park = some 1
    ∧ base.cur.flagCount 0 = 0 ∧ (resting fun g => { g with
        slot0 := { g.slot0 with valid := false }, slot1 := ⟨mkPc 0x40 0, 2, true, some 1, 0⟩ }).cur.slot1.park = some 1 := by decide +kernel

/-- The base with pages from 64 GiB on that pager 5 has yet to supply, whose queue of two messages has its header at 1 MiB. -/
def paged (c : Ctx) : State :=
  let s := State.writePa { base with xlate := { base.xlate with ctxs := [(0, c)] } } (outside 0) 0 0x200008 (leBytes 8 10)
  s.writePa (outside 0) 0 0x100000 (leBytes 8 0x110000 ++ leBytes 4 2 ++ leBytes 20 0)
def pagedCtx : Ctx := ⟨0x200000, [(5, 0x100000)], true, false⟩
/-- An atomic in that page. -/
def farAtom : Work := .atomic .g false 0 false .rlx .dev (.s 3) [⟨0, 2 ^ 36, 2 ^ 36, 1, 0⟩]
def farOp : Op := anOp farAtom noQueue .queued
def farState (c : Ctx) : State := { paged c with ops := [(5, farOp)], nextId := 6 }

theorem test_FaultsUpcallsAndAnswers_miss : let s := farState pagedCtx
    sfind s.ops 5 = some farOp
    ∧ firstMiss (fun s va acc => s.opTranslate 5 va acc) (s.waitsFor 5) false (spanParts (s.spansOf 5 farOp)) s = some ⟨2 ^ 20, 5, .both⟩
    ∧ s.hasPager farOp.ctx 5 = true ∧ farOp.upcalled.contains (2 ^ 20) = false
    ∧ (farState ⟨0x200000, [], true, false⟩).hasPager farOp.ctx 5 = false := by decide +kernel
/-- The upcall, and the state in which it waits to be posted or has been answered. -/
def farCall (m : Option Nat) : Upcall := ⟨0, 5, 2 ^ 20, 1, 1, true, true, m, [5], []⟩
def called (m : Option Nat) (ph : Phase) : State :=
  let s := farState pagedCtx
  { s with xlate := { s.xlate with upcalls := [farCall m] }, ops := [(5, { farOp with phase := ph })] }
theorem test_FaultsUpcallsAndAnswers_post : let s := called none .logged
    s.pagerHeader 0 5 = some 0x100000 ∧ (s.upcallsOf 0 5).filter (·.msg.isNone) = [farCall none]
    ∧ (s.pagerQueue 0 0x100000).map (·.1) = some ⟨0x110000, 2, 0, 0, 0⟩ := by decide +kernel
theorem test_FaultsUpcallsAndAnswers_full : let s := (called none .logged).writePa (outside 0) 0 0x100010 (leBytes 8 2)
    (s.pagerQueue 0 0x100000).map (·.1) = some ⟨0x110000, 2, 2, 0, 0⟩ := by decide +kernel
theorem test_FaultsUpcallsAndAnswers_answer : let s := (called (some 0) .logged).writePa (outside 0) 0 0x110018 (leBytes 8 1)
    let q : PagerQueue := ⟨0x110000, 2, 0, 0, 0⟩
    (s.pagerQueue 0 0x100000).map (·.1) = some q ∧ (s.upcallsOf 0 5).find? (fun u => (s.answerOf 0 q u).isSome) = some (farCall (some 0))
    ∧ s.answerOf 0 q (farCall (some 0)) = some 0 ∧ (farCall (some 0)).ops = [5] ∧ s.offCore farOp = false := by decide +kernel

theorem test_MapsAndShootdowns_mapld : let r := base.readVa base.cur.agent 0x8000 128
    base.cur.acts ⟨false, 7⟩ = true ∧ (match r.1 with | .ok x => !x.psn | _ => false) = true ∧ r.2.cur = base.cur
    ∧ (r.2.stackCtl (0 % 12)).asleep = false ∧ (fl (.s 1) (.a 1) (.s 2) z 0).d = .s 1 := by decide +kernel
theorem test_MapsAndShootdowns_asleep : let s := { base with sweep := { base.sweep with ctls := [(0, { StackCtl.reset with asleep := true })] } }
    (s.stackCtl (431 % 12)).asleep = false ∧ (s.stackCtl (420 % 12)).asleep = true ∧ 420 < Config.regions := by decide +kernel
def shootOf (n : Nat) : Shoot := ⟨1, .ctx, 0, 0, 0, List.range n⟩
theorem test_MapsAndShootdowns_tlbi : base.cur.shoot = none ∧ base.performedAll .rel = true
    ∧ (opState oneAtom noQueue .queued).performedAll .rel = false
    ∧ (shootOf (xlateUnits - 1)).acked.length < xlateUnits ∧ xlateUnits ≤ (shootOf xlateUnits).acked.length
    ∧ (shootOf (xlateUnits - 1)).acked.contains (xlateUnits - 1) = false := by decide +kernel
theorem test_MapsAndShootdowns_rbuf : sfind [(rbufKey 0 64, ((1 : BitVec 512), false))] (rbufKey 0 64) = some (1, false)
    ∧ ((1 : BitVec 512), false) ≠ base.homeLine 64 := by
  decide +kernel

theorem test_GrowRequestsAndGroupEnds_watchdog : let s := on fun g => { g with expired := true, inClause := false }
    s.findGroup 1 = some s.cur ∧ s.cur.expired = true ∧ s.cur.resident = true ∧ s.cur.exited ≠ BitVec.allOnes 64
    ∧ s.cur.inClause = false ∧ s.mon = [] ∧ s.sweep.regs = []
    ∧ (on fun g => { g with expired := true, stall := some .fence }).cur.stall ≠ none := by decide +kernel
theorem test_GrowRequestsAndGroupEnds_retire : let s := on fun g => { g with exited := BitVec.allOnes 64 }
    s.findGroup 1 = some s.cur ∧ s.vectorPending 1 = false ∧ s.cur.waitingRecs = [] ∧ base.cur.exited ≠ BitVec.allOnes 64 := by decide +kernel
theorem test_GrowRequestsAndGroupEnds_release (r : Bool) :
    let x : Gang := ⟨0, 0, 0, 0, [⟨0, 0, 0, 0, false⟩, ⟨0, 0, 0, 0, r⟩], 0, false⟩
    let s := { State.reset with launch := { State.reset.launch with gangs := [x] } }
    s.launch.gangs.find? (fun y => y.grid = 0 && y.gngx = 0) = some x ∧ x.teams[0]? = some ⟨0, 0, 0, 0, false⟩
    ∧ s.groups.any (fun k => k.grid = 0 && k.gngx = 0 && k.tign = 0) = false ∧ s.teamBusy 0 0 = false := by
  cases r <;> decide +kernel
theorem test_GrowRequestsAndGroupEnds_grow : let s := on fun g => { g with grow := .asked 1 0 0, vblocks := 1 }
    s.cur ∈ s.growWaiters s.cur.coreNo s.cur.slice ∧ 1 ≤ s.freeBlocks s.cur.coreNo s.cur.slice
    ∧ ({ s with others := [(2, { s.cur with gid := 2, grow := .none, vblocks := 64 })] } : State).freeBlocks s.cur.coreNo s.cur.slice < 1 := by
  decide +kernel
theorem test_GrowRequestsAndGroupEnds_deny : let s := { on (fun g => { g with grow := .asked 8 0 0, vblocks := 60 }) with
      others := [(2, { base.cur with gid := 2, grow := .asked 8 1 1, vblocks := 60, slice := 1 })] }
    s.growStuck 0 = true ∧ (∃ k ∈ s.groups, k.grow = .asked 8 1 1 ∧ k.coreNo = 0 ∧ k.gid = 2)
    ∧ s.growWaiters 0 0 = [s.cur] ∧ s.groups.length = 2 := by decide +kernel

/-! ### Witnesses: launches, placement, pre-emption, contexts -/

/-- A descriptor of one group of 64 lanes. -/
def descBytes : Bytes :=
  leBytes 24 0x1000 ++ leBytes 4 4096 ++ leBytes 8 0 ++ leBytes 2 64 ++ leBytes 1 1 ++ leBytes 1 1 ++ leBytes 4 1 ++ leBytes 1 1
    ++ leBytes 1 0 ++ leBytes 1 1 ++ leBytes 5 0 ++ leBytes 4 1 ++ leBytes 4 1 ++ leBytes 196 0
def entryBytes (desc kind ef : Nat) : Bytes := leBytes 30 desc ++ leBytes 1 kind ++ leBytes 25 ef ++ leBytes 8 1
/-- The mapped state without a group, with launch queue 3: its header at 1 MiB, its ring after it, its head entry as given. -/
def queued (e d : Bytes) : State :=
  let s := { base with cur := Group.vacant, launch := { base.launch with queues := [(3, ⟨0, 0x100000, [], 0, []⟩)] } }
  let s := s.writePa (outside 0) 0 0x100000 (leBytes 8 0x101000 ++ leBytes 24 2)
  (s.writePa (outside 0) 0 0x101000 e).writePa (outside 0) 0 0x102000 d
/-- What holds of the head entry, of the state that has been read, and of the state after its consumption. -/
def atHead3 (s : State) (p : QueueHead → Entry → State → State → Bool) : Bool :=
  match s.headEntry 3 with
  | some (q, h, e, v) => v.queueTurn q h.prio && v.mon.isEmpty && v.sweep.regs.isEmpty && p h e v (v.consume 3 q h)
  | none => false

theorem test_LaunchEntriesAndGridEnds_bad : atHead3 (queued (entryBytes 0x102001 0 0) []) (fun _ e _ _ => !e.poison && e.bad) = true := by
  decide +kernel
theorem test_LaunchEntriesAndGridEnds_good : atHead3 (queued (entryBytes 0x102000 0 0) descBytes) (fun h e _ c =>
    !e.bad && e.kind != 1 && !e.poison && match c.groomRead h.ctx e.desc 256 with
      | some (b, u) => u.refusal h b == 0 | none => false) = true := by decide +kernel
theorem test_LaunchEntriesAndGridEnds_refused : atHead3 (queued (entryBytes 0x102000 0 0) []) (fun h e _ c =>
    !e.poison && !e.bad && e.kind != 1 && match c.groomRead h.ctx e.desc 256 with
      | some (b, u) => u.refusal h b != 0 | none => false) = true
    ∧ atHead3 (queued (entryBytes (2 ^ 37) 0 0) []) (fun h e _ c => !e.bad && (c.groomRead h.ctx e.desc 256).isNone) = true := by
  decide +kernel
theorem test_LaunchEntriesAndGridEnds_poison : let s := queued (entryBytes 0x102000 0 0) []
    atHead3 { s with mem := { s.mem with hbmPsn := [(0x101000 / 64, true)] } } (fun _ e _ _ => e.poison) = true := by
  decide +kernel
theorem test_LaunchEntriesAndGridEnds_load : let h := leBytes 4 0x464F57 ++ leBytes 1 0 ++ leBytes 1 1 ++ leBytes 2 0 ++ leBytes 56 1
    atHead3 (queued (entryBytes 0x102000 1 0) h) (fun h e _ c =>
      !e.bad && e.kind == 1 && !e.poison && match c.loadFile h.ctx e.desc with | .ok _ => true | .error _ => false) = true
    ∧ atHead3 (queued (entryBytes 0x102000 1 0) []) (fun h e _ c =>
      !e.bad && e.kind == 1 && match c.loadFile h.ctx e.desc with | .ok _ => false | .error r => r == 1) = true := by decide +kernel
theorem test_LaunchEntriesAndGridEnds_reset : let s := queued (leBytes 64 0) []
    sfind s.launch.queues 3 = some ⟨0, 0x100000, [], 0, []⟩ ∧ (s.queueHead ⟨0, 0x100000, [], 0, []⟩).isSome = true
    ∧ (match s.queueHead ⟨0, 0x100000, [], 0, []⟩ with | some (_, v) => (v.headEntry 3).isNone | none => false) = true := by decide +kernel
theorem test_LaunchEntriesAndGridEnds_end : let s := { base with launch := { base.launch with grids := [(3, { grid0 with gangsLeft := 0 })] } }
    s.gridOf 3 = some { grid0 with gangsLeft := 0 } ∧ s.mon = [] ∧ s.sweep.regs = [] ∧ grid0.rec_ = 0 ∧ grid0.gangsLeft ≠ 0 := by
  decide +kernel

/-- A pending gang of four groups. -/
def pend4 : State := { State.reset with
  xlate := { State.reset.xlate with ctxs := [(0, pagedCtx)] },
  launch := { State.reset.launch with grids := [(0, grid0)], pending := [(0, 0)] } }
theorem test_GangIsPlaced : pend4.gridOf 0 = some grid0 ∧ pend4.mayPlace 0 0 = true ∧ pend4.savedGang 0 0 = none
    ∧ (pend4.gangSeat grid0.desc.gangNeed pend4.room).isSome = true ∧ grid0.blocks = [] := by decide +kernel

/-- A placed gang whose context is switched out. -/
def gang0 : Gang := ⟨0, 0, 0, 0, [⟨0, 0, 0, 0, false⟩], 0, false⟩
def yielding : State := { resting id with
  xlate := { State.reset.xlate with ctxs := [(0, { pagedCtx with switchedOut := true })] },
  launch := { State.reset.launch with grids := [(0, grid0)], gangs := [gang0] } }
theorem test_GangsAndContexts_preempt : let s := yielding
    s.launch.gangs.find? (fun g => g.grid = 0 && g.gngx = 0) = some gang0 ∧ s.mustYield gang0 = true
    ∧ ((s.gangOps 0 0).all fun e => !(e.2.phase = .running && e.2.endsWithGroup)) = true ∧ s.gangStopped 0 0 = true
    ∧ s.mon = [] ∧ s.sweep.regs = [] ∧ s.gangGroups 0 0 = [s.cur] := by decide +kernel
def saved0 : SavedGang := ⟨0, 0, [{ base.cur with resident := false }], [⟨0, 0, 0, 0, false⟩], 0, [([], [])], ([], [])⟩
theorem test_GangsAndContexts_restore : let s := { pend4 with launch := { pend4.launch with saved := [saved0] } }
    s.savedGang 0 0 = some saved0 ∧ s.mayPlace 0 0 = true ∧ (s.gangSeat (saved0.need grid0.desc) s.room).isSome = true
    ∧ (saved0.groups.map (·.gid)).Nodup ∧ (s.gangSeat (saved0.need grid0.desc) s.room).map (fun p => p.teams.length) = some 1 := by
  decide +kernel
theorem test_GangsAndContexts_ctx : sfind pend4.xlate.ctxs 0 = some pagedCtx ∧ pagedCtx.switchedOut = false
    ∧ sfind yielding.xlate.ctxs 0 = some { pagedCtx with switchedOut := true } := by decide +kernel

/-! ### Witnesses: stacks, sweeps, side units, Sheds, attention -/

def ctl (c : StackCtl) : State := { State.reset with sweep := { State.reset.sweep with ctls := [(11, c)] } }
theorem test_StackControllers : let s := ctl { StackCtl.reset with bank := 15, closing := true }
    (11 : Nat) < 12 ∧ s.stackUsed 11 = true ∧ (s.stackCtl 11).asleep = false ∧ (s.stackCtl 11).closing = true ∧ s.sweep.regs = []
    ∧ (s.stackCtl 10).bank < 15 ∧ (s.stackCtl 10).closing = false ∧ (63 : Nat) < 64 ∧ (110 : Int) ≤ 110 ∧ (110 : Int) < 111 := by
  decide +kernel
theorem test_StackControllers_asleep : ((ctl { StackCtl.reset with asleep := true, cool := 9 }).stackCtl 11).cool < 10
    ∧ 10 ≤ ((ctl { StackCtl.reset with asleep := true, cool := 10 }).stackCtl 11).cool
    ∧ ((ctl { StackCtl.reset with asleep := true }).stackCtl 11).asleep = true := by decide +kernel
theorem test_StackControllers_repair : 431 * 2 ^ 20 < Config.regions * 2 ^ 20 ∧ rowStack (431 * 2 ^ 20) = 11
    ∧ (ctl StackCtl.reset).stackUsed 11 = true ∧ sget 0 ((ctl { StackCtl.reset with spares := [(0, 31)] }).stackCtl 11).spares 0 < 32
    ∧ 32 ≤ sget 0 ((ctl { StackCtl.reset with spares := [(0, 32)] }).stackCtl 11).spares 0 := by decide +kernel

def sdesc : SweepDesc := ⟨0x400000, 1024, 0, 5, false, 3, 1, 0x10000, false⟩
def swarmOp : Op := anOp (.swarm 3 sdesc 0) 5 .running
def reg0 (ph : SweepPhase) (inst : List Nat) : SweepReg :=
  { hdl := 1, ctx := 0, grid := 0, op := 5, gid := 1, place := 0, pc := 0, seq := 0, core := 0, loc := 0, desc := sdesc, blocks := [4096], rows := [4096], attrs := [0],
    entries := [(rowChannel 4096, rowQ 4096)], app := [], rnd := [], phase := ph, installed := inst, badRow := false, failed := [], order := 0,
    armedAt := 0, ext := [] }
def swept (ph : SweepPhase) (inst : List Nat) : State := { opState (.swarm 3 sdesc 0) 5 .running with
  sweep := { State.reset.sweep with regs := [(1, reg0 ph inst)] } }
theorem test_SweepRegistrations_install : sfind (swept .installing []).sweep.regs 1 = some (reg0 .installing [])
    ∧ (reg0 .installing []).stacks = [0] ∧ ((swept .installing []).stackCtl 0).asleep = false ∧ (1 : Nat) ∉ (reg0 .installing []).stacks := by
  decide +kernel
theorem test_SweepRegistrations_arm : let s := swept .installing [0]; let r := reg0 .installing [0]
    (∀ n ∈ r.stacks, n ∈ r.installed) ∧ s.mon = [] ∧ sfind s.ops r.op = some swarmOp
    ∧ (match (s.writeLocal .s r.core (r.loc + 28) (leBytes 4 r.hdl)).translate none r.ctx r.desc.flag .write with
        | (.ok .., _) => true | _ => false) = true
    ∧ ((s.writeLocal .s r.core (r.loc + 28) (leBytes 4 r.hdl)).writeSweepFlag
        { r with phase := .armed, order := s.sweep.nextOrder, armedAt := s.now }).isSome = true := by decide +kernel
theorem test_SweepRegistrations_apply : let s := swept .armed [0]; let r := reg0 .armed [0]
    s.sweep.regs = [(1, r)] ∧ r.liveAt 4096 = true ∧ sget false r.app 4096 = false ∧ sweepEtBytes r.desc.et = some 4 ∧ r.desc.fn < 8
    ∧ rowPoisoned s 4096 = false := by decide +kernel

/-- A command of the side queue at its head. -/
def sideState (w : Work) (f : State → State) : State := f (opState w 5 .queued)
def atSide (s : State) : Option Nat := (s.ops.find? fun e => e.2.core = 0 && e.2.queue = 5 && s.canStart e.1 e.2).map (·.1)
def withCrib (c : Crib) (s : State) : State := { s with pad := { s.pad with cribs := [(7, c)] } }
def crib0 : Crib := ⟨0, 65536, [0], [], [], 0, 0, 0, false, 0, none⟩
theorem test_SideQueueHandover_sweeps : atSide (sideState (.sweep 3 3 1) id) = some 5
    ∧ sfind (sideState (.sweep 1 3 1) id).sweep.regs (0 * 2 ^ 32 + 1) = none
    ∧ sfind (swept .complete [0]).sweep.regs (0 * 2 ^ 32 + 1) = some (reg0 .complete [0]) ∧ (reg0 .complete [0]).desc.rep = false
    ∧ (reg0 .cancelled [0]).phase = .cancelled := by decide +kernel
theorem test_SideQueueHandover_cribs : atSide (sideState (.cbs 3 7 (leBytes 64 0)) (withCrib crib0)) = some 5
    ∧ (sideState (.cbs 3 7 (leBytes 64 0)) id).cribFor 0 7 = none
    ∧ (sideState (.cbs 3 7 (leBytes 64 0)) (withCrib crib0)).cribFor 0 7 = some crib0
    ∧ crib0.out.length < 16 ∧ (sideState (.cbs 3 7 (leBytes 64 0)) (withCrib crib0)).episodeOf 7 = none
    ∧ 16 ≤ (List.replicate 16 (leBytes 64 0)).length ∧ atSide (sideState (.cbr 3 7 0) (withCrib crib0)) = some 5
    ∧ atSide (sideState (.cbw 3 7 10) (withCrib crib0)) = some 5 := by decide +kernel
/-- A card of an `rsum` of two sources of `I32`. -/
def cardBytes : Bytes :=
  leBytes 1 1 ++ leBytes 1 5 ++ leBytes 1 2 ++ leBytes 1 3 ++ leBytes 124 0
theorem test_SideQueueHandover_shedj : let s := sideState (.shedj 3 0x10000 11) id
    atSide s = some 5 ∧ (match s.opRead 5 .g 0x10000 128 with | (.ok x, v) => !x.psn && v.stackUsed 11 && !cardOk x.bytes | _ => false) = true := by
  decide +kernel

/-- A card of an `rsum` of two sources of `I32`: one element, from 0x40000 to 0x30000, with its flag at 0x20000. -/
def goodCard : Bytes :=
  leBytes 2 1 ++ leBytes 1 5 ++ leBytes 1 2 ++ leBytes 1 3 ++ leBytes 3 0 ++ leBytes 8 0x20000 ++ leBytes 8 0 ++ leBytes 8 1
    ++ leBytes 8 0x30000 ++ leBytes 8 0x40000 ++ leBytes 80 0
theorem test_SideQueueHandover_card : let s := (sideState (.shedj 3 0x10000 11) id).writePa (outside 0) 0 0x10000 goodCard
    atSide s = some 5 ∧ (match s.opRead 5 .g 0x10000 128 with
      | (.ok x, v) => !x.psn && v.stackUsed 11 && cardOk x.bytes && ((sfind v.shed.queues 11).getD []).length < 64 | _ => false) = true
    ∧ (match ({ s with mem := { s.mem with hbmPsn := [(0x10000 / 64, true)] } } : State).opRead 5 .g 0x10000 128 with
      | (.ok x, _) => x.psn | _ => false) = true := by decide +kernel

def card0 : ShedCard := ⟨0, 0, 1, 0, 0, 0, 0, goodCard⟩
theorem test_ShedJobs_wait : let s := opState (.cbw 3 7 10) 5 .running
    sfind s.ops 5 = some (anOp (.cbw 3 7 10) 5 .running) ∧ (anOp (.cbw 3 7 10) 5 .running).since + 10 ≤ 10
    ∧ s.now < (anOp (.cbw 3 7 10) 5 .running).since + 10 := by decide +kernel
theorem test_ShedJobs_start : let s := { base with shed := { base.shed with queues := [(11, [card0])] } }
    s.stackUsed 11 = true ∧ sget false s.shed.retired (11 * 8 + 7) = false ∧ sfind s.shed.jobs (11 * 8 + 7) = none
    ∧ sfind s.shed.queues 11 = some (card0 :: []) ∧ s.mon = [] ∧ s.sweep.regs = [] ∧ (∀ e ∈ s.ops, e.1 ≠ s.nextId)
    ∧ s.leave.waiting = [] ∧ 937 ≤ s.leave.free
    ∧ ({ s with leave := { s.leave with free := 936 } } : State).leave.free < 937 := by decide +kernel
def job0 : ShedJob := ⟨9, card0, .running, 0, 937, 0, 0, 0, [], []⟩
theorem test_ShedJobs_end : let s := { base with shed := { base.shed with jobs := [(0, job0)] } }
    let c := cardFields job0.card.bytes
    sfind s.shed.jobs (0 * 8 + 0) = some job0 ∧ job0.phase = .running ∧ job0.status = 0 ∧ job0.progress < c.count
    ∧ (match readSources 0 job0 job0.progress ((List.range c.n).map c.source) s with
        | (.ok _, u) => (match u.jobPlace 0 job0 (c.dst + 4 * job0.progress) .write with | (.ok _, _) => true | _ => false)
        | _ => false) = true
    ∧ (match s.jobFlag 0 { job0 with progress := 1 } c 0 with
        | some v => v.mon.isEmpty && v.sweep.regs.isEmpty | none => false) = true ∧ c.count ≤ 1 := by decide +kernel
theorem test_ShedJobs_result : (cardFields goodCard).fmt = 5 ∧ ∀ x ∈ List.replicate 16 (2 ^ 32 - 1), x < 2 ^ 32 := by decide +kernel

def adesc : AttnDesc := ⟨0x10000, 0x20000, 0x30000, 0x40000, 0x3F800000, 0, 4, 1, 64, false, false, false, 0⟩
def attnOp (ph : Phase) : Op := anOp (.attn 3 0 adesc) 4 ph
def attnRow0 : AttnRow := ⟨List.replicate 64 0, 0xFF800000, 0, 0, List.replicate 64 0, false, .running⟩
def run0 (w : List AttnBlock) (next : Nat) : AttnRun := ⟨5, [attnRow0], w, next, 0, 0, true⟩
def attnOn (r : AttnRun) : State := { opState (.attn 3 0 adesc) 4 .running with attn := { base.attn with engines := [(0, r)] } }
theorem test_AttentionRuns_handoff : let s := opState (.attn 3 0 adesc) 4 .queued
    let last := sget 47 s.attn.last 0
    ((List.range 48).map fun i => (last + 1 + i) % 48).find? (fun c => (s.attnReady (0 * 48 + c)).isSome) = some 0
    ∧ s.attnReady 0 = some 5 ∧ sfind s.ops 5 = some (attnOp .queued) ∧ sfind s.attn.saved 5 = none ∧ s.gridOf (attnOp .queued).grid = none
    ∧ (List.range 16).find? (fun n => (sfind s.attn.engines (0 * 16 + n)).isNone) = some 0 ∧ s.leave.waiting = [] ∧ 4687 ≤ s.leave.free := by
  decide +kernel
/-- One token of ones in a block at 0x20000. -/
def block0 (broken : Bool) (count : Nat) : AttnBlock := ⟨0x20000, count, 1, 0, broken, none, none⟩
theorem test_AttentionRuns_header : let s := attnOn (run0 [] 0x20000)
    sfind s.attn.engines 0 = some (run0 [] 0x20000) ∧ sfind s.ops 5 = some (attnOp .running)
    ∧ (match s.opRead 5 .g 0x20000 256 with | (.ok x, _) => !x.psn | _ => false) = true := by decide +kernel
theorem test_AttentionRuns_block : let s := attnOn (run0 [block0 false 1] 0); let r := run0 [block0 false 1] 0
    r.running = true ∧ r.p < adesc.limit ∧ r.rows.zipIdx.any (r.needs adesc 1) = true ∧ r.rows.zipIdx.any (r.needs adesc 0) = false
    ∧ (block0 false 1).broken = false ∧ (block0 true 1).broken = true
    ∧ (match s.opRead 5 .g (0x20000 + 256) 128 with
        | (.ok k, u) => !k.psn && (match u.opRead 5 .g (0x20000 + 256 + 128) 128 with | (.ok v, _) => !v.psn | _ => false) | _ => false) = true := by
  decide +kernel
theorem test_AttentionRuns_end : (run0 [] 0).window = [] ∧ (run0 [] 0).next = 0 ∧ (run0 [] 0x20000).next ≠ 0 ∧ (run0 [] 0).running = true := by
  decide +kernel

/-- A START of an image of 64 bytes at 0x10000 with a budget. -/
def startMsg : Bytes := leBytes 8 0 ++ leBytes 8 1 ++ leBytes 8 0x10000 ++ leBytes 4 64 ++ leBytes 4 0 ++ leBytes 8 1 ++ leBytes 24 0
def msg (kind : Nat) : Bytes := leBytes 8 0 ++ leBytes 1 kind ++ leBytes 55 0
def crib1 (out : List Bytes) (img : Option Bytes) : State := withCrib { crib0 with out := out, image := img } base
theorem test_EpisodesOfThePaddock_start : let s := crib1 [startMsg] none
    s.episodeOf 7 = none ∧ msgKind startMsg = 1 ∧ startOk startMsg 65536 = true ∧ startOk (msg 1) 65536 = false
    ∧ (s.groomRead 0 (startFields startMsg).image (startFields startMsg).len).isSome = true
    ∧ (s.groomRead 1 (startFields startMsg).image (startFields startMsg).len).isNone = true ∧ crib0.inb.length < 16 ∧ msgKind (msg 4) ≠ 1 := by
  decide +kernel
theorem test_EpisodesOfThePaddock_go : let s := crib1 [startMsg] (some (leBytes 64 0))
    s.freePaddock = some 0 ∧ s.startTurn 7 { crib0 with out := [startMsg], image := some (leBytes 64 0) } = true
    ∧ (∀ e ∈ s.pad.eps, e.2.crib ≠ 7) := by decide +kernel
def ep0 (tx : Nat) (o : Option Nat) : Episode := { newEpisode 7 startMsg (leBytes 64 0) with txbuf := msg tx, open_ := o }
def running (out : List Bytes) (e : Episode) : State :=
  let s := crib1 out none
  { s with pad := { s.pad with eps := [(255, e)] } }
theorem test_EpisodesOfThePaddock_running : let s := running [msg 3] (ep0 2 (some 0))
    s.episodeOf 7 = some (255, ep0 2 (some 0)) ∧ msgKind (msg 3) = 3 ∧ (ep0 2 (some 0)).crib = 7 ∧ msgKind (ep0 8 none).txbuf = 8
    ∧ msgKind (ep0 10 none).txbuf = 10 ∧ msgKind (ep0 11 none).txbuf = 11 ∧ msgKind (ep0 7 none).txbuf = 7 ∧ (ep0 2 none).open_ ≠ some 0
    ∧ (ep0 2 none).delivers (msg 4) = true ∧ (ep0 2 none).delivers (msg 3) = false ∧ sget false s.pad.retired 255 = false ∧ s.ops = [] := by
  decide +kernel

/-! ### Witnesses: the debug port, the links, sampling, starts -/

theorem test_DebugStops_break : let s := { on (fun g => { g with bpPassed := none }) with
      dbg := { base.dbg with dbi := [(0, BitVec.ofNat 128 (base.cur.pc.toNat + 2 ^ 80))] } }
    s.cur.gid ≠ 0 ∧ s.cur.inClause = true ∧ s.cur.stopped = false ∧ s.cur.passed = false
    ∧ (pairFirsts (linePair s.cur.line)).contains (pcSlot s.cur.pc) = false ∧ s.breaks s.cur [s.cur.pc] = true := by decide +kernel
/-- The base's group stopped by the port, in a context that has granted it. -/
def halted (f : Group → Group) : State := { on (fun g => f { g with
    stopped := true, inClause := false }) with xlate := { base.xlate with ctxs := [(0, ⟨0x200000, [], true, false⟩)] } }
theorem test_DebugStops_port : base.portGroup 0 1 = some base.cur ∧ base.cur.stopped = false
    ∧ ({ base with xlate := { base.xlate with ctxs := [] } } : State).portGroup 0 1 = none ∧ (halted id).cur.stopped = true
    ∧ (halted id).granted 0 = true ∧ (halted id).cur.pstk = 0 ∧ (halted id).cur.resident = true ∧ (halted id).offer = some false := by
  decide +kernel
theorem test_DebugStops_step : let g := (halted id).cur; let m := g.slot.mask &&& ~~~g.exited
    (1 : LaneMask) ≠ 0 ∧ (1 : LaneMask) &&& ~~~m = 0 ∧ (1 : LaneMask) ≠ m
    ∧ (State.pushPath (halted id) g.slot.pc (m &&& ~~~1)).1 = true ∧ (State.pushPath (halted id) g.slot.pc (m &&& ~~~1)).2.cur.gid = 1
    ∧ (0 : LaneMask) &&& ~~~m = 0 := by decide +kernel
theorem test_DebugStops_down : base.mgmt.mode ≠ 2 ∧ ({ base with mgmt := { base.mgmt with mode := 2 } } : State).mgmt.mode = 2 := by
  decide +kernel
theorem test_DebugStops_writes : (191 : Nat) < Config.cores ∧ isPc ((BitVec.ofNat 128 0x1004).setWidth 64) = true
    ∧ isPc ((BitVec.ofNat 128 0x1005).setWidth 64) = false := by decide +kernel

theorem test_DebugAccess_regs : (halted id).stoppedGroup 0 1 = some (halted id).cur ∧ base.stoppedGroup 0 1 = none
    ∧ portInRange (halted id).cur (.v 255 63) = true ∧ portInRange (halted id).cur (.v 256 0) = false
    ∧ portPending (.v 255 63) = some (.v 255) ∧ ((halted id).opsOf 1).find? (fun e => e.2.dests.contains (.v 255)) = none
    ∧ (portPut (halted id).cur (.ctr 0) 0 256).isNone = true ∧ (portPut (halted id).cur (.s 0) 0 1).isSome = true
    ∧ (halted id).pathsOk (halted id).cur = true ∧ (halted fun g => { g with slot0 := { g.slot0 with mask := 1 } }).pathsOk
        (halted fun g => { g with slot0 := { g.slot0 with mask := 1 } }).cur = false := by decide +kernel
theorem test_DebugAccess_down : (halted id).mgmt.mode ≠ 2
    ∧ ({ halted id with mgmt := { base.mgmt with mode := 2 } } : State).mgmt.mode = 2 := by decide +kernel
theorem test_DebugAccess_pending : let s := { halted id with ops := [(5, { anOp (cpyW 4) noQueue .queued with dests := [.v 255] })] }
    ((s.opsOf 1).find? fun e => e.2.dests.contains (.v 255)).map (·.1) = some 5 := by decide +kernel
theorem test_DebugAccess_mem : let s := halted id
    s.granted 0 = true ∧ s.granted 1 = false
    ∧ (match (s.readVa (outside 0) 0xFFFF 2).1 with | .ok _ => true | _ => false) = true
    ∧ (match (s.readVa (outside 0) (2 ^ 37) 2).1 with | .fault _ _ => true | _ => false) = true
    ∧ (match (s.writeVa (outside 0) 0xFFFF [1]).1 with | .ok _ => true | _ => false) = true
    ∧ (match (s.writeVa (outside 0) (2 ^ 37) [1]).1 with | .fault _ _ => true | _ => false) = true
    ∧ 65528 + 8 ≤ s.cur.sgs.limit := by decide +kernel

theorem test_HostAndFabric_host : let pa := 432 * 2 ^ 30 - 8
    base.mgmt.tripped = false ∧ isDram (pa + 8 - 1) = true ∧ base.rangeUsed pa 8 = true
    ∧ ({ base with mgmt := { base.mgmt with dies := 1, mode := 1 } } : State).rangeUsed pa 8 = false ∧ (leBytes 8 0) ≠ [] := by
  decide +kernel
/-- The third line of a write that starts within a line has failed its CRC. -/
theorem test_HostAndFabric_flit : ((unitsOf 64 0x10020 192).filter fun n => ([2] : List Nat).contains (n - 0x10020 / 64)) = [0x402]
    ∧ base.mgmt.dies = 15 ∧ ({ base with mgmt := { base.mgmt with dies := 1, mode := 1 } } : State).mgmt.dies ≠ 15
    ∧ (remoteRange (.atomic 0 2 false 11 true 1 0)).2 ≠ 0 ∧ (RemoteAccess.atomic 0 2 false 11 true 1 0).attr = 2 := by decide +kernel
theorem test_HostAndFabric_fabric : base.fabric.up = true ∧ base.rangeUsed 0 4 = true
    ∧ (base.readPa (outside 0) 0 0 4).1.psn = false ∧ base.fabric.recvSeq ≤ 0 ∧ base.fabric.early = [] ∧ (base.fabricLane 71).active = true := by
  decide +kernel
def laneOf (l : FabricLane) (rep : Sparse Nat) : State := { base with fabric := { base.fabric with lanes := [(3, l)], replays := rep } }
theorem test_HostAndFabric_lanes : ((laneOf ⟨true, true, [], []⟩ []).fabricLane 3).closing = true
    ∧ 36 < (laneOf ⟨true, true, [], []⟩ []).laneMap.length ∧ 8 ≤ sget 0 (laneOf ⟨true, true, [], []⟩ [(0, 8)]).fabric.replays 0
    ∧ 9 ≤ sget 0 (laneOf ⟨true, true, [], []⟩ [(0, 9)]).fabric.replays 0
    ∧ sget 0 (laneOf ⟨true, true, [], []⟩ [(0, 7)]).fabric.replays 0 < 8
    ∧ ({ base with fabric := { base.fabric with
          lanes := (List.range 36).map fun n => (n, ⟨false, false, [], []⟩) } } : State).laneMap.length ≤ 36 := by decide +kernel
theorem test_HostAndFabric_train : let s := { base with fabric := { base.fabric with up := false } }
    s.fabric.up = false ∧ s.mgmt.tripped = false ∧ 36 ≤ (((List.range 36).filter (· < 72)).eraseDups).length
    ∧ (((List.range 35).filter (· < 72)).eraseDups).length < 36 := by decide +kernel

theorem test_CollectivesAndNvme_coll : let s := { base with fabric := { base.fabric with comms := [(0, ⟨2, 1⟩)] } }
    sfind s.fabric.comms 0 = some ⟨2, 1⟩ ∧ s.fabric.up = true ∧ (0 : Nat) < 2 ∧ (0 : Nat) ≠ 1 := by decide +kernel
/-- An NVMe pair whose header stands at 1 MiB, with one request of one block. -/
def nvme (op : Nat) : State :=
  let s := { base with nvme := { base.nvme with pairs := [(2, ⟨0, 1, 0x100000, 0⟩)], reqs := [⟨2, 0, 0, 9, 0, 1⟩] } }
  let s := s.writePa (outside 0) 0 0x100000 (leBytes 8 0x101000 ++ leBytes 8 0x102000 ++ leBytes 4 2 ++ leBytes 44 0)
  s.writePa (outside 0) 0 0x101000 (leBytes 8 0 ++ leBytes 4 1 ++ leBytes 4 op ++ leBytes 8 0x300000 ++ leBytes 32 0 ++ leBytes 8 1)
theorem test_CollectivesAndNvme_request : (match (nvme 1).nvmeNext 2 with
      | some (p, f, _) => f.ok && f.nlb == 1 && p.ns == 1 | none => false) = true
    ∧ (match (nvme 3).nvmeNext 2 with | some (_, f, _) => !f.ok | none => false) = true := by decide +kernel
theorem test_CollectivesAndNvme_done : sfind (nvme 1).nvme.pairs 2 = some ⟨0, 1, 0x100000, 0⟩ ∧ (nvme 1).nvmeDone 2 = some ⟨2, 0, 0, 9, 0, 1⟩
    ∧ ((nvme 1).nvmeHead 0 0x100000).isSome = true := by decide +kernel

/-- A grid that samples every 16 cycles into a buffer of 64 bytes. -/
def sampled (q : List Sample) (used : Nat) : State := { base with
  now := 16, launch := { base.launch with grids := [(0, { grid0 with speriod := 16, sbuf := 0x10000, slen := 64, sused := used })] },
  prof := { base.prof with first := [(0, 0, 0)], queues := [(0, q)] } }
theorem test_StallSampling_sample : (sampled [] 0).dueSamples 0 = [(0, 0)] ∧ base.dueSamples 0 = []
    ∧ (sampled [] 0).groups.filter (fun g => g.grid = 0 && g.coreNo = 0 && g.slice = 0 && g.resident) = [(sampled [] 0).cur] := by
  decide +kernel
/-- A full queue, whose grid's samples are dropped. -/
theorem test_StallSampling_full : (sampled (List.replicate 16 ⟨0, leBytes 16 0⟩) 0).dueSamples 0 ≠ []
    ∧ (List.replicate 16 (⟨0, leBytes 16 0⟩ : Sample)).length ≤ 16
    ∧ ran (exec (.stallSample 0 0) (sampled (List.replicate 16 ⟨0, leBytes 16 0⟩) 0)) (fun t => (t.gridOf 0).map (·.sdrop) == some 1) = true := by
  decide +kernel
theorem test_StallSampling_drain : let s := sampled [⟨0, leBytes 16 0⟩] 48
    (sfind s.prof.queues 0).getD [] = ⟨0, leBytes 16 0⟩ :: [] ∧ (s.gridOf 0).map (·.sused) = some 48 ∧ 48 + 16 ≤ 64 ∧ 64 < 49 + 16
    ∧ (match (s.writeVa (outside 0) (0x10000 + 48) (leBytes 16 0)).1 with | .ok _ => true | _ => false) = true
    ∧ (match (s.writeVa (outside 0) (2 ^ 37) (leBytes 16 0)).1 with | .fault _ _ => true | _ => false) = true := by decide +kernel

/-- An image whose first, or second, part has a signature of the wrong length. -/
def badImage (groom : Bool) : FwImage :=
  let part : FwParts := ⟨leBytes 48 1, leBytes 48 2, leBytes 48 3⟩
  ⟨some (part, if groom then ⟨[], [], []⟩ else { part with shed := [] }), 1⟩
theorem test_StartsImagesAndRegisters_images : (badImage true).holds (·.groom) = false ∧ (badImage true).holds (·.shed) = false
    ∧ (badImage true).holds (·.monitor) = false ∧ State.reset.mgmt.active.holds (·.groom) = true
    ∧ State.reset.mgmt.active.holds (·.shed) = true ∧ State.reset.mgmt.active.holds (·.monitor) = true
    ∧ (badImage false).signed.isSome = true := ⟨rfl, rfl, rfl, rfl, rfl, rfl, rfl⟩
/-- A start whose image fails at stage 1 runs the other bank's image the next time. -/
theorem test_start_bad_image :
    let s : State := { State.reset with mgmt := { State.reset.mgmt with other := badImage true, fresh := true } }
    ran (exec (.deviceStart none 15) s) (fun t => t.mgmt.mode == 2 && t.mgmt.lastf == [1] && t.mgmt.active == State.reset.mgmt.active
      && t.mgmt.nvCount == 1) = true := by decide +kernel
theorem test_StartsImagesAndRegisters_start : (1 : Nat) ≤ 1 ∧ (6 : Nat) ≤ 6 ∧ (7 : Nat) > 6 ∧ (5 : Nat) ≤ 5 ∧ (6 : Nat) > 5
    ∧ State.reset.mgmt.nvCount < 3
    ∧ (12 : Nat).testBit 2 = true ∧ (∀ m < 2, (12 : Nat).testBit m = false) := by decide +kernel
theorem test_StartsImagesAndRegisters_regs : base.mgmt.tripped = false ∧ base.mgmt.mode ≠ 2 ∧ base.mgmt.mode = 0
    ∧ sfind base.xlate.ctxs 0 = some ⟨0x200000, [], true, false⟩ ∧ sfind base.xlate.ctxs 65535 = none ∧ 0x200000 % 2 ^ 21 = 0
    ∧ sfind base.pad.cribs 2047 = none ∧ 2 ^ 28 = (List.range 4096).length * 65536 := by decide +kernel

/-! ### Witnesses: further clauses of the statements above -/

theorem test_AttentionAndSideCommands_ends : let s := { attnState with mem := { attnState.mem with sharedPsn := [(0, true)] } }
    (s.readLocal .s 0 0 64).psn = true ∧ (s.readLocal .s 0 0 32).psn = true ∧ s.cur.sgs.base = 0
    ∧ (match attnDesc (leBytes 8 0x10000 ++ leBytes 8 0x20080 ++ attnBytes.drop 16) with | .ok d => d.kv % 256 != 0 | _ => false) = true
    ∧ (match attnDesc attnBytes with | .ok d => d.kv % 256 == 0 | _ => false) = true
    ∧ base.cur.acts ⟨false, 0⟩ = false ∧ (2 ^ 54 : Nat) % 128 = 0 := by decide +kernel
theorem test_LineEntry_more : (resting id).stopsHere = false ∧ (resting id).cur.expired = false ∧ (resting id).cur.together = false
    ∧ (resting fun g => { g with fresh := true }).cur.fresh = true ∧ isPc base.cur.slot.pc = true ∧ lineTgt (withParity 0) 0 = false
    ∧ (resting fun g => { g with wait0 := some nopLine }).cur.waitOf false = some nopLine
    ∧ (resting fun g => { g with slot0 := { g.slot0 with valid := false }, slot1 := ⟨mkPc 0x40 0, 2, true, none, 0⟩ }).offer = some true
    ∧ (resting fun g => { g with flags := [(0, 1)] }).cur.flagCount 0 ≠ 0 ∧ (base.cur.unraised).isNone = true := by decide +kernel
theorem test_FaultsUpcallsAndAnswers_joins : let s := called none .logged; let r := s.answerOf 0 ⟨0x110000, 2, 0, 0, 0⟩ (farCall none)
    ({ farOp with upcalled := [2 ^ 20 * 2048 + 5] } : Op).upcalled.contains (2 ^ 20 * 2048 + 5) = true
    ∧ s.xlate.upcalls.any (fun u => u.ctx = 0 && u.pager = 5 && u.granule = 2 ^ 20) = true ∧ r = none
    ∧ (farCall none).pins.all (base.pinKept 0) = true ∧ base.pinKept 0 (5, 0, 0) = false
    ∧ 2 ≤ (2 : Nat) - 0 ∧ ([] : List Upcall).length + 1 ≠ 0 := by decide +kernel
/-- Only an operation of another core uses a translation that the shoot-down covers. -/
theorem test_MapsAndShootdowns_ack : let op := { anOp (cpyW 4) 0 .running with core := 1, xl := [⟨1, 0, 0, true, true⟩] }
    let s := { base with ops := [(5, op)], shoots := [(0, shootOf 0)] }
    (∀ e ∈ s.ops, e.2.core = 0 → s.usesXl e.1 e.2 = true → ∀ x ∈ e.2.xl, (shootOf 0).covers e.2.ctx x = false)
    ∧ sfind s.shoots 0 = some (shootOf 0) ∧ (0 : Nat) < xlateUnits ∧ s.usesXl 5 op = true := by decide +kernel
theorem test_LaunchEntriesAndGridEnds_more : let s := { sampled [⟨3, leBytes 16 0⟩] 0 with ops := [(5, anOp oneAtom noQueue .queued)] }
    (∃ e ∈ s.ops, e.2.grid = 0 ∧ e.2.unperformed = true) ∧ (∃ e ∈ s.prof.queues, ∃ x ∈ e.2, x.grid = 3)
    ∧ ({ grid0 with ended := true } : Grid).ended = true ∧ ({ grid0 with jobs := 1 } : Grid).jobs ≠ 0
    ∧ (∀ e ∈ base.ops, e.2.unperformed = false) ∧ (∀ e ∈ base.prof.queues, ∀ x ∈ e.2, x.grid ≠ 0) ∧ 2047 < 2048 := by decide +kernel
theorem test_GangsAndContexts_told : let s := { yielding with cur := { yielding.cur with inClause := true } }
    s.mustYield gang0 = true ∧ gang0.leaving = false ∧ (∀ e ∈ s.gangOps 0 0, e.2.cut = false) ∧ s.gangStopped 0 0 = false
    ∧ (∀ g ∈ saved0.groups, g.refill = false) := by decide +kernel
theorem test_StackControllers_drain : let op := { anOp oneAtom noQueue .queued with work := .wait .g false false .rlx .core 3 0 0 0 }
    let s := { ctl { StackCtl.reset with closing := true, drain := [5] } with ops := [(5, op)] }
    5 ∈ (s.stackCtl 11).drain ∧ sfind s.ops 5 = some op ∧ op.underway = true ∧ ({ op with phase := .running } : Op).underway = false
    ∧ s.mgmt.tripped = false := by decide +kernel
theorem test_SweepRegistrations_rows : sget false (reg0 .armed [0]).failed 4096 = false ∧ (reg0 .armed [0]).phase ≠ .installing
    ∧ (0 : Nat) ∈ (reg0 .armed [0]).installed ∧ ({ base with sweep := { base.sweep with
        ctls := [(0, { StackCtl.reset with asleep := true })] } } : State).stackCtl 0 = { StackCtl.reset with asleep := true } := by decide +kernel
theorem test_SideQueueHandover_more : ({ crib0 with closed := true } : Crib).closed = true ∧ crib0.closed = false ∧ crib0.inb = []
    ∧ ({ crib0 with inb := [msg 8] } : Crib).inb = msg 8 :: [] ∧ (reg0 .installing []).phase = .installing ∧ (reg0 .failed []).phase = .failed := by
  decide +kernel
/-- A job whose sources, or whose destination, no page holds. -/
theorem test_ShedJobs_fails : (match (readSources 0 job0 0 [2 ^ 37] base).1 with | .error (.fail 1 va) => va == 2 ^ 37 | _ => false) = true
    ∧ (match (base.jobPlace 0 job0 (2 ^ 37) .write).1 with | .fail 1 va => va == 2 ^ 37 | _ => false) = true
    ∧ ({ job0 with status := 1 } : ShedJob).status ≠ 0 := by decide +kernel
theorem test_AttentionRuns_more : (run0 [] 0x20000).started = true ∧ (run0 [] 0x20000).needed adesc 0 1 = true
    ∧ (run0 [] 0x20000).needed adesc 0 0 = false ∧ ({ run0 [] 0 with rows := [{ attnRow0 with phase := .over 0 }] } : AttnRun).running = false
    ∧ ({ block0 false 1 with pay := some (.rows [] []) } : AttnBlock).pay = some (.rows [] [])
    ∧ (block0 false 1).unreadable = none ∧ ((attnOn (run0 [] 0)).attnPayload 5 adesc (block0 false 1) 1).isSome = true
    ∧ (match (({ attnOn (run0 [] 0) with mem := { base.mem with hbmPsn := [(0x20000 / 64, true)] } } : State).opRead 5 .g 0x20000 256).1 with
        | .ok x => x.psn | _ => false) = true := by decide +kernel
/-- An episode whose pc has left its memory, and one whose instruction at the pc is illegal. -/
theorem test_EpisodesOfThePaddock_faults : let e := { ep0 2 none with pc := 0x80000 }
    (running [] e).hartStep 255 = .next ((running [] e).killEpisode 255 e 2)
    ∧ (running [] (ep0 2 none)).hartStep 255 = .next ((running [] (ep0 2 none)).killEpisode 255 (ep0 2 none) 3) := ⟨rfl, rfl⟩
theorem test_EpisodesOfThePaddock_noFault : let e := ep0 2 none
    ran ((running [] e).hartStep 255) (fun t => t.pad == ((running [] e).killEpisode 255 e 2).pad) = false := by decide +kernel
theorem test_EpisodesOfThePaddock_late : ({ ep0 2 none with overdue := true } : Episode).overdue = true ∧ (ep0 2 none).overdue = false
    ∧ (match (crib1 [startMsg] none).groomRead 0 0x10000 64 with | some (_, u) => u.sweep.touched == [] | none => false) = true
    ∧ (match (let s := crib1 [startMsg] none; { s with sweep := { s.sweep with ctls := [(0, { StackCtl.reset with asleep := true })] } } : State).groomRead
        0 0x10000 64 with | some (_, u) => u.sweep.touched != [] | none => false) = true
    ∧ (List.replicate 16 (msg 4)).length = 16 ∧ (crib1 [msg 4] none).episodeOf 7 = none := by decide +kernel
theorem test_DebugStops_more : let far := halted fun g => { g with resident := false }
    far.cur.resident = false ∧ far.granted 0 = true ∧ (on fun g => { g with bpPassed := some (g.pc, g.slot.mask) }).cur.passed = true
    ∧ ((on fun g => { g with line := pairLine }).breaks base.cur [nextPoint base.cur.pc]) = false
    ∧ 62 ≤ (halted fun g => { g with pstk := 62 }).cur.pstk ∧ (256 : Nat) < 257
    ∧ (State.pushPath (halted fun g => { g with sgk := ⟨2 ^ 36, 65536⟩ }) 0x1000 2).1 = false := by decide +kernel
theorem test_DebugStops_queue : let s := { opState (cpyW 4) 0 .queued with dbg := { base.dbg with qstop := [(0, 1 + 2 ^ 16 * 0)] } }
    (s.queueHead? 0 0).map (·.1) = some 5 ∧ s.stopsAt 5 (anOp (cpyW 4) 0 .queued) = true := by decide +kernel
theorem test_DebugAccess_paths : portMovesPaths (.mask 0) = true ∧ portMovesPaths (.v 0 0) = false ∧ portMovesPaths (.seg .k) = true
    ∧ (portPut (halted id).cur (.mask 0) 0 1).isSome = true
    ∧ (match portPut (halted id).cur (.mask 0) 0 1 with | some h => (halted id).pathsOk h | none => true) = false := by decide +kernel
theorem test_HostAndFabric_more : let s := laneOf ⟨true, true, List.range 16, []⟩ []
    (s.fabricLane 3).replay.length = 16 ∧ 15 ∈ (s.fabricLane 3).replay ∧ base.fabric.waiting = 0 ∧ base.fabric.remapped = false
    ∧ (0 : Nat) < ({ base.fabric with sendSeq := 1, waiting := 1 } : FabricState).sendSeq
    ∧ ({ base with fabric := { base.fabric with remapped := true } } : State).laneMap.length = 72
    ∧ 3 ≤ (([0, 0, 0] : List Nat).filter fun t => 3599999 < t + 3600000).length
    ∧ ({ base.fabric with lanes := (List.range 36).map (fun n => (n, ⟨false, false, [], []⟩)) ++ [(71, ⟨true, true, [], []⟩)] } :
        FabricState).map.length ≤ 36
    ∧ (laneOf ⟨true, true, [], []⟩ []).fabricLane 3 = ⟨true, true, [], []⟩ := by decide +kernel

/-! ### Witnesses: clauses of the second review -/

/-- A record that a slot and the stack cover, one whose stack cannot be read, and one in poison; an atomic of the record's bytes
still on its way. -/
theorem test_ReturnFromTrap_more : let at_ : Work := .atomic .g false 0 false .rlx .dev (.s 3) [⟨0, 0, 0, 1, 0⟩]
    trapped.rteWaits 0 = false ∧ ({ trapped with ops := [(5, { anOp at_ noQueue .queued with gid := trapped.cur.gid })] } : State).rteWaits 0 = true
    ∧ (on fun g => { g with ctr := [(0, 1)] }).cur.converged = false ∧ (restoreOf (leBytes 192 0)).slotsOk trapped.cur = true
    ∧ (match (trapped.readVa trapped.cur.agent (2 ^ 37) 0xC0).1 with | .fault _ _ => true | _ => false) = true
    ∧ (match (({ trapped with mem := { trapped.mem with hbmPsn := [(0, true)] } } : State).readVa trapped.cur.agent 0 0xC0).1 with
        | .ok x => x.psn | _ => false) = true
    ∧ (match (stackMasks 1 { trapped with cur := { trapped.cur with sgk := ⟨2 ^ 36, 65536⟩ } }).1 with | .error _ => true | .ok _ => false) = true
    ∧ 2 ^ 54 ≤ (2 ^ 54 - 0xBF) + 0xBF := by decide +kernel
theorem test_LoadReturns_more : ∀ e ∈ base.cur.tiles, e.2.turned = none := by decide +kernel
/-- A group whose write to the fabric has not been acknowledged, one whose zero-length reads are still to be sent, have been sent,
and are over. -/
theorem test_FencesAndWholeGroupBarriers_owes : let key := fenceKey base.cur.gid
    let owing (open_ : List Nat) : State := { base with fabric := { base.fabric with writes := [⟨base.cur.gid, 1, open_⟩] } }
    let sent := (owing []).sendReads base.cur.gid key .rel .sys
    base.relWaits base.cur.gid key .rel .dom = false ∧ (owing [4]).relWaits base.cur.gid key .rel .dom = true
    ∧ (owing []).relWaits base.cur.gid key .rel .sys = true ∧ (owing []).fabricOwes base.cur.gid = false
    ∧ (owing []).readsOf key = none ∧ sent.readsOf key = some [0, 2] ∧ sent.relWaits base.cur.gid key .rel .sys = true
    ∧ ran (sent.linkRead key 0) (fun t => t.readsOf key == some [2]) = true ∧ stops (sent.linkRead key 1) = true
    ∧ ran (sent.linkRead key 0) (fun t => ran (t.linkRead key 2) fun u => !u.relWaits base.cur.gid key .rel .sys) = true := by
  decide +kernel
theorem test_CopyCommands_quiet : base.gridOf base.cur.grid = none ∧ (val base 0 (.s 0) 0).toNat = 0 := by decide +kernel

/-- The same state a cycle later, with its grid, which keeps no trace. -/
def placed (s : State) : State := { s with now := 1, launch := { s.launch with grids := [(0, grid0)] } }
/-- A grid of the placed states keeps no trace. -/
theorem placed_quiet (s : State) (n : Nat) (gr : Grid) (h : (placed s).gridOf n = some gr) : gr.tlen = 0 := by
  have : gr = grid0 := by
    simp only [placed, State.gridOf, sfind] at h
    split at h
    · exact (Option.some.inj h).symm
    · cases h
  rw [this]; rfl
theorem test_EngineCommandsRun_placed : let op := anOp (cpyW (2 ^ 20)) 0 .leave
    let s := placed { opState (cpyW (2 ^ 20)) 0 .leave with leave := { base.leave with waiting := [5] } }
    sfind s.ops 5 = some op ∧ (s.gridOf op.grid).isSome = true ∧ s.leave.waiting.head? = some 5 ∧ 243 ≤ s.leave.free ∧ op.since < s.now
    ∧ op.mates = [] ∧ op.replayed = false ∧ op.gid = s.cur.gid ∧ s.cur.tiles = []
    ∧ (placed (opState (cpyW 4) 0 .queued)).commandReady 5 (anOp (cpyW 4) 0 .queued) = true
    ∧ (placed (opState (cpyW (2 ^ 20)) 0 .queued)).commandReady 5 (anOp (cpyW (2 ^ 20)) 0 .queued) = true := by decide +kernel

/-! The tile commands, on a tile of one element. -/

def tile1 : Tile := { Tile.zero with acc := [(0, 0x3F800000)], fa := .f16, fb := .f16 }
/-- The base with that tile under key 0 and with a command of the matrix queue, asking for its leave or ready. -/
def tiled (t : Tile) (w : Work) (ph : Phase) (wait : List Nat) : State :=
  placed { opState w 3 ph with cur := { base.cur with tiles := [(0, t)] }, leave := { base.leave with waiting := wait } }
def mrdW : Work := .mrd 0 (some 0) .f32 .rn false .s 0
def mwrW : Work := .mwr 0 0 .s 0
def mmaW (residue : Bool) (f : Fmt) (k : Nat) : MmaWork :=
  ⟨0, residue, false, false, 0, ⟨f, f, 0, 0, ⟨false, false, 0, 0, 0, 0⟩⟩, 0, [], [], k, 0, 64, 0, false⟩

theorem test_ExactArithmetic_starts : (tiled tile1 mrdW .queued []).commandReady 5 (anOp mrdW 3 .queued) = true
    ∧ (anOp mrdW 3 .queued).asksNothing = true ∧ ((tiled tile1 mrdW .queued []).runWork 5).isSome = true
    ∧ ((tiled tile1 mrdW .queued []).tileGroup 1).isSome = true ∧ (tiled tile1 mrdW .queued []).mon = []
    ∧ (tiled tile1 (.mma (mmaW false .f16 64)) .leave [5]).leave.waiting.head? = some 5 ∧ (anOp mrdW 3 .queued).mates = []
    ∧ (anOp (.mma (mmaW false .f16 64)) 3 .leave).leave = 677 ∧ 677 ≤ base.leave.free ∧ base.now < 1 := by decide +kernel
theorem test_ExactArithmetic_leave : let s := tiled tile1 (.mma (mmaW false .f16 64)) .leave [5]
    ((s.takeLeave 5 677).runWork 5).isSome = true ∧ (sfind s.ops 5).map (·.since) = some 0 ∧ s.now = 1
    ∧ (s.gridOf 0).isSome = true := by decide +kernel
theorem test_ExactArithmetic_tile : let s := tiled tile1 mrdW .queued []
    s.settle 0 (s.tileOf 1 0) = .ok tile1 ∧ skeysRise tile1.acc = true ∧ s.settle 0 { tile1 with bad := true } = .error 2
    ∧ (s.readLocal .s 0 0 16384).psn = false
    ∧ (({ s with mem := { s.mem with sharedPsn := [(0, true)] } } : State).readLocal .s 0 0 16384).psn = true := by decide +kernel
theorem test_ExactArithmetic_mma : let w := mmaW false .f16 64; let v := mmaW true .i8 32
    ¬ (tile1.loaded = true ∨ (tile1.residue = v.residue ∧ tile1.fa = v.fb.fa ∧ tile1.fb = v.fb.fb ∧ tile1.kb = v.fb.kb))
    ∧ (tile1.residue = w.residue ∧ tile1.fa = w.fb.fa ∧ tile1.fb = w.fb.fb ∧ tile1.kb = w.fb.kb) ∧ ({ tile1 with loaded := true } : Tile).loaded = true
    ∧ tile1.bad = false ∧ skeysRise tile1.acc = true ∧ skeysRise tile1.res = true ∧ w.residue = false ∧ w.fin = false ∧ w.sg = 0
    ∧ v.residue = true ∧ floatFmt v.fb.fa = none ∧ v.fb.kb = 0 ∧ v.k % 32 = 0 ∧ v.fb.src.hsa = false ∧ v.fb.src.hsb = false
    ∧ ({ v with fin := true } : MmaWork).fin = true := by decide +kernel

theorem test_MatrixCommands_stops : let s := quartetState (some (.mmq mmqW mmF))
    (∀ g ∈ s.quartet, g.stopped = false ∧ g.expired = false) ∧ (∀ g ∈ s.quartet, g.stopReq = false)
    ∧ (∃ g ∈ ({ s with cur := { s.cur with expired := true } } : State).quartet, g.expired = true)
    ∧ (∃ g ∈ ({ s with cur := { s.cur with stopped := true } } : State).quartet, g.stopped = true)
    ∧ (∃ g ∈ ({ s with cur := { s.cur with stopReq := true } } : State).quartet, g.stopReq = true)
    ∧ s.cur.rdv.isSome = true ∧ s.cur.converged = true
    ∧ ({ s.cur with ctr := [(0, 1)] } : Group).converged = false := by decide +kernel

/-! The correcting commands: one key and one value, each zero but for an exited lane. -/

def corW (m : CorMode) (eta : Word) : CorWork :=
  ⟨0, m, eta, 0x7F800000, 1, false, List.replicate 64 0, List.replicate 64 0, 4, BitVec.allOnes 64, some 0, some 1⟩
theorem test_CorrectingCommands_runs : let s := tiled tile1 (.cor (corW .upd 0x3F800000)) .queued []
    (s.tileGroup 1).isSome = true ∧ s.settle 0 (s.corTile 1 (corW .upd 0x3F800000)) = .ok tile1 ∧ skeysRise tile1.acc = true
    ∧ (corW .upd 0x3F800000).keys.length = 64 ∧ etaStatus 0x3F800000 = none ∧ etaStatus 0 = some 0 ∧ etaStatus 0x7FC00000 = some 6
    ∧ (corW .rsp 0).mode = .rsp ∧ (corW .add 0x3F800000).mode = .add ∧ (corW .upd 0x3F800000).n = 1 ∧ tile1.bad = false
    ∧ (corW .upd 0x3F800000).build = some 1 := by decide +kernel
/-- Rows in which each one rests on those before it exist, whatever they give. -/
theorem test_CorrectingCommands_rows (f : Nat → List Ext → Word) (g : Nat → Nat → Word → Ext) :
    ∃ x : Nat → Word, ∀ t, x t = f t ((List.range t).map fun u => g t u (x u)) := by
  let F (t : Nat) (x : (u : Nat) → u < t → Word) : Word :=
    f t ((List.range t).attach.map fun u => g t u.1 (x u.1 (List.mem_range.mp u.2)))
  refine ⟨WellFounded.fix (measure id).wf F, fun t => ?_⟩
  rw [WellFounded.fix_eq]
  exact congrArg (f t) (List.attach_map_val (f := fun u => g t u (WellFounded.fix (measure id).wf F u)) ..)
theorem test_CorrectingCommands_completes : let op := { anOp (.cor (corW .upd 0x3F800000)) 3 .ended with outs := regOuts 1 4 [[7]] }
    let s := placed { opState (.cor (corW .upd 0x3F800000)) 3 .ended with ops := [(5, op)] }
    sfind s.ops 5 = some op ∧ op.status = 0 ∧ op.mates = [] ∧ op.deferred = [] ∧ op.census = [] ∧ op.replayed = false ∧ op.gid = s.cur.gid
    ∧ s.cur.tiles = [] ∧ (0 : Nat) < [[(7 : Word)]].length := by decide +kernel

/-- The base with a pool at 0x30000 whose first block, free, is that at 0x20000, a block in use at
0x40000, one with a wrong tag at 0x60000, and a key-value command. -/
def pooled (fn : Nat) (t : Bool) (blk arg : Nat) : State :=
  let s := placed (opState (.kv fn t (.s 3) blk arg) 4 .queued)
  let s := s.writePa (outside 0) 0 0x30000 (leBytes 8 0x20000 ++ leBytes 4 1 ++ leBytes 2 4 ++ leBytes 2 64 ++ leBytes 48 0)
  let s := s.writePa (outside 0) 0 (0x60000 + 248) [1]
  s.writePa (outside 0) 0 0x40000 (KvHead.bytes ⟨0x0100, true, 7, 0, 4, 64, 0⟩)
/-- The state in which a key-value command reads. -/
def kvStart (s : State) : State := (s.modOp 5 fun op => { op with phase := .running }).order .ar .dev 0
/-- A read of a command, without poison, and what holds of its bytes. -/
def reads (s : State) (va n : Nat) (p : Bytes → Bool) : Bool :=
  match s.opRead 5 .g va n with | (.ok x, _) => !x.psn && p x.bytes | _ => false
def writes (s : State) (va : Nat) (b : Bytes) : Bool := match s.opWrite 5 .g va b false with | (.ok _, _) => true | _ => false
/-- The tag of zeros is zero: the block of zeros has its tag, and the one with another tag has not. -/
theorem test_AttentionAndSideCommands_tag : kvTag (List.replicate 256 0) [] = fieldAt (List.replicate 256 0) 248 8
    ∧ kvTag (List.replicate 248 0 ++ leBytes 8 1) [] ≠ fieldAt (List.replicate 248 0 ++ leBytes 8 1) 248 8 := by
  have z (n : Nat) : crc64 (List.replicate n 0) = 0 := by
    induction n with
    | zero => rfl
    | succ n ih =>
      have h : crcBits 8 (0 ^^^ ((0 : Byte).toNat * 2 ^ 56)) = 0 := by decide +kernel
      rw [List.replicate_succ, crc64, List.foldl_cons, h]
      exact ih
  have run (x : Bytes) (h : x.take 24 ++ (x.drop 32).take 216 ++ [] = List.replicate 240 0) : kvTag x [] = 0 :=
    by rw [kvTag, h]; exact z 240
  have a := run (List.replicate 256 0) (by decide +kernel)
  have b := run (List.replicate 248 0 ++ leBytes 8 1) (by decide +kernel)
  rw [a, b]
  decide +kernel
theorem test_AttentionAndSideCommands_kv : let s := pooled 1 true 0x30000 0
    s.commandReady 5 (anOp (.kv 1 true (.s 3) 0x30000 0) 4 .queued) = true
    ∧ (sfind s.ops 5).map (·.work) = some (.kv 1 true (.s 3) 0x30000 0)
    ∧ reads (kvStart s) 0x30000 64 (fun p => fieldAt p 0 8 == 0x20000) = true ∧ reads (kvStart s) 0x20000 256 (fun _ => true) = true
    ∧ reads (kvStart s) 0x50000 64 (fun p => fieldAt p 0 8 == 0) = true
    ∧ writes (kvStart s) 0x20000 (leBytes 256 1) = true ∧ writes (kvStart s) 0x30000 (leBytes 12 1) = true
    ∧ (match ((kvStart s).opRead 5 .g (2 ^ 37) 64).1 with | .fail _ _ _ => true | _ => false) = true
    ∧ (match (({ kvStart s with mem := { s.mem with hbmPsn := [(0x30000 / 64, true)] } } : State).opRead 5 .g 0x30000 64).1 with
        | .ok x => x.psn | _ => false) = true := by decide +kernel
theorem test_AttentionAndSideCommands_kvBlock : let s := kvStart (pooled 2 false 0x40000 4)
    reads s 0x40000 256 (fun x => (kvHead x).ver == 0x0100 && (kvHead x).tent && (kvHead x).count == 0 && (kvHead x).cap == 4) = true
    ∧ reads s 0x20000 256 (fun x => x == List.replicate 256 0) = true
    ∧ reads s 0x60000 256 (fun x => x == List.replicate 248 0 ++ leBytes 8 1) = true
    ∧ reads s 0x30000 64 (fun p => fieldAt p 12 2 == 4 && fieldAt p 14 2 == 64) = true
    ∧ reads s 0x50000 64 (fun p => fieldAt p 12 2 != 4) = true ∧ writes s 0x40000 (leBytes 256 1) = true
    ∧ (reads s (0x40000 + 256) 128 fun _ => true) = true ∧ (reads s (0x40000 + 256 + 2 * 64 * 4) 128 fun _ => true) = true := by decide +kernel

/-- The base between clauses, whose line in the buffer fails its parity, and in memory a line without parity, or one of `nop`s. -/
def flawed (x : LineBits) : State :=
  let s := (resting id).writePa (outside 0) 0 0x1000 (leBytes 64 x.toNat)
  { s with ibuf := [(0, [⟨0x1000, 0, nopLine ^^^ 1, 0⟩])] }
theorem test_LineEntry_parity : let s := flawed nopLine
    let line := pcLine s.cur.slot.pc
    let v : State := { s with cur := { s.cur.setSlot { s.cur.slot with copy := 0 } with issue1 := false, fresh := false } }
    let w := v.setIbuf s.cur.coreNo ((v.ibufOf s.cur.coreNo).filter fun y => !(y.line = line && y.ctx = s.cur.ctx && y.copy = 0))
    s.offer = some false ∧ (s.ibufFind s.cur.coreNo s.cur.ctx line).map (fun x => lineParity x.data) = some false ∧ s.cur.fresh = false
    ∧ (match w.fillLine v.cur.agent line with
        | (.ok y, k) => k.cur == v.cur && lineParity y && (lineFail s.cur.env y 0).isNone | _ => false) = true := by decide +kernel
theorem test_LineEntry_parityAgain : let s := flawed (nopLine ^^^ 2)
    let w := s.setIbuf s.cur.coreNo []
    (match w.fillLine s.cur.agent (pcLine s.cur.slot.pc) with | (.ok y, k) => k.cur == s.cur && !lineParity y | _ => false) = true
    ∧ (match w.fillLine ({ s.cur with ctx := 1 } : Group).agent 0x1000 with | (.error _, k) => k.cur == s.cur | _ => false) = true := by
  decide +kernel

theorem test_MapsAndShootdowns_waits : let at_ : Work := .atomic .g false 0 false .rlx .dev (.s 3) [⟨0, 0x8000, 0x8000, 1, 0⟩]
    (opState at_ noQueue .queued).mustWait .g [0x8000] 128 false = true ∧ base.mustWait .g [0x8000] 128 false = false
    ∧ 0x8000 + 127 < 2 ^ 54 := by decide +kernel
theorem test_GrowRequestsAndGroupEnds_quiet : let s := placed (on fun g => { g with exited := BitVec.allOnes 64 })
    s.ops = [] ∧ s.cur.expired = false ∧ (s.gridOf 0).map (·.fails) = some 0 := by decide +kernel
theorem test_LaunchEntriesAndGridEnds_complete : (∀ e ∈ base.ops, e.2.unperformed = false ∧ e.2.incomplete = false)
    ∧ (anOp (.load 1 4 [] []) noQueue .queued).incomplete = true := by decide +kernel

theorem test_GangsAndContexts_upcall : yielding.servesUpcall 0 = false
    ∧ ({ yielding with
          xlate := { yielding.xlate with upcalls := [⟨0, 5, 2 ^ 20, 1, 1, true, true, none, [], []⟩] },
          launch := { yielding.launch with grids := [(0, { grid0 with desc := { desc4 with priv := true } })] } } : State).servesUpcall 0 = true := by
  decide +kernel
/-- A registration of a stack that sleeps cannot be cancelled. -/
theorem test_GangsAndContexts_sweeps : (swept .armed [0]).sweepsCancel 0 = true
    ∧ ({ swept .armed [0] with sweep := { (swept .armed [0]).sweep with
          ctls := [(0, { StackCtl.reset with asleep := true })] } } : State).sweepsCancel 0 = false := by decide +kernel

theorem test_StackControllers_errors : let s := ctl { StackCtl.reset with rowErrs := [(11 * 2 ^ 20, ([], true))] }
    s.repairDue (11 * 2 ^ 20) = true ∧ (ctl StackCtl.reset).repairDue (11 * 2 ^ 20) = false ∧ rowStack (11 * 2 ^ 20) = 11
    ∧ (15 : Nat) < 16 ∧ s.mgmt.mode ≠ 2 := by decide +kernel

theorem test_SweepRegistrations_place : let s := swept .installing [0]; let r := reg0 .installing [0]
    (match (s.writeLocal .s r.core (r.loc + 28) (leBytes 4 r.hdl)).opTranslate r.op r.desc.flag .write with
      | (.ok .., _) => true | _ => false) = true := by decide +kernel
/-- An armed registration whose region lies in a stack that is awake, and in one that sleeps. -/
theorem test_SideQueueHandover_armed : let s := { swept .armed [0] with ops := [(6, anOp (.sweep 1 3 1) 5 .queued)] }
    let gone : SweepReg := { reg0 .armed [0] with phase := .cancelled }
    atSide s = some 6 ∧ sfind s.sweep.regs (0 * 2 ^ 32 + 1) = some (reg0 .armed [0]) ∧ (reg0 .armed [0]).desc.rep = false ∧ s.sweep.due = []
    ∧ (∀ x ∈ (reg0 .armed [0]).rows, (s.stackCtl (rowStack x)).asleep = false)
    ∧ ({ s with sweep := { s.sweep with regs := [(1, gone)] } } : State).writeSweepFlag gone ≠ none
    ∧ (∃ x ∈ (reg0 .armed [0]).rows, (({ s with sweep := { s.sweep with
          ctls := [(0, { StackCtl.reset with asleep := true })] } } : State).stackCtl (rowStack x)).asleep = true) := by decide +kernel

/-- A job of the Sheds that waits for its leave. -/
theorem test_ShedJobs_leave : let j : ShedJob := { job0 with phase := .leave, grant := 0 }
    let s := placed { base with shed := { base.shed with jobs := [(0, j)] }, leave := { base.leave with waiting := [9] } }
    sfind s.ops j.id = none ∧ s.shed.jobs.find? (fun e => e.2.id = j.id) = some (0, j) ∧ s.leave.waiting.head? = some j.id
    ∧ 937 ≤ s.leave.free ∧ j.since < s.now ∧ s.now ≤ ({ j with since := 1 } : ShedJob).since := by decide +kernel

theorem test_AttentionRuns_leave : let s := placed { opState (.attn 3 0 adesc) 4 .leave with leave := { base.leave with waiting := [5] } }
    sfind s.ops 5 = some (attnOp .leave) ∧ (attnOp .leave).mates = [] ∧ s.leave.waiting.head? = some 5 ∧ 4687 ≤ s.leave.free
    ∧ (attnOp .leave).since < s.now ∧ (s.gridOf (attnOp .leave).grid).isSome = true := by decide +kernel
theorem test_AttentionRuns_ready : let s := placed (opState (.attn 3 0 adesc) 4 .queued)
    s.attnReady 0 = some 5 ∧ sfind s.ops 5 = some (attnOp .queued) ∧ sget 47 s.attn.last 0 = 47 := by decide +kernel
/-- The header of a block of one token. -/
def oneToken : Bytes := KvHead.bytes ⟨0x0100, false, 0, 1, 1, 64, 0⟩ ++ leBytes 232 0
/-- A block of one token, whose header stands in memory; the payload on a refused page, and in poison. -/
theorem test_AttentionRuns_blocks : let s := State.writePa (attnOn (run0 [] 0x20000)) (outside 0) 0 0x20000 oneToken
    let b := block0 false 1
    (match s.opRead 5 .g 0x20000 256 with
      | (.ok x, _) => (kvHead x.bytes).ver == 0x0100 && (kvHead x.bytes).hdh == adesc.dh && (kvHead x.bytes).count == 1 | _ => false) = true
    ∧ (match s.attnPayload 5 adesc b 1 with | some (.rows _ _, _) => true | _ => false) = true
    ∧ (match s.attnPayload 5 adesc { b with va := 2 ^ 37 } 1 with | some (.bad st, _) => st == 1 | _ => false) = true
    ∧ ({ b with unreadable := some 2 } : AttnBlock).unreadable = some 2 ∧ ({ b with pay := some (.bad 2) } : AttnBlock).pay = some (.bad 2)
    ∧ adesc.limit ≤ (run0 [] 0).p + 4 ∧ ((run0 [] 0).window.length ≤ 1 ∧ (run0 [] 0).next = 0) := by decide +kernel

theorem test_EpisodesOfThePaddock_uncorrectable : (crib1 [[], msg 4] none).pad.cribs = [(7, { crib0 with out := [[], msg 4], image := none })]
    ∧ (ep0 2 none).overdue = false ∧ msg 4 ≠ [] ∧ 0x80000 < ({ ep0 2 none with pc := 0x80000 } : Episode).pc.toNat + 2 := by decide +kernel

theorem test_DebugStops_off : let s := halted fun g => { g with resident := false }
    s.stoppedGroup 0 1 = some s.cur ∧ s.stepOffer s.cur = some false ∧ s.cur.pstk < 62 ∧ s.cur.gid = 1
    ∧ (halted fun g => { g with slot0 := { g.slot0 with valid := false } }).stepOffer
        (halted fun g => { g with slot0 := { g.slot0 with valid := false } }).cur = none := by decide +kernel
theorem test_DebugAccess_shared : (halted id).stoppedGroup 0 1 = some (halted id).cur ∧ (halted id).cur.resident = true := by decide +kernel

theorem test_HostAndFabric_own : let s := { laneOf ⟨true, false, [4], []⟩ [] with fabric := { (laneOf ⟨true, false, [4], []⟩ []).fabric with
      sendSeq := 5, recvSeq := 2, writes := [⟨1, 1, [4]⟩] } }
    4 ∈ (s.fabricLane 3).replay ∧ (s.fabric.waiting = 0 ∨ 4 < s.fabric.sendSeq) ∧ s.laneMap ≠ [] ∧ s.mgmt.mode ≠ 2
    ∧ (∀ n < 72, 5 ∉ (s.fabricLane n).replay) ∧ 5 ∉ (s.fabricLane 3).replay ∧ s.fabric.recvSeq ≤ 2 ∧ 1 < s.fabric.recvSeq
    ∧ ({ s with mgmt := { s.mgmt with mode := 2 } } : State).mgmt.mode = 2 := by decide +kernel
/-- A link-down finds no collective under way, or one of this device's communicators. -/
theorem test_HostAndFabric_coll : let op := { anOp (.coll 0 (leBytes 64 0) [0]) 2 .running with progress := 1 }
    let s := { opState (.coll 0 (leBytes 64 0) [0]) 2 .running with fabric := { base.fabric with comms := [(0, ⟨2, 1⟩)], asked := [(0, 9)] } }
    s.collOut op = true ∧ base.ops = [] ∧ 9 ≤ sget 0 s.fabric.asked 0 := by decide +kernel

/-! A collective of two members: the descriptor of a sum over `I32` of four elements. -/

def collBytes0 (cop cfmt dst : Nat) : Bytes := leBytes 4 0 ++ leBytes 2 cop ++ leBytes 2 cfmt ++ leBytes 8 0 ++ leBytes 8 dst ++ leBytes 8 4 ++ leBytes 32 0
def part0 (desc : Bytes) (rank : Nat) : Contribution := ⟨0, 1, rank, desc, leBytes 8 (2 ^ 32 + 1)⟩
def summed (desc : Bytes) (dst : Nat) : State :=
  let w : Work := .coll 0 (collBytes0 0 5 dst) [1]
  { opState w 2 .running with
      ops := [(5, { anOp w 2 .running with progress := 1 })]
      fabric := { base.fabric with comms := [(0, ⟨2, 1⟩)], contribs := [part0 desc 0, part0 (collBytes0 0 5 dst) 1] } }
theorem test_CollectivesAndNvme_fold : let s := summed (collBytes0 0 5 0x50000) 0x50000
    let d := collDesc (collBytes0 0 5 0x50000)
    d.bad = false ∧ (s.pieceBytes d 2 1 1).isSome = true ∧ d.cop ≠ 2 ∧ d.cop ≠ 4
    ∧ (∀ x ∈ (List.range 2).filterMap fun r => s.contribution d.comm 1 r, (collDesc x.desc).agrees d = true)
    ∧ (match (s.opWrite 5 .g (d.dst + 8) (leBytes 8 0) false).1 with | .ok _ => true | _ => false) = true
    ∧ (match (s.opWrite 5 .g (2 ^ 37) (leBytes 8 0) false).1 with | .fail _ _ _ => true | _ => false) = true := by decide +kernel
theorem test_CollectivesAndNvme_collFails : let s := summed (collBytes0 1 5 0x50000) 0x50000
    let d := collDesc (collBytes0 0 5 0x50000)
    (∃ x ∈ (List.range 2).filterMap fun r => s.contribution d.comm 1 r, (collDesc x.desc).agrees d = false)
    ∧ (collDesc (collBytes0 9 5 0)).bad = true ∧ (collDesc (collBytes0 0 5 0)).cfmt = 5 ∧ (collDesc (collBytes0 1 5 0)).cop = 1
    ∧ (collDesc (collBytes0 0 0 0)).cfmt = 0 ∧ sfind base.fabric.comms 0 = none
    ∧ s.collNeeds 0 0 ⟨2, 1⟩ { anOp (.coll 0 (collBytes0 0 5 0) [0]) 2 .running with progress := 1 } = true := by decide +kernel
theorem test_CollectivesAndNvme_blocks : (0 : Nat) < 1 ∧ (leBytes 4096 0).length = 4096 * 1 ∧ ([] : Bytes).length = 4096 * 0 := by decide +kernel

theorem test_StartsImagesAndRegisters_dies : (15 : Nat) % 16 = 15 ∧ (13 : Nat) % 16 ≠ 15 ∧ (∀ n < 4, (0 : Nat).testBit n = false)
    ∧ ({ State.reset.mgmt with fresh := true } : MgmtState).fresh = true ∧ State.reset.mgmt.fresh = false
    ∧ (1 : Nat) ≤ 7 ∧ 3 ≤ ({ State.reset.mgmt with nvCount := 3 } : MgmtState).nvCount := by decide +kernel

/-! ### One step of an instruction; each expected result is worked out by hand from its rule -/

/-- What an instruction does to the base whose `v2`, `v3` and `v4` hold the given values in lane 0. -/
def withV (x y z : Word) : State := on fun g => { g with v := sput (sput (sput g.v 128 x) 192 y) 256 z }
def v1Is (i : Fields → Instr) (x y z r : Word) : Bool :=
  ran (exec (i (fl (.v 1) (.v 2) (.v 3) (.v 4) 0)) (withV x y z)) fun t => t.cur.readV 1 0 == r && pcSlot t.cur.pc == 1

/-- R102: modulo 2^32, and clamped with `.sat`. -/
theorem test_add_wraps : v1Is (.add (lm .i32 0)) 0x7FFFFFFF 1 0 0x80000000 = true
    ∧ v1Is (.add ⟨.i32, .rn, true, 0⟩) 0x7FFFFFFF 1 0 0x7FFFFFFF = true := by decide +kernel
theorem test_sub_unsigned_sat : v1Is (.sub ⟨.u32, .rn, true, 0⟩) 1 2 0 0 = true := by decide +kernel
theorem test_mulhi_signed : v1Is (.mulhi (lm .i32 0)) 0xFFFFFFFF 1 0 0xFFFFFFFF = true ∧ v1Is (.mulhi (lm .u32 0)) 0xFFFFFFFF 1 0 0 = true := by
  decide +kernel
/-- R103: without `w`, a count of 32 or more shifts everything out; with it, the count is taken modulo 32. -/
theorem test_shl_count : v1Is (.shl (lm .i32 0)) 1 33 0 0 = true ∧ v1Is (.shl (lm .i32 1)) 1 33 0 2 = true := by decide +kernel
theorem test_sar_all : v1Is (.sar (lm .i32 0)) 0x80000000 99 0 0xFFFFFFFF = true := by decide +kernel
theorem test_clz_zero : v1Is (.clz (lm .i32 0)) 0 0 0 32 = true := by decide +kernel
/-- R107: 1 + 2^-24 is a tie, which goes to even; toward plus infinity it goes up. -/
theorem test_fadd_rounds : v1Is (.fadd (lm .f32 0)) 0x3F800000 0x33800000 0 0x3F800000 = true
    ∧ v1Is (.fadd ⟨.f32, .ru, false, 0⟩) 0x3F800000 0x33800000 0 0x3F800001 = true := by decide +kernel
/-- R109: -0 is less than +0, and a NaN gives way to a number. -/
theorem test_fmin_zeros : v1Is (.fmin (lm .f32 0)) 0 0x80000000 0 0x80000000 = true
    ∧ v1Is (.fmin (lm .f32 0)) 0x7FC00000 0x3F800000 0 0x3F800000 = true := by decide +kernel
theorem test_hdot2 : v1Is (.hdot2 (lm .f16 0)) 0x3C003C00 0x40004000 0x3F800000 0x40A00000 = true := by decide +kernel
theorem test_sel : v1Is (.sel (lm .i32 0)) 7 8 0 8 = true := by decide +kernel

/-- R117: the pair of a 64-bit move, low half first. -/
theorem test_amov_pair : ran (exec (.amov (lm .i32 2) (fl (.s 4) (.a 1) z z 0)) (on fun g => g.writeA 1 0x123456789)) (fun t =>
    t.cur.readS 4 == 0x23456789 && t.cur.readS 5 == 1) = true := by decide +kernel
/-- R42: nothing is written where no lane takes effect. -/
theorem test_guard_off : ran (exec (.mov (lm .i32 0) (flOff (.s 4) (.const .one) z z 0)) base) (fun t => t.cur.readS 4 == 0) = true := by
  decide +kernel
/-- R147: the sum of 64 ones. -/
theorem test_lred_sum : ran (exec (.lred (xm .i32 0 0) (fl (.s 4) (.const .one) z z 0)) base) (fun t => t.cur.readS 4 == 64) = true := by
  decide +kernel
/-- R134: an even lane goes on, an odd one counts one. -/
theorem test_if_counts : ran (exec (.if_ ⟨⟨false, 0⟩, z, z, z, z, 0, 8⟩) (evens base)) (fun t =>
    t.cur.ctrOf 0 == 0 && t.cur.ctrOf 1 == 1 && pcSlot t.cur.pc == 1) = true := by decide +kernel
/-- R131: the link is the next point. -/
theorem test_call_links : ran (exec (.call (fl (.a 2) z z z 8)) base) (fun t =>
    t.cur.readA 2 == mkPc 0x1000 1 && t.cur.pc == mkPc 0x1040 0) = true := by decide +kernel
/-- R139, R239: `ebrk` enters the handler. -/
theorem test_ebrk_traps : ran (exec (.ebrk (fl z z z z 5)) base) (fun t =>
    t.cur.pc == mkPc 0x2000 0 && t.cur.busy && sget 0 t.mem.hbm 0 == 13 && sget 0 t.mem.hbm 0x10 == 5) = true := by decide +kernel
/-- R157: a store of a byte, and the load that finds it. -/
theorem test_st_ld : ran (exec (.st ⟨.s, 0, false, 0⟩ (fl z (.s 0) .imm (.const .ones) 9)) base) (fun t =>
    t.sharedByte 0 9 == 0xFF && t.sharedByte 0 10 == 0
      && ran (exec (.ld ⟨.s, 0, true, 0⟩ (fl (.s 4) (.s 0) .imm z 9)) t) (fun u =>
        u.ops.map (fun e => match e.2.work with | .load _ _ w _ => w | _ => []) == [[(.s 4, 0, 0xFFFFFFFF)]])) = true := by decide +kernel
/-- R174: the second of two arrivals completes phase 3. -/
theorem test_phbar_arr : ran (exec (.phbarArr (fl z (.s 0) z z 0)) (base.writeLocal .s 0 0 (Phbar.toBytes ⟨0, 2, 1, 3, 0, false, false⟩))) (fun t =>
    t.phbarAt 0 0 == some ⟨0, 2, 0, 4, 0, false, false⟩) = true := by decide +kernel
/-- R166: the old value returns, the sum stands in memory. -/
theorem test_atom_add : ran (exec (.atomicPerform 5) (opState oneAtom noQueue .queued)) (fun t =>
    t.cur.readS 3 == 0 && t.sharedByte 0 524280 == 1 && t.ops.isEmpty) = true := by decide +kernel
/-- R161: 64 bytes at a time. -/
theorem test_copyUnit : ran (exec (.copyUnitWrite 5) ((opState (cpyW 100) 0 .running).writeLocal .s 0 63 [9, 8])) (fun t =>
    t.sharedByte 0 0x803F == 9 && t.sharedByte 0 0x8040 == 0 && t.ops.map (fun e => e.2.progress) == [64]) = true := by decide +kernel

end Sys2Proof.Tests
end

/-! SUPPORT. What the lane arithmetic of R102 to R113 computes, function by function, and the obligations of that family. -/

section
/-! ### Where a lane instruction puts its result (R98) -/

namespace Sys2Proof.Machine

theorem lands1_of_lane1 {i : Instr} {o : Fields} {s : State} {f g : Word → Word} (h : exec i s = lane1 s o f)
    (e : ∀ x, f x = g x) : Lands1 i o s g :=
  (lands_of_laneStep h).congr fun _ => e _

theorem lands2_of_lane2 {i : Instr} {o : Fields} {s : State} {f g : Word → Word → Word} (h : exec i s = lane2 s o f)
    (e : ∀ x y, f x y = g x y) : Lands2 i o s g :=
  (lands_of_laneStep h).congr fun _ => e _ _

theorem lands3_of_lane3 {i : Instr} {o : Fields} {s : State} {f g : Word → Word → Word → Word}
    (h : exec i s = lane3 s o f) (e : ∀ x y z, f x y z = g x y z) : Lands3 i o s g :=
  (lands_of_laneStep h).congr fun _ => e _ _ _

/-! ### Integers of a format (R97, R102) -/

/-- Reading the low n bits of a number as signed is reading an n-bit vector as signed. -/
theorem sext_eq_toInt (x n : Nat) (hn : 0 < n) : sext x n = (BitVec.ofNat n x).toInt := by
  obtain ⟨k, rfl⟩ : ∃ k, n = k + 1 := ⟨n - 1, by omega⟩
  have hpow : 2 ^ (k + 1) = 2 * 2 ^ k := by rw [Nat.pow_succ, Nat.mul_comm]
  rw [BitVec.toInt_eq_toNat_cond, BitVec.toNat_ofNat, sext, Nat.add_sub_cancel]
  refine if_congr ?_ rfl rfl
  omega

theorem ival_i32 (x : Word) : ival .i32 x = x.toInt := by
  have h : ival .i32 x = sext x.toNat 32 := rfl
  rw [h, sext_eq_toInt _ _ (by decide), BitVec.ofNat_toNat, BitVec.setWidth_eq]

theorem ival_u32 (x : Word) : ival .u32 x = x.toNat :=
  congrArg Int.ofNat (Nat.mod_eq_of_lt x.isLt)

theorem ival_eq {f : Fmt} (hf : f = .i32 ∨ f = .u32) (x : Word) :
    ival f x = if f = .i32 then x.toInt else (x.toNat : Int) := by
  obtain rfl | rfl := hf
  · exact ival_i32 x
  · exact ival_u32 x

theorem intMin_eq {f : Fmt} (hf : f = .i32 ∨ f = .u32) : intMin f = if f = .i32 then -2147483648 else 0 := by
  obtain rfl | rfl := hf <;> rfl

theorem intMax_eq {f : Fmt} (hf : f = .i32 ∨ f = .u32) : intMax f = if f = .i32 then 2147483647 else 4294967295 := by
  obtain rfl | rfl := hf <;> rfl

theorem intMin_le_intMax (f : Fmt) : intMin f ≤ intMax f := by cases f <;> decide

/-- Clamping to a nonempty range, by where the number lies. -/
theorem max_min_eq_ite {lo hi : Int} (h : lo ≤ hi) (t : Int) :
    max lo (min hi t) = if t < lo then lo else if hi < t then hi else t := by
  split
  · omega
  · split <;> omega

theorem intResult_eq (f : Fmt) (sat : Bool) (t : Int) : intResult f sat t
    = BitVec.ofInt 32 (if sat then if t < intMin f then intMin f else if intMax f < t then intMax f else t else t) := by
  rw [intResult, max_min_eq_ite (intMin_le_intMax f)]

/-- Settles O8: each function is its exact value brought to 32 bits by `intResult`. -/
theorem integerArithmetic : Obligations.IntegerArithmetic := by
  unfold Obligations.IntegerArithmetic
  intro m o s hf int lo hi out
  have hint (x : Word) : ival m.fmt x = int x := ival_eq hf x
  have hout (t : Int) : intResult m.fmt m.sat t = out lo hi t := by
    rw [intResult_eq, intMin_eq hf, intMax_eq hf]
  have houtSigned (t : Int) : intResult .i32 m.sat t = out (-2147483648) 2147483647 t := intResult_eq _ _ _
  refine ⟨lands2_of_lane2 rfl fun x y => ?add, lands2_of_lane2 rfl fun x y => ?sub, lands2_of_lane2 rfl fun x y => ?mul,
    lands3_of_lane3 rfl fun x y z => ?mad, lands2_of_lane2 rfl fun x y => ?mulhi, lands2_of_lane2 rfl fun x y => ?min,
    lands2_of_lane2 rfl fun x y => ?max, lands1_of_lane1 rfl fun x => ?abs, lands1_of_lane1 rfl fun x => ?neg⟩
  case add => rw [addOp, hout, hint, hint]
  case sub => rw [subOp, hout, hint, hint]
  case mul => rw [mulOp, hout, hint, hint]
  case mad => rw [madOp, hout, hint, hint, hint]
  case mulhi => rw [mulhiOp, hint, hint]; rfl
  case min => rw [minOp, hint, hint]
  case max => rw [maxOp, hint, hint]
  case abs => rw [absOp, houtSigned, ival_i32]
  case neg => rw [negOp, houtSigned, ival_i32]

end Sys2Proof.Machine
end

section
/-! ### The bit functions (R103) -/

namespace Sys2Proof.Machine

theorem shlOp_eq (n : Nat) (x : Word) : shlOp n x = x <<< n := by
  unfold shlOp
  split
  · exact (BitVec.shiftLeft_eq_zero ‹_›).symm
  · rfl

theorem shrOp_eq (n : Nat) (x : Word) : shrOp n x = x >>> n := by
  unfold shrOp
  split
  · exact (BitVec.ushiftRight_eq_zero ‹_›).symm
  · rfl

/-- A shift by 31 already leaves nothing but the sign, so that a greater count adds nothing. -/
theorem sarOp_eq (n : Nat) (x : Word) : sarOp n x = x.sshiftRight n := by
  obtain hn | hn := Nat.le_total n 31
  · rw [sarOp, Nat.min_eq_left hn]
  · rw [sarOp, Nat.min_eq_right hn]
    refine BitVec.eq_of_getLsbD_eq fun i hi => ?_
    rw [BitVec.getLsbD_sshiftRight, BitVec.getLsbD_sshiftRight, BitVec.msb_eq_getLsbD_last]
    obtain rfl | hpos := Nat.eq_zero_or_pos i
    · by_cases h31 : n = 31
      · rw [h31]
      · simp [show ¬ n < 32 by omega]
    · simp [show ¬ 31 + i < 32 by omega, show ¬ n + i < 32 by omega]

theorem countOnes_eq_countP (n x : Nat) : countOnes n x = (List.range n).countP fun i => x.testBit i := by
  induction n generalizing x with
  | zero => rfl
  | succ n ih =>
    have htail : (fun i => x.testBit i) ∘ Nat.succ = fun i => (x / 2).testBit i := funext fun i => Nat.testBit_succ x i
    rw [countOnes, ih, List.range_succ_eq_map, List.countP_cons, List.countP_map, htail, Nat.testBit_zero, Nat.add_comm]
    obtain h | h := Nat.mod_two_eq_zero_or_one x <;> simp [h]

theorem toNat_ofNat_countOnes (x : Word) :
    (BitVec.ofNat 32 (countOnes 32 x.toNat)).toNat = (List.range 32).countP fun i => x.getLsbD i := by
  have hle : ((List.range 32).countP fun i => x.toNat.testBit i) ≤ 32 := List.countP_le_length
  rw [countOnes_eq_countP, BitVec.toNat_ofNat, Nat.mod_eq_of_lt (hle.trans_lt (by decide))]
  rfl

theorem toNat_clzOp (x : Word) : (clzOp x).toNat = if x = 0 then 32 else 31 - x.toNat.log2 := by
  rw [clzOp, BitVec.toNat_ofNat]
  exact Nat.mod_eq_of_lt (by split <;> omega)

/-- The highest one of a nonzero word. -/
theorem toNat_clzOp_of_ne_zero {x : Word} (hx : x ≠ 0) : x.toNat.log2 < 32 ∧ (clzOp x).toNat = 31 - x.toNat.log2 :=
  ⟨(Nat.log2_lt (by simpa [BitVec.toNat_eq] using hx)).mpr x.isLt, by rw [toNat_clzOp, if_neg hx]⟩

theorem toNat_clzOp_le (x : Word) : (clzOp x).toNat ≤ 32 := by
  rw [toNat_clzOp]
  split <;> omega

theorem getLsbD_above_clzOp {x : Word} {i : Nat} (hi : 32 - (clzOp x).toNat ≤ i) : x.getLsbD i = false := by
  by_cases hx : x = 0
  · rw [hx]; exact BitVec.getLsbD_zero
  · obtain ⟨hlog, hclz⟩ := toNat_clzOp_of_ne_zero hx
    refine Nat.testBit_eq_false_of_lt (Nat.lt_log2_self.trans_le (Nat.pow_le_pow_right (by decide) ?_))
    omega

theorem getLsbD_at_clzOp {x : Word} (h : (clzOp x).toNat < 32) : x.getLsbD (31 - (clzOp x).toNat) = true := by
  have hx : x ≠ 0 := by
    rintro rfl
    exact absurd h (by decide)
  obtain ⟨hlog, hclz⟩ := toNat_clzOp_of_ne_zero hx
  rw [hclz, show 31 - (31 - x.toNat.log2) = x.toNat.log2 by omega]
  exact Nat.testBit_log2 (by simpa [BitVec.toNat_eq] using hx)

/-- The sum that `brev` makes of the lowest n bits stands at the top of w bits, in reverse order. -/
theorem exists_reverse_of_foldl (p : Nat → Bool) (w n : Nat) (hn : n ≤ w) :
    ∃ t, (List.range n).foldl (fun r i => if p i then r + 2 ^ (w - 1 - i) else r) 0 = 2 ^ (w - n) * t
      ∧ ∀ j, t.testBit j = (decide (j < n) && p (n - 1 - j)) := by
  induction n with
  | zero => exact ⟨0, by simp⟩
  | succ n ih =>
    obtain ⟨t, hsum, hbits⟩ := ih (by omega)
    refine ⟨Nat.bit (p n) t, ?_, fun j => ?_⟩
    · have hpow : 2 ^ (w - n) = 2 ^ (w - (n + 1)) * 2 := by rw [← Nat.pow_succ]; congr 1; omega
      rw [List.range_succ, List.foldl_append, hsum, List.foldl_cons, List.foldl_nil, hpow,
        show w - 1 - n = w - (n + 1) by omega]
      cases p n with
      | false => simp [Nat.bit_val]; ring
      | true => simp [Nat.bit_val]; ring
    · cases j with
      | zero => simp
      | succ j =>
        rw [Nat.testBit_bit_succ, hbits, show n + 1 - 1 - (j + 1) = n - 1 - j by omega]
        simp

theorem getLsbD_brevOp (x : Word) {i : Nat} (hi : i < 32) : (brevOp x).getLsbD i = x.getLsbD (31 - i) := by
  obtain ⟨t, hsum, hbits⟩ := exists_reverse_of_foldl (fun j => x.getLsbD j) 32 32 le_rfl
  have ht : brevOp x = BitVec.ofNat 32 t := congrArg (BitVec.ofNat 32) (hsum.trans (by simp))
  rw [ht, BitVec.getLsbD_ofNat, hbits]
  simp [hi]

/-! ### Bit fields (R103) -/

/-- The position and the length of a descriptor, cut to the word. -/
theorem fieldDesc_eq (y : Word) : fieldDesc y
    = (min (y.toNat % 256) 32, min (y.toNat / 256 % 256) (32 - min (y.toNat % 256) 32)) := by
  simp [fieldDesc, bits]

/-- `bfe` takes the field out of the word and extends it to 32 bits as its format says. -/
theorem bfeOp_eq_extract {f : Fmt} {x y : Word} {pos len : Nat} (hd : fieldDesc y = (pos, len)) (hlen : 0 < len) :
    bfeOp f x y
      = if isSigned f then (x.extractLsb' pos len).signExtend 32 else (x.extractLsb' pos len).setWidth 32 := by
  have hfield : x.toNat / 2 ^ pos % 2 ^ len = (x.extractLsb' pos len).toNat := by
    rw [BitVec.extractLsb'_toNat, Nat.shiftRight_eq_div_pow]
  simp only [bfeOp, hd, if_neg hlen.ne', hfield]
  rw [sext_eq_toInt _ _ hlen, BitVec.ofNat_toNat, BitVec.setWidth_eq, BitVec.ofNat_toNat, BitVec.signExtend]

theorem getLsbD_bfeOp {f : Fmt} {x y : Word} {pos len i : Nat} (hd : fieldDesc y = (pos, len)) (hi : i < 32) :
    (bfeOp f x y).getLsbD i = if i < len then x.getLsbD (pos + i)
      else (isSigned f && decide (0 < len) && x.getLsbD (pos + len - 1)) := by
  obtain rfl | hlen := Nat.eq_zero_or_pos len
  · simp [bfeOp, hd]
  · have hmsb : (x.extractLsb' pos len).msb = x.getLsbD (pos + len - 1) := by
      rw [BitVec.msb_eq_getLsbD_last, BitVec.getLsbD_extractLsb', decide_eq_true (by omega), Bool.true_and,
        Nat.add_sub_assoc hlen]
    rw [bfeOp_eq_extract hd hlen]
    cases isSigned f with
    | false => by_cases hin : i < len <;> simp [hi, hin]
    | true =>
      rw [if_pos rfl, BitVec.getLsbD_signExtend, hmsb]
      by_cases hin : i < len <;> simp [hi, hin, hlen]

theorem getLsbD_bfiOp {x y z : Word} {pos len i : Nat} (hd : fieldDesc z = (pos, len)) (hi : i < 32) :
    (bfiOp x y z).getLsbD i = if pos ≤ i ∧ i < pos + len then y.getLsbD (i - pos) else x.getLsbD i := by
  have hfield : (i - pos < len ∧ pos ≤ i) ↔ (pos ≤ i ∧ i < pos + len) := by omega
  simp only [bfiOp, hd, BitVec.getLsbD_or, BitVec.getLsbD_and, BitVec.getLsbD_not, BitVec.getLsbD_ofNat,
    Nat.testBit_mul_two_pow, Nat.testBit_two_pow_sub_one, Nat.testBit_mod_two_pow, BitVec.testBit_toNat, hi]
  by_cases hin : pos ≤ i ∧ i < pos + len
  · simp [hin, (hfield.mpr hin).1]
  · have hout : (decide (pos ≤ i) && decide (i - pos < len)) = false := by simpa [and_comm] using mt hfield.mp hin
    rw [if_neg hin]
    simp [← Bool.and_assoc, hout]

/-- Settles O9: each function's bits, one lemma a function. -/
theorem bitFunctions : Obligations.BitFunctions := by
  unfold Obligations.BitFunctions
  intro m o s count pos len
  have hdesc (y : Word) : fieldDesc y = (pos y, len y) := fieldDesc_eq y
  have same1 {i : Instr} {f : Word → Word} (h : exec i s = lane1 s o f) : Lands1 i o s f := lands1_of_lane1 h fun _ => rfl
  have same2 {i : Instr} {f : Word → Word → Word} (h : exec i s = lane2 s o f) : Lands2 i o s f :=
    lands2_of_lane2 h fun _ _ => rfl
  have same3 {i : Instr} {f : Word → Word → Word → Word} (h : exec i s = lane3 s o f) : Lands3 i o s f :=
    lands3_of_lane3 h fun _ _ _ => rfl
  refine ⟨same2 rfl, same2 rfl, same2 rfl, same1 rfl,
    lands2_of_lane2 (f := fun x y => shlOp (shiftCount m y) x) rfl fun x y => shlOp_eq (count y) x,
    lands2_of_lane2 (f := fun x y => shrOp (shiftCount m y) x) rfl fun x y => shrOp_eq (count y) x,
    lands2_of_lane2 (f := fun x y => sarOp (shiftCount m y) x) rfl fun x y => sarOp_eq (count y) x,
    ⟨fun x => BitVec.ofNat 32 (countOnes 32 x.toNat), same1 rfl, toNat_ofNat_countOnes⟩,
    ⟨clzOp, same1 rfl, fun x => ⟨toNat_clzOp_le x, fun i => getLsbD_above_clzOp, getLsbD_at_clzOp⟩⟩,
    ⟨brevOp, same1 rfl, fun x i => getLsbD_brevOp x⟩,
    ⟨bfeOp m.fmt, same2 rfl, fun x y i hi hf => ?bfe⟩,
    ⟨bfiOp, same3 rfl, fun x y z i hi => getLsbD_bfiOp (hdesc z) hi⟩⟩
  have hsigned : isSigned m.fmt = decide (m.fmt = .i32) := by obtain h | h := hf <;> rw [h] <;> rfl
  rw [getLsbD_bfeOp (hdesc y) hi, hsigned]

end Sys2Proof.Machine
end

section
/-! ### Comparison and addresses (R104, R105) -/

namespace Sys2Proof.Machine

theorem shiftLeft_eq_mul_two_pow (x : DWord) (k : Nat) : x <<< k = x * BitVec.ofNat 64 (2 ^ k) := by
  refine BitVec.eq_of_toNat_eq ?_
  rw [BitVec.toNat_shiftLeft, BitVec.toNat_mul, BitVec.toNat_ofNat, Nat.mul_mod_mod, Nat.shiftLeft_eq]

theorem setWidth_low_eq_ofNat (q : DWord) : q.setWidth 32 = BitVec.ofNat 32 (q.toNat % 2 ^ 32) := by
  refine BitVec.eq_of_toNat_eq ?_
  rw [BitVec.toNat_setWidth, BitVec.toNat_ofNat, Nat.mod_mod]

theorem setWidth_high_eq_ofNat (q : DWord) : (q >>> 32).setWidth 32 = BitVec.ofNat 32 (q.toNat / 2 ^ 32) := by
  refine BitVec.eq_of_toNat_eq ?_
  rw [BitVec.toNat_setWidth, BitVec.toNat_ofNat, BitVec.toNat_ushiftRight, Nat.shiftRight_eq_div_pow]

/-- A pair of vector registers written in the lanes of a mask (R105). -/
theorem Group.readV_writeV_pair (g : Group) (n : Nat) (m : LaneMask) (lo hi : Nat → Word) (k l : Nat) (hl : l < 64) :
    ((g.writeV n m lo).writeV (n + 1) m hi).readV k l
      = if k = n ∧ m.getLsbD l = true then lo l
        else if k = n + 1 ∧ m.getLsbD l = true then hi l else g.readV k l := by
  rw [Group.readV_writeV _ _ _ _ _ _ hl, Group.readV_writeV _ _ _ _ _ _ hl]
  by_cases hk : k = n
  · subst hk; simp
  · simp [hk]

/-- The address that `aidx` forms in a lane (R105). -/
def aidxAddr (m : LaneMod) (o : Fields) (s : State) (l : Nat) : DWord :=
  val64 s o.imm o.a l + BitVec.ofInt 64 (ival m.fmt (val s o.imm o.b l) * (2 ^ (m.sub.toNat % 8) : Nat))

theorem exec_aidx_of_v {m : LaneMod} {o : Fields} {s : State} {n : Fin 256} (hd : o.d = .v n) :
    exec (.aidx m o) s = .next (State.advance { s with
      cur := (s.cur.writeV n.val (s.cur.computing o.guard) fun l => (aidxAddr m o s l).setWidth 32).writeV (n.val + 1)
        (s.cur.computing o.guard) fun l => (aidxAddr m o s l >>> 32).setWidth 32 }) := by
  have harm : exec (.aidx m o) s = execAidx m o s := rfl
  rw [harm, execAidx, hd]
  rfl

/-- Settles O10: a condition code at a time, the shift as a product, and the two halves of the address as a register pair. -/
theorem compareAndAddress : Obligations.CompareAndAddress := by
  unfold Obligations.CompareAndAddress
  intro m o s hf int
  have hint (x : Word) : ival m.fmt x = int x := ival_eq hf x
  refine ⟨fun hsub => lands2_of_lane2
      (f := fun x y => truth (intCond m.sub.toNat (ival m.fmt x) (ival m.fmt y))) rfl fun x y => ?icmp,
    landsAddr_of_writeAddr ?aadd, fun n hd => ⟨_, exec_aidx_of_v hd, rfl, fun k l hl => ?aidx⟩⟩
  case icmp =>
    rw [hint, hint, truth]
    generalize m.sub.toNat = c at hsub
    generalize int x = a
    generalize int y = b
    match c with
    | 0 => rfl
    | 1 => simp [intCond]
    | 2 => rfl
    | 3 => rfl
    | 4 => rfl
    | 5 => rfl
  case aadd =>
    rw [← shiftLeft_eq_mul_two_pow]
    rfl
  case aidx =>
    intro q
    have hq : aidxAddr m o s l = q := by rw [aidxAddr, hint, Nat.cast_pow]; rfl
    rw [Group.readV_writeV_pair _ _ _ _ _ _ _ hl, hq, setWidth_low_eq_ofNat, setWidth_high_eq_ofNat]

end Sys2Proof.Machine
end

section
/-! ### Scalar floating point (R107 to R111) -/

namespace Sys2Proof.Machine

/-- The sign bit of a pattern of a float format, as a test. -/
def signOf (F : FloatFmt) (x : Nat) : Bool := x.testBit (F.expBits + F.manBits)

theorem signOf_eq_bits (F : FloatFmt) (x : Nat) :
    signOf F x = (bits x (F.expBits + F.manBits) (F.expBits + F.manBits) == 1) := by
  rw [signOf, Nat.testBit_eq_decide_div_mod_eq, bits, Nat.add_sub_cancel_left, Nat.pow_one]
  rfl

/-- The order of `fmin` and `fmax` on patterns that are not NaN: by value, and -0 below +0 (R109). -/
def floatLess (F : FloatFmt) (x y : Nat) : Bool :=
  decide (cmpExt (floatVal F x) (floatVal F y) < 0)
    || (decide (cmpExt (floatVal F x) (floatVal F y) = 0) && signOf F x && !signOf F y)

/-- NaN operands first, and then the order (R109). -/
theorem fminmax_eq (F : FloatFmt) (wantMax : Bool) (x y : Nat) : fminmax F wantMax x y
    = if floatVal F x = .nan then (if floatVal F y = .nan then F.canonNaN else y)
      else if floatVal F y = .nan then x
      else if wantMax then (if floatLess F x y then y else x) else (if floatLess F x y then x else y) := by
  simp only [fminmax, floatLess, signOf_eq_bits]
  split
  case h_1 hx hy => simp [hx, hy]
  case h_2 hx hy => rw [if_pos hx, if_neg hy]
  case h_3 hy hx => rw [if_neg hx, if_pos hy]
  case h_4 hx hy _ =>
    rw [if_neg hx, if_neg hy]
    rfl

/-- The class of an `F32` pattern by its exponent field, its mantissa field and its sign: the place of the one in the class
word (R110). -/
def classIndex (e f : Nat) (neg : Bool) : Nat :=
  if e = 255 ∧ f ≠ 0 then 8
  else if neg then (if e = 255 then 0 else if e ≠ 0 then 1 else if f ≠ 0 then 2 else 3)
  else (if e = 255 then 7 else if e ≠ 0 then 6 else if f ≠ 0 then 5 else 4)

theorem classWord_eq (x : Word) :
    classWord x = BitVec.ofNat 32 (2 ^ classIndex (x.toNat / 2 ^ 23 % 256) (x.toNat % 2 ^ 23) (x.getLsbD 31)) := by
  have he : bits x.toNat 30 23 = x.toNat / 2 ^ 23 % 256 := rfl
  have hf : bits x.toNat 22 0 = x.toNat % 2 ^ 23 := by simp [bits]
  rw [classWord, classIndex, he, hf]
  generalize x.toNat / 2 ^ 23 % 256 = e
  generalize x.toNat % 2 ^ 23 = f
  generalize x.getLsbD 31 = neg
  by_cases he255 : e = 255
  · by_cases hf0 : f = 0 <;> cases neg <;> simp [he255, hf0]
  · by_cases he0 : e = 0
    · by_cases hf0 : f = 0 <;> cases neg <;> simp [he0, hf0]
    · cases neg <;> simp [he255, he0]

theorem frndOp_of_nan (r : Rnd) {x : Word} (h : f32 x = .nan) : frndOp r x = 0x7FC00000 := by
  simp only [frndOp, h]

theorem frndOp_of_inf (r : Rnd) {x : Word} {n : Bool} (h : f32 x = .inf n) : frndOp r x = x := by
  simp only [frndOp, h]

/-- A finite value with a fraction is rounded to an integer of its own sign, which is then a value of the format (R111). -/
theorem frndOp_of_fin (r : Rnd) {x : Word} {n : Bool} {man : Nat} {exp : Int} (h : f32 x = .fin n man exp) :
    frndOp r x = if man = 0 ∨ 0 ≤ exp then x
      else BitVec.ofNat 32 (roundExt F32 .rn false (.fin n (roundQ r n man exp 0 false) 0)) := by
  cases man with
  | zero => simp [frndOp, h]
  | succ man => cases n <;> simp [frndOp, h, roundInt]

/-- Settles O11: the arithmetic by definition, and one lemma each for the order, the class word and the rounding. -/
theorem floatArithmetic : Obligations.FloatArithmetic := by
  unfold Obligations.FloatArithmetic
  intro m o s out v less pick cls
  have hless (x y : Word) : floatLess F32 x.toNat y.toNat = less x y := rfl
  have hpick (wantMax : Bool) (x y : Word) :
      BitVec.ofNat 32 (fminmax F32 wantMax x.toNat y.toNat)
        = pick x y (if wantMax then (if less x y then y else x) else (if less x y then x else y)) := by
    rw [fminmax_eq, hless]
    simp only [apply_ite (BitVec.ofNat 32), BitVec.ofNat_toNat, BitVec.setWidth_eq]
    rfl
  refine ⟨lands2_of_lane2 (f := faddOp m) rfl fun _ _ => rfl, lands2_of_lane2 (f := fsubOp m) rfl fun _ _ => rfl,
    lands2_of_lane2 (f := fmulOp m) rfl fun _ _ => rfl, lands3_of_lane3 (f := fmaOp m) rfl fun _ _ _ => rfl,
    lands2_of_lane2 (f := fminOp) rfl fun x y => ?fmin, lands2_of_lane2 (f := fmaxOp) rfl fun x y => ?fmax,
    lands1_of_lane1 (f := fabsOp) rfl fun _ => rfl, lands1_of_lane1 (f := fnegOp) rfl fun _ => rfl,
    lands2_of_lane2 (f := fun x y => truth (floatCond m.sub.toNat (f32 x) (f32 y))) rfl fun x y => ?fcmp,
    lands2_of_lane2 (f := fun x y => classWord x &&& y) rfl fun x y => ?fclass,
    lands1_of_lane1 (f := frndOp m.rnd) rfl fun x => ?frnd⟩
  case fmin => exact hpick false x y
  case fmax => exact hpick true x y
  case fcmp =>
    have hx : f32 x = v x := rfl
    have hy : f32 y = v y := rfl
    rw [hx, hy, truth]
    generalize m.sub.toNat = c
    generalize v x = a
    generalize v y = b
    match c with
    | 0 => rfl
    | 1 => simp [floatCond]
    | 2 => rfl
    | 3 => rfl
    | 4 => rfl
    | 5 => rfl
    | 6 => rfl
    | _ + 7 => rfl
  case fclass =>
    rw [classWord_eq]
    rfl
  case frnd =>
    have hx : v x = f32 x := rfl
    rw [hx]
    split
    · exact frndOp_of_nan _ ‹_›
    · exact frndOp_of_inf _ ‹_›
    · exact frndOp_of_fin _ ‹_›

end Sys2Proof.Machine
end

section
/-! ### Packed halves (R112, R113) -/

namespace Sys2Proof.Machine

/-- The element h of a register that holds two 16-bit elements (R58). -/
def halfOf (x : Word) (h : Nat) : Nat := x.toNat / 65536 ^ h % 65536

theorem halfOf_lt (x : Word) (h : Nat) : halfOf x h < 65536 := Nat.mod_lt _ (by decide)

theorem halfOf_zero (x : Word) : halfOf x 0 = x.toNat % 65536 := by simp [halfOf]

theorem halfOf_one (x : Word) : halfOf x 1 = x.toNat / 65536 := by
  have := x.isLt
  simp only [halfOf]
  omega

/-- Two elements put side by side read back, each in its place. -/
theorem halfOf_ofNat_pair {f : Nat → Nat} (hf : ∀ h, f h < 65536) {h : Nat} (hh : h < 2) :
    halfOf (BitVec.ofNat 32 (f 0 + 65536 * f 1)) h = f h := by
  have h0 := hf 0
  have h1 := hf 1
  have hval : (BitVec.ofNat 32 (f 0 + 65536 * f 1)).toNat = f 0 + 65536 * f 1 := by
    rw [BitVec.toNat_ofNat]; omega
  obtain rfl | rfl : h = 0 ∨ h = 1 := by omega
  · rw [halfOf_zero, hval]; omega
  · rw [halfOf_one, hval]; omega

theorem halfOf_packed2 {f : Nat → Nat → Nat} (hf : ∀ a b, a < 65536 → b < 65536 → f a b < 65536) (x y : Word) {h : Nat}
    (hh : h < 2) : halfOf (packed2 f x y) h = f (halfOf x h) (halfOf y h) := by
  rw [packed2, ← halfOf_zero, ← halfOf_zero, ← halfOf_one, ← halfOf_one]
  exact halfOf_ofNat_pair (f := fun h => f (halfOf x h) (halfOf y h))
    (fun _ => hf _ _ (halfOf_lt _ _) (halfOf_lt _ _)) hh

theorem halfOf_packed3 {f : Nat → Nat → Nat → Nat} (hf : ∀ a b c, f a b c < 65536) (x y z : Word) {h : Nat} (hh : h < 2) :
    halfOf (packed3 f x y z) h = f (halfOf x h) (halfOf y h) (halfOf z h) := by
  rw [packed3, ← halfOf_zero, ← halfOf_zero, ← halfOf_zero, ← halfOf_one, ← halfOf_one, ← halfOf_one]
  exact halfOf_ofNat_pair (f := fun h => f (halfOf x h) (halfOf y h) (halfOf z h)) (fun _ => hf _ _ _) hh

/-! ### Results fit their format (R59, R65) -/

/-- The codes that a format names stand in its bits below the sign. -/
def FloatFmt.CodesFit (F : FloatFmt) : Prop :=
  F.maxFin < 2 ^ (F.expBits + F.manBits) ∧ F.canonNaN < 2 ^ (F.expBits + F.manBits)

theorem codesFit_of_floatFmt {f : Fmt} {F : FloatFmt} (h : floatFmt f = some F) : F.CodesFit := by
  cases f <;> cases h <;> exact ⟨by decide, by decide⟩

theorem signBit_le (F : FloatFmt) (n : Bool) : signBit F n ≤ 2 ^ (F.expBits + F.manBits) := by
  cases n <;> simp [signBit]

/-- A code below the sign, with a sign, stands in the bits of the format. -/
theorem add_signBit_lt {F : FloatFmt} {x : Nat} (hx : x < 2 ^ (F.expBits + F.manBits)) (n : Bool) :
    x + signBit F n < 2 ^ (F.expBits + F.manBits + 1) := by
  have := signBit_le F n
  rw [Nat.pow_succ]
  omega

section
variable {F : FloatFmt} (hF : F.CodesFit)
include hF

theorem canonNaN_lt : F.canonNaN < 2 ^ (F.expBits + F.manBits + 1) :=
  hF.2.trans_le (Nat.pow_le_pow_right (by decide) (Nat.le_succ _))

theorem infBits_lt (n : Bool) : infBits F n < 2 ^ (F.expBits + F.manBits + 1) := by
  have hexp : (2 ^ F.expBits - 1) * 2 ^ F.manBits < 2 ^ (F.expBits + F.manBits) := by
    rw [Nat.pow_add]
    exact Nat.mul_lt_mul_of_pos_right (Nat.sub_lt (Nat.two_pow_pos _) (by decide)) (Nat.two_pow_pos _)
  unfold infBits
  split
  · exact add_signBit_lt hexp n
  · exact canonNaN_lt hF

theorem overflowBits_lt (r : Rnd) (sat neg : Bool) : overflowBits F r sat neg < 2 ^ (F.expBits + F.manBits + 1) := by
  have hbig := add_signBit_lt hF.1 neg
  cases sat with
  | true => exact hbig
  | false =>
    cases r with
    | rn => exact infBits_lt hF neg
    | rz => exact hbig
    | ru => cases neg with
      | false => exact infBits_lt hF false
      | true => exact hbig
    | rd => cases neg with
      | false => exact hbig
      | true => exact infBits_lt hF true

theorem roundFin_lt (r : Rnd) (sat neg : Bool) (man : Nat) (exp : Int) (sticky : Bool) :
    roundFin F r sat neg man exp sticky < 2 ^ (F.expBits + F.manBits + 1) := by
  unfold roundFin
  extract_lets qmin q k code
  split
  · exact overflowBits_lt hF r sat neg
  · exact add_signBit_lt ((Nat.le_of_not_lt ‹_›).trans_lt hF.1) neg

theorem roundExt_lt (r : Rnd) (sat : Bool) (x : Ext) : roundExt F r sat x < 2 ^ (F.expBits + F.manBits + 1) := by
  unfold roundExt
  split
  · exact canonNaN_lt hF
  · exact infBits_lt hF _
  · simpa using add_signBit_lt (Nat.two_pow_pos _) _
  · exact roundFin_lt hF r sat _ _ _ _

theorem fminmax_lt (wantMax : Bool) {x y : Nat} (hx : x < 2 ^ (F.expBits + F.manBits + 1))
    (hy : y < 2 ^ (F.expBits + F.manBits + 1)) : fminmax F wantMax x y < 2 ^ (F.expBits + F.manBits + 1) := by
  have hnan := canonNaN_lt hF
  rw [fminmax_eq]
  split_ifs <;> assumption

end

theorem halfFmt_eq {m : LaneMod} {H : FloatFmt} (h : floatFmt m.fmt = some H) : halfFmt m = H := by
  rw [halfFmt, h, Option.getD_some]

theorem width_of_half {f : Fmt} {H : FloatFmt} (hf : f = .f16 ∨ f = .bf16) (h : floatFmt f = some H) :
    H.expBits + H.manBits = 15 := by
  obtain rfl | rfl := hf <;> cases h <;> rfl

theorem signOf_half {H : FloatFmt} (hw : H.expBits + H.manBits = 15) {a : Nat} (ha : a < 65536) :
    signOf H a = decide (32768 ≤ a) := by
  rw [signOf, hw, Nat.testBit_eq_decide_div_mod_eq, decide_eq_decide]
  omega

/-- Settles O12: a packed function acts on each half, since the half's own function gives a pattern of 16 bits. -/
theorem packedHalfArithmetic : Obligations.PackedHalfArithmetic := by
  unfold Obligations.PackedHalfArithmetic
  intro m o s H hf hH half v neg less pick
  have hm : halfFmt m = H := halfFmt_eq hH
  have hw : H.expBits + H.manBits = 15 := width_of_half hf hH
  have hwidth : 2 ^ (H.expBits + H.manBits + 1) = 65536 := by rw [hw]; rfl
  have hround (x : Ext) : roundExt H m.rnd m.sat x < 65536 := hwidth ▸ roundExt_lt (codesFit_of_floatFmt hH) _ _ x
  have hminmax (wantMax : Bool) (x y : Word) (h : Nat) (hh : h < 2) :
      half (packed2 (fminmax (halfFmt m) wantMax) x y) h = pick x y h
        (if wantMax then (if less x y h then half y h else half x h) else (if less x y h then half x h else half y h)) := by
    have hless : floatLess H (halfOf x h) (halfOf y h) = less x y h := by
      rw [floatLess, signOf_half hw (halfOf_lt x h), signOf_half hw (halfOf_lt y h)]
      rfl
    have hhalf := halfOf_packed2 (f := fminmax H wantMax)
      (fun a b ha hb => hwidth ▸ fminmax_lt (codesFit_of_floatFmt hH) wantMax (hwidth ▸ ha) (hwidth ▸ hb)) x y hh
    rw [fminmax_eq, hless] at hhalf
    rw [hm]
    exact hhalf
  refine ⟨⟨hadd2Op m, lands2_of_lane2 rfl fun _ _ => rfl, fun x y h hh => ?hadd2⟩,
    ⟨hmul2Op m, lands2_of_lane2 rfl fun _ _ => rfl, fun x y h hh => ?hmul2⟩,
    ⟨hfma2Op m, lands3_of_lane3 rfl fun _ _ _ => rfl, fun x y z h hh => ?hfma2⟩,
    ⟨packed2 (fminmax (halfFmt m) false), lands2_of_lane2 rfl fun _ _ => rfl, hminmax false⟩,
    ⟨packed2 (fminmax (halfFmt m) true), lands2_of_lane2 rfl fun _ _ => rfl, hminmax true⟩,
    lands3_of_lane3 (f := hdot2Op m) rfl fun x y z => ?hdot2⟩
  case hadd2 =>
    rw [hadd2Op, hm]
    exact halfOf_packed2 (fun _ _ _ _ => hround _) x y hh
  case hmul2 =>
    rw [hmul2Op, hm]
    exact halfOf_packed2 (fun _ _ _ _ => hround _) x y hh
  case hfma2 =>
    rw [hfma2Op, hm]
    exact halfOf_packed3 (fun _ _ _ => hround _) x y z hh
  case hdot2 =>
    rw [hdot2Op, hm]
    rfl

end Sys2Proof.Machine
end

/-! SUPPORT. How a path moves under the control instructions of R129 to R139 and how values cross lanes in the permutation
network of R149 to R151, and the obligations of that family. -/

section
/-! ### Transfers of the whole path (R129, R131, R138) -/

namespace Sys2Proof.Machine

/-- The transfer of a whole path is taken (R129): some lane takes effect, and no live lane has a false guard. -/
def Group.TakesWhole (g : Group) (gd : Guard) : Prop :=
  (∃ l < 64, (g.effect gd).getLsbD l = true)
    ∧ ∀ l < 64, g.live.getLsbD l = true → (g.guardMask gd).getLsbD l = true

theorem mask_eq_zero_iff (m : LaneMask) : m = 0 ↔ ∀ l < 64, m.getLsbD l = false := by
  refine ⟨?_, fun h => BitVec.eq_of_getLsbD_eq fun l hl => by simpa using h l hl⟩
  rintro rfl l -
  exact BitVec.getLsbD_zero

theorem mask_ne_zero_iff (m : LaneMask) : m ≠ 0 ↔ ∃ l < 64, m.getLsbD l = true := by
  rw [ne_eq, mask_eq_zero_iff]
  simp

theorem and_not_eq_zero_iff (m n : LaneMask) :
    m &&& ~~~n = 0 ↔ ∀ l < 64, m.getLsbD l = true → n.getLsbD l = true := by
  rw [mask_eq_zero_iff]
  refine forall₂_congr fun l hl => ?_
  simp [hl]

theorem Group.wholePath_iff (g : Group) (gd : Guard) : g.wholePath gd = true ↔ g.TakesWhole gd := by
  simp only [Group.wholePath, Group.acts, Group.TakesWhole, Bool.and_eq_true, bne_iff_ne, beq_iff_eq,
    mask_ne_zero_iff, and_not_eq_zero_iff]

theorem transfer_of_ok {s u : State} {target : DWord} (h : s.checkTransfer target = (.ok (), u)) (before : State → State) :
    s.transfer target before = (before u).enterLine target := by
  rw [State.transfer, h]

theorem transfer_of_error {s u : State} {target : DWord} {e : Nat × Nat} (h : s.checkTransfer target = (.error e, u))
    (before : State → State) : s.transfer target before = u.trapTarget e target := by
  rw [State.transfer, h]

theorem pathTransfer_of_taken {s : State} {o : Fields} (h : s.cur.TakesWhole o.guard) (target : DWord)
    (before : State → State) : s.pathTransfer o target before = s.transfer target before :=
  if_pos ((s.cur.wholePath_iff o.guard).mpr h)

theorem pathTransfer_of_not_taken {s : State} {o : Fields} (h : ¬ s.cur.TakesWhole o.guard) (target : DWord)
    (before : State → State) : s.pathTransfer o target before = s.advance :=
  if_neg (mt (s.cur.wholePath_iff o.guard).mp h)

/-- What an instruction that transfers the whole path answers: it goes on, it stands at the target with `after` applied to the
group that the check has left, or it traps at itself with the target in `xarg`. -/
def Transfers (i : Instr) (o : Fields) (s : State) (target : DWord) (after : Group → Group) : Prop :=
  (¬ s.cur.TakesWhole o.guard → exec i s = .next s.advance)
    ∧ (s.cur.TakesWhole o.guard → ∀ u, s.checkTransfer target = (.ok (), u) →
        exec i s = .next (State.enterLine { u with cur := after u.cur } target))
    ∧ (s.cur.TakesWhole o.guard → ∀ e u, s.checkTransfer target = (.error e, u) →
        exec i s = .next (u.trapTarget e target))

theorem transfers_of_pathTransfer {i : Instr} {o : Fields} {s : State} {target : DWord} {before : State → State}
    {after : Group → Group} (h : exec i s = .next (s.pathTransfer o target before))
    (hbefore : ∀ u : State, before u = { u with cur := after u.cur }) : Transfers i o s target after := by
  refine ⟨fun hw => ?_, fun hw u hu => ?_, fun hw e u hu => ?_⟩
  · rw [h, pathTransfer_of_not_taken hw]
  · rw [h, pathTransfer_of_taken hw, transfer_of_ok hu, hbefore]
  · rw [h, pathTransfer_of_taken hw, transfer_of_error hu]

/-- The link write as a change of the group alone (R131). -/
def linkGroup (o : Fields) (link : DWord) (g : Group) : Group :=
  match o.d with
  | .a n => g.writeA n.val link
  | _ => g

theorem linkWrite_eq (o : Fields) (link : DWord) (s : State) :
    linkWrite o link s = { s with cur := linkGroup o link s.cur } := by
  unfold linkWrite linkGroup
  cases o.d <;> rfl

theorem exec_yield (wf : BitVec 12) (o : Fields) (s : State) : exec (.yield_ wf o) s = execYield wf o s := rfl

/-- A `yield` that waits for no flag is a transfer of the whole path (R138). -/
theorem exec_yield_zero (o : Fields) (s : State) :
    exec (.yield_ 0 o) s = .next (s.pathTransfer o (directTarget s.cur.pc o.imm) id) := by
  rw [exec_yield, execYield, State.pathTransfer, State.transfer]
  cases s.cur.wholePath o.guard with
  | false => rfl
  | true => rcases s.checkTransfer (directTarget s.cur.pc o.imm) with ⟨_ | _, u⟩ <;> rfl

theorem exec_yield_of_not_taken {wf : BitVec 12} {o : Fields} {s : State} (h : ¬ s.cur.TakesWhole o.guard) :
    exec (.yield_ wf o) s = .next s.advance := by
  have hw : s.cur.wholePath o.guard = false := Bool.eq_false_iff.mpr (mt (s.cur.wholePath_iff o.guard).mp h)
  rw [exec_yield, execYield, hw]
  rfl

/-- A taken `yield` that waits for flags parks its slot at the target (R138). -/
theorem exec_yield_of_ok {wf : BitVec 12} {o : Fields} {s u : State} (hwf : wf ≠ 0) (h : s.cur.TakesWhole o.guard)
    (hu : s.checkTransfer (directTarget s.cur.pc o.imm) = (.ok (), u)) :
    exec (.yield_ wf o) s = .next { u with
      cur := { u.cur.setSlot { u.cur.slot with pc := directTarget s.cur.pc o.imm, park := some wf, copy := 0 } with
        inClause := false, stall := none } } := by
  have hw : s.cur.wholePath o.guard = true := (s.cur.wholePath_iff o.guard).mpr h
  rw [exec_yield, execYield, hw, hu]
  exact if_neg hwf

end Sys2Proof.Machine
end

section
/-! ### The ends of lanes (R137, R195) -/

namespace Sys2Proof.Machine

/-- The group after the lanes of T of its issuing slot have exited (R137). -/
def Group.exitLanes (g : Group) (T : LaneMask) : Group :=
  { g.setSlot { g.slot with mask := g.slot.mask &&& ~~~T } with exited := g.exited ||| T }

theorem Group.slot_exitLanes (g : Group) (T : LaneMask) :
    (g.exitLanes T).slot = { g.slot with mask := g.slot.mask &&& ~~~T } := by
  unfold Group.exitLanes Group.setSlot Group.slot
  cases g.issue1 <;> rfl

theorem Group.pathMask_exitLanes (g : Group) (T : LaneMask) : (g.exitLanes T).pathMask = g.pathMask &&& ~~~T := by
  have hexited : (g.exitLanes T).exited = g.exited ||| T := rfl
  rw [Group.pathMask, Group.slot_exitLanes, hexited, Group.pathMask]
  refine BitVec.eq_of_getLsbD_eq fun l hl => ?_
  simp only [BitVec.getLsbD_and, BitVec.getLsbD_not, BitVec.getLsbD_or, hl, decide_true, Bool.true_and]
  cases g.slot.mask.getLsbD l <;> cases g.exited.getLsbD l <;> cases T.getLsbD l <;> rfl

theorem Group.present_eq_zero_iff (g : Group) : g.present = 0 ↔ g.exited = BitVec.allOnes 64 := by
  rw [Group.present, ← BitVec.not_inj, BitVec.not_not]
  rfl

/-- A group without lanes has no path. -/
theorem pathMask_eq_zero_of_exited {g : Group} (h : g.exited = BitVec.allOnes 64) : g.pathMask = 0 := by
  simp [Group.pathMask, h]

/-- The rendezvous that an end calls off are those of the other groups (R195). -/
theorem partnerGone_cur (s : State) : (s.partnerGone s.cur).cur = s.cur := by
  unfold State.partnerGone
  dsimp only
  split
  · simp
  · rfl

section
variable {o : Fields} {s : State} {g : Group} (hg : g = s.cur.exitLanes (s.cur.effect o.guard))
include hg

/-- `exit` by the group g that it leaves: one without lanes calls off the rendezvous of its team, and the slot is given up
where it has no lanes left (R137, R195). -/
theorem exec_exit_eq : exec (.exit_ o) s =
    (let t : State := if g.present = 0 then State.partnerGone { s with cur := g } g else { s with cur := g }
     if t.cur.pathMask = 0 then .next t.dropSlot else .next t.advance) := by
  subst hg
  rfl

/-- A slot that has lanes left goes on. -/
theorem exec_exit_of_path (hpath : g.pathMask ≠ 0) : exec (.exit_ o) s = .next (State.advance { s with cur := g }) := by
  have hpresent : g.present ≠ 0 := fun h => hpath (pathMask_eq_zero_of_exited (g.present_eq_zero_iff.mp h))
  rw [exec_exit_eq hg, if_neg hpresent]
  exact if_neg hpath

/-- A slot that has no lanes left is given up. -/
theorem exec_exit_of_no_path (hpath : g.pathMask = 0) (hexited : g.exited ≠ BitVec.allOnes 64) :
    exec (.exit_ o) s = .next (State.dropSlot { s with cur := g }) := by
  rw [exec_exit_eq hg, if_neg (mt g.present_eq_zero_iff.mp hexited)]
  exact if_pos hpath

/-- A group that has no lanes left calls off the rendezvous of its team, and its slot is given up. -/
theorem exec_exit_of_all_exited (hexited : g.exited = BitVec.allOnes 64) :
    exec (.exit_ o) s = .next (State.dropSlot (State.partnerGone { s with cur := g } g)) := by
  have hcur : (State.partnerGone { s with cur := g } g).cur = g := partnerGone_cur { s with cur := g }
  have hpath : (State.partnerGone { s with cur := g } g).cur.pathMask = 0 := by
    rw [hcur, pathMask_eq_zero_of_exited hexited]
  rw [exec_exit_eq hg, if_pos (g.present_eq_zero_iff.mpr hexited)]
  exact if_pos hpath

end

/-- Settles O19: every transfer is `State.pathTransfer` of its target and its link write, and an `exit` is judged by the lanes
that it leaves to its slot and to its group. -/
theorem transfersAndEnds : Obligations.TransfersAndEnds := by
  unfold Obligations.TransfersAndEnds
  refine ⟨?transfers, ?ends⟩
  case transfers =>
    intro o s whole direct link goes
    have hid (u : State) : id u = { u with cur := id u.cur } := rfl
    have hlink : ∀ u, linkWrite o (nextPoint s.cur.pc) u = { u with cur := link u.cur } := linkWrite_eq o _
    have hgoes {i : Instr} {target : DWord} {before : State → State} {after : Group → Group}
        (h : exec i s = .next (s.pathTransfer o target before))
        (hbefore : ∀ u : State, before u = { u with cur := after u.cur }) : goes i target after :=
      transfers_of_pathTransfer h hbefore
    exact ⟨hgoes rfl hid, hgoes rfl hid, hgoes rfl hlink, hgoes rfl hlink, hgoes rfl hid,
      hgoes (exec_yield_zero o s) hid,
      fun wf hwf => ⟨exec_yield_of_not_taken, fun hw u hu => exec_yield_of_ok hwf hw hu⟩⟩
  case ends =>
    intro o s T g
    have hg : g = s.cur.exitLanes T := rfl
    have hpath : g.pathMask = s.cur.pathMask &&& ~~~T := hg ▸ s.cur.pathMask_exitLanes T
    refine ⟨rfl, fun hleft => ?goesOn, fun hleft hexited => ?givenUp, fun hexited => exec_exit_of_all_exited hg hexited,
      fun hacts => ?ebrk, fun hacts => ?ebrkNone⟩
    case goesOn => exact exec_exit_of_path hg (hpath ▸ hleft)
    case givenUp => exact exec_exit_of_no_path hg (hpath.trans hleft) hexited
    case ebrk => exact if_pos hacts
    case ebrkNone => exact if_neg (Bool.not_eq_true _ ▸ hacts)

end Sys2Proof.Machine
end

section
/-! ### Depth counters (R133, R134) -/

namespace Sys2Proof.Machine

/-- The depth of lane l after f is applied to the counters of the lanes of m. -/
def Group.newDepth (g : Group) (m : LaneMask) (f : Nat → Nat → Nat) (l : Nat) : Nat :=
  if m.getLsbD l then f l (g.ctrOf l).toNat else (g.ctrOf l).toNat

/-- The counters of the 64 lanes stand at the depths `new`. -/
def SetsDepths (c : Sparse (BitVec 8)) (new : Nat → Nat) : Prop := ∀ l < 64, (sget 0 c l).toNat = new l

/-- Some lane of the path has the depth zero. -/
def Group.ZeroDepth (g : Group) (new : Nat → Nat) : Prop := ∃ l < 64, g.pathMask.getLsbD l = true ∧ new l = 0

/-- The state with its group's counters replaced. -/
def State.withCtr (s : State) (c : Sparse (BitVec 8)) : State := { s with cur := { s.cur with ctr := c } }

theorem ctrOf_le (g : Group) (l : Nat) : (g.ctrOf l).toNat ≤ 255 := Nat.le_of_lt_succ (g.ctrOf l).isLt

/-- Writes over the lanes of a mask, read in a lane. -/
theorem sget_foldl_maskLanes {α : Type} [DecidableEq α] (d : α) (m : LaneMask) (x : Nat → α) (c : Sparse α) {l : Nat}
    (hl : l < 64) : sget d ((maskLanes m).foldl (fun c l => sset d c l (x l)) c) l
      = if m.getLsbD l = true then x l else sget d c l := by
  refine (sget_foldl_sset d (maskLanes m) id x c l (by simpa using maskLanes_nodup m)).trans ?_
  split
  case h_1 b hb =>
    obtain rfl : b = l := by simpa using List.find?_some hb
    rw [if_pos ((mem_maskLanes m b).mp (List.mem_of_find?_eq_some hb)).2]
  case h_2 hnone =>
    have hmem : l ∉ maskLanes m := fun h => by simpa using List.find?_eq_none.mp hnone l h
    rw [if_neg fun h => hmem ((mem_maskLanes m l).mpr ⟨hl, h⟩)]

theorem Group.newDepth_le {g : Group} {m : LaneMask} {f : Nat → Nat → Nat} (h : ∀ l c, c ≤ 255 → f l c ≤ 255) (l : Nat) :
    g.newDepth m f l ≤ 255 := by
  unfold Group.newDepth
  split
  · exact h l _ (ctrOf_le g l)
  · exact ctrOf_le g l

/-- A function that leaves some depths alone changes the others of the mask. -/
theorem Group.newDepth_ite (g : Group) (m : LaneMask) {f : Nat → Nat → Nat} {P : Nat → Prop} [DecidablePred P]
    {h : Nat → Nat} (hf : ∀ l c, f l c = if P c then h c else c) (l : Nat) :
    g.newDepth m f l
      = if m.getLsbD l = true ∧ P (g.ctrOf l).toNat then h (g.ctrOf l).toNat else (g.ctrOf l).toNat := by
  rw [Group.newDepth, hf, ite_and]

/-- New depths that the counters can hold are what the counters hold. -/
theorem setsDepths_newCtr {g : Group} {m : LaneMask} {f : Nat → Nat → Nat} (h : ∀ l < 64, g.newDepth m f l ≤ 255) :
    SetsDepths (g.newCtr m f) (g.newDepth m f) := by
  intro l hl
  have hle := h l hl
  rw [Group.newCtr, sget_foldl_maskLanes _ _ _ _ hl]
  unfold Group.newDepth at hle ⊢
  split
  · rw [if_pos ‹_›] at hle
    exact Nat.mod_eq_of_lt (Nat.lt_succ_of_le hle)
  · rfl

theorem setsDepths_newCtr_of_le {g : Group} {m : LaneMask} {f : Nat → Nat → Nat} (h : ∀ l c, c ≤ 255 → f l c ≤ 255) :
    SetsDepths (g.newCtr m f) (g.newDepth m f) :=
  setsDepths_newCtr fun l _ => Group.newDepth_le h l

/-- Only a lane of the mask can pass 255. -/
theorem Group.overflows_iff (g : Group) (m : LaneMask) (f : Nat → Nat → Nat) :
    g.overflows m f = true ↔ ∃ l < 64, 255 < g.newDepth m f l := by
  simp only [Group.overflows, List.any_eq_true, mem_maskLanes, decide_eq_true_eq, Group.newDepth]
  refine exists_congr fun l => ?_
  have := ctrOf_le g l
  rw [and_assoc]
  refine and_congr_right fun _ => ?_
  split
  · simp [*]
  · simp only [*, false_and, false_iff, Bool.false_eq_true]
    omega

theorem Group.someZero_iff (g : Group) {c : Sparse (BitVec 8)} {new : Nat → Nat} (h : SetsDepths c new) :
    g.someZero c = true ↔ g.ZeroDepth new := by
  simp only [Group.someZero, List.any_eq_true, mem_maskLanes, decide_eq_true_eq, Group.ZeroDepth, and_assoc]
  refine exists_congr fun l => and_congr_right fun hl => and_congr_right fun _ => ?_
  rw [← h l hl, ← BitVec.toNat_inj]
  rfl

/-- What a structured instruction that can skip answers (R134): with depths that fit, the counters stand at the new depths and
the slot goes on or, where no lane of the path has the depth zero, skips to the target; else it traps. -/
def Skips (i : Instr) (s : State) (target : DWord) (new : Nat → Nat) : Prop :=
  ((∀ l < 64, new l ≤ 255) → ∃ c, SetsDepths c new
    ∧ (s.cur.ZeroDepth new → exec i s = .next (s.withCtr c).advance)
    ∧ (¬ s.cur.ZeroDepth new → (∀ u, s.checkTransfer target = (.ok (), u) → exec i s = .next ((u.withCtr c).enterLine target))
      ∧ ∀ e u, s.checkTransfer target = (.error e, u) → exec i s = .next (u.trapTarget e target)))
  ∧ ((∃ l < 64, 255 < new l) → exec i s = .next (s.trap 1 1))

section
variable {s : State} {m : LaneMask} {f : Nat → Nat → Nat}

theorem structured_of_overflow (h : ∃ l < 64, 255 < s.cur.newDepth m f l) (target : Option DWord) :
    s.structured m f target = s.trap 1 1 :=
  if_pos ((s.cur.overflows_iff m f).mpr h)

theorem not_overflows (h : ∀ l < 64, s.cur.newDepth m f l ≤ 255) : ¬ s.cur.overflows m f = true := by
  rw [Group.overflows_iff]
  rintro ⟨l, hl, hover⟩
  exact absurd (h l hl) (Nat.not_le.mpr hover)

theorem structured_none (h : ∀ l < 64, s.cur.newDepth m f l ≤ 255) :
    s.structured m f none = (s.withCtr (s.cur.newCtr m f)).advance :=
  if_neg (not_overflows h)

theorem structured_some (h : ∀ l < 64, s.cur.newDepth m f l ≤ 255) (target : DWord) :
    s.structured m f (some target) = if s.cur.someZero (s.cur.newCtr m f)
      then (s.withCtr (s.cur.newCtr m f)).advance
      else s.transfer target fun u => u.withCtr (s.cur.newCtr m f) :=
  if_neg (not_overflows h)

theorem skips_of_structured {i : Instr} {target : DWord} {new : Nat → Nat}
    (hexec : exec i s = .next (s.structured m f (some target))) (hnew : ∀ l, s.cur.newDepth m f l = new l) :
    Skips i s target new := by
  obtain rfl : s.cur.newDepth m f = new := funext hnew
  refine ⟨fun hle => ?_, fun hover => ?_⟩
  · have hsets := setsDepths_newCtr hle
    refine ⟨_, hsets, fun hzero => ?_, fun hzero => ⟨fun u hu => ?_, fun e u hu => ?_⟩⟩
    · rw [hexec, structured_some hle, if_pos ((s.cur.someZero_iff hsets).mpr hzero)]
    · rw [hexec, structured_some hle, if_neg (mt (s.cur.someZero_iff hsets).mp hzero), transfer_of_ok hu]
    · rw [hexec, structured_some hle, if_neg (mt (s.cur.someZero_iff hsets).mp hzero), transfer_of_error hu]
  · rw [hexec, structured_of_overflow hover]

end

/-- The depths that `endl` gives before it is known whether the loop goes round (R134): a lane of the path whose guard is false
leaves the loop, and one that has met `cont` takes part again. -/
def endlDepth (gm : LaneMask) (l c : Nat) : Nat := if c = 0 then (if gm.getLsbD l then 0 else 2) else if c = 1 then 0 else c

theorem endlDepth_le {c : Nat} (h : c ≤ 255) (gm : LaneMask) (l : Nat) : endlDepth gm l c ≤ 255 := by
  unfold endlDepth
  split_ifs <;> omega

/-- A lane of the loop either takes part in the next round or has a depth of two or more. -/
theorem endlDepth_ne_one (gm : LaneMask) (l c : Nat) : endlDepth gm l c ≠ 1 := by
  unfold endlDepth
  split_ifs <;> omega

/-- On the way out of the loop every lane of the path that has a depth leaves two levels, and one that has none stays. -/
theorem newDepth_endl_out (g : Group) (gm : LaneMask) (l : Nat) :
    g.newDepth g.pathMask (fun l c => endlDepth gm l c - 2) l
      = if g.pathMask.getLsbD l = true ∧ 2 ≤ g.newDepth g.pathMask (endlDepth gm) l
        then g.newDepth g.pathMask (endlDepth gm) l - 2 else g.newDepth g.pathMask (endlDepth gm) l := by
  have hne := endlDepth_ne_one gm l (g.ctrOf l).toNat
  unfold Group.newDepth
  cases g.pathMask.getLsbD l with
  | false => simp
  | true =>
    simp only [if_true, true_and]
    split <;> omega

/-- `endl` by the counters that it computes: back to the loop's head while a lane of the path takes part, else on, out of the
loop's two levels. -/
theorem exec_endl_eq {o : Fields} {s : State} {c : Sparse (BitVec 8)}
    (hc : c = s.cur.newCtr s.cur.pathMask (endlDepth (s.cur.guardMask o.guard))) :
    exec (.endl o) s = if s.cur.someZero c then .next (s.transfer (directTarget s.cur.pc o.imm) fun u => u.withCtr c)
      else .next (s.withCtr (s.cur.newCtr s.cur.pathMask fun l x => endlDepth (s.cur.guardMask o.guard) l x - 2)).advance := by
  subst hc
  rfl

/-- Settles O21: the instructions that can skip are `State.structured` of their depth functions, and `endl` is judged by the
depths that it computes. -/
theorem structuredControl : Obligations.StructuredControl := by
  unfold Obligations.StructuredControl
  intro lvl o s M gd eff ctr target sets zero with_ skips ifNew elseNew loopNew endifNew endlNew
  have hskips {i : Instr} {m : LaneMask} {f : Nat → Nat → Nat} {new : Nat → Nat}
      (hexec : exec i s = .next (s.structured m f (some target))) (hnew : ∀ l, s.cur.newDepth m f l = new l) :
      skips i new := skips_of_structured hexec hnew
  have hloop : ∀ l, s.cur.newDepth s.cur.pathMask (fun _ c => if 0 < c then c + 2 else 0) l = loopNew l :=
    s.cur.newDepth_ite _ (P := fun c => 0 < c) (h := fun c => c + 2) fun _ c => by split <;> omega
  have hendif : s.cur.newDepth s.cur.pathMask (fun _ c => c - 1) = endifNew :=
    funext <| s.cur.newDepth_ite _ (P := fun c => 0 < c) (h := fun c => c - 1) fun _ c => by split <;> omega
  let fEndl := endlDepth (s.cur.guardMask o.guard)
  let cEndl := s.cur.newCtr s.cur.pathMask fEndl
  have hendl : sets cEndl endlNew := setsDepths_newCtr_of_le fun l _ hc => endlDepth_le hc _ l
  have hzero : s.cur.someZero cEndl = true ↔ zero endlNew := s.cur.someZero_iff hendl
  refine ⟨hskips rfl fun _ => rfl, hskips rfl fun _ => rfl, hskips rfl hloop, fun _ => hskips rfl fun _ => rfl,
    fun _ => hskips rfl fun _ => rfl, ⟨s.cur.newCtr s.cur.pathMask fun _ c => c - 1, ?endifDepths, ?endif⟩,
    ⟨cEndl, hendl, fun hz => ⟨fun u hu => ?back, fun e u hu => ?backTrap⟩⟩,
    fun hz => ⟨s.cur.newCtr s.cur.pathMask fun l c => fEndl l c - 2, ?outDepths, ?out⟩⟩
  case endifDepths => exact hendif ▸ setsDepths_newCtr_of_le fun _ _ hc => by omega
  case endif => exact congrArg _ (structured_none fun l _ => Group.newDepth_le (fun _ _ hc => by omega) l)
  case back => rw [exec_endl_eq rfl, if_pos (hzero.mpr hz), transfer_of_ok hu]; rfl
  case backTrap => rw [exec_endl_eq rfl, if_pos (hzero.mpr hz), transfer_of_error hu]
  case outDepths =>
    have hle : SetsDepths (s.cur.newCtr s.cur.pathMask fun l c => fEndl l c - 2) _ :=
      setsDepths_newCtr_of_le fun l _ hc => (Nat.sub_le _ _).trans (endlDepth_le hc _ l)
    rw [funext (newDepth_endl_out s.cur _)] at hle
    exact hle
  case out => rw [exec_endl_eq rfl, if_neg (mt hzero.mp hz)]; rfl

end Sys2Proof.Machine
end

section
/-! ### Positions of the permutation network (R150) -/

namespace Sys2Proof.Machine

theorem xor_one_eq (a : Nat) : a ^^^ 1 = if a % 2 = 1 then a - 1 else a + 1 := by
  split
  · exact Nat.xor_one_of_odd (Nat.odd_iff.mpr ‹_›)
  · exact Nat.xor_one_of_even (Nat.even_iff.mpr (Nat.mod_two_ne_one.mp ‹_›))

theorem xor_two_pow_mod (p k : Nat) : (p ^^^ 2 ^ k) % 2 ^ k = p % 2 ^ k := by
  rw [Nat.xor_mod_two_pow, Nat.mod_self, Nat.xor_zero]

/-- Turning bit k over moves a position down or up by the distance 2^k. -/
theorem xor_two_pow_eq (p k : Nat) : p ^^^ 2 ^ k = if p / 2 ^ k % 2 = 1 then p - 2 ^ k else p + 2 ^ k := by
  have hdiv : (p ^^^ 2 ^ k) / 2 ^ k = p / 2 ^ k ^^^ 1 := by
    rw [Nat.xor_div_two_pow, Nat.div_self (Nat.two_pow_pos k)]
  have hp := Nat.div_add_mod p (2 ^ k)
  rw [← Nat.div_add_mod (p ^^^ 2 ^ k) (2 ^ k), hdiv, xor_two_pow_mod, xor_one_eq]
  generalize p / 2 ^ k = q at hp
  split
  · have hq : 2 ^ k * 1 ≤ 2 ^ k * q := Nat.mul_le_mul_left _ (by omega)
    rw [Nat.mul_sub]
    omega
  · rw [Nat.mul_add]
    omega

/-- How many positions below n have the bit of the distance d zero. -/
theorem count_bit_zero {d : Nat} (hd : 0 < d) (n : Nat) :
    Nat.count (fun q => q / d % 2 = 0) n = n / (2 * d) * d + min (n % (2 * d)) d := by
  induction n with
  | zero => simp
  | succ n ih =>
    have hbit : n / d % 2 = 0 ↔ n % (2 * d) < d := by
      rw [Nat.mul_comm, ← Nat.mod_mul_right_div_self, Nat.div_eq_zero_iff]
      omega
    have hlt : n % (2 * d) < 2 * d := Nat.mod_lt _ (by omega)
    have hn := Nat.div_add_mod n (2 * d)
    rw [Nat.count_succ, ih]
    by_cases hwrap : n % (2 * d) + 1 = 2 * d
    · obtain ⟨hq, hr⟩ : (n + 1) / (2 * d) = n / (2 * d) + 1 ∧ (n + 1) % (2 * d) = 0 :=
        (Nat.div_mod_unique (by omega)).mpr ⟨by rw [Nat.mul_add]; omega, by omega⟩
      rw [hq, hr, Nat.add_mul]
      split <;> omega
    · obtain ⟨hq, hr⟩ : (n + 1) / (2 * d) = n / (2 * d) ∧ (n + 1) % (2 * d) = n % (2 * d) + 1 :=
        (Nat.div_mod_unique (by omega)).mpr ⟨by omega, by omega⟩
      rw [hq, hr]
      split <;> omega

/-- The lower of the two positions that a switch of distance d joins. -/
def lowerPos (d p : Nat) : Nat := if p / d % 2 = 1 then p - d else p

theorem lowerPos_eq (d p : Nat) : lowerPos d p = 2 * d * (p / (2 * d)) + p % d := by
  have hp := Nat.div_add_mod p d
  have hq := Nat.div_add_mod (p / d) 2
  rw [Nat.mul_comm 2 d, ← Nat.div_div_eq_div_mul, Nat.mul_assoc, lowerPos]
  generalize p / d / 2 = h at hq ⊢
  split
  case isTrue hbit =>
    rw [hbit] at hq
    rw [← hq, Nat.mul_add] at hp
    omega
  case isFalse hbit =>
    rw [Nat.mod_two_ne_one.mp hbit] at hq
    rw [← hq, Nat.mul_add] at hp
    omega

/-- The switch at a position is the one of the position's rank among the lower positions (R150). -/
theorem switch_eq {d : Nat} (hd : 0 < d) (p : Nat) :
    ((List.range (lowerPos d p)).filter fun q => q / d % 2 = 0).length = p / (2 * d) * d + p % d := by
  have hlt : p % d < d := Nat.mod_lt _ hd
  obtain ⟨hq, hr⟩ : lowerPos d p / (2 * d) = p / (2 * d) ∧ lowerPos d p % (2 * d) = p % d :=
    (Nat.div_mod_unique (by omega)).mpr ⟨by rw [lowerPos_eq, Nat.add_comm], by omega⟩
  rw [← List.countP_eq_length_filter]
  refine (count_bit_zero hd (lowerPos d p)).trans ?_
  rw [hq, hr, Nat.min_eq_left hlt.le]

end Sys2Proof.Machine
end

section
/-! ### The route through the stages (R150, R151) -/

namespace Sys2Proof.Machine

theorem stageDist_eq_two_pow {st : Nat} (h : st < 11) : ∃ k < 6, stageDist st = 2 ^ k := by
  unfold stageDist
  split
  · exact ⟨5 - st, by omega, rfl⟩
  · exact ⟨st - 5, by omega, rfl⟩

/-- A stage in the words of R150: the switch is the position's rank, and a crossed one takes the position's neighbour. -/
theorem stageSource_eq (pm : BitVec 352) {st : Nat} (h : st < 11) (p : Nat) : stageSource pm st p
    = if pm.getLsbD
          (32 * st + ((List.range (lowerPos (stageDist st) p)).filter fun q => q / stageDist st % 2 = 0).length)
      then (if p / stageDist st % 2 = 1 then p - stageDist st else p + stageDist st) else p := by
  obtain ⟨k, -, hk⟩ := stageDist_eq_two_pow h
  rw [stageSource, hk, switch_eq (Nat.two_pow_pos k), xor_two_pow_eq]

theorem stageSource_lt (pm : BitVec 352) {st p : Nat} (h : st < 11) (hp : p < 64) : stageSource pm st p < 64 := by
  obtain ⟨k, hk6, hk⟩ := stageDist_eq_two_pow h
  have hdist : stageDist st < 2 ^ 6 := hk ▸ Nat.pow_lt_pow_right (by decide) hk6
  unfold stageSource
  dsimp only
  split
  · exact Nat.xor_lt_two_pow (n := 6) hp hdist
  · exact hp

/-- Both ends of a switch name it, so that a stage undoes itself. -/
theorem stageSource_involutive (pm : BitVec 352) {st : Nat} (h : st < 11) : (stageSource pm st).Involutive := by
  obtain ⟨k, -, hk⟩ := stageDist_eq_two_pow h
  intro p
  have hdiv : (p ^^^ 2 ^ k) / (2 * 2 ^ k) = p / (2 * 2 ^ k) := by
    rw [← Nat.pow_succ', Nat.xor_div_two_pow, Nat.div_eq_of_lt (Nat.pow_lt_pow_succ (by decide)), Nat.xor_zero]
  simp only [stageSource, hk]
  by_cases hcross : pm.getLsbD (32 * st + (p / (2 * 2 ^ k) * 2 ^ k + p % 2 ^ k)) = true
  · rw [if_pos hcross, hdiv, xor_two_pow_mod, if_pos hcross, Nat.xor_xor_cancel_right]
  · rw [if_neg hcross, if_neg hcross]

theorem stageSource_straight (st p : Nat) : stageSource 0 st p = p := by
  simp [stageSource]

/-- The position that feeds position p through the first n stages. -/
def stagesSource (pm : BitVec 352) (n p : Nat) : Nat :=
  (List.range n).reverse.foldl (fun p st => stageSource pm st p) p

theorem permSource_eq (pm : BitVec 352) (p : Nat) : permSource pm p = stagesSource pm 11 p := rfl

theorem stagesSource_zero (pm : BitVec 352) (p : Nat) : stagesSource pm 0 p = p := rfl

theorem stagesSource_succ (pm : BitVec 352) (n p : Nat) :
    stagesSource pm (n + 1) p = stagesSource pm n (stageSource pm n p) := by
  simp [stagesSource, List.range_succ]

theorem stagesSource_lt (pm : BitVec 352) {n p : Nat} (hn : n ≤ 11) (hp : p < 64) : stagesSource pm n p < 64 := by
  induction n generalizing p with
  | zero => exact hp
  | succ n ih =>
    rw [stagesSource_succ]
    exact ih (Nat.le_of_succ_le hn) (stageSource_lt pm hn hp)

theorem stagesSource_injective (pm : BitVec 352) {n : Nat} (hn : n ≤ 11) : (stagesSource pm n).Injective := by
  induction n with
  | zero => exact fun _ _ h => h
  | succ n ih =>
    intro p q h
    rw [stagesSource_succ, stagesSource_succ] at h
    exact (stageSource_involutive pm hn).injective (ih (Nat.le_of_succ_le hn) h)

theorem stagesSource_straight (n p : Nat) : stagesSource 0 n p = p := by
  induction n with
  | zero => rfl
  | succ n ih => rw [stagesSource_succ, stageSource_straight, ih]

/-- A result is read in the 64 lanes of a group only. -/
theorem Lands.congr_lanes {i : Instr} {o : Fields} {s : State} {f g : Nat → Word} (h : Lands i o s f)
    (e : ∀ l < 64, f l = g l) : Lands i o s g := by
  obtain ⟨r, hexec, hr⟩ := h
  refine ⟨r, hexec, ?_⟩
  cases hd : o.d with
  | v n =>
    simp only [hd] at hr ⊢
    exact ⟨hr.1, fun m l hl => e l hl ▸ hr.2 m l hl⟩
  | p n =>
    simp only [hd] at hr ⊢
    exact ⟨hr.1, fun m l hl => e l hl ▸ hr.2 m l hl⟩
  | s n => simpa only [hd, e 0 (by decide)] using hr
  | eta n => simpa only [hd, e 0 (by decide)] using hr
  | _ => simpa only [hd] using hr

end Sys2Proof.Machine
end

section
/-! ### The settings of the network (R149) -/

namespace Sys2Proof.Machine

/-- The digits of a number, of w bits each, by their bits. -/
theorem testBit_foldr_digits {w : Nat} {f : Nat → Nat} (hf : ∀ i, f i < 2 ^ w) (l : List Nat) {i j : Nat}
    (hi : i < l.length) (hj : j < w) :
    (l.foldr (fun i x => f i + 2 ^ w * x) 0).testBit (w * i + j) = (f l[i]).testBit j := by
  induction l generalizing i with
  | nil => exact absurd hi (Nat.not_lt_zero i)
  | cons a t ih =>
    rw [List.foldr_cons, Nat.add_comm (f a), Nat.testBit_two_pow_mul_add _ (hf a)]
    cases i with
    | zero =>
      rw [Nat.mul_zero, Nat.zero_add, if_pos hj]
      rfl
    | succ i =>
      have hge : ¬ w * (i + 1) + j < w := by rw [Nat.mul_succ]; omega
      have hsub : w * (i + 1) + j - w = w * i + j := by rw [Nat.mul_succ]; omega
      rw [if_neg hge, hsub, ih (Nat.lt_of_succ_lt_succ hi)]
      rfl

/-- Stage i of a setting is its scalar i. -/
theorem pmBits_getLsbD (g : Group) (k : Nat) {i j : Nat} (hi : i < 11) (hj : j < 32) :
    (pmBits g k).getLsbD (32 * i + j) = (g.readS (k + i)).getLsbD j := by
  have hlt : 32 * i + j < 352 := by omega
  have hlen : i < (List.range 11).length := by rwa [List.length_range]
  rw [pmBits, BitVec.getLsbD_ofNat,
    testBit_foldr_digits (f := fun i => (g.readS (k + i)).toNat) (fun _ => BitVec.isLt _) _ hlen hj,
    List.getElem_range, BitVec.testBit_toNat, decide_eq_true hlt, Bool.true_and]

/-- The group after a `pset` of its register n (R149). -/
def Group.setPm (g : Group) (n : Nat) (pm : BitVec 352) (ready : Nat) : Group :=
  { g with pm := sset 0 g.pm n pm, pmReady := sput g.pmReady n (some ready) }

@[simp] theorem Group.readPm_setPm (g : Group) (n r : Nat) (pm : BitVec 352) (ready : Nat) :
    (g.setPm n pm ready).readPm r = if r = n then pm else g.readPm r :=
  sget_sset _ _ _ _ _

@[simp] theorem Group.sfind_pmReady_setPm (g : Group) (n r : Nat) (pm : BitVec 352) (ready : Nat) :
    sfind (g.setPm n pm ready).pmReady r = if r = n then some (some ready) else sfind g.pmReady r :=
  sfind_sput _ _ _ _

theorem Group.setPm_frame (g : Group) (n : Nat) (pm : BitVec 352) (ready : Nat) :
    g.setPm n pm ready = { g with pm := (g.setPm n pm ready).pm, pmReady := (g.setPm n pm ready).pmReady } := rfl

theorem exec_pset (m : CrossMod) (o : Fields) (s : State) : exec (.pset m o) s = execPset m o s := rfl

section
variable (m : CrossMod) {o : Fields} {s : State} {k : Fin 64} (ha : o.a = .s k)
include ha

theorem exec_pset_of_acts (hacts : s.cur.acts o.guard = true) : exec (.pset m o) s
    = .next (State.advance { s with cur := s.cur.setPm (m.st.toNat % 8) (pmBits s.cur k.val) (s.now + 4) }) := by
  rw [exec_pset, execPset, ha]
  exact if_pos hacts

theorem exec_pset_of_not_acts (hacts : s.cur.acts o.guard = false) : exec (.pset m o) s = .next s.advance := by
  rw [exec_pset, execPset, ha]
  exact if_neg (Bool.not_eq_true _ ▸ hacts)

end

/-- Settles O17: `perm` routes by the composition of the stages, each of which is an involution of the positions, and `pset`
puts the scalars side by side. -/
theorem permutationNetwork : Obligations.PermutationNetwork := by
  unfold Obligations.PermutationNetwork
  intro m o s n dist low switch other pm src
  refine ⟨⟨stagesSource pm, fun p _ => stagesSource_zero pm p, fun st p hst _ => ?stage,
    fun p hp => stagesSource_lt pm le_rfl hp, fun p q _ _ h => stagesSource_injective pm le_rfl h, fun hpm p _ => ?straight,
    (lands_of_laneStep rfl).congr_lanes fun l hl => ?perm⟩, fun k ha => ?pset⟩
  case stage =>
    rw [stagesSource_succ, stageSource_eq pm hst]
    rfl
  case straight => rw [hpm, stagesSource_straight]
  case perm =>
    rw [if_pos hl, ← permSource_eq]
  case pset =>
    cases hacts : s.cur.acts o.guard with
    | false => exact ⟨s.cur, exec_pset_of_not_acts m ha hacts, rfl, fun h => absurd h Bool.false_ne_true, fun _ => rfl⟩
    | true =>
      refine ⟨_, exec_pset_of_acts m ha hacts, Group.setPm_frame .., fun _ => ⟨?_, fun i j hi hj => ?_, fun r hr => ?_⟩,
        fun h => absurd h.symm Bool.false_ne_true⟩
      · rw [Group.sfind_pmReady_setPm, if_pos rfl]
      · rw [Group.readPm_setPm, if_pos rfl, pmBits_getLsbD _ _ hi hj]
      · rw [Group.readPm_setPm, Group.sfind_pmReady_setPm, if_neg hr, if_neg hr]
        exact ⟨rfl, rfl⟩

end Sys2Proof.Machine
end

/-! SUPPORT. Decoding and encoding (R84, R86, R92, R93): the fields of a word and the parts of an instruction give each other
back. -/

section
namespace Sys2Proof.Machine

/-! ### Operand codes -/


theorem opndOf_opndCode (x : Opnd) : opndOf (opndCode x) = some x := by
  cases x with
  | v n => exact dif_pos n.isLt
  | s n => revert n; decide
  | p n => revert n; decide
  | a n => revert n; decide
  | m n => revert n; decide
  | eta n => revert n; decide
  | const c => cases c <;> rfl
  | sr r => cases r <;> rfl
  | imm => rfl

theorem constIdx_of_getElem? {n : Nat} {c : Constant} (h : constTable[n]? = some c) : constIdx c = n := by
  have hn : n < 15 := (List.getElem?_eq_some_iff.mp h).1
  interval_cases n <;> cases h <;> rfl

theorem statusIdx_of_getElem? {n : Nat} {r : StatusReg} (h : statusTable[n]? = some r) : statusIdx r = n := by
  have hn : n < 18 := (List.getElem?_eq_some_iff.mp h).1
  interval_cases n <;> cases h <;> rfl

theorem opndCode_of_opndOf {n : Nat} {x : Opnd} (h : opndOf n = some x) : opndCode x = n := by
  unfold opndOf at h
  split at h
  · cases h; rfl
  split at h
  · cases h; simp only [opndCode]; omega
  split at h
  · cases h; simp only [opndCode]; omega
  split at h
  · cases h; simp only [opndCode]; omega
  split at h
  · cases h; simp only [opndCode]; omega
  split at h
  · cases h; simp only [opndCode]; omega
  split at h
  · cases h
  split at h
  · obtain ⟨c, hc, rfl⟩ := Option.map_eq_some_iff.mp h
    simp only [opndCode, constIdx_of_getElem? hc]; omega
  split at h
  · obtain ⟨r, hr, rfl⟩ := Option.map_eq_some_iff.mp h
    simp only [opndCode, statusIdx_of_getElem? hr]; omega
  split at h
  · cases h; simp only [opndCode]; omega
  · cases h

theorem opndCode_lt (x : Opnd) : opndCode x < 512 := by
  have h := opndOf_opndCode x
  unfold opndOf at h
  split_ifs at h <;> omega

/-! ### Modifier codes read and written back -/

theorem fmtCode_of_fmtOf {n : Nat} {f : Fmt} (h : fmtOf n = some f) : fmtCode f = n := by
  unfold fmtOf at h
  split at h <;> cases h <;> rfl

theorem scopeCode_of_scopeOf {n : Nat} {c : Scope} (h : scopeOf n = some c) : scopeCode c = n := by
  unfold scopeOf at h
  split at h <;> cases h <;> rfl

theorem corModeCode_of_corModeOf {n : Nat} {c : CorMode} (h : corModeOf n = some c) : corModeCode c = n := by
  unfold corModeOf at h
  split at h <;> cases h <;> rfl

theorem rndCode_rndOf {n : Nat} (h : n < 4) : rndCode (rndOf n) = n := by interval_cases n <;> rfl
theorem ordCode_ordOf {n : Nat} (h : n < 4) : ordCode (ordOf n) = n := by interval_cases n <;> rfl
theorem spaceCode_spaceOf {n : Nat} (h : n < 4) : spaceCode (spaceOf n) = n := by interval_cases n <;> rfl
theorem cspaceCode_cspaceOf {n : Nat} (h : n < 4) : cspaceCode (cspaceOf n) = n := by interval_cases n <;> rfl
theorem bit_beq_one_eq {n : Nat} (h : n < 2) : bit (n == 1) = n := by interval_cases n <;> rfl

theorem mf_lt (b : BitVec 12) (hi lo : Nat) : mf b hi lo < 2 ^ (hi + 1 - lo) := Nat.mod_lt _ (Nat.two_pow_pos _)

theorem ofNat_eq_of_toNat {w : Nat} {b : BitVec w} {x : Nat} (h : x = b.toNat) : BitVec.ofNat w x = b := by
  rw [h, BitVec.ofNat_toNat, BitVec.setWidth_eq]

theorem laneBits_of_laneOf (b : BitVec 12) (m : LaneMod) (h : laneOf b = some m) : laneBits m = b := by
  obtain ⟨f, hf, rfl⟩ := Option.map_eq_some_iff.mp h
  have hb := b.isLt
  refine ofNat_eq_of_toNat ?_
  simp only [fmtCode_of_fmtOf hf, rndCode_rndOf (mf_lt b 7 6), bit_beq_one_eq (mf_lt b 5 5), BitVec.toNat_ofNat]
  simp only [mf, bits]
  omega

/-- A modifier record, its bits and the record of given bits: the bits of what is read are the bits read. -/
def ReadsBack {α : Type} (bitsOf : α → BitVec 12) (of : BitVec 12 → Option α) : Prop :=
  ∀ b x, of b = some x → bitsOf x = b

theorem readsBack_cross : ReadsBack crossBits crossOf := by
  intro b m h
  obtain ⟨f, hf, rfl⟩ := Option.map_eq_some_iff.mp h
  have hb := b.isLt
  refine ofNat_eq_of_toNat ?_
  simp only [fmtCode_of_fmtOf hf, bit_beq_one_eq (mf_lt b 4 4), BitVec.toNat_ofNat]
  simp only [mf, bits]
  omega

theorem readsBack_local : ReadsBack localBits localOf := by
  intro b m h
  obtain ⟨hlow, h⟩ := Option.ite_none_right_eq_some.mp h
  cases h
  have hb := b.isLt
  refine ofNat_eq_of_toNat ?_
  simp only [spaceCode_spaceOf (mf_lt b 11 10), bit_beq_one_eq (mf_lt b 7 7), BitVec.toNat_ofNat]
  simp only [mf, bits] at hlow ⊢
  omega

theorem readsBack_copy : ReadsBack copyBits copyOf := by
  intro b m h
  obtain ⟨hlow, h⟩ := Option.ite_none_right_eq_some.mp h
  cases h
  have hb := b.isLt
  refine ofNat_eq_of_toNat ?_
  simp only [cspaceCode_cspaceOf (mf_lt b 10 9), cspaceCode_cspaceOf (mf_lt b 8 7), bit_beq_one_eq (mf_lt b 11 11),
    BitVec.toNat_ofNat]
  simp only [mf, bits] at hlow ⊢
  omega

theorem readsBack_atom : ReadsBack atomBits atomOf := by
  intro b m h
  obtain ⟨c, hc, rfl⟩ := Option.map_eq_some_iff.mp h
  have hb := b.isLt
  refine ofNat_eq_of_toNat ?_
  simp only [spaceCode_spaceOf (mf_lt b 11 10), ordCode_ordOf (mf_lt b 4 3), scopeCode_of_scopeOf hc,
    bit_beq_one_eq (mf_lt b 5 5), BitVec.toNat_ofNat]
  simp only [mf, bits]
  omega

theorem readsBack_fence : ReadsBack fenceBits fenceOf := by
  intro b m h
  obtain ⟨hhigh, h⟩ := Option.ite_none_right_eq_some.mp h
  obtain ⟨c, hc, rfl⟩ := Option.map_eq_some_iff.mp h
  have hb := b.isLt
  refine ofNat_eq_of_toNat ?_
  simp only [ordCode_ordOf (mf_lt b 4 3), scopeCode_of_scopeOf hc]
  simp only [mf, bits] at hhigh ⊢
  omega

theorem readsBack_mma : ReadsBack mmaBits mmaOf := by
  intro b m h
  obtain ⟨hlow, h⟩ := Option.ite_none_right_eq_some.mp h
  cases h
  have hb := b.isLt
  refine ofNat_eq_of_toNat ?_
  simp only [bit_beq_one_eq (mf_lt b 11 11), bit_beq_one_eq (mf_lt b 10 10), bit_beq_one_eq (mf_lt b 9 9),
    BitVec.toNat_ofNat]
  simp only [mf, bits] at hlow ⊢
  omega

theorem readsBack_tile : ReadsBack tileBits tileOf := by
  intro b m h
  obtain ⟨hlow, h⟩ := Option.ite_none_right_eq_some.mp h
  obtain ⟨f, hf, rfl⟩ := Option.map_eq_some_iff.mp h
  have hb := b.isLt
  refine ofNat_eq_of_toNat ?_
  simp only [fmtCode_of_fmtOf hf, rndCode_rndOf (mf_lt b 7 6), bit_beq_one_eq (mf_lt b 5 5),
    spaceCode_spaceOf (mf_lt b 4 3)]
  simp only [mf, bits] at hlow ⊢
  omega

theorem readsBack_cor : ReadsBack corBits corOf := by
  intro b m h
  obtain ⟨hlow, h⟩ := Option.ite_none_right_eq_some.mp h
  obtain ⟨c, hc, rfl⟩ := Option.map_eq_some_iff.mp h
  have hb := b.isLt
  refine ofNat_eq_of_toNat ?_
  simp only [corModeCode_of_corModeOf hc, bit_beq_one_eq (mf_lt b 3 3), BitVec.toNat_ofNat]
  simp only [mf, bits] at hlow ⊢
  omega

theorem readsBack_attn : ReadsBack attnBits attnOf := by
  intro b m h
  obtain ⟨hmid, h⟩ := Option.ite_none_right_eq_some.mp h
  cases h
  have hb := b.isLt
  refine ofNat_eq_of_toNat ?_
  simp only [bit_beq_one_eq (mf_lt b 11 11), BitVec.toNat_ofNat]
  simp only [mf, bits] at hmid ⊢
  omega

theorem readsBack_seg : ReadsBack segBits segOf := by
  intro b sp h
  obtain ⟨hlt, h⟩ := Option.ite_none_right_eq_some.mp h
  cases h
  exact ofNat_eq_of_toNat (spaceCode_spaceOf hlt)

theorem eq_of_toNat_eq_lit {b : BitVec 12} {n : Nat} (h : b.toNat = n) : BitVec.ofNat 12 n = b :=
  ofNat_eq_of_toNat h.symm

theorem readsBack_ctlReg : ReadsBack ctlRegBits ctlRegOf := by
  intro b r h
  unfold ctlRegOf at h
  split at h <;> cases h <;> exact eq_of_toNat_eq_lit ‹_›

theorem readsBack_tlbForm : ReadsBack tlbFormBits tlbFormOf := by
  intro b r h
  unfold tlbFormOf at h
  split at h <;> cases h <;> exact eq_of_toNat_eq_lit ‹_›

theorem eq_zero_of_ne_zero_false {m : BitVec 12} (h : (m != 0) = false) : m = 0 := by simpa using h

theorem eq_zero_of_mf {m : BitVec 12} (k : Nat) (hk : k < 12) (hhi : (mf m 11 (k+1) != 0) = false) (hlo : (mf m k 0 != 0) = false) : m = 0 := by
  have hm := m.isLt
  simp only [mf, bits, bne_eq_false_iff_eq] at hhi hlo
  refine BitVec.eq_of_toNat_eq (show m.toNat = 0 from ?_)
  interval_cases k <;> omega

theorem toNat_setWidth_lvl {m : BitVec 12} (h : (mf m 11 8 != 0) = false) : (m.setWidth 8).setWidth 12 = m := by
  have hm := m.isLt
  simp only [mf, bits, bne_eq_false_iff_eq] at h
  refine BitVec.eq_of_toNat_eq ?_
  rw [BitVec.toNat_setWidth, BitVec.toNat_setWidth]
  omega

/-! ### Parts and the instruction built of them -/

theorem partsOf_of_map {α : Type} {bitsOf : α → BitVec 12} {of : BitVec 12 → Option α} (hback : ReadsBack bitsOf of)
    {opc : Nat} {m : BitVec 12} {o : Fields} {c : α → Instr} {i : Instr} (h : (of m).map c = some i)
    (hc : ∀ x, partsOf (c x) = some (opc, bitsOf x, o)) : partsOf i = some (opc, m, o) := by
  obtain ⟨x, hx, rfl⟩ := Option.map_eq_some_iff.mp h
  rw [hc, hback m x hx]

/-- An instruction without a modifier, by the tests that its entry makes of the modifier's bits. -/
theorem partsOf_of_zero {opc : Nat} {m : BitVec 12} {o : Fields} {c i : Instr} (h : some c = some i) (hm : m = 0)
    (hc : partsOf c = some (opc, 0, o)) : partsOf i = some (opc, m, o) := by
  cases h
  rw [hc, hm]

/-- The opcode, the modifier bits and the fields that pass tests 6 and 7 of R93 are the parts of the instruction that they
build: an instruction without a modifier has none of its bits set. -/
theorem partsOf_of_buildInstr {opc : Nat} {m : BitVec 12} {o : Fields} {i : Instr} {f : Form} (hform : formOf opc m o = some f)
    (h6 : f.bad6 = false) (h7 : f.bad7 = false) (h : buildInstr opc m o = some i) : partsOf i = some (opc, m, o) := by
  unfold buildInstr at h
  split at h
  case h_132 => cases h
  case h_20 | h_21 | h_22 | h_23 | h_24 | h_25 | h_26 | h_27 | h_28 | h_29 | h_30 | h_31 | h_32 | h_33 | h_34 | h_35 | h_36
      | h_37 | h_38 | h_39 | h_40 | h_41 | h_42 | h_43 | h_44 | h_45 | h_46 | h_47 | h_48 | h_49 | h_50 | h_51 | h_52 | h_53
      | h_54 | h_55 | h_56 | h_57 | h_58 | h_59 | h_60 | h_61 | h_62 | h_63 | h_64 | h_65 | h_66 | h_67 | h_68 | h_69 | h_70
      | h_71 | h_72 | h_73 | h_74 | h_75 | h_76 | h_77 | h_78 => exact partsOf_of_map laneBits_of_laneOf h fun _ => rfl
  case h_79 | h_80 | h_81 | h_82 | h_83 | h_84 | h_85 => exact partsOf_of_map readsBack_cross h fun _ => rfl
  case h_86 | h_87 | h_88 | h_89 => exact partsOf_of_map readsBack_local h fun _ => rfl
  case h_90 | h_91 | h_92 | h_93 | h_94 => exact partsOf_of_map readsBack_copy h fun _ => rfl
  case h_95 | h_96 | h_97 | h_98 => exact partsOf_of_map readsBack_atom h fun _ => rfl
  case h_99 => exact partsOf_of_map readsBack_fence h fun _ => rfl
  case h_104 | h_105 => exact partsOf_of_map readsBack_mma h fun _ => rfl
  case h_106 | h_107 => exact partsOf_of_map readsBack_tile h fun _ => rfl
  case h_109 | h_110 | h_111 | h_112 => exact partsOf_of_map readsBack_cor h fun _ => rfl
  case h_113 | h_114 | h_115 | h_116 | h_117 | h_118 => exact partsOf_of_map readsBack_attn h fun _ => rfl
  case h_127 => exact partsOf_of_map readsBack_seg h fun _ => rfl
  case h_129 => exact partsOf_of_map readsBack_ctlReg h fun _ => rfl
  case h_131 => exact partsOf_of_map readsBack_tlbForm h fun _ => rfl
  case h_1 | h_2 | h_3 | h_4 | h_5 | h_6 | h_7 | h_8 | h_9 | h_10 | h_11 | h_14 | h_15 | h_17 | h_18 | h_19 | h_108 =>
    cases hform
    exact partsOf_of_zero h (eq_zero_of_ne_zero_false h6) rfl
  case h_119 | h_120 | h_121 | h_122 | h_123 | h_124 | h_125 | h_126 =>
    cases hform
    exact partsOf_of_zero h (eq_zero_of_ne_zero_false h7) rfl
  case h_12 | h_13 =>
    cases hform
    cases h
    rw [partsOf, toNat_setWidth_lvl (Bool.or_eq_false_iff.mp h6).1]
  case h_16 => cases h; rfl
  case h_100 | h_101 | h_103 =>
    cases hform
    exact partsOf_of_zero h (eq_zero_of_mf 4 (by decide) h6 h7) rfl
  case h_128 | h_130 =>
    cases hform
    exact partsOf_of_zero h (eq_zero_of_mf 3 (by decide) h6 h7) rfl
  case h_102 =>
    split at h <;> cases h <;>
      exact congrArg (fun b => some (0x243, b, o)) (eq_of_toNat_eq_lit ‹m.toNat = _›)

/-! ### Words and their fields -/

/-- The fields of a word as the packing of an opcode, a modifier and operand fields sets them (R84). -/
def rawOfParts (opc : Nat) (m : BitVec 12) (o : Fields) : Raw :=
  { opc := opc, g := bit o.guard.neg * 8 + o.guard.pred.val, d := opndCode o.d, a := opndCode o.a, b := opndCode o.b,
    c := opndCode o.c, fs := o.fs.toNat, m := m, imm := o.imm.toNat }

theorem rawOf_packWord {opc : Nat} (hopc : opc < 1024) (m : BitVec 12) (o : Fields) :
    rawOf (packWord opc m o) = rawOfParts opc m o := by
  have hneg := bit_lt o.guard.neg
  have hpred := o.guard.pred.isLt
  have hd := opndCode_lt o.d
  have ha := opndCode_lt o.a
  have hb := opndCode_lt o.b
  have hc := opndCode_lt o.c
  have hfs := o.fs.isLt
  have hm := m.isLt
  have himm := o.imm.isLt
  simp only [rawOf, packWord, rawOfParts, bits, BitVec.toNat_ofNat, Raw.mk.injEq]
  generalize bit o.guard.neg = xneg at *
  generalize o.guard.pred.val = xp at *
  generalize opndCode o.d = xd at *
  generalize opndCode o.a = xa at *
  generalize opndCode o.b = xb at *
  generalize opndCode o.c = xc at *
  generalize o.fs.toNat = xfs at *
  generalize o.imm.toNat = ximm at *
  refine ⟨?_, ?_, ?_, ?_, ?_, ?_, ?_, ofNat_eq_of_toNat ?_, ?_⟩ <;> omega

/-- The code of a guard, and the guard of a code (R84). -/
def guardCode (gd : Guard) : Nat := bit gd.neg * 8 + gd.pred.val

def guardOf (g : Nat) : Guard := ⟨8 ≤ g, ⟨g % 8, Nat.mod_lt _ (by decide)⟩⟩

theorem guardOf_guardCode (gd : Guard) : guardOf (guardCode gd) = gd := by
  obtain ⟨neg, pred⟩ := gd
  revert neg pred
  decide

theorem guardCode_guardOf {g : Nat} (h : g < 16) : guardCode (guardOf g) = g := by
  revert g
  decide

/-- The guard code that test 3 of R93 refuses is that of `!p7`. -/
theorem guardCode_eq_fifteen_iff (gd : Guard) : guardCode gd = 15 ↔ gd = ⟨true, 7⟩ := by
  obtain ⟨neg, pred⟩ := gd
  revert neg pred
  decide

theorem fieldsOf_eq_some_iff (r : Raw) (o : Fields) : fieldsOf r = some o ↔
    o.guard = guardOf r.g ∧ opndOf r.d = some o.d ∧ opndOf r.a = some o.a ∧ opndOf r.b = some o.b ∧ opndOf r.c = some o.c
      ∧ o.fs = BitVec.ofNat 2 r.fs ∧ o.imm = BitVec.ofNat 32 r.imm := by
  unfold fieldsOf
  split
  case h_1 hd ha hb hc =>
    rw [hd, ha, hb, hc]
    constructor
    · intro h
      cases h
      exact ⟨rfl, rfl, rfl, rfl, rfl, rfl, rfl⟩
    · obtain ⟨guard, d, a, b, c, fs, imm⟩ := o
      rintro ⟨hg, hd, ha, hb, hc, hfs, himm⟩
      cases hg; cases hd; cases ha; cases hb; cases hc; cases hfs; cases himm
      rfl
  case h_2 hnone =>
    constructor
    · intro h
      cases h
    rintro ⟨-, hd, ha, hb, hc, -⟩
    exact absurd hc (hnone _ _ _ _ hd ha hb)

theorem fieldsOf_rawOfParts (opc : Nat) (m : BitVec 12) (o : Fields) : fieldsOf (rawOfParts opc m o) = some o := by
  rw [fieldsOf_eq_some_iff]
  exact ⟨(guardOf_guardCode o.guard).symm, opndOf_opndCode _, opndOf_opndCode _, opndOf_opndCode _, opndOf_opndCode _,
    (ofNat_eq_of_toNat rfl).symm, (ofNat_eq_of_toNat rfl).symm⟩

theorem guardCode_of_fieldsOf {w : SlotWord} {o : Fields} (h : fieldsOf (rawOf w) = some o) :
    guardCode o.guard = (rawOf w).g := by
  obtain ⟨hg, -⟩ := (fieldsOf_eq_some_iff _ o).mp h
  exact hg ▸ guardCode_guardOf (Nat.mod_lt _ (by decide))

theorem mod_two_pow_eq_bits_add (x : Nat) {hi lo : Nat} (h : lo ≤ hi + 1) :
    x % 2 ^ (hi + 1) = bits x hi lo * 2 ^ lo + x % 2 ^ lo := by
  rw [bits, Nat.mul_comm, Nat.add_comm _ (x % _), ← Nat.mod_mul, ← pow_add, Nat.add_sub_cancel' h]

/-- A word of 96 bits is put together from its fields. -/
theorem sum_bits_eq {x : Nat} (h : x < 2 ^ 96) : bits x 95 86 * 2 ^ 86 + bits x 85 82 * 2 ^ 82 + bits x 81 73 * 2 ^ 73
    + bits x 72 64 * 2 ^ 64 + bits x 63 55 * 2 ^ 55 + bits x 54 46 * 2 ^ 46 + bits x 45 44 * 2 ^ 44
    + bits x 43 32 * 2 ^ 32 + bits x 31 0 = x := by
  have hcut {hi lo : Nat} (h : lo ≤ hi + 1) := mod_two_pow_eq_bits_add x h
  calc _ = x % 2 ^ 96 := by
        rw [hcut (hi := 95) (lo := 86) (by decide), hcut (hi := 85) (lo := 82) (by decide),
          hcut (hi := 81) (lo := 73) (by decide), hcut (hi := 72) (lo := 64) (by decide),
          hcut (hi := 63) (lo := 55) (by decide), hcut (hi := 54) (lo := 46) (by decide),
          hcut (hi := 45) (lo := 44) (by decide), hcut (hi := 43) (lo := 32) (by decide),
          hcut (hi := 31) (lo := 0) (by decide), pow_zero, Nat.mod_one]
        ring
    _ = x := Nat.mod_eq_of_lt h

/-- Fields that stand for a word have that word. -/
theorem packWord_rawOf {w : SlotWord} {o : Fields} (h : fieldsOf (rawOf w) = some o) :
    packWord (rawOf w).opc (rawOf w).m o = w := by
  obtain ⟨-, hd, ha, hb, hc, hfs, himm⟩ := (fieldsOf_eq_some_iff _ o).mp h
  have hg : bit o.guard.neg * 8 + o.guard.pred.val = (rawOf w).g := guardCode_of_fieldsOf h
  rw [packWord, hg, opndCode_of_opndOf hd, opndCode_of_opndOf ha, opndCode_of_opndOf hb, opndCode_of_opndOf hc, hfs, himm]
  have hfs : (BitVec.ofNat 2 (rawOf w).fs).toNat = (rawOf w).fs := Nat.mod_eq_of_lt (Nat.mod_lt _ (by decide))
  have hm : (rawOf w).m.toNat = bits w.toNat 43 32 := Nat.mod_eq_of_lt (Nat.mod_lt _ (by decide))
  have himm : (BitVec.ofNat 32 (rawOf w).imm).toNat = (rawOf w).imm := Nat.mod_eq_of_lt (Nat.mod_lt _ (by decide))
  rw [hfs, hm, himm]
  exact ofNat_eq_of_toNat (sum_bits_eq w.isLt)

theorem isNone_formMove (fn : Nat) (m : BitVec 12) (imm imm' : Word) :
    (formMove fn m imm).isNone = (formMove fn m imm').isNone := by
  match fn with
  | 0 | 1 | 2 | 3 | 4 | 5 | 6 | 7 | _ + 8 => rfl

theorem isNone_formCross (fn : Nat) (m : BitVec 12) (d a d' a' : Opnd) :
    (formCross fn m d a).isNone = (formCross fn m d' a').isNone := by
  match fn with
  | 0 | 1 | 2 | 3 | 4 | 5 | 6 | _ + 7 => rfl

theorem isNone_formAtom (fn : Nat) (m : BitVec 12) (a a' : Opnd) :
    (formAtom fn m a).isNone = (formAtom fn m a').isNone := by
  match fn with
  | 0 | 1 | 2 | 3 | _ + 4 => rfl

/-- Whether an opcode is assigned does not depend on the operands (R92). -/
theorem isNone_formOf (opc : Nat) (m : BitVec 12) (o o' : Fields) : (formOf opc m o).isNone = (formOf opc m o').isNone := by
  unfold formOf
  split
  case h_4 => exact isNone_formMove ..
  case h_6 => exact isNone_formCross ..
  case h_9 => exact isNone_formAtom ..
  all_goals rfl

/-! ### Decoding (R93) -/

theorem firstOf5to9_eq_zero {e : EntryEnv} {opc : Nat} {f : Form} {o : Fields} (h : firstOf5to9 e opc f o = 0) :
    f.bad6 = false ∧ f.bad7 = false := by
  unfold firstOf5to9 at h
  split_ifs at h with h5 h6 h7
  refine ⟨Bool.eq_false_iff.mpr h6, ?_⟩
  cases h' : f.bad7 with
  | false => rfl
  | true => simp [test7, h'] at h7

/-- What the decoder takes: a word that passes the nine tests, with the fields, the form and the instruction that it finds. -/
theorem decodeSlot_eq_ok_iff (e : EntryEnv) (w : SlotWord) (i : Instr) : decodeSlot e w = .ok i ↔
    (rawOf w).opc / 64 ≠ 15 ∧ (rawOf w).g ≠ 15 ∧ ∃ o f, fieldsOf (rawOf w) = some o
      ∧ formOf (rawOf w).opc (rawOf w).m o = some f ∧ firstOf5to9 e (rawOf w).opc f o = 0
      ∧ buildInstr (rawOf w).opc (rawOf w).m o = some i := by
  unfold decodeSlot
  generalize rawOf w = r
  dsimp only
  constructor
  · intro h
    split at h
    · cases h
    split at h
    · cases h
    split at h
    · cases h
    split at h
    · cases h
    split at h
    · cases h
    split at h
    · split at h
      · cases h
        exact ⟨‹_›, ‹_›, _, _, ‹_›, ‹_›, ‹_›, ‹_›⟩
      · cases h
    · cases h
  · rintro ⟨h1, h3, o, f, ho, hf, h5, hi⟩
    have h2 : ¬ (formOf r.opc r.m noFields).isNone = true := by
      rw [isNone_formOf _ _ _ o, hf]
      exact Bool.false_ne_true
    simp only [h1, h2, h3, ho, hf, h5, hi, if_false]
    rfl

/-- The parts of every instruction build it, under an assigned opcode. -/
theorem parts_statement (i : Instr) : Laws.Parts.Statement i := by
  cases i with
  | nop o => exact Laws.Parts.nop o
  | br o => exact Laws.Parts.br o
  | brd o => exact Laws.Parts.brd o
  | brx o => exact Laws.Parts.brx o
  | call o => exact Laws.Parts.call o
  | callx o => exact Laws.Parts.callx o
  | ret o => exact Laws.Parts.ret o
  | if_ o => exact Laws.Parts.if_ o
  | else_ o => exact Laws.Parts.else_ o
  | endif_ o => exact Laws.Parts.endif_ o
  | loop_ o => exact Laws.Parts.loop_ o
  | lbrk lvl o => exact Laws.Parts.lbrk lvl o
  | cont lvl o => exact Laws.Parts.cont lvl o
  | endl o => exact Laws.Parts.endl o
  | exit_ o => exact Laws.Parts.exit_ o
  | yield_ wf o => exact Laws.Parts.yield_ wf o
  | ebrk o => exact Laws.Parts.ebrk o
  | grow o => exact Laws.Parts.grow o
  | shrink o => exact Laws.Parts.shrink o
  | add m o => exact Laws.Parts.add m o
  | sub m o => exact Laws.Parts.sub m o
  | mul m o => exact Laws.Parts.mul m o
  | mulhi m o => exact Laws.Parts.mulhi m o
  | mad m o => exact Laws.Parts.mad m o
  | min_ m o => exact Laws.Parts.min_ m o
  | max_ m o => exact Laws.Parts.max_ m o
  | abs_ m o => exact Laws.Parts.abs_ m o
  | neg m o => exact Laws.Parts.neg m o
  | and_ m o => exact Laws.Parts.and_ m o
  | or_ m o => exact Laws.Parts.or_ m o
  | xor_ m o => exact Laws.Parts.xor_ m o
  | not_ m o => exact Laws.Parts.not_ m o
  | shl m o => exact Laws.Parts.shl m o
  | shr m o => exact Laws.Parts.shr m o
  | sar m o => exact Laws.Parts.sar m o
  | popc m o => exact Laws.Parts.popc m o
  | clz m o => exact Laws.Parts.clz m o
  | brev m o => exact Laws.Parts.brev m o
  | bfe m o => exact Laws.Parts.bfe m o
  | bfi m o => exact Laws.Parts.bfi m o
  | icmp m o => exact Laws.Parts.icmp m o
  | aadd m o => exact Laws.Parts.aadd m o
  | aidx m o => exact Laws.Parts.aidx m o
  | fadd m o => exact Laws.Parts.fadd m o
  | fsub m o => exact Laws.Parts.fsub m o
  | fmul m o => exact Laws.Parts.fmul m o
  | fma m o => exact Laws.Parts.fma m o
  | fmin m o => exact Laws.Parts.fmin m o
  | fmax m o => exact Laws.Parts.fmax m o
  | fabs m o => exact Laws.Parts.fabs m o
  | fneg m o => exact Laws.Parts.fneg m o
  | fcmp m o => exact Laws.Parts.fcmp m o
  | fclass m o => exact Laws.Parts.fclass m o
  | frnd m o => exact Laws.Parts.frnd m o
  | hadd2 m o => exact Laws.Parts.hadd2 m o
  | hmul2 m o => exact Laws.Parts.hmul2 m o
  | hfma2 m o => exact Laws.Parts.hfma2 m o
  | hmin2 m o => exact Laws.Parts.hmin2 m o
  | hmax2 m o => exact Laws.Parts.hmax2 m o
  | hdot2 m o => exact Laws.Parts.hdot2 m o
  | mov m o => exact Laws.Parts.mov m o
  | cvt m o => exact Laws.Parts.cvt m o
  | sel m o => exact Laws.Parts.sel m o
  | plog m o => exact Laws.Parts.plog m o
  | rdl m o => exact Laws.Parts.rdl m o
  | amov m o => exact Laws.Parts.amov m o
  | pack m o => exact Laws.Parts.pack m o
  | unpack m o => exact Laws.Parts.unpack m o
  | rcp m o => exact Laws.Parts.rcp m o
  | rsqrt m o => exact Laws.Parts.rsqrt m o
  | sqrt m o => exact Laws.Parts.sqrt m o
  | ex2 m o => exact Laws.Parts.ex2 m o
  | lg2 m o => exact Laws.Parts.lg2 m o
  | sin m o => exact Laws.Parts.sin m o
  | cos m o => exact Laws.Parts.cos m o
  | tanh m o => exact Laws.Parts.tanh m o
  | exsm m o => exact Laws.Parts.exsm m o
  | fdiv m o => exact Laws.Parts.fdiv m o
  | vote m o => exact Laws.Parts.vote m o
  | shfl m o => exact Laws.Parts.shfl m o
  | lred m o => exact Laws.Parts.lred m o
  | qx m o => exact Laws.Parts.qx m o
  | pset m o => exact Laws.Parts.pset m o
  | perm m o => exact Laws.Parts.perm m o
  | bcast m o => exact Laws.Parts.bcast m o
  | ld m o => exact Laws.Parts.ld m o
  | st m o => exact Laws.Parts.st m o
  | ldb m o => exact Laws.Parts.ldb m o
  | stb m o => exact Laws.Parts.stb m o
  | cpy m o => exact Laws.Parts.cpy m o
  | cpyg m o => exact Laws.Parts.cpyg m o
  | cpys m o => exact Laws.Parts.cpys m o
  | cpyf m o => exact Laws.Parts.cpyf m o
  | coll m o => exact Laws.Parts.coll m o
  | atom m o => exact Laws.Parts.atom m o
  | cas m o => exact Laws.Parts.cas m o
  | waitv m o => exact Laws.Parts.waitv m o
  | wake m o => exact Laws.Parts.wake m o
  | fence m o => exact Laws.Parts.fence m o
  | bar o => exact Laws.Parts.bar o
  | gbar o => exact Laws.Parts.gbar o
  | phbarInit o => exact Laws.Parts.phbarInit o
  | phbarArr o => exact Laws.Parts.phbarArr o
  | phbarQuit o => exact Laws.Parts.phbarQuit o
  | phbarWait o => exact Laws.Parts.phbarWait o
  | phbarTest o => exact Laws.Parts.phbarTest o
  | phbarGen o => exact Laws.Parts.phbarGen o
  | qfence o => exact Laws.Parts.qfence o
  | mma m o => exact Laws.Parts.mma m o
  | mmq m o => exact Laws.Parts.mmq m o
  | mrd m o => exact Laws.Parts.mrd m o
  | mwr m o => exact Laws.Parts.mwr m o
  | mclr o => exact Laws.Parts.mclr o
  | cor m o => exact Laws.Parts.cor m o
  | corq m o => exact Laws.Parts.corq m o
  | gram m o => exact Laws.Parts.gram m o
  | trsv m o => exact Laws.Parts.trsv m o
  | attn m o => exact Laws.Parts.attn m o
  | kvalloc m o => exact Laws.Parts.kvalloc m o
  | kvcommit m o => exact Laws.Parts.kvcommit m o
  | kvrel m o => exact Laws.Parts.kvrel m o
  | kvlink m o => exact Laws.Parts.kvlink m o
  | kvchk m o => exact Laws.Parts.kvchk m o
  | swarm o => exact Laws.Parts.swarm o
  | swreq o => exact Laws.Parts.swreq o
  | swcan o => exact Laws.Parts.swcan o
  | swst o => exact Laws.Parts.swst o
  | shedj o => exact Laws.Parts.shedj o
  | cbs o => exact Laws.Parts.cbs o
  | cbr o => exact Laws.Parts.cbr o
  | cbw o => exact Laws.Parts.cbw o
  | segld seg o => exact Laws.Parts.segld seg o
  | rte o => exact Laws.Parts.rte o
  | srw reg o => exact Laws.Parts.srw reg o
  | mapld o => exact Laws.Parts.mapld o
  | tlbi form o => exact Laws.Parts.tlbi form o
  | _ => exact Laws.Parts.of_none rfl

theorem encode_eq_some_iff (i : Instr) (w : SlotWord) :
    encode i = some w ↔ ∃ opc m o, partsOf i = some (opc, m, o) ∧ packWord opc m o = w := by
  simp [encode]

theorem wellFormed_of_parts {i : Instr} {opc : Nat} {m : BitVec 12} {o : Fields} (h : partsOf i = some (opc, m, o))
    (e : EntryEnv) : wellFormed e i = true ↔
      o.guard ≠ ⟨true, 7⟩ ∧ ∃ f, formOf opc m o = some f ∧ firstOf5to9 e opc f o = 0 := by
  unfold wellFormed
  rw [h]
  cases hf : formOf opc m o <;> simp [hf]

/-- Settles O1: an instruction and its word have the same parts, and the decoder tests exactly them. -/
theorem decodeAndEncodeAgree : Obligations.DecodeAndEncodeAgree := by
  unfold Obligations.DecodeAndEncodeAgree
  refine ⟨fun e i w hwf henc => ?decodes, fun e w i hdec => ?encodes⟩
  case decodes =>
    obtain ⟨opc, m, o, hparts, rfl⟩ := (encode_eq_some_iff i w).mp henc
    obtain ⟨hguard, f, hform, htests⟩ := (wellFormed_of_parts hparts e).mp hwf
    obtain ⟨hopc, hbuild⟩ := parts_statement i opc m o hparts
    rw [decodeSlot_eq_ok_iff, rawOf_packWord (by omega)]
    exact ⟨show opc / 64 ≠ 15 by omega, mt (guardCode_eq_fifteen_iff _).mp hguard, o, f, fieldsOf_rawOfParts opc m o, hform,
      htests, hbuild⟩
  case encodes =>
    obtain ⟨-, hg, o, f, hfields, hform, htests, hbuild⟩ := (decodeSlot_eq_ok_iff e w i).mp hdec
    obtain ⟨h6, h7⟩ := firstOf5to9_eq_zero htests
    have hparts := partsOf_of_buildInstr hform h6 h7 hbuild
    refine ⟨(encode_eq_some_iff i w).mpr ⟨_, _, o, hparts, packWord_rawOf hfields⟩,
      (wellFormed_of_parts hparts e).mpr ⟨fun hguard => hg ?_, f, hform, htests⟩⟩
    rw [← guardCode_of_fieldsOf hfields, (guardCode_eq_fifteen_iff _).mpr hguard]

end Sys2Proof.Machine
end

/-! SUPPORT. The step (R25, R31, R342): what is due at a turn within a clause, and what a step makes of each turn. -/

section
namespace Sys2Proof.Machine

/-- Settles O2: each word is decoded by computation. -/
theorem specWordsDecode : Obligations.SpecWordsDecode := by
  unfold Obligations.SpecWordsDecode
  exact ⟨by rfl, by rfl, by rfl, by rfl, by rfl⟩

/-- Settles O5: the reset state is empty, and an empty memory reads its default everywhere. -/
theorem resetIsEmpty : Obligations.ResetIsEmpty := by
  unfold Obligations.ResetIsEmpty
  exact ⟨rfl, rfl, rfl, rfl, Memories.wf_reset, fun _ => rfl, fun _ _ => rfl, fun _ _ => rfl⟩

/-! ### What is due within a clause -/

/-- The group is resident, in its clause, and neither stopped nor about to stop or end (R233, R437). -/
structure Group.Runs (g : Group) : Prop where
  gid : g.gid ≠ 0
  resident : g.resident = true
  stopped : g.stopped = false
  stopReq : g.stopReq = false
  inClause : g.inClause = true
  lives : g.expired = false ∨ g.stall = none

variable {s : State}

theorem due_eq_dueSlot (h : s.cur.Runs) : s.due = s.dueSlot := by
  have hend : (s.cur.expired && s.cur.alive && s.cur.canEnd) = false := by
    rcases h.lives with he | hs
    · simp [he]
    · simp [Group.canEnd, h.inClause, hs]
  simp [State.due, h.gid, h.resident, h.stopped, h.inClause, hend]

theorem slotInstr_of_ok {n : Nat} {i : Instr} (h : decodeSlot EntryEnv.all (lineSlot s.cur.line n) = .ok i) :
    s.slotInstr n = some i := by
  rw [State.slotInstr, h]

theorem isSome_partsOf_of_decodeSlot {e : EntryEnv} {w : SlotWord} {i : Instr} (h : decodeSlot e w = .ok i) :
    (partsOf i).isSome = true := by
  obtain ⟨opc, m, o, hparts, -⟩ := (encode_eq_some_iff i w).mp (decodeAndEncodeAgree.2 e w i h).1
  rw [hparts]
  rfl

/-- A breakpoint that names no point of the issue, or whose stop has been passed, stops nothing (R436). -/
theorem not_stopsAtBreakpoint {pcs : List DWord} (h : s.breaks s.cur pcs = false ∨ s.cur.passed = true) :
    ¬ (s.breaks s.cur pcs && !s.cur.passed) = true := by
  rcases h with h | h <;> simp [h]

theorem due_eq_run {i : Instr} (h : s.cur.Runs)
    (hpair : (pairFirsts (linePair s.cur.line)).contains (pcSlot s.cur.pc) = false)
    (hbreak : s.breaks s.cur [s.cur.pc] = false ∨ s.cur.passed = true)
    (hi : s.slotInstr (pcSlot s.cur.pc) = some i) (hhold : s.issueHold i = none) : s.due = .run i := by
  rw [due_eq_dueSlot h, State.dueSlot]
  simp only [hpair, Bool.false_eq_true, if_false, if_neg (not_stopsAtBreakpoint hbreak), hi, hhold]

theorem due_eq_pair {i j : Instr} (h : s.cur.Runs)
    (hpair : (pairFirsts (linePair s.cur.line)).contains (pcSlot s.cur.pc) = true)
    (hbreak : s.breaks s.cur [s.cur.pc, nextPoint s.cur.pc] = false ∨ s.cur.passed = true)
    (hi : s.slotInstr (pcSlot s.cur.pc) = some i) (hj : s.slotInstr (pcSlot s.cur.pc + 1) = some j)
    (hholdi : s.issueHold i = none) (hholdj : s.issueHold j = none) : s.due = .pair i j := by
  rw [due_eq_dueSlot h, State.dueSlot]
  simp only [hpair, if_true, if_neg (not_stopsAtBreakpoint hbreak), hi, hj, hholdi, hholdj, h.stopReq, Bool.false_eq_true,
    if_false]

/-! ### What a step makes of a turn -/

/-- The result of an issue with the record that it leaves (R342, R439). -/
def Out.recorded (before : Group) : Out → Out
  | .next t => .next (t.afterIssue before)
  | r => r

/-- The result of a turn once time has passed (log 3). -/
def Out.ticked : Out → Out
  | .next t => .next t.tick
  | r => r

theorem step_eq_ticked_act (s : State) : step s = Out.ticked (act s) := rfl

theorem act_eq_gate_turn (h : s.agenda = []) : act s = s.gate (.issue s.cur.gid) (turn s) := by
  rw [act, h]

theorem turn_eq_issueOne {i : Instr} (hdue : s.due = .run i) (hreq : s.cur.stopReq = false) : turn s = issueOne i s := by
  rw [turn, hdue, hreq]
  rfl

theorem issueOne_eq_recorded {i : Instr} (h : (partsOf i).isSome = true) : issueOne i s = Out.recorded s.cur (exec i s) := by
  unfold issueOne
  cases exec i s <;> simp [Out.recorded, h]

theorem issuePair_eq_recorded {i j : Instr} {t : State} (h : exec i s = .next t) :
    issuePair i j s = Out.recorded s.cur (exec j t) := by
  unfold issuePair
  rw [h]
  dsimp only
  cases exec j t <;> rfl

/-- A turn that has reached no stack in self-refresh stands. -/
theorem gate_next_of_untouched {u : State} (h : u.sweep.touched = []) (t : Turn) : s.gate t (.next u) = .next u := by
  simp [State.gate, State.gateTurn, h]

/-- A step of a group in its clause, at a slot whose instruction is due. -/
theorem step_eq_of_due_run {i : Instr} (hagenda : s.agenda = []) (hrun : s.cur.Runs) (hdue : s.due = .run i)
    (hparts : (partsOf i).isSome = true) :
    step s = Out.ticked (s.gate (.issue s.cur.gid) (Out.recorded s.cur (exec i s))) := by
  rw [step_eq_ticked_act, act_eq_gate_turn hagenda, turn_eq_issueOne hdue hrun.stopReq, issueOne_eq_recorded hparts]

/-- Settles O3: within its clause the group's slot is due, and its turn is the instruction with its record. -/
theorem stepRunsDecodedInstruction : Obligations.StepRunsDecodedInstruction := by
  unfold Obligations.StepRunsDecodedInstruction
  intro s i hagenda hgid hres hstopped hreq hclause hlives hpair hbreak hdec hhold
  have hrun : s.cur.Runs := ⟨hgid, hres, hstopped, hreq, hclause, hlives⟩
  have hstep := step_eq_of_due_run hagenda hrun (due_eq_run hrun hpair hbreak (slotInstr_of_ok hdec) hhold)
    (isSome_partsOf_of_decodeSlot hdec)
  refine ⟨hstep, fun t ht htouched => ?_⟩
  rw [hstep, ht, Out.recorded, gate_next_of_untouched htouched]
  rfl

/-! ### The word placed to run next (log 6) -/

/-- The line that holds one word has no pair, and gives the word back. -/
theorem probeLine_spec {w : Nat} (h : w < 2 ^ 96) :
    pairFirsts (linePair (probeLine w)) = [] ∧ lineSlot (probeLine w) 0 = BitVec.ofNat 96 w := by
  have hline : (probeLine w).toNat = w + 2 ^ 16 * 2 ^ 480 := by
    rw [probeLine, BitVec.toNat_ofNat]
    exact Nat.mod_eq_of_lt (by omega)
  constructor
  · have hpair : linePair (probeLine w) = 0 := by
      simp only [linePair, lineWord, hline, bits]
      omega
    rw [hpair]
    rfl
  · rw [lineSlot, hline]
    refine BitVec.eq_of_toNat_eq ?_
    rw [BitVec.toNat_ofNat, BitVec.toNat_ofNat, bits]
    omega

theorem pcSlot_mkPc {n : Nat} (line : Nat) (h : n < 8) : pcSlot (mkPc line n) = n := by
  rw [pcSlot, mkPc, BitVec.toNat_ofNat, bits]
  omega

/-- The group that `withFetchWord` gives its word. -/
def State.fetchGroup (s : State) : Group := if s.cur.gid = 0 then probeGroup else s.cur

theorem gid_fetchGroup_ne_zero (s : State) : s.fetchGroup.gid ≠ 0 := by
  unfold State.fetchGroup
  split
  · decide
  · assumption

theorem withFetchWord_cur (s : State) (w : Nat) : (s.withFetchWord 96 w).cur = s.fetchGroup.withWord (w % 2 ^ 96) := rfl

theorem runs_withWord {g : Group} (h : g.gid ≠ 0) (w : Nat) : (g.withWord w).Runs :=
  ⟨(Group.setSlot_gid g _).symm ▸ h, rfl, rfl, rfl, rfl, .inr rfl⟩

theorem pc_withWord (g : Group) (w : Nat) : (g.withWord w).pc = mkPc (pcLine g.pc) 0 :=
  congrArg PcSlot.pc (Group.slot_setSlot g _)

theorem passed_withWord (g : Group) (w : Nat) : (g.withWord w).passed = true := by
  have hpassed : (g.withWord w).bpPassed = some (mkPc (pcLine g.pc) 0, BitVec.allOnes 64) := rfl
  simp [Group.passed, hpassed, pc_withWord]

theorem due_withFetchWord {w : Nat} {i : Instr} (hdec : decodeSlot EntryEnv.all (BitVec.ofNat 96 w) = .ok i)
    (hhold : (s.withFetchWord 96 w).issueHold i = none) : (s.withFetchWord 96 w).due = .run i := by
  have hcur := withFetchWord_cur s w
  have hslot : pcSlot (s.withFetchWord 96 w).cur.pc = 0 := by
    rw [hcur, pc_withWord, pcSlot_mkPc _ (by decide)]
  obtain ⟨hpairs, hword⟩ := probeLine_spec (Nat.mod_lt w (Nat.two_pow_pos 96))
  refine due_eq_run (hcur ▸ runs_withWord (gid_fetchGroup_ne_zero s) _) ?_ (.inr (hcur ▸ passed_withWord _ _))
    (slotInstr_of_ok ?_) hhold
  · rw [show linePair (s.withFetchWord 96 w).cur.line = linePair (probeLine (w % 2 ^ 96)) from rfl, hpairs]
    rfl
  · rw [hslot, show (s.withFetchWord 96 w).cur.line = probeLine (w % 2 ^ 96) from rfl, hword, ← hdec]
    congr 1
    exact BitVec.eq_of_toNat_eq (by simp)

/-! ### The front of the agenda (log 1) -/

/-- The result of a turn of the agenda, followed by what an awakened stack has held and by the passing of time. -/
def Out.released : Out → Out
  | .next t => .next t.releaseAll.tick
  | r => r

theorem ticked_take (u : State) (t : Turn) : Out.ticked (u.take t) = Out.released (u.gate t (u.run t)) := by
  unfold State.take
  cases u.gate t (u.run t) <;> rfl

theorem step_of_agenda {t : Turn} {rest : List Turn} (h : s.agenda = t :: rest) (hslice : ∀ core slice, t ≠ .slice core slice) :
    let u : State := { s with agenda := rest }
    step s = Out.released (u.gate t (u.run t)) := by
  intro u
  rw [← ticked_take, step_eq_ticked_act, act, h]
  cases t with
  | slice core slice => exact absurd rfl (hslice core slice)
  | _ => rfl

theorem step_of_slice {core slice gid : Nat} {rest : List Turn} (h : s.agenda = .slice core slice :: rest) :
    let u : State := { s with agenda := rest }
    u.chooses core slice (ready u) = some gid → step s = Out.released (u.gate (.issue gid) (u.run (.issue gid))) := by
  intro u hchooses
  rw [← ticked_take, step_eq_ticked_act, act, h]
  dsimp only
  rw [show State.chooses { s with agenda := rest } core slice (ready { s with agenda := rest }) = some gid from hchooses]

theorem run_event {i : Instr} (h : ∀ core slice, i ≠ .stallSample core slice) (u : State) : u.run (.event i) = exec i u := by
  cases i with
  | stallSample core slice => exact absurd rfl (h core slice)
  | _ => rfl

theorem run_issue {u : State} {gid : Nat} (h : (u.findGroup gid).isSome = true) : u.run (.issue gid) = turn (u.focus gid) :=
  if_pos h

/-- Settles O4: each turn of the agenda is `State.take` of what it runs, and the word that `withFetchWord` places is due. -/
theorem stepRunsOtherTurns : Obligations.StepRunsOtherTurns := by
  unfold Obligations.StepRunsOtherTurns
  refine ⟨fun s w i => ?word, fun s t i j hagenda hgid hres hstopped hreq hclause hlives hpair hbreak hi hj hholdi hholdj ht => ?pair,
    fun s i rest hagenda hsample => ?event, fun s core slice rest hagenda => ?sample,
    fun s core slice gid rest hagenda => ?slice, fun s key link rest => ⟨fun hagenda => ?linkRead, fun hagenda => ?certificates⟩⟩
  case word =>
    intro t hdec hhold
    have hcur : t.cur.Runs := runs_withWord (gid_fetchGroup_ne_zero s) _
    exact step_eq_of_due_run rfl hcur (due_withFetchWord hdec hhold) (isSome_partsOf_of_decodeSlot hdec)
  case pair =>
    have hrun : s.cur.Runs := ⟨hgid, hres, hstopped, hreq, hclause, hlives⟩
    have hdue := due_eq_pair hrun hpair hbreak (slotInstr_of_ok hi) (slotInstr_of_ok hj) hholdi hholdj
    have hturn : turn s = Out.recorded s.cur (exec j t) := by rw [turn, hdue, ← issuePair_eq_recorded ht]
    rw [step_eq_ticked_act, act_eq_gate_turn hagenda, hturn]
    rfl
  case event =>
    intro u
    rw [step_of_agenda hagenda (by simp), run_event hsample]
    rfl
  case sample => exact step_of_agenda hagenda (by simp)
  case slice =>
    intro u hchooses hgroup
    rw [step_of_slice hagenda hchooses, run_issue hgroup]
    rfl
  case linkRead => exact step_of_agenda hagenda (by simp)
  case certificates => exact step_of_agenda hagenda (by simp)

end Sys2Proof.Machine
end

/-! SUPPORT. Operands, lanes, moves and program-counter values (R27, R42, R43, R52, R85 to R90, R115 to R117, R124, R125,
R130). -/

section
/-! ### Operands and lanes (R52 to R54, R85, R87, R88, R124, R125) -/

namespace Sys2Proof.Machine

theorem testBit_bits (x hi lo i : Nat) : (bits x hi lo).testBit i = (decide (i < hi + 1 - lo) && x.testBit (lo + i)) := by
  rw [bits, Nat.testBit_mod_two_pow, Nat.testBit_div_two_pow, Nat.add_comm i lo]

theorem ne_zero_iff_exists_testBit (x : Nat) : x ≠ 0 ↔ ∃ i, x.testBit i = true := by
  refine ⟨Nat.exists_testBit_of_ne_zero, ?_⟩
  rintro ⟨i, hi⟩ rfl
  simp at hi

/-- The quad of a lane holds a lane of the mask (R125). -/
theorem quad_ne_zero_iff (m : LaneMask) (l : Nat) :
    bits m.toNat (l / 4 * 4 + 3) (l / 4 * 4) ≠ 0 ↔ ∃ j, j / 4 = l / 4 ∧ m.getLsbD j = true := by
  simp only [ne_zero_iff_exists_testBit, testBit_bits, Bool.and_eq_true, decide_eq_true_eq]
  constructor
  · rintro ⟨i, hi, hbit⟩
    exact ⟨l / 4 * 4 + i, by omega, hbit⟩
  · rintro ⟨j, hj, hbit⟩
    refine ⟨j - l / 4 * 4, by omega, ?_⟩
    rwa [Nat.add_sub_cancel' (by omega)]

/-- The number whose ones are the places of a test below n. -/
theorem foldl_two_pow (p : Nat → Prop) [DecidablePred p] (n : Nat) :
    let x := (List.range n).foldl (fun x i => if p i then x + 2 ^ i else x) 0
    x < 2 ^ n ∧ ∀ k, x.testBit k = (decide (k < n) && decide (p k)) := by
  induction n with
  | zero => simp
  | succ n ih =>
    obtain ⟨hlt, hbits⟩ := ih
    have hpow : 2 ^ (n + 1) = 2 ^ n + 2 ^ n := by rw [Nat.pow_succ]; omega
    simp only [List.range_succ, List.foldl_append, List.foldl_cons, List.foldl_nil]
    generalize (List.range n).foldl (fun x i => if p i then x + 2 ^ i else x) 0 = x at hlt hbits
    split
    · refine ⟨by omega, fun k => ?_⟩
      rw [Nat.add_comm]
      obtain h | rfl | h := Nat.lt_trichotomy k n
      · rw [Nat.testBit_two_pow_add_gt h, hbits]
        simp [h, Nat.lt_succ_of_lt h]
      · rw [Nat.testBit_two_pow_add_eq, hbits]
        simp [*]
      · rw [Nat.testBit_lt_two_pow (Nat.lt_of_lt_of_le (show 2 ^ n + x < 2 ^ (n + 1) by omega)
          (Nat.pow_le_pow_right (by decide) h))]
        simp [show ¬ k < n + 1 by omega]
    · refine ⟨by omega, fun k => ?_⟩
      rw [hbits]
      obtain rfl | h := eq_or_ne k n
      · simp [*]
      · simp only [show (k < n + 1 ↔ k < n) by omega]

theorem getLsbD_flagClr (g : Group) (k : Nat) :
    (BitVec.ofNat 64 g.flagClr).getLsbD k = true ↔ k < 12 ∧ g.flagCount k = 0 := by
  obtain ⟨-, hbits⟩ := foldl_two_pow (fun n => g.flagCount n = 0) 12
  rw [BitVec.getLsbD_ofNat, Group.flagClr, hbits]
  simp only [Bool.and_eq_true, decide_eq_true_eq]
  omega

theorem getLsbD_segBase (base k : Nat) :
    (BitVec.ofNat 64 (bits base 53 8 * 256)).getLsbD k = (decide (8 ≤ k ∧ k ≤ 53) && base.testBit k) := by
  rw [BitVec.getLsbD_ofNat, show 256 = 2 ^ 8 from rfl, Nat.testBit_mul_two_pow, testBit_bits]
  by_cases h : 8 ≤ k ∧ k ≤ 53
  · simp [h, show k < 64 by omega, show k - 8 < 46 by omega]
  · have : (decide (k ≥ 8) && (decide (k - 8 < 53 + 1 - 8) && base.testBit (8 + (k - 8)))) = false := by
      by_cases h8 : 8 ≤ k
      · simp [show ¬ k - 8 < 46 by omega]
      · simp [h8]
    simp [this, h]

theorem Group.getLsbD_live (g : Group) {l : Nat} (hl : l < 64) : g.live.getLsbD l = true ↔
    g.slot.mask.getLsbD l = true ∧ g.ctrOf l = 0 ∧ g.exited.getLsbD l = false := by
  simp only [Group.live, Group.pathMask, Group.zeroCtr, BitVec.getLsbD_and, BitVec.getLsbD_not, laneSet_getLsbD, hl,
    decide_true, Bool.true_and, Bool.and_eq_true, Bool.not_eq_true', decide_eq_true_eq]
  tauto

theorem Group.getLsbD_helpers (g : Group) {l : Nat} (hl : l < 64) : g.helpers.getLsbD l = true ↔
    g.exited.getLsbD l = true ∧ ∃ j, j / 4 = l / 4 ∧ g.live.getLsbD j = true := by
  rw [← quad_ne_zero_iff]
  simp only [Group.helpers, laneSet_getLsbD, hl, decide_true, Bool.true_and, Bool.and_eq_true, bne_iff_ne]

theorem Group.getLsbD_guardMask (g : Group) (gd : Guard) {l : Nat} (hl : l < 64) :
    (g.guardMask gd).getLsbD l = ((g.readP gd.pred.val).getLsbD l ^^ gd.neg) := by
  unfold Group.guardMask
  cases gd.neg <;> simp [hl]

theorem val64_p_seven (s : State) (imm : Word) {l : Nat} (hl : l < 64) : val64 s imm (.p 7) l = 1 := by
  have h : (s.cur.readP 7).getLsbD l = true := by
    rw [Group.readP_seven, BitVec.getLsbD_allOnes, decide_eq_true hl]
  exact if_pos h

/-- Settles O7: most operands read by definition; the masks and the status registers made of bits are read bit by bit. -/
theorem operandsAndLanes : Obligations.OperandsAndLanes := by
  unfold Obligations.OperandsAndLanes
  refine ⟨fun s imm l => ?operands, fun s imm l => ?status, fun g gd l hl => ?lanes⟩
  case operands =>
    exact ⟨fun _ => rfl, fun _ => rfl, fun _ => rfl, fun _ => rfl, val64_p_seven s imm, fun _ => rfl, rfl, rfl, rfl, rfl, rfl,
      rfl, rfl, rfl, rfl, rfl, rfl, rfl, rfl, rfl, rfl, rfl, fun _ => rfl⟩
  case status =>
    refine ⟨rfl, rfl, rfl, ?place, ?alloc, rfl, rfl, rfl, rfl, getLsbD_flagClr _, rfl,
      fun hon => if_pos hon, getLsbD_segBase _, rfl, rfl, rfl, rfl, rfl⟩
    case place => exact congrArg (BitVec.ofNat 64) (by rw [Group.place]; omega)
    case alloc => exact congrArg (BitVec.ofNat 64) (by omega)
  case lanes =>
    exact ⟨g.getLsbD_live hl, g.getLsbD_helpers hl, g.getLsbD_guardMask gd hl, BitVec.getLsbD_and,
      by rw [Group.computing, BitVec.getLsbD_and, BitVec.getLsbD_or]⟩

end Sys2Proof.Machine
end

section
/-! ### Moves (R115 to R117) -/

namespace Sys2Proof.Machine

variable {m : LaneMod} {o : Fields} {s : State}

theorem exec_amov (m : LaneMod) (o : Fields) (s : State) : exec (.amov m o) s = execAmov m o s := rfl

theorem append_eq_shiftLeft_or (x y : Word) : x ++ y = x.setWidth 64 <<< 32 ||| y.setWidth 64 := by
  refine BitVec.eq_of_getLsbD_eq fun i hi => ?_
  rw [BitVec.getLsbD_append, BitVec.getLsbD_or, BitVec.getLsbD_shiftLeft, BitVec.getLsbD_setWidth, BitVec.getLsbD_setWidth]
  by_cases hlow : i < 32
  · simp [hlow, hi]
  · simp [hlow, hi, BitVec.getLsbD_of_ge y i (Nat.le_of_not_lt hlow), show i - 32 < 64 by omega]

/-- The pair of scalars that `amov` writes from an address (R117). -/
theorem exec_amov_pair {n : Fin 64} (hsub : m.sub = 2) (hd : o.d = .s n) : exec (.amov m o) s
    = .next (State.advance { s with cur := if s.cur.acts o.guard
        then (s.cur.writeS n.val ((val64 s o.imm o.a 0).setWidth 32)).writeS (n.val + 1) ((val64 s o.imm o.a 0 >>> 32).setWidth 32)
        else s.cur }) := by
  rw [exec_amov, execAmov, if_pos hsub, hd]
  cases hacts : s.cur.acts o.guard <;> rfl

/-- Settles O13: the moves are lane steps or writes of an address register, and one form of `amov` writes two scalars. -/
theorem moves : Obligations.Moves := by
  unfold Obligations.Moves
  intro m o s
  have same3 {i : Instr} {f : Word → Word → Word → Word} (h : exec i s = lane3 s o f) : Lands3 i o s f :=
    lands3_of_lane3 h fun _ _ _ => rfl
  refine ⟨lands1_of_lane1 (f := fun x => x) rfl fun _ => rfl, same3 rfl, same3 rfl,
    lands_of_laneStep rfl, fun hsub => landsAddr_of_writeAddr ?whole, fun k hsub ha => landsAddr_of_writeAddr ?joined,
    fun n hsub hd => ⟨_, exec_amov_pair hsub hd, ?frame, fun k => ?pair⟩⟩
  case whole =>
    rw [exec_amov, execAmov, if_neg (by rw [hsub]; decide), if_neg (by rw [hsub]; decide)]
  case joined =>
    rw [exec_amov, execAmov, if_neg (by rw [hsub]; decide), if_pos hsub, ha, append_eq_shiftLeft_or]
  case frame => split <;> rfl
  case pair =>
    cases s.cur.acts o.guard with
    | false => simp
    | true =>
      simp only [if_true, true_and, Group.readS_writeS]
      by_cases hk : k = n.val
      · simp [hk]
      · simp [hk]

end Sys2Proof.Machine
end

section
/-! ### Program-counter values (R27, R90, R130) -/

namespace Sys2Proof.Machine

theorem isPc_iff (x : DWord) : isPc x = true ↔ x.toNat < 2 ^ 54 ∧ x.toNat / 8 % 8 = 0 ∧ x.toNat % 8 < 5 := by
  have hx := x.isLt
  simp only [isPc, Bool.and_eq_true, beq_iff_eq, decide_eq_true_eq]
  simp only [bits]
  omega

theorem toNat_mkPc {line slot : Nat} (h : slot < 8) : (mkPc line slot).toNat = line % 2 ^ 54 / 64 * 64 + slot := by
  rw [mkPc, BitVec.toNat_ofNat]
  exact Nat.mod_eq_of_lt (by omega)

theorem isPc_mkPc (line : Nat) {slot : Nat} (h : slot < 5) : isPc (mkPc line slot) = true := by
  rw [isPc_iff, toNat_mkPc (by omega)]
  omega

/-- A line address that is a multiple of 64 stands in the value that is made of it, modulo 2^54. -/
theorem pcLine_mkPc {line slot : Nat} (hline : line % 64 = 0) (h : slot < 8) : pcLine (mkPc line slot) = line % 2 ^ 54 := by
  rw [pcLine, toNat_mkPc h, bits]
  omega

theorem pcLine_lt (x : DWord) : pcLine x < 2 ^ 54 := by
  rw [pcLine, bits]
  omega

theorem pcLine_mod (x : DWord) : pcLine x % 64 = 0 := Nat.mul_mod_left _ _

theorem nextPoint_of_lt {x : DWord} (h : pcSlot x < 4) : nextPoint x = mkPc (pcLine x) (pcSlot x + 1) := if_pos h

theorem nextPoint_of_not_lt {x : DWord} (h : ¬ pcSlot x < 4) : nextPoint x = mkPc (pcLine x + 64) 0 := if_neg h

/-- The offset in lines of a direct target is the immediate without its slot (R90). -/
theorem sext_line_eq (imm : Word) : sext (bits imm.toNat 31 3) 29 = (imm.sshiftRight 3).toInt := by
  have h := imm.isLt
  rw [BitVec.toInt_sshiftRight, BitVec.toInt_eq_toNat_cond, sext, bits, Int.shiftRight_eq_div_pow]
  split_ifs <;> omega

theorem toNat_emod_two_pow_line (k n : Int) : ((((k + 64 * n) % (2 ^ 54 : Nat)).toNat : Nat) : Int) = (k + 64 * n) % 2 ^ 54 := by
  omega

/-- Settles O18: both values are made by `mkPc` of a line address that is a multiple of 64. -/
theorem nextPointAndDirectTarget : Obligations.NextPointAndDirectTarget := by
  unfold Obligations.NextPointAndDirectTarget
  intro x imm hpc
  have hline := pcLine_mod x
  have hlt := pcLine_lt x
  refine ⟨fun hslot => ?within, fun hslot => ?wrap, ?nextIsPc, fun himm => ?target⟩
  case within =>
    rw [nextPoint_of_lt hslot, pcLine_mkPc hline (by omega), pcSlot_mkPc _ (by omega)]
    exact ⟨Nat.mod_eq_of_lt hlt, rfl⟩
  case wrap =>
    rw [nextPoint_of_not_lt (by omega), pcLine_mkPc (by omega) (by decide), pcSlot_mkPc _ (by decide)]
    exact ⟨rfl, rfl⟩
  case nextIsPc =>
    by_cases hslot : pcSlot x < 4
    · rw [nextPoint_of_lt hslot]
      exact isPc_mkPc _ (by omega)
    · rw [nextPoint_of_not_lt hslot]
      exact isPc_mkPc _ (by decide)
  case target =>
    have hslot : bits imm.toNat 2 0 = imm.toNat % 8 := by rw [bits]; omega
    simp only [directTarget, sext_line_eq, hslot]
    generalize (imm.sshiftRight 3).toInt = n
    refine ⟨?_, pcSlot_mkPc _ (by omega), isPc_mkPc _ himm⟩
    rw [pcLine_mkPc (by omega) (by omega)]
    omega

end Sys2Proof.Machine
end

/-! SUPPORT. Conversion and packing (R66 to R68, R118 to R120). -/

section
/-! ### Patterns of integer formats (R62, R63) -/

namespace Sys2Proof.Machine

theorem wrap_eq_toNat_ofInt (k : Int) (n : Nat) : wrap k n = (BitVec.ofInt n k).toNat :=
  (BitVec.toNat_ofInt k).symm

theorem wrap_lt (k : Int) (n : Nat) : wrap k n < 2 ^ n := by
  rw [wrap_eq_toNat_ofInt]
  exact BitVec.isLt _

theorem intVal_eq {f : Fmt} (hf : 0 < intBits f) (x : Nat) : intVal f x
    = if isSigned f then (BitVec.ofNat (intBits f) x).toInt else (BitVec.ofNat (intBits f) x).toNat := by
  rw [intVal, sext_eq_toInt _ _ hf, BitVec.toNat_ofNat]

theorem intBits_pos (f : Fmt) : 0 < intBits f := by cases f <;> decide

theorem fmtBits_pos (f : Fmt) : 0 < fmtBits f := by cases f <;> decide

/-- A pattern made of an integer reads as the integer taken modulo the format (R67). -/
theorem intVal_wrap (f : Fmt) (k : Int) : intVal f (wrap k (intBits f))
    = if isSigned f then (BitVec.ofInt (intBits f) k).toInt else (BitVec.ofInt (intBits f) k).toNat := by
  rw [intVal_eq (intBits_pos f), wrap_eq_toNat_ofInt, BitVec.ofNat_toNat, BitVec.setWidth_eq]

/-- An integer format of the conversions; `RNS34` is none (R118). -/
def IsInt (f : Fmt) : Prop := floatFmt f = none ∧ f ≠ .rns34

/-- An integer that a format holds is what its pattern reads as (R62, R63). -/
theorem intVal_wrap_of_mem {f : Fmt} (hf : IsInt f) {k : Int} (hlo : intMin f ≤ k) (hhi : k ≤ intMax f) :
    intVal f (wrap k (fmtBits f)) = k := by
  obtain ⟨hfloat, hrns⟩ := hf
  cases f <;> first | (cases hfloat; done) | (exact absurd rfl hrns) | skip
  all_goals
    simp only [intVal, isSigned, intBits, fmtBits, wrap, sext, intMin, intMax, if_true, if_false, Bool.false_eq_true] at *
    omega


/-- An integer brought into a format lies in it (R67, R68). -/
theorem intInto_mem {f : Fmt} (hf : IsInt f) (sat : Bool) (k : Int) :
    intMin f ≤ intInto f sat k ∧ intInto f sat k ≤ intMax f := by
  unfold intInto
  cases sat with
  | true =>
    have h := intMin_le_intMax f
    rw [if_pos rfl]
    omega
  | false =>
    obtain ⟨hfloat, hrns⟩ := hf
    cases f <;> first | (cases hfloat; done) | (exact absurd rfl hrns) | skip
    all_goals
      simp only [intVal, isSigned, intBits, fmtBits, wrap, sext, intMin, intMax, if_true, if_false, Bool.false_eq_true] at *
      omega

/-- The integer that `cvt` brings into a format, as a 32-bit result (R118). -/
theorem ofInt_intInto (f : Fmt) (sat : Bool) (k : Int) : BitVec.ofInt 32 (intInto f sat k)
    = if sat then BitVec.ofInt 32 (if k < intMin f then intMin f else if intMax f < k then intMax f else k)
      else if isSigned f then BitVec.ofInt 32 (BitVec.ofInt (intBits f) k).toInt
      else BitVec.ofNat 32 (BitVec.ofInt (intBits f) k).toNat := by
  rw [intInto, max_min_eq_ite (intMin_le_intMax f), intVal_wrap]
  cases sat with
  | true => rfl
  | false =>
    cases isSigned f with
    | true => rfl
    | false => exact BitVec.ofInt_natCast ..

theorem widen_of_float {f : Fmt} {F : FloatFmt} (h : floatFmt f = some F) (x : Nat) : widen f x = BitVec.ofNat 32 x := by
  rw [widen, h]

/-- An integer of a format spread over 32 bits (R118). -/
theorem widen_wrap_of_mem {f : Fmt} (hf : IsInt f) {k : Int} (hlo : intMin f ≤ k) (hhi : k ≤ intMax f) :
    widen f (wrap k (fmtBits f)) = BitVec.ofInt 32 k := by
  rw [widen, hf.1]
  exact congrArg (BitVec.ofInt 32) (intVal_wrap_of_mem hf hlo hhi)

theorem intMin_nonpos (f : Fmt) : intMin f ≤ 0 := by cases f <;> decide

theorem intMax_nonneg (f : Fmt) : 0 ≤ intMax f := by cases f <;> decide

theorem ofSigned_false_zero (k : Int) :
    ofSigned false k 0 = if k < 0 then .fin true k.natAbs 0 else .fin false k.natAbs 0 := by
  unfold ofSigned
  obtain h | rfl | h := lt_trichotomy k 0
  · simp [h, h.ne]
  · rfl
  · simp [h.ne', not_lt.mpr h.le]

/-- The integer that an element of a format holds (R62, R63). -/
theorem intVal_mod {f : Fmt} (hf : IsInt f) (x : Nat) : intVal f (x % 2 ^ fmtBits f)
    = if isSigned f then (BitVec.ofNat (intBits f) (x % 2 ^ fmtBits f)).toInt else ((x % 2 ^ fmtBits f : Nat) : Int) := by
  rw [intVal_eq (intBits_pos f)]
  cases hs : isSigned f with
  | true => rfl
  | false =>
    have hbits : intBits f = fmtBits f := by cases f <;> first | rfl | cases hs
    rw [if_neg Bool.false_ne_true, if_neg Bool.false_ne_true, BitVec.toNat_ofNat, hbits, Nat.mod_mod]

/-! ### `cvt` by the kinds of its formats (R118) -/

section
variable {G F : Fmt} {r : Rnd} {sat : Bool} {x : Word}

theorem cvtOp_float_float {g f : FloatFmt} (hg : floatFmt G = some g) (hf : floatFmt F = some f) :
    cvtOp G F r sat x = BitVec.ofNat 32 (convFloat g f r sat (floatVal g (x.toNat % 2 ^ fmtBits G))) := by
  simp only [cvtOp, widen_of_float hf, convElem, hg, hf]

theorem cvtOp_int_float {f : FloatFmt} (hg : floatFmt G = none) (hf : floatFmt F = some f) :
    cvtOp G F r sat x = BitVec.ofNat 32 (roundExt f r sat (ofSigned false (intVal G (x.toNat % 2 ^ fmtBits G)) 0)) := by
  simp only [cvtOp, widen_of_float hf, convElem, hg, hf]

theorem cvtOp_float_int {g : FloatFmt} (hg : floatFmt G = some g) (hf : IsInt F) :
    cvtOp G F r sat x = BitVec.ofInt 32 (floatToInt F r sat (floatVal g (x.toNat % 2 ^ fmtBits G))) := by
  simp only [cvtOp, convElem, hg, hf.1]
  generalize floatVal g (x.toNat % 2 ^ fmtBits G) = v
  have hmem : intMin F ≤ floatToInt F r sat v ∧ floatToInt F r sat v ≤ intMax F := by
    match v with
    | .nan => exact ⟨intMin_nonpos F, intMax_nonneg F⟩
    | .inf false => exact ⟨intMin_le_intMax F, le_rfl⟩
    | .inf true => exact ⟨le_rfl, intMin_le_intMax F⟩
    | .fin n m e => exact intInto_mem hf sat _
  exact widen_wrap_of_mem hf hmem.1 hmem.2

theorem cvtOp_int_int (hg : floatFmt G = none) (hf : IsInt F) :
    cvtOp G F r sat x = BitVec.ofInt 32 (intInto F sat (intVal G (x.toNat % 2 ^ fmtBits G))) := by
  simp only [cvtOp, convElem, hg, hf.1]
  exact widen_wrap_of_mem hf (intInto_mem hf sat _).1 (intInto_mem hf sat _).2

end

/-! ### `pack` and `unpack`, bit by bit (R119, R120) -/

theorem testBit_wrap (k : Int) {n i : Nat} (hn : i < n) (h32 : i < 32) :
    (wrap k n).testBit i = (BitVec.ofInt 32 k).getLsbD i := by
  rw [wrap_eq_toNat_ofInt, BitVec.testBit_toNat]
  cases k with
  | ofNat m =>
    rw [Int.ofNat_eq_natCast, BitVec.ofInt_natCast, BitVec.ofInt_natCast, BitVec.getLsbD_ofNat, BitVec.getLsbD_ofNat,
      decide_eq_true hn, decide_eq_true h32]
  | negSucc m =>
    rw [BitVec.ofInt_negSucc_eq_not_ofNat, BitVec.ofInt_negSucc_eq_not_ofNat, BitVec.getLsbD_not, BitVec.getLsbD_not,
      BitVec.getLsbD_ofNat, BitVec.getLsbD_ofNat, decide_eq_true hn, decide_eq_true h32]

/-- A bit of an element in its container: an `I12` is sign-extended over it (R63). -/
theorem testBit_contain {f : Fmt} (hf : f ≠ .rns34) (e : Nat) {i : Nat} (hi : i < fmtBits f) :
    (contain f e).testBit i
      = (if f = .i12 then BitVec.ofInt 32 (intVal .i12 e) else BitVec.ofNat 32 e).getLsbD i := by
  have h32 : i < 32 := hi.trans_le (by cases f <;> first | decide | exact absurd rfl hf)
  unfold contain
  split
  · have h12 : f ≠ .i12 := by rintro rfl; contradiction
    rw [if_neg h12, BitVec.getLsbD_ofNat, decide_eq_true h32, Bool.true_and]
  · split
    · subst f
      exact testBit_wrap _ hi h32
    · have hbits : intBits f = fmtBits f := by cases f <;> first | rfl | contradiction
      rw [intVal_eq (intBits_pos f), hbits, elemBits, BitVec.getLsbD_ofNat, decide_eq_true h32, Bool.true_and]
      split
      · rw [wrap_eq_toNat_ofInt, BitVec.ofInt_toInt, BitVec.testBit_toNat, BitVec.getLsbD_ofNat, decide_eq_true hi,
          Bool.true_and]
      · rw [wrap_eq_toNat_ofInt, BitVec.ofInt_natCast, BitVec.ofNat_toNat, BitVec.setWidth_eq, BitVec.testBit_toNat,
          BitVec.getLsbD_ofNat, decide_eq_true hi, Bool.true_and]

/-- A pair of elements written at its place: every other bit is kept (R119). -/
theorem getLsbD_placePair (f : Fmt) (n : Nat) (old : Word) (x y : Nat) {i : Nat}
    (hi : i < 32) : (placePair f n old x y).getLsbD i
      = if i / (2 * fmtBits f) = n then (if i % (2 * fmtBits f) < fmtBits f then x else y).testBit (i % fmtBits f)
        else old.getLsbD i := by
  have hw := fmtBits_pos f
  simp only [placePair, elemBits]
  generalize fmtBits f = w at *
  have hplace : (2 * w * n ≤ i ∧ i - 2 * w * n < 2 * w) ↔ i / (2 * w) = n := by
    rw [Nat.div_eq_iff (by omega)]
    have : (n + 1) * (2 * w) = 2 * w * n + 2 * w := by ring
    have : n * (2 * w) = 2 * w * n := by ring
    omega
  simp only [BitVec.getLsbD_or, BitVec.getLsbD_and, BitVec.getLsbD_not, BitVec.getLsbD_ofNat, Nat.testBit_mul_two_pow,
    Nat.testBit_two_pow_sub_one, hi, decide_true, Bool.true_and]
  by_cases hin : i / (2 * w) = n
  · obtain ⟨hlo, hlt⟩ := hplace.mpr hin
    have hmod : i % (2 * w) = i - 2 * w * n := by
      rw [← hin]
      exact Nat.mod_eq_sub ..
    have hmodw : i % w = if i - 2 * w * n < w then i - 2 * w * n else i - 2 * w * n - w := by
      rw [← Nat.mod_mod_of_dvd i (Dvd.intro_left 2 rfl : w ∣ 2 * w), hmod]
      split
      · exact Nat.mod_eq_of_lt ‹_›
      · rw [Nat.mod_eq_sub_mod (by omega), Nat.mod_eq_of_lt (by omega)]
    rw [if_pos hin, hmod, hmodw]
    simp only [hlo, hlt, decide_true, Bool.true_and, Bool.not_true, Bool.and_false, Bool.false_or]
    rw [Nat.add_comm, Nat.mul_comm, Nat.testBit_two_pow_mul_add _ (Nat.mod_lt _ (Nat.two_pow_pos w))]
    split
    · rw [Nat.testBit_mod_two_pow, decide_eq_true ‹_›, Bool.true_and]
    · rw [Nat.testBit_mod_two_pow, decide_eq_true (by omega), Bool.true_and]
  · have hout : (decide (i ≥ 2 * w * n) && decide (i - 2 * w * n < 2 * w)) = false := by
      simpa [and_comm] using mt hplace.mp hin
    rw [if_neg hin, hout]
    have hfar (hlo : 2 * w * n ≤ i) : (x % 2 ^ w + y % 2 ^ w * 2 ^ w).testBit (i - 2 * w * n) = false := by
      have hge : ¬ i - 2 * w * n < 2 * w := fun h => hin (hplace.mp ⟨hlo, h⟩)
      refine Nat.testBit_lt_two_pow (Nat.lt_of_lt_of_le ?_ (Nat.pow_le_pow_right (by decide) (not_lt.mp hge)))
      have hx := Nat.mod_lt x (Nat.two_pow_pos w)
      have hy := Nat.mod_lt y (Nat.two_pow_pos w)
      have hfit : y % 2 ^ w * 2 ^ w ≤ (2 ^ w - 1) * 2 ^ w := Nat.mul_le_mul_right _ (by omega)
      rw [Nat.two_mul, Nat.pow_add]
      rw [Nat.sub_one_mul] at hfit
      have := Nat.le_mul_of_pos_left (2 ^ w) (Nat.two_pow_pos w)
      omega
    by_cases hlo : 2 * w * n ≤ i
    · simp [hfar hlo]
    · simp [hlo]

/-- Nothing that is not narrower overflows: an infinity stays one under `rn` without `.sat` (R65, R66). -/
theorem convFloat_rn (g f : FloatFmt) (x : Ext) : convFloat g f .rn false x = roundExt f .rn false x := by
  unfold convFloat
  cases x with
  | inf n => dsimp only; split <;> rfl
  | nan => rfl
  | fin n m e => rfl

theorem unpackOp_of_float {m : LaneMod} {f : FloatFmt} (hf : floatFmt m.fmt = some f) (x : Word) : unpackOp m x
    = BitVec.ofNat 32 (roundExt F32 .rn false
        (floatVal f (x.toNat / 2 ^ (fmtBits m.fmt * m.sub.toNat) % 2 ^ fmtBits m.fmt))) := by
  have hwide : wideOf m.fmt = .f32 := by rw [wideOf, hf]; rfl
  have hf32 : floatFmt .f32 = some F32 := rfl
  simp only [unpackOp, hwide, widen_of_float hf32, convElem, hf, hf32, elemBits, Nat.mod_mod, convFloat_rn]

theorem unpackOp_of_int {m : LaneMod} (hf : floatFmt m.fmt = none) (x : Word) : unpackOp m x
    = BitVec.ofInt 32 (intVal m.fmt (x.toNat / 2 ^ (fmtBits m.fmt * m.sub.toNat) % 2 ^ fmtBits m.fmt)) := by
  have hwide : wideOf m.fmt = .i32 := by rw [wideOf, hf]; rfl
  have hi32 : IsInt .i32 := ⟨rfl, by decide⟩
  simp only [unpackOp, hwide, convElem, hf, hi32.1, elemBits, Nat.mod_mod]
  rw [widen_wrap_of_mem hi32 (intInto_mem hi32 _ _).1 (intInto_mem hi32 _ _).2, ofInt_intInto]
  exact BitVec.ofInt_toInt

/-- Settles O14: `cvt` by the kinds of its two formats, and the two packings bit by bit. -/
theorem conversionAndPacking : Obligations.ConversionAndPacking := by
  unfold Obligations.ConversionAndPacking
  refine ⟨?cvt, ?pack⟩
  case cvt =>
    intro m o s G hG hGr hFr F elem int into
    have hinto (k : Int) : BitVec.ofInt 32 (intInto F m.sat k) = into k := ofInt_intInto F m.sat k
    refine lands1_of_lane1 (f := cvtOp G F m.rnd m.sat) (by rw [hG]; rfl) fun x => ?_
    have hint (hg : floatFmt G = none) : intVal G (x.toNat % 2 ^ fmtBits G) = int x := intVal_mod ⟨hg, hGr⟩ _
    cases hg : floatFmt G with
    | some g =>
      cases hf : floatFmt F with
      | some f => exact cvtOp_float_float hg hf
      | none =>
        rw [cvtOp_float_int hg ⟨hf, hFr⟩]
        dsimp only
        rw [show x.toNat % 2 ^ fmtBits G = elem x from rfl]
        match floatVal g (elem x) with
        | .nan => rfl
        | .inf true => rfl
        | .inf false => rfl
        | .fin n man exp => exact hinto _
    | none =>
      cases hf : floatFmt F with
      | some f => rw [cvtOp_int_float hg hf, hint hg, ofSigned_false_zero]
      | none => rw [cvtOp_int_int hg ⟨hf, hFr⟩, hint hg, hinto]
  case pack =>
    intro m o s hfmt w n W
    have hrns : m.fmt ≠ .rns34 := by rintro h; rw [h] at hfmt; exact absurd hfmt (by decide)
    refine ⟨fun _ => ⟨packOp m, lands_of_laneStep rfl, fun old x y i hi => ?bit⟩, fun _ => ?unpack⟩
    case bit =>
      have hmod : i % w < fmtBits m.fmt := Nat.mod_lt _ (fmtBits_pos m.fmt)
      rw [packOp, getLsbD_placePair m.fmt _ _ _ _ hi]
      refine if_congr Iff.rfl ?_ rfl
      dsimp only
      split <;> exact testBit_contain hrns _ hmod
    case unpack =>
      refine lands1_of_lane1 (f := unpackOp m) rfl fun x => ?_
      cases hf : floatFmt m.fmt with
      | some f => exact unpackOp_of_float hf x
      | none => exact unpackOp_of_int hf x

end Sys2Proof.Machine
end

/-! SUPPORT. The special and the exact values of the transcendental functions (R122). -/

section
namespace Sys2Proof.Machine

/-! ### Exact results in every rounding mode -/

section
variable (r : Rnd) (sat : Bool)

theorem roundApprox_nan : roundApprox r sat (.exact .nan) = 0x7FC00000 := rfl

theorem roundApprox_inf (n : Bool) : roundApprox r sat (.exact (.inf n)) = if n then 0xFF800000 else 0x7F800000 := by
  cases n <;> rfl

theorem roundApprox_zero (n : Bool) (e : Int) :
    roundApprox r sat (.exact (.fin n 0 e)) = if n then 0x80000000 else 0 := by
  cases n <;> rfl

theorem roundApprox_one (n : Bool) : roundApprox r sat (.exact (.fin n 1 0)) = if n then 0xBF800000 else 0x3F800000 := by
  cases r <;> cases sat <;> cases n <;> rfl

end

/-! ### The patterns of R122's table -/

theorem f32_neg_inf : f32 0xFF800000 = .inf true := rfl
theorem f32_neg_zero : f32 0x80000000 = .fin true 0 (-149) := rfl
theorem f32_zero : f32 0 = .fin false 0 (-149) := rfl
theorem f32_pos_inf : f32 0x7F800000 = .inf false := rfl

/-- A row of R122's table holds of a function: its values at the infinities, the zeros and a NaN. -/
theorem transcOp_row (m : LaneMod) {F : Ext → Approx} (hnan : F .nan = .exact .nan) {a b c d : Word}
    (hninf : roundApprox m.rnd m.sat (F (.inf true)) = a) (hnz : roundApprox m.rnd m.sat (F (.fin true 0 (-149))) = b)
    (hz : roundApprox m.rnd m.sat (F (.fin false 0 (-149))) = c) (hpinf : roundApprox m.rnd m.sat (F (.inf false)) = d) :
    transcOp m F 0xFF800000 = a ∧ transcOp m F 0x80000000 = b ∧ transcOp m F 0 = c ∧ transcOp m F 0x7F800000 = d
      ∧ ∀ x : Word, floatVal F32 x.toNat = .nan → transcOp m F x = 0x7FC00000 := by
  simp only [transcOp, f32_neg_inf, f32_neg_zero, f32_zero, f32_pos_inf]
  refine ⟨hninf, hnz, hz, hpinf, fun x hx => ?_⟩
  rw [f32, hx, hnan, roundApprox_nan]

/-- A pattern between -0 and minus infinity is a negative finite value other than zero (R59). -/
theorem f32_of_neg {x : Word} (h : 0x80000000 < x.toNat ∧ x.toNat < 0xFF800000) :
    ∃ man exp, man ≠ 0 ∧ f32 x = .fin true man exp := by
  obtain ⟨hlo, hhi⟩ := h
  have hsign : (bits x.toNat 31 31 == 1) = true := by rw [beq_iff_eq, bits]; omega
  have hfin : ¬ 0x7F7FFFFF < x.toNat % 2 ^ 31 := by omega
  unfold f32 floatVal
  simp only [F32, Nat.reduceAdd, hsign, if_neg hfin]
  split
  case isTrue he =>
    refine ⟨_, _, ?_, rfl⟩
    simp only [bits] at he
    omega
  case isFalse => exact ⟨_, _, by omega, rfl⟩

theorem transcOp_of_neg (m : LaneMod) {F : Ext → Approx} (hF : ∀ man exp, man ≠ 0 → F (.fin true man exp) = .exact .nan)
    {x : Word} (h : 0x80000000 < x.toNat ∧ x.toNat < 0xFF800000) : transcOp m F x = 0x7FC00000 := by
  obtain ⟨man, exp, hman, hx⟩ := f32_of_neg h
  rw [transcOp, hx, hF man exp hman, roundApprox_nan]

/-! ### Negative arguments -/

theorem rsqrtApprox_neg (man : Nat) (exp : Int) (h : man ≠ 0) : rsqrtApprox (.fin true man exp) = .exact .nan := by
  rw [rsqrtApprox, if_neg h, if_pos rfl]

theorem sqrtApprox_neg (man : Nat) (exp : Int) (h : man ≠ 0) : sqrtApprox (.fin true man exp) = .exact .nan := by
  rw [sqrtApprox, if_neg h, if_pos rfl]

theorem lg2Approx_neg (man : Nat) (exp : Int) (h : man ≠ 0) : lg2Approx (.fin true man exp) = .exact .nan := by
  rw [lg2Approx, if_neg h, if_pos rfl]

/-! ### Values that a pattern holds exactly (R122) -/

/-- A function with a value that is one pattern in every mode. -/
theorem transcOp_of_modes {m : LaneMod} {F : Ext → Approx} {x w : Word} (h : ∀ r sat, roundApprox r sat (F (f32 x)) = w) :
    transcOp m F x = w := h _ _

theorem transcOp_rcp_two (m : LaneMod) : transcOp m rcpApprox 0x40000000 = 0x3F000000 :=
  transcOp_of_modes fun r sat => by cases r <;> cases sat <;> decide

theorem transcOp_rsqrt_four (m : LaneMod) : transcOp m rsqrtApprox 0x40800000 = 0x3F000000 :=
  transcOp_of_modes fun r sat => by cases r <;> cases sat <;> decide +kernel

theorem transcOp_sqrt_four (m : LaneMod) : transcOp m sqrtApprox 0x40800000 = 0x40000000 :=
  transcOp_of_modes fun r sat => by cases r <;> cases sat <;> decide +kernel

theorem transcOp_ex2_three (m : LaneMod) : transcOp m ex2Approx 0x40400000 = 0x41000000 :=
  transcOp_of_modes fun r sat => by cases r <;> cases sat <;> decide +kernel

theorem transcOp_lg2_one (m : LaneMod) : transcOp m lg2Approx 0x3F800000 = 0 :=
  transcOp_of_modes fun r sat => by cases r <;> cases sat <;> decide

theorem transcOp_lg2_quarter (m : LaneMod) : transcOp m lg2Approx 0x3E800000 = 0xC0000000 :=
  transcOp_of_modes fun r sat => by cases r <;> cases sat <;> decide

/-! ### Division (R122) -/

/-- The sign bit of a pattern is the sign of its value (R59). -/
theorem sign_of_floatVal {x : Word} {n : Bool} (h : floatVal F32 x.toNat = .inf n ∨ ∃ man exp, floatVal F32 x.toNat = .fin n man exp) :
    x.getLsbD 31 = n := by
  have hbit : (bits x.toNat 31 31 == 1) = x.getLsbD 31 := by
    rw [← BitVec.testBit_toNat, Nat.testBit_eq_decide_div_mod_eq, Bool.beq_eq_decide_eq]
    rfl
  unfold floatVal at h
  simp only [F32, Nat.reduceAdd, hbit] at h
  split_ifs at h <;> simp at h <;> exact h

/-- Settles O15: each function has its row of R122's table by the approximation that it rounds, and exact values by
computation in each rounding mode. -/
theorem transcendentalValues : Obligations.TranscendentalValues := by
  unfold Obligations.TranscendentalValues
  intro m o s nan one pinf ninf nz neg row
  have hrow (F : Ext → Approx) (hnan : F .nan = .exact .nan) {a b c d : Word}
      (hninf : roundApprox m.rnd m.sat (F (.inf true)) = a) (hnz : roundApprox m.rnd m.sat (F (.fin true 0 (-149))) = b)
      (hz : roundApprox m.rnd m.sat (F (.fin false 0 (-149))) = c) (hpinf : roundApprox m.rnd m.sat (F (.inf false)) = d) :
      row (transcOp m F) a b c d nan := transcOp_row m hnan hninf hnz hz hpinf
  have hone (n : Bool) := roundApprox_one m.rnd m.sat n
  have hzero (n : Bool) (e : Int) := roundApprox_zero m.rnd m.sat n e
  have hinf (n : Bool) := roundApprox_inf m.rnd m.sat n
  refine ⟨⟨transcOp m rcpApprox, lands_of_laneStep rfl, hrow rcpApprox rfl (hzero _ _) (hinf _) (hinf _) (hzero _ _), transcOp_rcp_two m⟩,
    ⟨transcOp m rsqrtApprox, lands_of_laneStep rfl, hrow rsqrtApprox rfl rfl (hinf _) (hinf _) (hzero _ _),
      fun x hx => transcOp_of_neg m rsqrtApprox_neg hx, transcOp_rsqrt_four m⟩,
    ⟨transcOp m sqrtApprox, lands_of_laneStep rfl, hrow sqrtApprox rfl rfl (hzero _ _) (hzero _ _) (hinf _),
      fun x hx => transcOp_of_neg m sqrtApprox_neg hx, transcOp_sqrt_four m⟩,
    ⟨transcOp m ex2Approx, lands_of_laneStep rfl, hrow ex2Approx rfl (hzero _ _) (hone _) (hone _) (hinf _), transcOp_ex2_three m⟩,
    ⟨transcOp m lg2Approx, lands_of_laneStep rfl, hrow lg2Approx rfl rfl (hinf _) (hinf _) (hinf _),
      fun x hx => transcOp_of_neg m lg2Approx_neg hx, transcOp_lg2_one m, transcOp_lg2_quarter m⟩,
    ⟨transcOp m sinApprox, lands_of_laneStep rfl, hrow sinApprox rfl rfl (hzero _ _) (hzero _ _) rfl⟩,
    ⟨transcOp m cosApprox, lands_of_laneStep rfl, hrow cosApprox rfl rfl (hone _) (hone _) rfl⟩,
    ⟨transcOp m tanhApprox, lands_of_laneStep rfl, hrow tanhApprox rfl (hone _) (hzero _ _) (hzero _ _) (hone _)⟩,
    lands_of_laneStep rfl,
    ⟨fun x y => roundApprox m.rnd m.sat (fdivApprox (f32 x) (f32 y)), lands_of_laneStep rfl, fun x y => ?fdiv⟩⟩
  intro sign inf zero
  have hinfSign {n : Bool} (h : sign = n) : roundApprox m.rnd m.sat (.exact (.inf n)) = inf := by rw [hinf, ← h]
  have hzeroSign {n : Bool} {e : Int} (h : sign = n) : roundApprox m.rnd m.sat (.exact (.fin n 0 e)) = zero := by
    rw [hzero, ← h]
  beta_reduce
  unfold f32
  have hsx := @sign_of_floatVal x
  have hsy := @sign_of_floatVal y
  cases hx : floatVal F32 x.toNat with
  | nan => rfl
  | inf a =>
    cases hy : floatVal F32 y.toNat with
    | nan => rfl
    | inf b => rfl
    | fin b man exp =>
      have hsign : sign = (a != b) := by rw [← hsx (.inl hx), ← hsy (.inr ⟨_, _, hy⟩)]
      exact hinfSign hsign
  | fin a man exp =>
    cases hy : floatVal F32 y.toNat with
    | nan => rfl
    | inf b =>
      have hsign : sign = (a != b) := by rw [← hsx (.inr ⟨_, _, hx⟩), ← hsy (.inl hy)]
      exact hzeroSign hsign
    | fin b man' exp' =>
      have hsign : sign = (a != b) := by rw [← hsx (.inr ⟨_, _, hx⟩), ← hsy (.inr ⟨_, _, hy⟩)]
      refine ⟨fun hb ha => ?_, fun hb ha => ?_, fun hb ha => ?_⟩
      · simp only [fdivApprox, if_pos hb, if_pos ha]
        rfl
      · simp only [fdivApprox, if_pos hb, if_neg ha]
        exact hinfSign hsign
      · simp only [fdivApprox, if_neg hb, if_pos ha]
        exact hzeroSign hsign

end Sys2Proof.Machine
end

/-! SUPPORT. Votes, shuffles and reductions (R141 to R148). -/

section
/-! ### Masks of lanes -/

namespace Sys2Proof.Machine

theorem getLsbD_members (s : State) (o : Fields) (x : Opnd) {l : Nat} (hl : l < 64) : (members s o x).getLsbD l
    = if val64 s o.imm x 0 = 0 then !s.cur.exited.getLsbD l else (val64 s o.imm x 0).getLsbD l := by
  unfold members
  dsimp only
  split
  · rw [Group.present, BitVec.getLsbD_not, decide_eq_true hl, Bool.true_and]
  · rfl

theorem and_eq_zero_iff (m n : LaneMask) : m &&& n = 0 ↔ ∀ l < 64, m.getLsbD l = true → n.getLsbD l = false := by
  rw [mask_eq_zero_iff]
  refine forall₂_congr fun l _ => ?_
  rw [BitVec.getLsbD_and]
  cases m.getLsbD l <;> simp

/-! ### Stale predicates (R140) -/

theorem eq_withCur_of_eq {s t : State} {g : Group} (h : t = { s with cur := g }) : t = { s with cur := t.cur } := by
  subst h
  rfl

theorem writeResult_eq_withCur (s : State) (o : Fields) (f : Nat → Word) :
    writeResult s o f = { s with cur := (writeResult s o f).cur } :=
  eq_withCur_of_eq (writeResult_state s o f)

theorem writeAddr_eq_withCur (s : State) (o : Fields) (x : DWord) :
    writeAddr s o x = { s with cur := (writeAddr s o x).cur } := by
  unfold writeAddr
  cases o.d with
  | a n => dsimp only; split <;> rfl
  | _ => rfl

theorem writeStale_zero {m : CrossMod} (h : m.st = 0) (eff x : LaneMask) (s : State) : writeStale m eff x s = s := if_pos h

theorem writeStale_of_ne {m : CrossMod} (h : m.st ≠ 0) (eff x : LaneMask) (s : State) :
    writeStale m eff x s = { s with cur := s.cur.writeP (m.st.toNat - 8) eff x } := if_neg h

theorem Group.writeP_frame (g : Group) (n : Nat) (k x : LaneMask) :
    g.writeP n k x = { g with p := (g.writeP n k x).p } := by
  unfold Group.writeP
  split <;> rfl

/-- An instruction that names a stale predicate does what it does without one, and then the lanes that take effect write the
predicate (R97, R140). -/
def Staled (i : CrossMod → Instr) (m : CrossMod) (s : State) (eff : Nat → Bool) (stale : Nat → Prop) : Prop :=
  8 ≤ m.st.toNat → m.st.toNat < 15 → ∃ g h : Group,
    exec (i { m with st := 0 }) s = .next (State.advance { s with cur := g })
    ∧ exec (i m) s = .next (State.advance { s with cur := h }) ∧ h = { g with p := h.p }
    ∧ ∀ n l, l < 64 → ((n = m.st.toNat - 8 ∧ eff l = true) → ((h.readP n).getLsbD l = true ↔ stale l))
      ∧ (¬ (n = m.st.toNat - 8 ∧ eff l = true) → (h.readP n).getLsbD l = (g.readP n).getLsbD l)

theorem staled_of_writeStale {i : CrossMod → Instr} {m : CrossMod} {s u : State} {eff x : LaneMask} {stale : Nat → Prop}
    (hu : u = { s with cur := u.cur }) (hexec : ∀ st, exec (i { m with st := st }) s = .next (writeStale { m with st := st } eff x u).advance)
    (hx : ∀ l < 64, x.getLsbD l = true ↔ stale l) : Staled i m s (fun l => eff.getLsbD l) stale := by
  intro hlo hhi
  have hst : m.st ≠ 0 := by intro h; rw [h] at hlo; exact absurd hlo (by decide)
  refine ⟨u.cur, u.cur.writeP (m.st.toNat - 8) eff x, ?_, ?_, Group.writeP_frame .., fun n l hl => ?_⟩
  · rw [hexec, writeStale_zero rfl, ← hu]
  · rw [hexec m.st, writeStale_of_ne hst]
    conv_lhs => rw [hu]
  · rw [Group.readP_writeP]
    refine ⟨fun h => ?_, fun h => ?_⟩
    · rw [if_pos ⟨h.1, by omega, h.2⟩]
      exact hx l hl
    · rw [if_neg fun h' => h ⟨h'.1, h'.2.2⟩]

/-! ### `vote` (R144) -/

/-- The lanes whose value counts in a vote: those that take effect and whose source is not zero. -/
def voters (s : State) (o : Fields) : LaneMask := s.cur.effect o.guard &&& laneSet fun j => val s o.imm o.a j ≠ 0

/-- The value of a vote (R144). -/
def voteValue (m : CrossMod) (s : State) (o : Fields) : DWord :=
  match m.fn.toNat with
  | 0 => if members s o o.b &&& ~~~voters s o = 0 then 1 else 0
  | 1 => if members s o o.b &&& voters s o = 0 then 0 else 1
  | 2 => members s o o.b &&& voters s o
  | _ => BitVec.ofNat 64 (countOnes 64 (members s o o.b &&& voters s o).toNat)

/-- The state once a vote has written its destination. -/
def voteWritten (m : CrossMod) (s : State) (o : Fields) : State :=
  match o.d with
  | .a _ => writeAddr s o (voteValue m s o)
  | _ => writeResult s o fun _ => (voteValue m s o).setWidth 32

/-- The mask that a vote writes to its stale predicate: all ones where a member is not live (R140). -/
def voteStale (s : State) (o : Fields) : LaneMask :=
  if members s o o.b &&& ~~~s.cur.live = 0 then 0 else BitVec.allOnes 64

theorem exec_vote (m : CrossMod) (o : Fields) (s : State) : exec (.vote m o) s
    = .next (writeStale m (s.cur.effect o.guard) (voteStale s o) (voteWritten m s o)).advance := rfl

theorem voteWritten_eq_withCur (m : CrossMod) (s : State) (o : Fields) :
    voteWritten m s o = { s with cur := (voteWritten m s o).cur } := by
  unfold voteWritten
  cases o.d with
  | a n => exact writeAddr_eq_withCur ..
  | _ => exact writeResult_eq_withCur ..

section
variable {m : CrossMod} {o : Fields} {s : State} (hst : m.st = 0)
include hst

theorem exec_vote_of_not_addr (hd : ∀ n, o.d ≠ .a n) :
    exec (.vote m o) s = laneStep s o fun _ => (voteValue m s o).setWidth 32 := by
  rw [exec_vote, writeStale_zero hst, voteWritten]
  split
  · exact absurd ‹_› (hd _)
  · rfl

theorem exec_vote_of_addr {n : Fin 16} (hd : o.d = .a n) :
    exec (.vote m o) s = .next (writeAddr s o (voteValue m s o)).advance := by
  rw [exec_vote, writeStale_zero hst, voteWritten, hd]

end

theorem voteStale_iff (s : State) (o : Fields) {l : Nat} (hl : l < 64) : (voteStale s o).getLsbD l = true ↔
    ∃ j < 64, (members s o o.b).getLsbD j = true ∧ s.cur.live.getLsbD j = false := by
  unfold voteStale
  split
  case isTrue h =>
    rw [and_not_eq_zero_iff] at h
    refine ⟨fun h' => absurd (h'.symm.trans BitVec.getLsbD_zero) (by decide), ?_⟩
    rintro ⟨j, hj, hmem, hlive⟩
    rw [h j hj hmem] at hlive
    exact absurd hlive (by decide)
  case isFalse h =>
    rw [and_not_eq_zero_iff] at h
    rw [BitVec.getLsbD_allOnes, decide_eq_true hl]
    simpa using h

theorem voteValue_all {m : CrossMod} (h : m.fn = 0) (s : State) (o : Fields) :
    (voteValue m s o).setWidth 32 = (if members s o o.b &&& ~~~voters s o = 0 then 1 else 0 : Word) := by
  have hv : voteValue m s o = if members s o o.b &&& ~~~voters s o = 0 then 1 else 0 := by
    rw [voteValue, h]
    rfl
  rw [hv]
  split <;> rfl

theorem voteValue_any {m : CrossMod} (h : m.fn = 1) (s : State) (o : Fields) :
    (voteValue m s o).setWidth 32 = (if members s o o.b &&& voters s o = 0 then 0 else 1 : Word) := by
  have hv : voteValue m s o = if members s o o.b &&& voters s o = 0 then 0 else 1 := by
    rw [voteValue, h]
    rfl
  rw [hv]
  split <;> rfl

theorem voteValue_mask {m : CrossMod} (h : m.fn = 2) (s : State) (o : Fields) :
    voteValue m s o = members s o o.b &&& voters s o := by
  rw [voteValue, h]
  rfl

theorem voteValue_count {m : CrossMod} (h : m.fn = 3) (s : State) (o : Fields) : (voteValue m s o).setWidth 32
    = BitVec.ofNat 32 ((List.range 64).countP fun l => (members s o o.b &&& voters s o).getLsbD l) := by
  rw [voteValue, h]
  refine (BitVec.setWidth_ofNat_of_le (by decide) _).trans (congrArg _ ?_)
  exact countOnes_eq_countP ..

/-! ### `shfl` (R145) -/

/-- The lane from which lane l takes its value in a `shfl` (R145). -/
def shflFrom (m : CrossMod) (s : State) (o : Fields) (l : Nat) : Nat :=
  shflLane m (val s o.imm o.b l).toNat l (val64 s o.imm o.c 0)

theorem exec_shfl (m : CrossMod) (o : Fields) (s : State) (st : BitVec 4) : exec (.shfl { m with st := st } o) s
    = .next (writeStale { m with st := st } (s.cur.effect o.guard) (laneSet fun l => !s.cur.live.getLsbD (shflFrom m s o l))
        (writeResult s o fun l => crossSrc s o (shflFrom m s o l))).advance := rfl

/-! ### `lred` (R146) -/

theorem length_pairUp (f : Word → Word → Word) (n : Nat) (l : List Word) (h : l.length = 2 * n) : (pairUp f l).length = n := by
  induction n generalizing l with
  | zero =>
    obtain rfl := List.length_eq_zero_iff.mp h
    rfl
  | succ n ih =>
    match l, h with
    | a :: b :: t, h => exact congrArg Nat.succ (ih t (by simpa [Nat.mul_succ] using h))

theorem getD_pairUp (f : Word → Word → Word) (l : List Word) (i : Nat) (h : 2 * i + 1 < l.length) :
    (pairUp f l).getD i 0 = f (l.getD (2 * i) 0) (l.getD (2 * i + 1) 0) := by
  induction i generalizing l with
  | zero =>
    match l, h with
    | a :: b :: t, _ => rfl
  | succ i ih =>
    match l, h with
    | a :: b :: t, h => exact ih t (by simp only [List.length_cons] at h; omega)

/-- Level k of the tree over 64 positions (R146). -/
def treeLevel (f : Word → Word → Word) (l : List Word) (k : Nat) : List Word := (pairUp f)^[k] l

theorem treeLevel_succ (f : Word → Word → Word) (l : List Word) (k : Nat) :
    treeLevel f l (k + 1) = pairUp f (treeLevel f l k) := Function.iterate_succ_apply' ..

theorem length_treeLevel (f : Word → Word → Word) {n : Nat} {l : List Word} (h : l.length = 2 ^ n) {k : Nat} (hk : k ≤ n) :
    (treeLevel f l k).length = 2 ^ (n - k) := by
  induction k with
  | zero => exact h
  | succ k ih =>
    rw [treeLevel_succ]
    refine length_pairUp f _ _ ?_
    rw [ih (by omega), ← Nat.pow_succ']
    congr 1
    omega

theorem treeReduce_eq (f : Word → Word → Word) (n : Nat) (l : List Word) : treeReduce f n l = (treeLevel f l n).getD 0 0 := by
  induction n generalizing l with
  | zero => cases l <;> rfl
  | succ n ih => exact ih _

theorem minOp_i32 : minOp .i32 = fun x y => if x.toInt < y.toInt then x else y := by
  funext x y
  rw [minOp, ival_i32, ival_i32]

theorem maxOp_i32 : maxOp .i32 = fun x y => if y.toInt < x.toInt then x else y := by
  funext x y
  rw [maxOp, ival_i32, ival_i32]

theorem minOp_u32 : minOp .u32 = fun x y => if x.toNat < y.toNat then x else y := by
  funext x y
  simp only [minOp, ival_u32, Int.ofNat_lt]

theorem maxOp_u32 : maxOp .u32 = fun x y => if y.toNat < x.toNat then x else y := by
  funext x y
  simp only [maxOp, ival_u32, Int.ofNat_lt]

/-- The operations of `lred` and their neutral elements (R146). -/
theorem lredOp_of_mem {m : CrossMod} {f : Word → Word → Word} {e : Word}
    (h : (m.fmt, m.fn.toNat, f, e) ∈ ([(.f32, 0, faddRn, 0x80000000), (.f32, 1, fminOp, 0x7F800000),
      (.f32, 2, fmaxOp, 0xFF800000), (.i32, 0, fun x y => x + y, 0), (.u32, 0, fun x y => x + y, 0),
      (.i32, 1, fun x y => if x.toInt < y.toInt then x else y, 0x7FFFFFFF),
      (.i32, 2, fun x y => if y.toInt < x.toInt then x else y, 0x80000000),
      (.u32, 1, fun x y => if x.toNat < y.toNat then x else y, 0xFFFFFFFF),
      (.u32, 2, fun x y => if y.toNat < x.toNat then x else y, 0),
      (.i32, 3, fun x y => x &&& y, 0xFFFFFFFF), (.u32, 3, fun x y => x &&& y, 0xFFFFFFFF), (.i32, 4, fun x y => x ||| y, 0),
      (.u32, 4, fun x y => x ||| y, 0), (.i32, 5, fun x y => x ^^^ y, 0), (.u32, 5, fun x y => x ^^^ y, 0)] :
        List (Fmt × Nat × (Word → Word → Word) × Word))) : lredOp m = (f, e) := by
  rw [← minOp_i32, ← maxOp_i32, ← minOp_u32, ← maxOp_u32] at h
  simp only [List.mem_cons, Prod.mk.injEq, List.not_mem_nil, or_false] at h
  unfold lredOp
  obtain h | h | h | h | h | h | h | h | h | h | h | h | h | h | h := h
  all_goals
    obtain ⟨hfmt, hfn, rfl, rfl⟩ := h
    rw [hfmt, hfn]
    rfl

/-- The sources of a reduction: the neutral element in a lane that takes no effect (R146). -/
def lredSources (s : State) (o : Fields) (e : Word) : List Word :=
  (List.range 64).map fun i => if (s.cur.effect o.guard).getLsbD i then val s o.imm o.a i else e

theorem exec_lred {m : CrossMod} {f : Word → Word → Word} {e : Word} (h : lredOp m = (f, e)) (o : Fields) (s : State) :
    exec (.lred m o) s = laneStep s o fun _ => treeReduce f 6 (lredSources s o e) := by
  have harm : exec (.lred m o) s = execLred m o s := rfl
  rw [harm, execLred, h]
  rfl

/-! ### `qx` (R147) -/

theorem quadPartner_eq (s : State) (m : CrossMod) (o : Fields) (l : Nat) : quadPartner s m o l
    = if m.fn = 0 then l ^^^ 1 else if m.fn = 1 then l ^^^ 2 else if m.fn = 2 then l ^^^ 3
      else 4 * (l / 4) + (val s o.imm o.b l).toNat % 4 := by
  have hfn (k : BitVec 3) : m.fn = k ↔ m.fn.toNat = k.toNat := BitVec.toNat_inj.symm
  simp only [quadPartner, hfn, Nat.mul_comm 4]
  split
  case h_1 => simp [*]
  case h_2 => simp [*]
  case h_3 => simp [*]
  case h_4 h0 h1 h2 => exact ((if_neg h0).trans ((if_neg h1).trans (if_neg h2))).symm

/-- Settles O16: the votes by their masks, `shfl` and `qx` by their source lanes, `lred` by the levels of its tree. -/
theorem voteShuffleAndReduce : Obligations.VoteShuffleAndReduce := by
  unfold Obligations.VoteShuffleAndReduce
  refine ⟨fun m o s => ?votes, fun m o s => ⟨fun f e hmem => ?lred, ?qx, lands_of_laneStep rfl⟩⟩
  case votes =>
    intro eff member t from_ staled
    have hmember (l : Nat) (hl : l < 64) : (members s o o.b).getLsbD l = member o.b l := getLsbD_members s o o.b hl
    have hvoters (l : Nat) (hl : l < 64) : (members s o o.b &&& voters s o).getLsbD l = t l := by
      rw [voters, BitVec.getLsbD_and, BitVec.getLsbD_and, laneSet_getLsbD, hmember l hl, decide_eq_true hl, Bool.true_and,
        ← Bool.and_assoc]
    have hall : members s o o.b &&& ~~~voters s o = 0 ↔ ((List.range 64).all fun l => !member o.b l || t l) = true := by
      simp only [and_not_eq_zero_iff, List.all_eq_true, List.mem_range]
      refine forall₂_congr fun l hl => ?_
      rw [← hvoters l hl, ← hmember l hl, BitVec.getLsbD_and]
      cases (members s o o.b).getLsbD l <;> simp
    have hany : members s o o.b &&& voters s o = 0 ↔ ((List.range 64).any t) = false := by
      simp only [mask_eq_zero_iff, List.any_eq_false, List.mem_range, Bool.not_eq_true]
      exact forall₂_congr fun l hl => by rw [hvoters l hl]
    have hfrom (l : Nat) : shflFrom m s o l = from_ l := by
      simp only [shflFrom, shflLane, Bool.not_eq_true]
      rfl
    refine ⟨fun hst hd hfn => ?all, fun hst hd hfn => ?any, fun hst hfn hd => ?mask, fun hst hd hfn => ?count, ?voteStale,
      fun hst => ?shfl, ?shflStale⟩
    case all =>
      refine (lands_of_laneStep (exec_vote_of_not_addr hst hd)).congr fun l => ?_
      rw [voteValue_all hfn]
      exact if_congr hall rfl rfl
    case any =>
      refine (lands_of_laneStep (exec_vote_of_not_addr hst hd)).congr fun l => ?_
      rw [voteValue_any hfn, ← ite_not]
      exact if_congr ((not_congr hany).trans (Bool.not_eq_false _).to_iff) rfl rfl
    case mask =>
      obtain ⟨n, hd⟩ := hd
      exact ⟨_, landsAddr_of_writeAddr (exec_vote_of_addr hst hd), fun l hl => by rw [voteValue_mask hfn, hvoters l hl]⟩
    case count =>
      refine (lands_of_laneStep (exec_vote_of_not_addr hst hd)).congr fun l => ?_
      rw [voteValue_count hfn]
      exact congrArg _ (List.countP_congr fun l hl => by rw [hvoters l (List.mem_range.mp hl)])
    case voteStale =>
      refine staled_of_writeStale (i := fun m => .vote m o) (voteWritten_eq_withCur m s o) (fun _ => rfl) fun l hl => ?_
      refine (voteStale_iff s o hl).trans ?_
      exact exists_congr fun j => and_congr_right fun hj => by rw [hmember j hj]
    case shfl =>
      have hexec := (exec_shfl m o s m.st).trans (congrArg (fun t => Host.Outcome.next (State.advance t)) (writeStale_zero hst ..))
      exact (lands_of_laneStep hexec).congr fun l => congrArg (crossSrc s o) (hfrom l)
    case shflStale =>
      refine staled_of_writeStale (i := fun m => .shfl m o) (writeResult_eq_withCur ..) (exec_shfl m o s) fun l hl => ?_
      rw [laneSet_getLsbD, decide_eq_true hl, Bool.true_and, Bool.not_eq_true', hfrom]
  case lred =>
    have hlength : (lredSources s o e).length = 2 ^ 6 := by rw [lredSources, List.length_map, List.length_range]; rfl
    refine ⟨fun k i => (treeLevel f (lredSources s o e) k).getD i 0, fun i hi => ?_, fun k i hk hi => ?_, ?_⟩
    · simp [treeLevel, lredSources, hi]
    · beta_reduce
      rw [treeLevel_succ, getD_pairUp]
      rw [length_treeLevel f hlength (by omega), show 6 - k = 5 - k + 1 by omega, Nat.pow_succ]
      omega
    · refine (lands_of_laneStep (exec_lred (lredOp_of_mem hmem) o s)).congr fun _ => treeReduce_eq ..
  case qx =>
    exact (lands_of_laneStep rfl).congr fun l => by rw [quadPartner_eq]

end Sys2Proof.Machine
end

/-! SUPPORT. How paths split and join (R132, R224, R225, R477), and register grow and shrink (R41, R176, R227, R228). -/

section
/-! ### Paths (R132, R224, R225) -/

namespace Sys2Proof.Machine

theorem exec_brd (o : Fields) (s : State) : exec (.brd o) s = execBrd o s := rfl

/-- The split of a path, once both of its points have been checked (R132). -/
theorem execBrd_of_checked {o : Fields} {s u v : State} (hT : s.cur.effect o.guard ≠ 0)
    (hF : s.cur.pathMask &&& ~~~s.cur.effect o.guard ≠ 0)
    (hu : s.checkTransfer (directTarget s.cur.pc o.imm) = (.ok (), u))
    (hv : u.checkTarget u.cur (nextPoint s.cur.pc) = (.ok (), v)) :
    execBrd o s = .next (v.split (directTarget s.cur.pc o.imm) (nextPoint s.cur.pc) (s.cur.effect o.guard)
      (s.cur.pathMask &&& ~~~s.cur.effect o.guard)) := by
  simp only [execBrd, if_neg hT, if_neg hF, hu, hv]

/-- Where the other slot is free, the lanes that stay behind take it. -/
theorem split_of_free {s : State} (h : s.cur.otherSlot.valid = false) (target next : DWord) (T F : LaneMask) :
    s.split target next T F = State.enterLine { s with
      cur := (s.cur.setOther ⟨next, F, true, none, 0⟩).setSlot { (s.cur.setOther ⟨next, F, true, none, 0⟩).slot with mask := T } }
      target := by
  simp only [State.split, h, Bool.not_false, if_true]
  rfl

@[simp] theorem Group.setSlot_stepLeft (g : Group) (p : PcSlot) : (g.setSlot p).stepLeft = g.stepLeft := by
  rw [Group.setSlot, apply_ite Group.stepLeft, ite_self]

theorem Group.slot_setOther (g : Group) (p : PcSlot) : (g.setOther p).slot = g.slot := by
  by_cases h : g.issue1 = true
  · simp [Group.setOther, Group.slot, h]
  · simp [Group.setOther, Group.slot, h]

/-- The slots of a group whose issuing slot comes to x stand together where both are valid and the other one stands at x. -/
theorem Group.together_at (g : Group) (x : DWord) :
    Group.together { g.setSlot { g.slot with pc := x, copy := 0 } with inClause := false, stall := none } = true ↔
      g.slot0.valid = true ∧ g.slot1.valid = true ∧ g.otherSlot.pc = x := by
  by_cases h : g.issue1 = true
  · simp [Group.together, Group.setSlot, Group.slot, Group.otherSlot, h, and_assoc]
  · simp [Group.together, Group.setSlot, Group.slot, Group.otherSlot, h, and_assoc, eq_comm (a := x)]

/-- The group that comes to x where its other slot stands: one path in slot 0, with both masks. -/
theorem Group.merge_at (g : Group) (x : DWord) (h : g.otherSlot.pc = x) :
    Group.merge { g.setSlot { g.slot with pc := x, copy := 0 } with inClause := false, stall := none } =
      { g.setSlot { g.slot with pc := x, copy := 0 } with
        inClause := false, stall := none,
        slot0 := ⟨x, g.slot0.mask ||| g.slot1.mask, true,
          if g.slot0.park.isSome then g.slot0.park else g.slot1.park, 0⟩,
        slot1 := ⟨0, 0, false, none, 0⟩, issue1 := false, wait0 := none, wait1 := none } := by
  subst h
  by_cases hi : g.issue1 = true
  · simp only [Group.merge, Group.setSlot, Group.slot, Group.otherSlot, hi, if_true]
    cases g.slot0.park <;> simp
  · simp only [Group.merge, Group.setSlot, Group.slot, Group.otherSlot, hi, if_false, Bool.false_eq_true]
    cases g.slot0.park <;> simp

theorem settleSlots_of_apart {n : Nat} {s : State} (h : ¬ (s.cur.together = true ∧ s.cur.stepLeft = 0)) :
    settleSlots n s = s := by
  cases n with
  | zero => rfl
  | succ n => rw [settleSlots, if_neg h]

theorem settleSlots_of_together {n : Nat} {s : State} (h : s.cur.together = true ∧ s.cur.stepLeft = 0) :
    settleSlots (n + 1) s = settleSlots n (s.modCur Group.merge).popPath := by
  rw [settleSlots, if_pos h]

theorem popPath_of_empty {s : State} (h : s.cur.pstk = 0) : s.popPath = s := by
  rw [State.popPath, popPaths, if_pos h]

/-- A path with lanes is popped into the invalid slot. -/
theorem popPath_of_lanes {s u : State} {p : PcSlot} (h : s.cur.pstk ≠ 0) (ht : s.topPath = (.ok p, u)) (hp : p.mask ≠ 0) :
    s.popPath = { u with cur := Group.seatPath { u.cur with pstk := u.cur.pstk - 1 } p } := by
  rw [State.popPath, popPaths, if_neg h, ht]
  exact if_neg hp

/-- The last path is popped and has no lane left. -/
theorem popPath_of_last {s u : State} {p : PcSlot} (h : s.cur.pstk ≠ 0) (ht : s.topPath = (.ok p, u)) (hp : p.mask = 0)
    (h1 : u.cur.pstk = 1) : s.popPath = { u with cur := { u.cur with pstk := 0 } } := by
  rw [State.popPath, popPaths, if_neg h, ht]
  refine (if_pos hp).trans ?_
  have h0 : (u.modCur fun g => { g with pstk := g.pstk - 1 }).cur.pstk = 0 := by simp [State.modCur, h1]
  rw [popPaths, if_pos h0]
  simp [State.modCur, h1]

/-- A path that is popped holds no exited lane. -/
theorem topPath_mask {s u : State} {p : PcSlot} (h : s.topPath = (.ok p, u)) : p.mask &&& u.cur.exited = 0 := by
  rw [State.topPath] at h
  split at h
  · simp at h
  · split at h
    · simp at h
    · simp only [Prod.mk.injEq, Except.ok.injEq] at h
      obtain ⟨rfl, rfl⟩ := h
      rw [and_eq_zero_iff]
      intro l hl hm
      simp only [BitVec.getLsbD_and, BitVec.getLsbD_not, Bool.and_eq_true] at hm
      simpa [hl] using hm.2

/-- An entry at a point where the two slots do not come to stand together. -/
theorem enterLine_of_apart {s : State} {x : DWord}
    (h : ¬ (s.cur.slot0.valid = true ∧ s.cur.slot1.valid = true ∧ s.cur.otherSlot.pc = x) ∨ s.cur.stepLeft ≠ 0) :
    s.enterLine x = { s with
      cur := { s.cur.setSlot { s.cur.slot with pc := x, copy := 0 } with inClause := false, stall := none } } := by
  refine settleSlots_of_apart fun ⟨ht, hs⟩ => ?_
  rcases h with h | h
  · exact h ((s.cur.together_at x).1 ht)
  · exact h (by simpa [State.modCur] using hs)

/-- An entry at a point where the two slots come to stand together: they merge, and a path is popped. -/
theorem enterLine_of_together {s : State} {x : DWord} (hs : s.cur.stepLeft = 0)
    (h : s.cur.slot0.valid = true ∧ s.cur.slot1.valid = true ∧ s.cur.otherSlot.pc = x) :
    s.enterLine x = settleSlots 63 (State.popPath { s with
      cur := { s.cur.setSlot { s.cur.slot with pc := x, copy := 0 } with
        inClause := false, stall := none,
        slot0 := ⟨x, s.cur.slot0.mask ||| s.cur.slot1.mask, true,
          if s.cur.slot0.park.isSome then s.cur.slot0.park else s.cur.slot1.park, 0⟩,
        slot1 := ⟨0, 0, false, none, 0⟩, issue1 := false, wait0 := none, wait1 := none } }) := by
  refine (settleSlots_of_together ⟨(s.cur.together_at x).2 h, by simpa [State.modCur] using hs⟩).trans ?_
  simp only [State.modCur, s.cur.merge_at x h.2.2]

/-- Settles O20, by the cases of `execBrd`, and by what an entry does where the two slots stand together. -/
theorem pathsSplitAndMerge : Obligations.PathsSplitAndMerge := by
  unfold Obligations.PathsSplitAndMerge
  refine ⟨fun o s => ⟨fun hT => ?_, fun hT hF u hu => ?_, fun hT e u hu => ?_, fun hT hF e u v hu hv => ?_,
    fun hT hF u v hu huc hv hvc => ⟨fun ho => ?_, fun ho hp w hw => ?_, fun ho hp w hw => ?_, fun ho hp => ?_⟩⟩, fun s x => ?_⟩
  · rw [exec_brd, execBrd, if_pos hT]
  · rw [exec_brd, execBrd, if_neg hT, if_pos hF, transfer_of_ok hu, id]
  · rw [exec_brd, execBrd, if_neg hT]
    by_cases hF : s.cur.pathMask &&& ~~~s.cur.effect o.guard = 0
    · rw [if_pos hF, transfer_of_error hu]
    · simp only [if_neg hF, hu]
  · rw [exec_brd]
    simp only [execBrd, if_neg hT, if_neg hF, hu, hv]
  · rw [exec_brd, execBrd_of_checked hT hF hu hv, split_of_free (hvc ▸ ho), Group.slot_setOther, hvc]
  · rw [exec_brd, execBrd_of_checked hT hF hu hv]
    simp only [State.split, hvc, ho, Bool.not_true, Bool.false_eq_true, if_false, if_neg (Nat.not_le.2 hp), hw]
    rfl
  · rw [exec_brd, execBrd_of_checked hT hF hu hv]
    simp only [State.split, hvc, ho, Bool.not_true, Bool.false_eq_true, if_false, if_neg (Nat.not_le.2 hp), hw]
  · rw [exec_brd, execBrd_of_checked hT hF hu hv]
    simp only [State.split, hvc, ho, Bool.not_true, Bool.false_eq_true, if_false, if_pos hp]
  · refine ⟨fun h => advance_within h, fun h => advance_end (Nat.not_lt.2 h), fun h => ?_, fun ht hs hp => ?_,
      fun ht hs hp p u hu huc => ⟨fun hm hx => ?_, fun hm h1 => ?_, ?_⟩⟩
    · exact enterLine_of_apart h
    · rw [enterLine_of_together hs ht, popPath_of_empty (by simpa using hp)]
      exact settleSlots_of_apart (by simp [Group.together])
    · rw [enterLine_of_together hs ht, popPath_of_lanes (by simpa using hp) hu hm, huc]
      refine (settleSlots_of_apart ?_).trans ?_
      · simp [Group.together, Group.seatPath, Ne.symm hx]
      · simp [Group.seatPath]
    · rw [enterLine_of_together hs ht, popPath_of_last (by simpa using hp) hu hm (by rw [huc]; simpa using h1), huc]
      exact settleSlots_of_apart (by simp [Group.together])
    · have hmask := topPath_mask hu
      rw [huc] at hmask
      simpa using hmask

end Sys2Proof.Machine
end

section
/-! ### Register grow and shrink (R41, R176, R227, R228) -/

namespace Sys2Proof.Machine

theorem exec_grow (o : Fields) (s : State) : exec (.grow o) s = execGrow o s := rfl

theorem exec_shrink (o : Fields) (s : State) : exec (.shrink o) s = execShrink o s := rfl

/-- Whole blocks cleared: the registers in them read zero in every lane, and every other one reads as before. -/
theorem sget_sclear_blocks (v : Sparse Word) (b n r l : Nat) (hl : l < 64) :
    sget 0 (sclear v (b * 16 * 64) (n * 16 * 64)) (r * 64 + l)
      = if b * 16 ≤ r ∧ r < (b + n) * 16 then 0 else sget 0 v (r * 64 + l) := by
  rw [sget_sclear]
  exact if_congr (by omega) rfl rfl

theorem anyGroup_cur (s : State) : s.anyGroup s.cur.gid = some s.cur := by
  simp [State.anyGroup, State.findGroup]

/-- No record of the group is held back, so its ring stays as it is (R255). -/
theorem retryHeld_of_none {s : State} (h : s.cur.waitingRecs = []) : s.retryHeld s.cur.gid = s := by
  simp only [State.retryHeld, anyGroup_cur, h]

/-- What is left of the vector registers at a line entry (R227). -/
theorem atEntry_of_none {s : State} (h : s.cur.waitingRecs = []) :
    s.atEntry = { s with cur := { s.cur with
      vblocks := s.cur.vblocks - s.cur.shrink, shrink := 0,
      v := if s.cur.shrink = 0 then s.cur.v
        else sclear s.cur.v ((s.cur.vblocks - s.cur.shrink) * 1024) (s.cur.shrink * 1024),
      ring := s.cur.ring.filter fun e => e.raised || e.status != 3 } } :=
  retryHeld_of_none (s := { s with cur := { s.cur with
      vblocks := s.cur.vblocks - s.cur.shrink, shrink := 0,
      v := if s.cur.shrink = 0 then s.cur.v
        else sclear s.cur.v ((s.cur.vblocks - s.cur.shrink) * 1024) (s.cur.shrink * 1024),
      ring := s.cur.ring.filter fun e => e.raised || e.status != 3 } }) h

theorem not_idle {b : Bool} {n : Nat} (hb : b = true) (hn : 0 < n) : ¬ (!b || decide (n = 0)) = true := by
  simpa [hb] using Nat.pos_iff_ne_zero.1 hn

/-- Settles O22, by the cases of `execGrow` and `execShrink` and of the group's request. -/
theorem growAndShrink : Obligations.GrowAndShrink := by
  unfold Obligations.GrowAndShrink
  refine ⟨fun o s => ⟨fun h => ?_, fun ha hn => ⟨fun hg h16 hb => ⟨fun hw hf => ?_, fun hw => ?_⟩, fun hg hb => ?_,
    fun m t k hg => ?_, fun hg => ?_, fun hg => ?_, fun hm => ?_, fun hm => ?_⟩⟩, fun s hw => ⟨_, atEntry_of_none hw, fun r l hl => ?_⟩⟩
  · have hb : (!s.cur.acts o.guard || decide ((val s o.imm o.a 0).toNat = 0)) = true := by simpa using h
    rw [exec_grow, exec_shrink, execGrow, execShrink]
    exact ⟨if_pos hb, if_pos hb⟩
  · refine ⟨_, ?_, fun r l hl => sget_sclear_blocks _ _ _ r l hl⟩
    show execGrow o s = .next (s.modCur fun g => g.grant (val s o.imm o.a 0).toNat).advance
    simp only [execGrow, if_neg (not_idle ha hn), hg]
    rw [if_neg (by omega), if_pos ⟨by simp [hw], hf⟩]
  · show execGrow o s = .next ((s.modCur fun g => { g with grow := .asked _ s.now s.steps }).hold .grow)
    simp only [execGrow, if_neg (not_idle ha hn), hg]
    rw [if_neg (by omega), if_neg fun ⟨h, hf⟩ => hw.elim (· (by simpa using h)) fun h' => absurd hf (Nat.not_le.2 h')]
  · rw [exec_grow]
    simp only [execGrow, if_neg (not_idle ha hn), hg]
    rw [if_pos hb]
  · show execGrow o s = .next (s.hold .grow)
    simp only [execGrow, if_neg (not_idle ha hn), hg]
  · show execGrow o s = .next (s.modCur fun g => { g with grow := .none }).advance
    simp only [execGrow, if_neg (not_idle ha hn), hg]
  · rw [exec_grow]
    simp only [execGrow, if_neg (not_idle ha hn), hg]
  · rw [exec_shrink]
    simp only [execShrink, if_neg (not_idle ha hn)]
    rw [if_pos hm]
  · show execShrink o s = .next (s.modCur fun g => { g with shrink := g.shrink + _ }).advance
    simp only [execShrink, if_neg (not_idle ha hn)]
    rw [if_neg (Nat.not_le.2 hm)]
  · by_cases h0 : s.cur.shrink = 0
    · rw [if_pos h0, if_neg (by omega)]
      rfl
    · rw [if_neg h0]
      exact (by simpa [Nat.mul_assoc, Group.readV] using sget_sclear_blocks s.cur.v (s.cur.vblocks - s.cur.shrink) s.cur.shrink r l hl)

end Sys2Proof.Machine
end

/-! SUPPORT. What an access to memory leaves as it was (R36, R262 to R266, R352 to R358): every group, operation, queue and
table but the memories, the translation units, the instruction buffers, the sweep controllers, the fabric port and the
messages that leave it. -/

section

namespace Sys2Proof.Machine

/-! ### The frame of an access -/

/-- The second state differs from the first one only in what an access to memory may change. -/
def SameButMemory (s u : State) : Prop :=
  u = { s with mem := u.mem, xlate := u.xlate, ibuf := u.ibuf, sweep := u.sweep, fabric := u.fabric, outbox := u.outbox }

theorem SameButMemory.trans {s u v : State} (h : SameButMemory s u) (k : SameButMemory u v) : SameButMemory s v :=
  Eq.trans k (congrArg (fun x : State =>
    { x with mem := v.mem, xlate := v.xlate, ibuf := v.ibuf, sweep := v.sweep, fabric := v.fabric, outbox := v.outbox }) h)

/-- An access to memory: nothing else changes, and the canonical form of the memories is kept. -/
structure Accesses (s u : State) : Prop where
  frame : SameButMemory s u
  memOk : s.memOk → u.memOk

namespace Accesses

variable {s u v : State}

theorem refl (s : State) : Accesses s s := ⟨rfl, id⟩

theorem trans (h : Accesses s u) (k : Accesses u v) : Accesses s v := ⟨h.frame.trans k.frame, fun hm => k.memOk (h.memOk hm)⟩

theorem after (k : Accesses u v) (h : Accesses s u) : Accesses s v := h.trans k

theorem of_eq (h : u = v) (k : Accesses s v) : Accesses s u := h ▸ k

/-- A run of accesses is an access. -/
theorem foldl {β : Type} {f : State → β → State} (h : ∀ s b, Accesses s (f s b)) (l : List β) (s : State) :
    Accesses s (l.foldl f s) := by
  induction l generalizing s with
  | nil => exact refl s
  | cons b t ih => exact (h s b).trans (ih _)

theorem cur (h : Accesses s u) : u.cur = s.cur := (congrArg State.cur h.frame).trans rfl
theorem others (h : Accesses s u) : u.others = s.others := (congrArg State.others h.frame).trans rfl
theorem ops (h : Accesses s u) : u.ops = s.ops := (congrArg State.ops h.frame).trans rfl
theorem mon (h : Accesses s u) : u.mon = s.mon := (congrArg State.mon h.frame).trans rfl
theorem launch (h : Accesses s u) : u.launch = s.launch := (congrArg State.launch h.frame).trans rfl
theorem now (h : Accesses s u) : u.now = s.now := (congrArg State.now h.frame).trans rfl
theorem mgmt (h : Accesses s u) : u.mgmt = s.mgmt := (congrArg State.mgmt h.frame).trans rfl

end Accesses

/-! ### Reads of device memory -/

theorem accesses_dropStale (s : State) : Accesses s s.dropStale := ⟨rfl, memOk_dropStale⟩

theorem accesses_dropLines (s : State) (p : Nat → Bool) (l : List Nat) : Accesses s (s.dropLines p l) := ⟨rfl, memOk_dropLines p l⟩

theorem accesses_pump (n : Nat) (s : State) : Accesses s (s.pump n) := by
  induction n generalizing s with
  | zero => exact .refl s
  | succ n ih =>
    rw [State.pump]
    dsimp only
    split
    · exact .refl s
    · exact (ih _).after ⟨rfl, id⟩

theorem accesses_burstsOf (s : State) (n : Nat) : Accesses s (s.burstsOf n) := (accesses_pump _ _).after ⟨rfl, id⟩

theorem accesses_sendBursts (s : State) (ag : Agent) (write : Bool) (pa n : Nat) : Accesses s (s.sendBursts ag write pa n) := by
  rw [State.sendBursts]
  split
  · refine Accesses.trans (u := match ag.gid with | some _ => _ | none => _) ?_ (accesses_burstsOf _ n)
    split
    · split
      · exact ⟨rfl, id⟩
      · exact .refl s
    · exact .refl s
  · exact .refl s

theorem accesses_promote (s : State) (ag : Agent) (pa n : Nat) : Accesses s (s.promote ag pa n) := by
  refine ⟨?_, memOk_promote ag pa n⟩
  unfold State.promote
  dsimp only
  split
  · rfl
  · split <;> rfl

theorem accesses_noteShut (s : State) (locs : List Nat) : Accesses s (s.noteShut locs) := by
  rw [State.noteShut]
  split
  · exact ⟨rfl, id⟩
  · exact .refl s

theorem accesses_transformRow (s : State) (row attr : Nat) (d : SweepDesc) : Accesses s (transformRow s row attr d) := by
  refine ⟨?_, memOk_transformRow row attr d⟩
  unfold transformRow
  dsimp only
  split <;> rfl

theorem accesses_applyReg (s : State) (key : Nat) (r : SweepReg) (row : Nat) : Accesses s (applyReg s key r row) := by
  rw [applyReg]
  dsimp only
  split
  · exact ⟨rfl, id⟩
  · exact (accesses_transformRow s _ _ _).trans ⟨rfl, id⟩

theorem accesses_touchRow (s : State) (row : Nat) : Accesses s (touchRow s row) :=
  Accesses.foldl (fun s _ => accesses_applyReg s _ _ _) _ s

theorem accesses_touchRows (s : State) (rows : List Nat) : Accesses s (touchRows s rows) := by
  rw [touchRows]
  split
  · exact .refl s
  · exact Accesses.foldl accesses_touchRow _ s

theorem accesses_activate (s : State) (locs : List Nat) : Accesses s (s.activate locs) := by
  rw [State.activate]
  split
  · exact accesses_noteShut s locs
  · exact (accesses_noteShut s locs).trans (accesses_touchRows _ _)

theorem accesses_fillRbuf (s : State) (die line : Nat) : Accesses s (s.fillRbuf die line) := by
  refine ⟨?_, memOk_fillRbuf die line⟩
  unfold State.fillRbuf
  split <;> rfl

theorem accesses_readPa (s : State) (ag : Agent) (attr pa n : Nat) : Accesses s (s.readPa ag attr pa n).2 := by
  rw [State.readPa]
  dsimp only
  split <;> dsimp only
  · exact (Accesses.foldl (fun s l => accesses_fillRbuf s _ l) _ _).after ((accesses_activate _ _).after
      ((accesses_promote _ _ _ _).after (accesses_sendBursts _ _ _ _ _)))
  · exact (accesses_dropLines _ _ _).after ((accesses_activate _ _).after
      ((accesses_promote _ _ _ _).after (accesses_sendBursts _ _ _ _ _)))

/-! ### Translation -/

theorem accesses_setTlb (s : State) (core : Nat) (t : Tlb) : Accesses s (s.setTlb core t) := ⟨rfl, id⟩

theorem accesses_readPte (s : State) (pa : Nat) : Accesses s (s.readPte pa).2 := accesses_readPa s _ _ _ _

theorem accesses_useLeaf (s : State) (core : Nat) (e : TlbEntry) : Accesses s (s.useLeaf core e) := accesses_setTlb s core _

/-- One level of a walk (R354): `next` is the walk from the table of the level below. -/
def walkLevel (core : Option Nat) (ctx va level table : Nat) (next : Nat → State → WalkRes × State) (s : State) : WalkRes × State :=
  let path := va / pageBytes level
  let cached := match core with
    | some c => tlbFind (s.tlb c).walk ctx level path
    | none => none
  match cached with
  | some e =>
    let s := match core with
      | some c => s.setTlb c { s.tlb c with walk := lruPut 256 e (s.tlb c).walk }
      | none => s
    match level with
    | 0 => (.fault .malformed, s)
    | _ + 1 => next (bits e.entry 51 8 * 256) s
  | none =>
    if s.unused table || !s.reaches table then (.fault .malformed, s)
    else match s.readPte (table + 8 * vaIndex va level) with
    | (none, s) => (.fault .poison, s)
    | (some e, s) =>
      if bits e 0 0 = 0 then (.fault (.notPresent (bits e 11 1)), s)
      else if bits e 1 1 = 1 then
        if leafOk level e then (.leaf level e, s) else (.fault .malformed, s)
      else
        match level with
        | 0 => (.fault .malformed, s)
        | l + 1 =>
          if bits e 7 2 = 0 ∧ bits e 63 52 = 0 ∧ bits e 51 8 * 256 % tableAlign (l + 1) = 0 then
            let s := match core with
              | some c =>
                let t := s.tlb c
                s.setTlb c { t with walk := lruPut 256 ⟨ctx, l + 1, path, e⟩ t.walk }
              | none => s
            next (bits e 51 8 * 256) s
          else (.fault .malformed, s)

theorem walkFrom_zero (core : Option Nat) (ctx va table : Nat) (s : State) :
    walkFrom core ctx va 0 table s = walkLevel core ctx va 0 table (fun _ s => (.fault .malformed, s)) s := by
  delta walkLevel walkFrom walkFrom._f
  dsimp only
  rfl

theorem walkFrom_succ (core : Option Nat) (ctx va l table : Nat) (s : State) :
    walkFrom core ctx va (l + 1) table s = walkLevel core ctx va (l + 1) table (walkFrom core ctx va l) s := by
  delta walkLevel walkFrom walkFrom._f
  dsimp only <;> rfl

theorem accesses_walkLevel (core : Option Nat) (ctx va level table : Nat) {next : Nat → State → WalkRes × State}
    (hn : ∀ t s, Accesses s (next t s).2) (s : State) : Accesses s (walkLevel core ctx va level table next s).2 := by
  have hp := accesses_readPte s (table + 8 * vaIndex va level)
  have hset (u : State) (f : Nat → Tlb) : Accesses u (match core with | some c => u.setTlb c (f c) | none => u) := by
    split
    · exact accesses_setTlb u _ _
    · exact .refl u
  delta walkLevel
  dsimp only
  split
  · split
    · exact hset s _
    · exact (hn _ _).after (hset s _)
  · split
    · exact .refl s
    · split
      · rename_i u h
        rw [h] at hp
        exact hp
      · rename_i e u h
        rw [h] at hp
        split
        · exact hp
        · split
          · split
            · exact hp
            · exact hp
          · split
            · exact hp
            · split
              · exact (hn _ _).after (hp.trans (hset u _))
              · exact hp

theorem accesses_walkFrom (core : Option Nat) (ctx va level table : Nat) (s : State) :
    Accesses s (walkFrom core ctx va level table s).2 := by
  induction level generalizing table s with
  | zero =>
    rw [walkFrom_zero]
    exact accesses_walkLevel core ctx va 0 table (fun _ s => .refl s) s
  | succ l ih =>
    rw [walkFrom_succ]
    exact accesses_walkLevel core ctx va (l + 1) table ih s

theorem accesses_translate (s : State) (cn : Option Nat) (ctx va : Nat) (k : Acc) :
    Accesses s (s.translate cn ctx va k).2 := by
  unfold State.translate
  dsimp only
  split
  · exact .refl s
  · split
    · exact accesses_useLeaf s _ _
    · split
      · exact .refl s
      · rename_i cn _ _ _ _ c _
        have hw := accesses_walkFrom cn ctx va 3 c.root s
        split
        · rename_i level e u h
          rw [h] at hw
          split
          · exact (accesses_useLeaf _ _ _).after hw
          · exact hw
        · rename_i f u h
          rw [h] at hw
          exact hw

/-! ### Accesses by virtual address -/

theorem accesses_readParts (ag : Agent) (l : List (Nat × Nat)) (acc : Got) (s : State) :
    Accesses s (readParts ag l acc s).2 := by
  induction l generalizing acc s with
  | nil => exact .refl s
  | cons p t ih =>
    obtain ⟨va, n⟩ := p
    have ht := accesses_translate s ag.core ag.ctx va .read
    rw [readParts]
    split
    · rename_i u h
      rw [h] at ht
      exact (ih _ _).after ((accesses_readPa u _ _ _ _).after ht)
    · rename_i u h
      rw [h] at ht
      exact ht

theorem accesses_readVa (s : State) (ag : Agent) (va n : Nat) : Accesses s (s.readVa ag va n).2 := accesses_readParts _ _ _ s

theorem accesses_kRead (s : State) (g : Group) (off n : Nat) : Accesses s (s.kRead g off n).2 := by
  unfold State.kRead
  split
  · exact accesses_readVa s _ _ _
  · exact .refl s

theorem accesses_writePlaces (ag : Agent) (l : List (Nat × Nat)) (s : State) : Accesses s (writePlaces ag l s).2 := by
  induction l generalizing s with
  | nil => exact .refl s
  | cons p t ih =>
    obtain ⟨va, n⟩ := p
    have ht := accesses_translate s ag.core ag.ctx va .write
    rw [writePlaces]
    split
    · rename_i u h
      rw [h] at ht
      have hi := ih u
      split
      · rename_i v hv
        rw [hv] at hi
        exact hi.after ht
      · exact hi.after ht
    · rename_i u h
      rw [h] at ht
      exact ht

/-! ### Writes, where no wait stands that they could end (R168) -/

theorem wakeRange_of_no_wait {s : State} (h : s.mon = []) (sp : Space) (unit lo len : Nat) : s.wakeRange sp unit lo len = s := by
  simp [State.wakeRange, h]

theorem accesses_writeFrame {s : State} (h : s.mon = []) (ag : Agent) (attr pa : Nat) (b : Bytes) :
    Accesses s (s.writeFrame ag attr pa b) := by
  have ha := (accesses_activate (s.promote ag pa b.length) ((s.promote ag pa b.length).locs pa b.length)).after
    (accesses_promote s ag pa b.length)
  refine ⟨?_, memOk_writeFrame ag attr pa b⟩
  rw [State.writeFrame]
  rw [wakeRange_of_no_wait]
  · exact ha.frame.trans rfl
  · exact ha.mon.trans h

theorem accesses_writePa {s : State} (h : s.mon = []) (ag : Agent) (attr pa : Nat) (b : Bytes) :
    Accesses s (s.writePa ag attr pa b) := by
  have hs := accesses_sendBursts s ag true pa b.length
  have hm := hs.mon.trans h
  rw [State.writePa]
  split
  · refine hs.trans (foldl_keeps (Accesses (s.sendBursts ag true pa b.length)) _ _ _ (.refl _) fun u d hu => ?_)
    exact hu.trans (accesses_writeFrame (hu.mon.trans hm) _ _ _ _)
  · exact hs.trans (accesses_writeFrame hm _ _ _ _)

theorem accesses_writeVa {s : State} (h : s.mon = []) (ag : Agent) (va : Nat) (b : Bytes) : Accesses s (s.writeVa ag va b).2 := by
  have hp := accesses_writePlaces ag (granuleParts va b.length) s
  unfold State.writeVa
  split
  · rename_i l u hw
    rw [hw] at hp
    refine hp.trans (foldl_keeps (fun a : State × Bytes => Accesses u a.1) _ _ _ (.refl u) fun a p ha => ?_)
    exact ha.trans (accesses_writePa (ha.mon.trans (hp.mon.trans h)) _ _ _ _)
  · rename_i hw
    rw [hw] at hp
    exact hp

theorem accesses_kWrite {s : State} (h : s.mon = []) (g : Group) (off : Nat) (b : Bytes) : Accesses s (s.kWrite g off b).2 := by
  have hw := accesses_writeVa h g.agent (g.sgk.base + off) b
  unfold State.kWrite
  split
  · split
    · rename_i hu
      rw [hu] at hw
      exact hw
    · rename_i hu
      rw [hu] at hw
      exact hw
  · exact .refl s

/-! ### Lines and targets (R27, R28, R36) -/

theorem accesses_setIbuf (s : State) (core : Nat) (l : List IbufLine) : Accesses s (s.setIbuf core l) := ⟨rfl, id⟩

theorem accesses_fillLine (s : State) (ag : Agent) (line : Nat) : Accesses s (s.fillLine ag line).2 := by
  have ht := accesses_translate s ag.core ag.ctx line .fetch
  unfold State.fillLine
  split
  · rename_i u h
    rw [h] at ht
    exact ht
  · rename_i u h
    rw [h] at ht
    exact ht
  · rename_i pa attr _ _ u h
    rw [h] at ht
    dsimp only
    split
    · exact (accesses_readPa u ag attr pa 64).after ht
    · exact (accesses_readPa u ag attr pa 64).after ht

theorem accesses_fetchLine (s : State) (g : Group) (line : Nat) : Accesses s (s.fetchLine g line).2 := by
  have hf := accesses_fillLine s g.agent line
  unfold State.fetchLine
  dsimp only
  split
  · exact .refl s
  · split
    · rename_i x u h
      rw [h] at hf
      exact (accesses_setIbuf u _ _).after hf
    · exact hf

theorem accesses_checkTarget (s : State) (g : Group) (target : DWord) : Accesses s (s.checkTarget g target).2 := by
  have hf := accesses_fetchLine s g (pcLine target)
  unfold State.checkTarget
  split
  · exact .refl s
  · split
    · rename_i c u h
      rw [h] at hf
      exact hf
    · rename_i x u h
      rw [h] at hf
      split
      · exact hf
      · exact hf

theorem accesses_checkTransfer (s : State) (target : DWord) : Accesses s (s.checkTransfer target).2 := by
  have hc := accesses_checkTarget s s.cur target
  unfold State.checkTransfer
  split
  · rename_i u h
    rw [h] at hc
    split
    · exact hc
    · exact hc
  · exact hc

end Sys2Proof.Machine
end

/-! SUPPORT. Traps (R238 to R244): their entry, their record, and the return from one. -/

section
/-! ### What a write to memory leaves of the issuing group, whatever waits it ends (R168) -/

namespace Sys2Proof.Machine

theorem Group.setSlot_eq (g : Group) (p : PcSlot) :
    g.setSlot p = { g with slot0 := if g.issue1 then g.slot0 else p, slot1 := if g.issue1 then p else g.slot1 } := by
  by_cases h : g.issue1 = true
  · simp [Group.setSlot, h]
  · simp [Group.setSlot, h]

theorem Group.writeReg_gid (g : Group) (r : RegRef) (l : Nat) (x : DWord) : (g.writeReg r l x).gid = g.gid := by
  cases r
  case p n =>
    rw [Group.writeReg, Group.writeP]
    split <;> rfl
  all_goals rfl

theorem Group.portWrite_gid (g : Group) (d : Deferred) : (g.portWrite d).gid = g.gid := by
  unfold Group.portWrite
  split
  · rfl
  · rw [Group.writeP]
    split <;> rfl
  · exact g.writeReg_gid _ _ _

/-- A group changed in place keeps its number, where the change does. -/
theorem modGroup_gid (s : State) (gid : Nat) {f : Group → Group} (h : ∀ g, (f g).gid = g.gid) :
    (s.modGroup gid f).cur.gid = s.cur.gid := by
  rw [State.modGroup]
  split
  · exact h s.cur
  · split <;> rfl

theorem endOp_gid (s : State) (id : Nat) : (s.endOp id).cur.gid = s.cur.gid := by
  rw [State.endOp]
  split
  · rfl
  · rename_i op _
    refine (foldl_keeps (fun u : State => u.cur.gid = s.cur.gid) _ _ _ ?_ fun _ _ hu => hu)
    refine modGroup_gid _ _ fun g => ?_
    have hw := foldl_keeps (fun h : Group => h.gid = g.gid) (fun h w => h.writeReg w.1 w.2.1 w.2.2) op.outs g rfl
      fun h w hh => (h.writeReg_gid _ _ _).trans hh
    exact foldl_keeps (fun h : Group => h.gid = g.gid) _ op.deferred _ hw fun h d hh => (h.portWrite_gid d).trans hh

theorem endWait_gid (s : State) (id code : Nat) : (s.endWait id code).cur.gid = s.cur.gid := by
  rw [State.endWait]
  split
  · split
    · exact endOp_gid _ id
    · rfl
  · rfl

theorem wakeWaiter_gid (s : State) (e : MonEntry) : (s.wakeWaiter e).cur.gid = s.cur.gid := by
  rw [State.wakeWaiter]
  split
  · split
    · refine (endWait_gid _ _ _).trans ?_
      rw [State.acquireAt]
      split <;> rfl
    · rfl
  · rfl

theorem wakeRange_gid (s : State) (sp : Space) (unit lo len : Nat) : (s.wakeRange sp unit lo len).cur.gid = s.cur.gid := by
  rw [State.wakeRange]
  split
  · rfl
  · refine foldl_keeps (fun u : State => u.cur.gid = s.cur.gid) _ _ _ rfl fun u b hu => ?_
    rw [State.wakeBlock]
    split
    · exact hu
    · refine foldl_keeps (fun u : State => u.cur.gid = s.cur.gid) _ _ _ ?_ fun u e hu => (wakeWaiter_gid u e).trans hu
      split <;> exact hu

theorem writeFrame_gid (s : State) (ag : Agent) (attr pa : Nat) (b : Bytes) : (s.writeFrame ag attr pa b).cur.gid = s.cur.gid := by
  rw [State.writeFrame]
  refine (wakeRange_gid _ _ _ _ _).trans ?_
  exact congrArg Group.gid (((accesses_activate _ _).after (accesses_promote s ag pa b.length)).cur)

theorem writePa_gid (s : State) (ag : Agent) (attr pa : Nat) (b : Bytes) : (s.writePa ag attr pa b).cur.gid = s.cur.gid := by
  have hs := congrArg Group.gid (accesses_sendBursts s ag true pa b.length).cur
  rw [State.writePa]
  split
  · exact foldl_keeps (fun u : State => u.cur.gid = s.cur.gid) _ _ _ hs fun u d hu => (writeFrame_gid _ _ _ _ _).trans hu
  · exact (writeFrame_gid _ _ _ _ _).trans hs

theorem writeVa_gid (s : State) (ag : Agent) (va : Nat) (b : Bytes) : (s.writeVa ag va b).2.cur.gid = s.cur.gid := by
  have hp := congrArg Group.gid (accesses_writePlaces ag (granuleParts va b.length) s).cur
  unfold State.writeVa
  split
  · rename_i l u hw
    rw [hw] at hp
    exact foldl_keeps (fun a : State × Bytes => a.1.cur.gid = s.cur.gid) _ _ _ hp fun a p ha => (writePa_gid _ _ _ _ _).trans ha
  · rename_i hw
    rw [hw] at hp
    exact hp

theorem recWrite_gid (s : State) (n off : Nat) (b : Bytes) : (s.recWrite n off b).cur.gid = s.cur.gid := by
  rw [State.recWrite]
  split
  · rfl
  · split
    · rfl
    · exact writeVa_gid _ _ _ _

theorem addFailure_gid (s : State) (n : Nat) (entry : Bytes) : (s.addFailure n entry).cur.gid = s.cur.gid := by
  rw [State.addFailure]
  split
  · rfl
  · split
    · exact recWrite_gid _ _ _ _
    · rfl

/-! ### The end of a group without a handler (R233, R240) -/

theorem spilledBytes_succ (g : Group) (k : Nat) (s : State) : spilledBytes g (k + 1) s =
    match s.kRead g (g.sgk.limit - 16 * (k + 1)) 16 with
    | (.ok x, s) =>
      let (b, bad, s) := spilledBytes g k s
      (if x.psn then (leBytes 16 0 ++ b, true, s) else (x.bytes ++ b, bad, s))
    | (.fault _ _, s) =>
      let (b, _, s) := spilledBytes g k s
      (leBytes 16 0 ++ b, true, s) := by
  delta spilledBytes spilledBytes._f
  rfl

theorem accesses_spilledBytes (g : Group) (k : Nat) (s : State) : Accesses s (spilledBytes g k s).2.2 := by
  induction k generalizing s with
  | zero => exact .refl s
  | succ k ih =>
    have hk := accesses_kRead s g (g.sgk.limit - 16 * (k + 1)) 16
    rw [spilledBytes_succ]
    split
    · rename_i u h
      rw [h] at hk
      dsimp only
      split
      · exact (ih u).after hk
      · exact (ih u).after hk
    · rename_i u h
      rw [h] at hk
      exact (ih u).after hk

/-- The issuing group stays as it is where it is its own partner that is gone. -/
theorem partnerGone_cur_of_gid {s : State} {g : Group} (h : g.gid = s.cur.gid) : (s.partnerGone g).cur = s.cur := by
  rw [State.partnerGone]
  split
  · exact if_neg fun hc => hc.1 h.symm
  · rfl

/-- A group that ends without a handler: every lane has exited and no slot is valid. -/
theorem endGroup_cur (s : State) (e : EndInfo) :
    ∃ g : Group, g.gid = s.cur.gid ∧ (s.endGroup e).cur = { g.ended with expired := e.code = 9 } := by
  have hsp := accesses_spilledBytes s.cur s.cur.pstk s
  simp only [State.endGroup, State.endGroupOf, anyGroup_cur]
  generalize hu : (spilledBytes s.cur s.cur.pstk s).2.2 = u at hsp ⊢
  generalize failureEntry _ _ _ _ = b
  have hg : (u.addFailure s.cur.grid b).cur.gid = s.cur.gid := (addFailure_gid u _ b).trans (congrArg Group.gid hsp.cur)
  refine ⟨(u.addFailure s.cur.grid b).cur, hg, ?_⟩
  have hm : ((u.addFailure s.cur.grid b).modGroup s.cur.gid fun g => { g.ended with expired := e.code = 9 }).cur
      = { (u.addFailure s.cur.grid b).cur.ended with expired := e.code = 9 } := by
    rw [State.modGroup, if_pos hg]
  rw [partnerGone_cur_of_gid, hm]
  rw [hm]
  exact hg.symm

/-! ### Taking a trap (R239 to R241) -/

/-- The group as a trap finds it: its slots and its ring may have changed, and its holds are over. -/
theorem Group.atTrap_eq (g : Group) (t : TrapInfo) : ∃ p q r, g.atTrap t = { g with
    slot0 := p, slot1 := q, ring := r, stall := none, bar := .none, grow := .none, rdv := none, shoot := none } :=
  ⟨_, _, _, by rw [Group.atTrap, Group.setSlot_eq]; rfl⟩

theorem accesses_recordWritable (s : State) (g : Group) : Accesses s (s.recordWritable g).2 := by
  unfold State.recordWritable
  extract_lets ok
  have hok (off : Nat) (u : State) : Accesses u (ok off u).2 := by
    have ht := accesses_translate u (some g.coreNo) g.ctx (g.sgk.base + off) .write
    dsimp only [ok]
    split
    · split
      · rename_i h
        rw [h] at ht
        exact ht
      · rename_i h
        rw [h] at ht
        exact ht
    · exact .refl u
  have h0 := hok 0 s
  split
  · rename_i u h
    rw [h] at h0
    exact (hok 0x7FF u).after h0
  · exact h0

theorem accesses_writeRecord {s : State} (h : s.mon = []) (t : TrapInfo) : Accesses s (s.writeRecord t) := by
  have hk := accesses_kWrite h s.cur 0 (trapHeader s s.cur t)
  delta State.writeRecord
  dsimp only
  refine foldl_keeps (Accesses s) _ _ _ hk fun u f hu => ?_
  exact hu.trans (accesses_kWrite (hu.mon.trans h) _ _ _)

/-- The frame of the partners of a trap: nothing changes but groups, and the issuing one stays as it is. -/
theorem partnerGone_frame {s : State} {g : Group} (h : g.gid = s.cur.gid) :
    s.partnerGone g = { s with others := (s.partnerGone g).others } := by
  have hc := partnerGone_cur_of_gid h
  have hf : s.partnerGone g = { s with cur := (s.partnerGone g).cur, others := (s.partnerGone g).others } := by
    unfold State.partnerGone
    dsimp only
    split <;> rfl
  rw [hf, hc]

/-- The depth counter of each lane that has not exited is zero at the handler's entry. -/
theorem Group.ctrOf_enterHandler (g : Group) (ring : Option Nat) {l : Nat} (h : g.exited.getLsbD l = false) :
    (g.enterHandler ring).ctrOf l = 0 := by
  have hf := sfind_filter g.ctr (fun i => g.exited.getLsbD i) l
  rw [Group.ctrOf, sget]
  simp [Group.enterHandler, hf, h]

/-- A trap that no handler takes ends the group. -/
theorem takeTrap_of_no_handler {s : State} {t : TrapInfo}
    (h : s.cur.busy = true ∨ s.cur.tvec = 0 ∨ (t.code = 1 ∧ (t.cause = 11 ∨ t.cause = 13))) :
    s.takeTrap t = State.endGroup ((s.modCur fun g => g.atTrap t).partnerGone s.cur)
      ⟨t.code, t.cause, s.cur.busy, false, t.tpc.toNat, t.xarg, t.fmask⟩ := by
  obtain ⟨p, q, r, ha⟩ := s.cur.atTrap_eq t
  have hc : ((s.modCur fun g => g.atTrap t).partnerGone s.cur).cur.tvec = s.cur.tvec := by
    rw [partnerGone_cur_of_gid (by rw [State.modCur_cur, ha]), State.modCur_cur, ha]
  rw [State.takeTrap]
  refine if_pos ?_
  rw [hc]
  exact h.elim .inl fun h => .inr h.symm

/-- A trap that a handler takes, once its record can be written and its vector has been checked. -/
theorem takeTrap_of_handler {s u v : State} {t : TrapInfo} (hb : s.cur.busy = false) (ht : s.cur.tvec ≠ 0)
    (hc : t.code ≠ 1 ∨ (t.cause ≠ 11 ∧ t.cause ≠ 13))
    (hu : ((s.modCur fun g => g.atTrap t).partnerGone s.cur).recordWritable
      ((s.modCur fun g => g.atTrap t).partnerGone s.cur).cur = (true, u))
    (huc : (u.writeRecord t).cur.tvec = s.cur.tvec)
    (hv : (u.writeRecord t).checkTarget (u.writeRecord t).cur s.cur.tvec = (.ok (), v)) :
    s.takeTrap t = State.modCur (if 0 < v.cur.stepLeft then v.emit (.port portTrap [v.cur.gid, t.code, t.cause]) else v)
      fun g => g.enterHandler t.ring := by
  obtain ⟨p, q, r, ha⟩ := s.cur.atTrap_eq t
  have hw : ((s.modCur fun g => g.atTrap t).partnerGone s.cur).cur.tvec = s.cur.tvec := by
    rw [partnerGone_cur_of_gid (by rw [State.modCur_cur, ha]), State.modCur_cur, ha]
  delta State.takeTrap
  refine (if_neg ?_).trans ?_
  · rw [hw, hb]
    rintro (h | ⟨h1, h11 | h13⟩ | h)
    · exact absurd h Bool.false_ne_true
    · exact hc.elim (· h1) fun h => h.1 h11
    · exact hc.elim (· h1) fun h => h.2 h13
    · exact ht h
  · simp only [hu, huc, hv]

/-- Settles O23: the handler's group is the trapped one with its slots and its mode replaced, and the end of a group leaves
no lane and no slot. -/
theorem trapEntry : Obligations.TrapEntry := by
  unfold Obligations.TrapEntry
  refine ⟨fun s t u v hb ht hc hm hu hv => ⟨_, rfl, ?_⟩, fun s t h => ?_⟩
  · obtain ⟨p, q, r, ha⟩ := s.cur.atTrap_eq t
    have hgid : s.cur.gid = (s.modCur fun g => g.atTrap t).cur.gid := by rw [State.modCur_cur, ha]
    have hw := accesses_recordWritable ((s.modCur fun g => g.atTrap t).partnerGone s.cur)
      ((s.modCur fun g => g.atTrap t).partnerGone s.cur).cur
    rw [hu, partnerGone_frame hgid] at hw
    have hr := (accesses_writeRecord (hw.mon.trans hm) t).after hw
    have hck := accesses_checkTarget (u.writeRecord t) (u.writeRecord t).cur s.cur.tvec
    rw [hv] at hck
    have hcur : v.cur = s.cur.atTrap t := (hck.after hr).cur
    have hops : v.ops = s.ops := (hck.after hr).ops
    have htv : (u.writeRecord t).cur.tvec = s.cur.tvec := by rw [show _ = _ from hr.cur, State.modCur_cur, ha]
    rw [takeTrap_of_handler hb ht hc hu htv hv]
    generalize hx : (if 0 < v.cur.stepLeft then v.emit (.port portTrap [v.cur.gid, t.code, t.cause]) else v) = x
    have hxc : x.cur = s.cur.atTrap t := by
      rw [← hx, apply_ite State.cur, State.emit, ite_self, hcur]
    have hxo : x.ops = s.ops := by
      rw [← hx, apply_ite State.ops, State.emit, ite_self, hops]
    have hd : ∀ l, s.cur.exited.getLsbD l = false → ((s.cur.atTrap t).enterHandler t.ring).ctrOf l = 0 := fun l hl =>
      Group.ctrOf_enterHandler _ _ (by rw [ha]; exact hl)
    rw [State.modCur_cur, State.modCur_ops, hxc, hxo]
    refine ⟨?_, rfl, rfl, rfl, rfl, rfl, ?_, hd, ?_⟩
    all_goals rw [ha]
    · rfl
    · rfl
    · exact ⟨rfl, rfl, rfl, rfl, rfl, rfl, rfl, rfl, rfl, rfl, rfl, rfl, rfl, rfl, rfl⟩
  · obtain ⟨p, q, r, ha⟩ := s.cur.atTrap_eq t
    have hgid : s.cur.gid = (s.modCur fun g => g.atTrap t).cur.gid := by rw [State.modCur_cur, ha]
    obtain ⟨g, hg, hc⟩ := endGroup_cur ((s.modCur fun g => g.atTrap t).partnerGone s.cur)
      ⟨t.code, t.cause, s.cur.busy, false, t.tpc.toNat, t.xarg, t.fmask⟩
    rw [takeTrap_of_no_handler h, hc]
    refine ⟨rfl, rfl, rfl, rfl, hg.trans ?_⟩
    rw [partnerGone_cur_of_gid hgid, ← hgid]

end Sys2Proof.Machine
end

section
/-! ### The layout of the trap record (R242, R243) -/

namespace Sys2Proof.Machine

/-- A field that begins behind the first bytes of a record. -/
theorem fieldAt_append_right {a : Bytes} {off : Nat} (h : a.length ≤ off) (b : Bytes) (n : Nat) :
    fieldAt (a ++ b) off n = fieldAt b (off - a.length) n := by
  rw [fieldAt, fieldAt, List.drop_append, List.drop_eq_nil_of_le h, List.nil_append]

/-- A field that the first bytes of a record hold whole. -/
theorem fieldAt_leBytes_append {n : Nat} (x : Nat) (b : Bytes) : fieldAt (leBytes n x ++ b) 0 n = x % 2 ^ (8 * n) := by
  rw [fieldAt, List.drop_zero, List.take_left' (leBytes_length n x), ofLe_leBytes]

/-- A field behind an earlier one of a fixed width. -/
theorem fieldAt_leBytes_skip {m off : Nat} (h : m ≤ off) (x : Nat) (b : Bytes) (n : Nat) :
    fieldAt (leBytes m x ++ b) off n = fieldAt b (off - m) n := by
  rw [fieldAt_append_right (by rwa [leBytes_length]), leBytes_length]

/-- The two slots of a record as fields: one that is not valid is zero (R243). -/
theorem slotBytes_eq (g : Group) : slotBytes g =
    leBytes 8 (if g.slot0.valid then g.slot0.pc.toNat else 0) ++ (leBytes 8 (if g.slot0.valid then g.slot0.mask.toNat else 0)
      ++ (leBytes 8 (if g.slot1.valid then g.slot1.pc.toNat else 0) ++ (leBytes 8 (if g.slot1.valid then g.slot1.mask.toNat else 0)
      ++ (leBytes 1 ((if g.slot0.valid then 1 else 0) + (if g.slot1.valid then 2 else 0)) ++ leBytes 1 g.pstk)))) := by
  have h16 : leBytes 16 0 = leBytes 8 0 ++ leBytes 8 0 := by decide
  cases h0 : g.slot0.valid <;> cases h1 : g.slot1.valid <;> simp [slotBytes, h0, h1, h16]

/-- The depth counter of a lane in its byte of the record. -/
theorem fieldAt_ctrBytes (g : Group) {l : Nat} (hl : l < 64) : fieldAt (ctrBytes g) l 1 = (g.ctrOf l).toNat := by
  have hlen : l < (ctrBytes g).length := by simpa [ctrBytes] using hl
  rw [fieldAt, List.drop_eq_getElem_cons hlen]
  simp [ctrBytes, ofLe]

theorem toNat_mod_two_pow {n : Nat} (x : BitVec n) : x.toNat % 2 ^ n = x.toNat := Nat.mod_eq_of_lt x.isLt

/-- Settles O24: the record as its fields in order, each read behind the ones before it. -/
theorem trapRecordLayout : Obligations.TrapRecordLayout := by
  unfold Obligations.TrapRecordLayout
  intro s g t b pc0 pc1
  have hlen : b.length = 0xC0 := by
    simp only [b, trapHeader, slotBytes_eq, ctrBytes, List.length_append, leBytes_length, List.length_map, List.length_range]
  have hb : ∃ flg, (flg % 2 = 1 ∧ (flg / 2 % 2 = 1 ↔ t.deferred = true) ∧ flg < 2 ^ 8) ∧ b = leBytes 2 t.code ++ (leBytes 2 t.cause ++ (leBytes 1 t.step
      ++ (leBytes 1 t.test ++ (leBytes 1 t.slot ++ (leBytes 1 flg ++ (leBytes 8 t.tpc.toNat ++ (leBytes 8 t.xarg
      ++ (leBytes 8 t.fmask.toNat ++ (leBytes 8 pc0 ++ (leBytes 8 (if g.slot0.valid then g.slot0.mask.toNat else 0)
      ++ (leBytes 8 pc1 ++ (leBytes 8 (if g.slot1.valid then g.slot1.mask.toNat else 0)
      ++ (leBytes 1 ((if g.slot0.valid then 1 else 0) + (if g.slot1.valid then 2 else 0)) ++ (leBytes 1 g.pstk
      ++ (leBytes 6 0 ++ (leBytes 8 g.sgk.base ++ (leBytes 8 g.exited.toNat ++ (leBytes 40 0 ++ ctrBytes g)))))))))))))))))) := by
    refine ⟨_, ?_, by simp only [b, trapHeader, slotBytes_eq, List.append_assoc]; rfl⟩
    cases t.deferred <;> cases (t.held || s.heldBack g.gid) <;> decide
  obtain ⟨flg, ⟨hf1, hf2, hf3⟩, hb⟩ := hb
  have hvalid (p : PcSlot) (x : DWord) : (if p.valid then x.toNat else 0) % 2 ^ 64 = if p.valid then x.toNat else 0 := by
    split
    · exact toNat_mod_two_pow x
    · rfl
  have hmask (l : Nat) (hl : l < 64) : t.fmask.toNat.testBit l = true ↔ ∃ f ∈ t.lanes, f.lane = l := by
    rw [BitVec.testBit_toNat, TrapInfo.fmask, laneSet_getLsbD]
    simp [hl]
  have hctr (l : Nat) (hl : l < 64) : fieldAt b (0x80 + l) 1 = (g.ctrOf l).toNat := by
    rw [hb]
    simp (disch := omega) only [fieldAt_leBytes_skip]
    rw [show 128 + l - 2 - 2 - 1 - 1 - 1 - 1 - 8 - 8 - 8 - 8 - 8 - 8 - 8 - 1 - 1 - 6 - 8 - 8 - 40 = l by omega,
      fieldAt_ctrBytes g hl]
  refine ⟨hlen, ?_, ?_, ?_, ?_, ?_, ?_, ?_, ?_, ?_, ?_, ?_, ?_, ?_, ?_, ?_, ?_, ?_, ?_, hctr⟩
  all_goals
    rw [hb]
    simp only [fieldAt_leBytes_skip, fieldAt_leBytes_append, Nat.reduceLeDiff, Nat.reduceSub, Nat.reduceMul, Nat.le_refl,
      Nat.sub_self]
  · rfl
  · rfl
  · rfl
  · rfl
  · rfl
  · rw [Nat.mod_eq_of_lt hf3, hf1]
  · rw [Nat.mod_eq_of_lt hf3, hf2]
  · exact toNat_mod_two_pow _
  · rw [toNat_mod_two_pow]
    exact hmask
  · exact hvalid g.slot0 _
  · exact hvalid g.slot0 _
  · exact hvalid g.slot1 _
  · exact hvalid g.slot1 _
  · refine Nat.mod_eq_of_lt ?_
    split <;> split <;> decide
  · rfl
  · exact toNat_mod_two_pow _

end Sys2Proof.Machine
end

/-! SUPPORT. The return from a trap (R179, R244), privilege and the control registers (R47, R93, R178, R180). -/

section
/-! ### The return from a trap -/

namespace Sys2Proof.Machine

theorem exec_rte (o : Fields) (s : State) : exec (.rte o) s = execRte o s := rfl

/-- What `rte` does in a whole group that need not wait. -/
theorem execRte_of_ready {o : Fields} {s : State} (ha : s.cur.acts o.guard = true) (hc : s.cur.converged = true)
    (hw : s.rteWaits (val64 s o.imm o.a 0).toNat = false) :
    exec (.rte o) s = .next (s.returnTrap (val64 s o.imm o.a 0).toNat) := by
  rw [exec_rte]
  simp only [execRte, ha, hc, hw, Bool.not_true, Bool.false_eq_true, if_false]

theorem pageCause_eq (f : TrFault) : pageCause f = if f = .poison then 3 else 1 := by
  cases f <;> rfl

/-- The list that a map of its elements from key k on gives back. -/
theorem sget_ofDense {α : Type} [DecidableEq α] (d : α) (l : List α) (k j : Nat) :
    sget d (ofDense d k l) j = if k ≤ j then l.getD (j - k) d else d := by
  induction l generalizing k with
  | nil => simp [ofDense, sget]
  | cons v t ih =>
    rw [ofDense]
    split
    · rename_i hv
      rw [ih]
      rcases Nat.lt_trichotomy j k with h | rfl | h
      · rw [if_neg (by omega), if_neg (by omega)]
      · simp [hv]
      · rw [if_pos (by omega), if_pos (by omega), show j - k = (j - (k + 1)) + 1 by omega, List.getD_cons_succ]
    · rw [sget, sfind]
      rcases Nat.lt_trichotomy j k with h | rfl | h
      · rw [if_neg (by omega), if_neg (by omega), ← sget, ih, if_neg (by omega)]
      · simp
      · rw [if_neg (by omega), if_pos (by omega), ← sget, ih, if_pos (by omega),
          show j - k = (j - (k + 1)) + 1 by omega, List.getD_cons_succ]

/-- The depth counters that a record restores are its bytes from 0x80 on. -/
theorem sget_ctrs_restoreOf (b : Bytes) {l : Nat} (hl : l < 64) : sget 0 (ofDense 0 0 (restoreOf b).ctrs) l = b.getD (0x80 + l) 0 := by
  rw [sget_ofDense, if_pos (Nat.zero_le l)]
  simp [restoreOf, hl]

/-- What becomes of a record that has been read (R244). -/
theorem returnTrap_of_read {s u : State} {va : Nat} {x : Got} (hcan : canonical (va + 0xBF) = true)
    (hu : s.readVa s.cur.agent va 0xC0 = (.ok x, u)) :
    s.returnTrap va =
      if x.psn then u.trap 12 3
      else if !(restoreOf x.bytes).slotsOk u.cur then u.trap 1 11
      else match stackMasks (restoreOf x.bytes).pstk u with
        | (.error c, s) => s.trap 12 c
        | (.ok ms, s) =>
          if coversOnce s.cur (((restoreOf x.bytes).slots.map (·.mask)) ++ ms) then
            (s.clearBusy.modCur fun g => g.restore (restoreOf x.bytes)).retryHeld s.cur.gid
          else s.trap 1 11 := by
  rw [State.returnTrap, if_pos hcan, hu] <;> rfl

/-- Settles O25, by the branches of `execRte` and of `State.returnTrap`. -/
theorem returnFromTrap : Obligations.ReturnFromTrap := by
  unfold Obligations.ReturnFromTrap
  intro o s va slot cause
  have hcause (f : TrFault) : pageCause f = cause f := pageCause_eq f
  refine ⟨fun ha => ?_, fun ha hc => ?_, fun ha hc hw => ?_, fun ha hc hw => ⟨fun hva => ?_, fun hva => ⟨fun at_ f u hu => ?_,
    fun x u hu => ?_⟩⟩⟩
  · rw [exec_rte]
    simp only [execRte, ha, Bool.not_false, if_true]
  · rw [exec_rte]
    simp only [execRte, ha, hc, Bool.not_true, Bool.not_false, Bool.false_eq_true, if_true, if_false]
  · have hw' : s.rteWaits (val64 s o.imm o.a 0).toNat = true := hw
    show execRte o s = .next (s.hold .sys)
    simp only [execRte, ha, hc, hw', Bool.not_true, Bool.false_eq_true, if_true, if_false]
  · rw [execRte_of_ready ha hc hw]
    have hcan : ¬ canonical ((val64 s o.imm o.a 0).toNat + 0xBF) = true := by
      simpa [canonical] using hva
    simp only [State.returnTrap, if_neg hcan]
    rfl
  all_goals
    have hcan : canonical ((val64 s o.imm o.a 0).toNat + 0xBF) = true := by
      simpa [canonical] using hva
  · rw [execRte_of_ready ha hc hw, State.returnTrap, if_pos hcan, hu]
    exact congrArg (fun c => Host.Outcome.next (u.trap 12 c)) (hcause f)
  · rw [execRte_of_ready ha hc hw, returnTrap_of_read hcan hu]
    refine ⟨fun hp => ?_, fun hp hs => ?_, fun hp hs => ⟨fun c v hv => ?_, fun ms v hv => ⟨fun hm => ⟨_, ?_, fun l hl =>
      sget_ctrs_restoreOf x.bytes hl⟩, fun hm => ?_⟩⟩⟩
    · rw [if_pos hp]
    · rw [hp, if_neg Bool.false_ne_true, hs]
      rfl
    all_goals rw [hp, if_neg Bool.false_ne_true, hs, Bool.not_true, if_neg Bool.false_ne_true, hv]
    · exact congrArg Host.Outcome.next (if_pos hm)
    · exact congrArg Host.Outcome.next (if_neg (Bool.eq_false_iff.1 hm))

end Sys2Proof.Machine
end

section
/-! ### Privilege and the control registers (R47, R93, R178, R180) -/

namespace Sys2Proof.Machine

theorem exec_segld (seg : Space) (o : Fields) (s : State) : exec (.segld seg o) s = execSegld seg o s := rfl

theorem exec_srw (r : CtlReg) (o : Fields) (s : State) : exec (.srw r o) s = execSrw r o s := rfl

/-- Without privilege a class 0xE slot that passes the tests 1 to 8 fails test 9. -/
theorem firstOf5to9_without_priv {e : EntryEnv} {opc : Nat} {f : Form} {o : Fields} (h : firstOf5to9 e opc f o = 0)
    (hopc : opc / 64 = 0xE) : firstOf5to9 { e with priv := false } opc f o = 9 := by
  unfold firstOf5to9 at h ⊢
  split_ifs at h with h5 h6 h7 h8 h9
  rw [if_neg (show ¬ (!test5 { e with priv := false } f o) = true from h5), if_neg h6, if_neg h7,
    if_neg (show ¬ (!test8 { e with priv := false } f o) = true from h8), if_pos (by simp [hopc])]

theorem decodeSlot_without_priv {e : EntryEnv} {w : SlotWord} {i : Instr} (h : decodeSlot e w = .ok i)
    (hopc : (rawOf w).opc / 64 = 0xE) : decodeSlot { e with priv := false } w = .error (.failed 9) := by
  obtain ⟨h1, h3, o, f, ho, hf, h5, -⟩ := (decodeSlot_eq_ok_iff e w i).1 h
  have h2 : ¬ (formOf (rawOf w).opc (rawOf w).m noFields).isNone = true := by
    rw [isNone_formOf _ _ _ o, hf]
    exact Bool.false_ne_true
  simp only [decodeSlot, h1, h2, h3, ho, hf, firstOf5to9_without_priv h5 hopc, if_false,
    Bool.false_eq_true]

/-- The first slot that a line entry checks is its entry slot. -/
theorem slots_from {n : Nat} (h : n < 5) : (List.range 5).filter (n ≤ ·) = n :: (List.range 5).filter (n + 1 ≤ ·) := by
  revert n
  decide

theorem badSlot_of_entry {env : EntryEnv} {x : LineBits} {n t : Nat} (hn : n < 5)
    (h : decodeSlot env (lineSlot x n) = .error (.failed t)) :
    badSlot env x n = some ⟨if t = 9 then 7 else 1, 0, 4, t, n⟩ := by
  rw [badSlot, slots_from hn, List.filterMap_cons, h]
  rfl

/-- The ranges of the segment registers (R47). -/
theorem segOk_k (base limit : Nat) : segOk .k base limit = true ↔
    (base % 256 = 0 ∧ limit % 256 = 0) ∧ base < 2 ^ 54 ∧ 4096 ≤ limit ∧ limit ≤ 2 ^ 32 - 256 := by
  simp [segOk, canonical, and_assoc]

theorem segOk_s (base limit : Nat) : segOk .s base limit = true ↔
    (base % 256 = 0 ∧ limit % 256 = 0) ∧ base ≤ 0x7FF00 ∧ base + limit ≤ 0x80000 := by
  simp [segOk, Config.sharedBytes, and_assoc]

theorem segOk_y (base limit : Nat) : segOk .y base limit = true ↔
    (base % 256 = 0 ∧ limit % 256 = 0) ∧ base ≤ 0x5FFFF00 ∧ base + limit ≤ 0x6000000 := by
  simp [segOk, Config.yardBytes, and_assoc]

section

variable {seg : Space} {o : Fields} {s : State}

/-- The base that `segld` reads: 64 bits for `.k` and 32 for the others. -/
def segBase (seg : Space) (o : Fields) (s : State) : Nat :=
  if seg = .k then (val64 s o.imm o.a 0).toNat else (val s o.imm o.a 0).toNat

theorem segld_of_not_ok (ha : s.cur.acts o.guard = true) (h : ¬ segOk seg (segBase seg o s) (val s o.imm o.b 0).toNat = true) :
    exec (.segld seg o) s = .next (s.trap 1 7) := by
  rw [exec_segld, execSegld, ha]
  exact (if_neg Bool.false_ne_true).trans (if_pos (by simpa [segBase] using h))

theorem segld_of_ok (ha : s.cur.acts o.guard = true) (h : segOk seg (segBase seg o s) (val s o.imm o.b 0).toNat = true)
    (hp : ¬ (seg = .k ∧ s.cur.pstk ≠ 0)) : exec (.segld seg o) s =
      .next (s.modCur fun g => g.setSeg seg ⟨segBase seg o s, (val s o.imm o.b 0).toNat⟩).advance := by
  rw [exec_segld, execSegld, ha]
  exact (if_neg Bool.false_ne_true).trans ((if_neg (by simpa [segBase] using h)).trans (if_neg hp))

theorem srw_of_acts (r : CtlReg) (ha : s.cur.acts o.guard = true) :
    exec (.srw r o) s = .next (s.modCur fun g => g.setCtl r (val64 s o.imm o.a 0)).advance := by
  rw [exec_srw, execSrw, ha]
  exact if_neg Bool.false_ne_true

end

/-- Settles O26: test 9 is the last one, and `segld` and `srw` go by their ranges. -/
theorem privilegeAndControlRegisters : Obligations.PrivilegeAndControlRegisters := by
  unfold Obligations.PrivilegeAndControlRegisters
  refine ⟨fun e w i h hopc => ⟨decodeSlot_without_priv h hopc, fun x n hn hx => ?_⟩, fun o s => ⟨fun ha => ⟨fun seg => ?_, fun r => ?_⟩,
    fun ha => ⟨fun h hp => ?_, fun h hp => ?_, fun h => ?_, fun h => ?_, fun h => ?_, fun h => ?_, fun h => ?_, srw_of_acts _ ha,
      srw_of_acts _ ha, ?_⟩⟩⟩
  · exact badSlot_of_entry hn (hx ▸ decodeSlot_without_priv h hopc)
  · rw [exec_segld, execSegld, ha]
    exact if_pos rfl
  · rw [exec_srw, execSrw, ha]
    exact if_pos rfl
  · exact segld_of_ok ha ((segOk_k _ _).2 h) fun hk => hk.2 hp
  · rw [exec_segld, execSegld, ha]
    refine (if_neg Bool.false_ne_true).trans ((if_neg ?_).trans (if_pos ⟨rfl, hp⟩))
    simpa using (segOk_k _ _).2 h
  · exact segld_of_not_ok ha (mt (segOk_k _ _).1 h)
  · exact segld_of_ok ha ((segOk_s _ _).2 h) fun hk => absurd hk.1 (by decide)
  · exact segld_of_not_ok ha (mt (segOk_s _ _).1 h)
  · exact segld_of_ok ha ((segOk_y _ _).2 h) fun hk => absurd hk.1 (by decide)
  · exact segld_of_not_ok ha (mt (segOk_y _ _).1 h)
  · have hon : (val64 s o.imm o.a 0 != 0) = decide ((val64 s o.imm o.a 0).toNat ≠ 0) := by
      rw [bne, Bool.eq_iff_iff]
      simp [← BitVec.toNat_inj]
    rw [srw_of_acts _ ha]
    simp only [State.modCur, Group.setCtl, hon]

end Sys2Proof.Machine
end

/-! SUPPORT. Loads and stores of segments (R153 to R158), what they issue (R21, R24), and a load's return. -/

section
/-! ### The issue of an operation (R21, R24, R254) -/

namespace Sys2Proof.Machine

theorem modGroup_cur (s : State) (f : Group → Group) : s.modGroup s.cur.gid f = { s with cur := f s.cur } := by
  rw [State.modGroup]
  exact if_pos rfl

theorem raised_raise (g : Group) (m : BitVec 12) : Raised g (g.raise m) m :=
  ⟨rfl, fun n hn => g.flagCount_raise m n hn⟩

/-- An operation that a group issues: its entry, its number and its flags. -/
theorem issueOp_eq (s : State) (o : Fields) (opc queue : Nat) (dests : List RegRef) (w : Work) :
    s.issueOp o opc queue dests w = { s with
      cur := s.cur.raise (flagsOf s.cur.line o.fs), ops := sput s.ops s.nextId (newOp s o opc queue dests w),
      nextId := s.nextId + 1,
      seqs := if queue = noQueue then s.seqs
        else sput s.seqs (queueKey s.cur.coreNo queue) (sget 0 s.seqs (queueKey s.cur.coreNo queue) + 1) } := by
  rw [State.issueOp, State.addOp, show (newOp s o opc queue dests w).gid = s.cur.gid from rfl, modGroup_cur]
  rfl

/-- The slot goes on after the issue of one operation. -/
theorem issues_issueOp (s : State) (o : Fields) (opc queue : Nat) (dests : List RegRef) (w : Work) :
    Issues (.next (s.issueOp o opc queue dests w).advance) s o opc queue dests w := by
  refine ⟨newOp s o opc queue dests w, s.cur.raise (flagsOf s.cur.line o.fs), ?_, raised_raise _ _, ?_⟩
  · rw [issueOp_eq]
  · exact ⟨rfl, rfl, rfl, rfl, rfl, rfl, rfl, rfl, rfl, rfl, rfl, rfl, rfl, rfl⟩

end Sys2Proof.Machine
end

section
/-! ### The checks of a segment access (R153, R154) -/

namespace Sys2Proof.Machine

/-- Each lane of an access either passes its checks or fails. -/
theorem length_checkLanes (sp : Space) (acc : Acc) (n align size kind : Nat) (l : List LaneWords) (s : State) :
    (checkLanes sp acc n align size kind l s).1.length + (checkLanes sp acc n align size kind l s).2.1.length = l.length := by
  induction l generalizing s with
  | nil => rfl
  | cons e t ih =>
    obtain ⟨l, offs⟩ := e
    rw [checkLanes]
    split
    · rename_i ps u _
      exact (Nat.succ_add _ _).trans (congrArg Nat.succ (ih u))
    · rename_i off e u _
      exact congrArg Nat.succ (ih u)

/-- Some lane passes where some lane acts and none fails. -/
theorem checkLanes_ne_nil {sp : Space} {acc : Acc} {n align size kind : Nat} {l : List LaneWords} {s u : State}
    {ok : List (Nat × List Nat × List Place)} (h : checkLanes sp acc n align size kind l s = (ok, [], u)) (hl : l ≠ []) :
    ok ≠ [] := by
  rintro rfl
  have hlen := length_checkLanes sp acc n align size kind l s
  rw [h] at hlen
  exact hl (List.length_eq_zero_iff.1 hlen.symm)

section

variable {s u v : State} {o : Fields} {opc : Nat} {sp : Space} {n : Nat} {dests : List RegRef} {lanes : List LaneWords}
  {put : Nat → List Nat → List (RegRef × Nat × DWord)} {ok : List (Nat × List Nat × List Place)} {bad : List LaneFault}
  {vals : List (Nat × List Nat)} {psn : List LaneOp}

/-- A load of which no lane fails issues what it has read. -/
theorem loadOp_issues (hl : lanes ≠ []) (hc : checkLanes sp .read n n n 0 lanes s = (ok, [], u))
    (hw : u.mustWait sp (laneLocs u.cur sp lanes) n false = false) (hr : readLanes sp n ok u = (vals, psn, v)) :
    Issues (loadOp s o opc sp n dests lanes put) v o opc noQueue dests
      (.load (spaceNo sp) n ((vals.map fun e => put e.1 e.2).flatten) psn) := by
  have hok : ok.isEmpty = false := by simpa using checkLanes_ne_nil hc hl
  have h : loadOp s o opc sp n dests lanes put = .next (v.issueOp o opc noQueue dests
      (.load (spaceNo sp) n ((vals.map fun e => put e.1 e.2).flatten) psn)).advance := by
    simp only [loadOp, hc, hw, hr, hok, Bool.false_eq_true, if_false]
    rfl
  rw [h]
  exact issues_issueOp _ _ _ _ _ _

/-- A load of which every lane fails traps. -/
theorem loadOp_traps (hc : checkLanes sp .read n n n 0 lanes s = ([], bad, u)) (hb : bad ≠ [])
    (hw : u.mustWait sp (laneLocs u.cur sp lanes) n false = false) :
    loadOp s o opc sp n dests lanes put = .next (u.laneTrap bad) := by
  have hbad : ¬ bad.isEmpty = true := by simpa using hb
  simp only [loadOp, hc, hw, readLanes, List.isEmpty_nil, Bool.false_eq_true, if_true, if_false, State.finish, if_neg hbad]

/-- A store performs the lanes that pass, and then goes on or traps. -/
theorem storeOp_of_checked {data : Nat → List Bytes} (hc : checkLanes sp .write n n n 1 lanes s = (ok, bad, u))
    (hw : u.mustWait sp (laneLocs u.cur sp lanes) n false = false) :
    storeOp s sp n lanes data = .next ((ok.foldl (fun s e => writeWords sp e.2.2 (data e.1) s) u).finish bad) := by
  simp only [storeOp, hc, hw, Bool.false_eq_true, if_false]

end

theorem segCheck_eq (g : Group) (sp : Space) (off n align : Nat) : segCheck g sp off n align =
    if (if sp = .k then (g.seg sp).limit - 1024 else (g.seg sp).limit) < off + n then some 5
    else if off % align ≠ 0 then some 6 else none := rfl

end Sys2Proof.Machine
end

section
/-! ### `ld`, `ldb`, `st` and `stb` (R155 to R158) -/

namespace Sys2Proof.Machine

theorem exec_ld (m : LocalMod) (o : Fields) (s : State) : exec (.ld m o) s = execLd m o s := rfl
theorem exec_ldb (m : LocalMod) (o : Fields) (s : State) : exec (.ldb m o) s = execLdb m o s := rfl
theorem exec_st (m : LocalMod) (o : Fields) (s : State) : exec (.st m o) s = execSt m o s := rfl
theorem exec_stb (m : LocalMod) (o : Fields) (s : State) : exec (.stb m o) s = execStb m o s := rfl

/-- The extension of a loaded value (R157). -/
theorem extendLoad_eq (m : LocalMod) (x : Nat) : extendLoad m x =
    if m.sx then ((BitVec.ofNat (8 * 2 ^ m.w.toNat) x).signExtend 32).setWidth 64 else BitVec.ofNat 64 x := by
  rw [extendLoad, widthBytes, sext_eq_toInt _ _ (by positivity)]
  rfl

/-- `ld` in the lanes for which it acts. -/
theorem exec_ld_of_acts {m : LocalMod} {o : Fields} {s : State} (h : actLanes s.cur o (uniformDest o.d) ≠ []) :
    exec (.ld m o) s = loadOp s o 0x180 m.sp (2 ^ m.w.toNat) (loadDests m o.d)
      ((actLanes s.cur o (uniformDest o.d)).map fun l => (l, [laneOffset s o l])) (loadPut m o.d) := by
  rw [exec_ld, execLd, if_neg (by simpa using h)]
  rfl

/-- `ldb` in the lanes that take effect. -/
theorem exec_ldb_of_acts {m : LocalMod} {o : Fields} {s : State} {k : Fin 256} (hd : o.d = .v k)
    (h : maskLanes (s.cur.effect o.guard) ≠ []) :
    exec (.ldb m o) s = loadOp s o 0x182 m.sp 4 ((List.range (m.cnt.toNat + 1)).map fun i => .v (k.val + i))
      ((maskLanes (s.cur.effect o.guard)).map (blockWords s m o))
      fun l xs => (xs.zipIdx).map fun e => (.v (k.val + e.2), l, BitVec.ofNat 64 e.1) := by
  rw [exec_ldb, execLdb]
  simp only [hd]
  exact if_neg (by simpa using h)

/-- What the checks give for `.s` and `.y`: the place at the segment's base plus the offset. -/
theorem segPlace_of_local {s : State} {sp : Space} {acc : Acc} {off n align : Nat} (hc : segCheck s.cur sp off n align = none)
    (hk : sp ≠ .k) : s.segPlace sp acc off n align = (.ok ⟨(s.cur.seg sp).base + off, 0⟩, s) := by
  simp only [State.segPlace, hc, if_neg hk]

/-- What the checks give for `.k`, whose address is translated. -/
theorem segPlace_of_k {s : State} {acc : Acc} {off n align : Nat} (hc : segCheck s.cur .k off n align = none) :
    s.segPlace .k acc off n align =
      if !canonical ((s.cur.seg .k).base + off) then (.error (12, 1), s)
      else match s.translate (some s.cur.coreNo) s.cur.ctx ((s.cur.seg .k).base + off) acc with
        | (.ok pa attr _ _, s) => (.ok ⟨pa, attr⟩, s)
        | (.fault f, s) => (.error (12, pageCause f), s) := by
  simp only [State.segPlace, hc, if_true] <;> rfl

/-- The checks of R153, the limit before the alignment. -/
theorem segPlace_checks (s : State) (sp : Space) (acc : Acc) (off n align : Nat) :
    let lim := if sp = .k then (s.cur.seg sp).limit - 1024 else (s.cur.seg sp).limit
    (lim < off + n → s.segPlace sp acc off n align = (.error (5, 0), s))
      ∧ (off + n ≤ lim → off % align ≠ 0 → s.segPlace sp acc off n align = (.error (6, 0), s))
      ∧ (off + n ≤ lim → off % align = 0 → segCheck s.cur sp off n align = none) := by
  refine ⟨fun h => ?_, fun h ha => ?_, fun h ha => ?_⟩
  · have hc : segCheck s.cur sp off n align = some 5 := by
      rw [segCheck_eq, if_pos h]
    simp only [State.segPlace, hc]
  · have hc : segCheck s.cur sp off n align = some 6 := by
      rw [segCheck_eq, if_neg (Nat.not_lt.2 h), if_pos ha]
    simp only [State.segPlace, hc]
  · rw [segCheck_eq, if_neg (Nat.not_lt.2 h), if_neg (not_not.2 ha)]

/-- Settles O27, by the branches of `loadOp` and of `State.segPlace`. -/
theorem localLoads : Obligations.LocalLoads := by
  unfold Obligations.LocalLoads
  refine ⟨fun m o s u v ok vals psn => ?_, fun s sp acc off n align hg hal => ?_⟩
  · intro act eff n ext dests put one run
    have hput : loadPut m o.d = put := by
      funext l xs
      simp only [loadPut, extendLoad_eq]
      rfl
    refine ⟨fun ha => ?_, fun ha hc hw hr hv => ?_, fun bad ha hc hb hw => ?_, fun k hk => ⟨fun he => ?_, fun he hc hw hr hv => ?_⟩⟩
    · rw [exec_ld, execLd, if_pos (by simpa using ha)]
    · rw [exec_ld_of_acts ha, ← hput]
      exact loadOp_issues (by simpa using ha) hc hw hr
    · rw [exec_ld_of_acts ha]
      exact loadOp_traps hc hb hw
    · have he' : maskLanes (s.cur.effect o.guard) = [] := he
      rw [exec_ldb, execLdb]
      simp only [hk, he', List.isEmpty_nil, if_true]
    · rw [exec_ldb_of_acts hk he]
      exact loadOp_issues (by simpa using he) hc hw hr
  · obtain ⟨h5, h6, h0⟩ := segPlace_checks s sp acc off n align
    refine ⟨h5, h6, fun hl ha => ⟨segPlace_of_local (h0 hl ha), ?_, ?_⟩⟩
    · rintro rfl hva
      rw [segPlace_of_k (h0 hl ha), if_pos]
      simpa [canonical] using hva
    · rintro rfl hva
      have hcan : ¬ (!canonical ((s.cur.seg .k).base + off)) = true := by simpa [canonical] using hva
      refine ⟨fun pa attr r w u hu => ?_, fun f u hu => ?_⟩
      · rw [segPlace_of_k (h0 hl ha), if_neg hcan, hu]
      · rw [segPlace_of_k (h0 hl ha), if_neg hcan, hu]
        exact congrArg (fun c => (Except.error (12, c), u)) (pageCause_eq f)

end Sys2Proof.Machine
end

section
/-! ### Team-shared memory (R155, R157) -/

namespace Sys2Proof.Machine

/-- Lanes of an access that pass their checks, each with one word at a place of a local segment. -/
theorem checkLanes_of_local {sp : Space} (hk : sp ≠ .k) (acc : Acc) (n size kind : Nat) (ls : List Nat) (off : Nat → Nat) (s : State)
    (h : ∀ l ∈ ls, off l + n ≤ (s.cur.seg sp).limit ∧ off l % n = 0) :
    checkLanes sp acc n n size kind (ls.map fun l => (l, [off l])) s
      = (ls.map fun l => (l, [off l], [⟨(s.cur.seg sp).base + off l, 0⟩]), [], s) := by
  induction ls with
  | nil => rfl
  | cons l t ih =>
    have hc : segCheck s.cur sp (off l) n n = none :=
      (segPlace_checks s sp acc (off l) n n).2.2 (by rw [if_neg hk]; exact (h l List.mem_cons_self).1) (h l List.mem_cons_self).2
    simp only [List.map_cons, checkLanes, wordPlaces, segPlace_of_local hc hk, ih fun l hl => h l (List.mem_cons_of_mem _ hl)]

/-- The places that lanes with one word each name. -/
theorem laneLocs_of_single (g : Group) (sp : Space) (ls : List Nat) (off : Nat → Nat) :
    laneLocs g sp (ls.map fun l => (l, [off l])) = ls.map fun l => (g.seg sp).base + off l := by
  induction ls with
  | nil => rfl
  | cons l t ih => exact congrArg (List.cons _) ih

/-- A read of a core's memory where no word is poisoned. -/
theorem readLocal_shared {s : State} (h : s.mem.sharedPsn = []) (core off n : Nat) :
    s.readLocal .s core off n = ⟨s.sharedBytesAt core off n, false⟩ := by
  simp [State.readLocal, State.sharedBytesAt, State.sharedByte, h, sget]

theorem readLanes_of_shared {s : State} (h : s.mem.sharedPsn = []) (n : Nat) (ls : List Nat) (off at_ : Nat → Nat) :
    readLanes .s n (ls.map fun l => (l, [off l], [⟨at_ l, 0⟩])) s
      = (ls.map fun l => (l, [ofLe (s.sharedBytesAt s.cur.coreNo (at_ l) n)]), [], s) := by
  induction ls with
  | nil => rfl
  | cons l t ih =>
    simp only [List.map_cons, readLanes, readWords, State.readPlace, if_neg (show ¬ Space.s = Space.k by decide), spaceUnit, if_true,
      readLocal_shared h, ih, Bool.or_self, Bool.false_eq_true, if_false]

theorem sharedAt_inj {c d a b : Nat} (ha : a < Config.sharedBytes) (hb : b < Config.sharedBytes)
    (h : sharedAt c a = sharedAt d b) : c = d ∧ a = b := by
  simp only [sharedAt, Config.sharedBytes] at *
  omega

/-- A write to a core's memory, where no wait stands that it could end. -/
theorem writeLocal_shared {s : State} (hm : s.mon = []) (core off : Nat) (b : Bytes) :
    s.writeLocal .s core off b = { s with mem := { s.mem with
      shared := storeAt s.mem.shared ((List.range b.length).map fun i => sharedAt core (off + i)) b
      sharedPsn := clearCovered 8 s.mem.sharedPsn ((List.range b.length).map fun i => sharedAt core (off + i)) } } := by
  rw [State.writeLocal]
  refine wakeRange_of_no_wait ?_ _ _ _ _
  exact hm

/-- A byte of a core's memory after a write to one core's, where no wait stands. -/
theorem sharedByte_writeLocal {s : State} (hm : s.mon = []) (core off : Nat) (b : Bytes) (hb : off + b.length ≤ Config.sharedBytes)
    (c a : Nat) (ha : a < Config.sharedBytes) : (s.writeLocal .s core off b).sharedByte c a =
      if c = core ∧ off ≤ a ∧ a < off + b.length then b.getD (a - off) 0 else s.sharedByte c a := by
  rw [writeLocal_shared hm]
  show sget 0 (storeAt _ _ _) _ = _
  split
  · rename_i h
    obtain ⟨rfl, h1, h2⟩ := h
    have hn : ((List.range b.length).map fun i => sharedAt c (off + i)).Nodup := by
      refine List.Nodup.map_on (fun i hi j hj h => ?_) List.nodup_range
      have := (sharedAt_inj (by have := List.mem_range.1 hi; omega) (by have := List.mem_range.1 hj; omega) h).2
      omega
    have hget := congrArg (fun l => l.getD (a - off) 0) (map_sget_storeAt s.mem.shared _ b hn (by simp))
    have hi : a - off < b.length := by omega
    simpa [hi, Nat.add_sub_cancel' h1] using hget
  · rename_i h
    refine sget_storeAt_other _ _ _ _ fun hmem => h ?_
    obtain ⟨i, hi, he⟩ := List.mem_map.1 hmem
    have hi := List.mem_range.1 hi
    obtain ⟨hc, hoff⟩ := sharedAt_inj (by omega) ha he
    omega

theorem getD_leBytes (n x i : Nat) (h : i < n) : (leBytes n x).getD i 0 = BitVec.ofNat 8 (x / 2 ^ (8 * i)) := by
  induction n generalizing x i with
  | zero => omega
  | succ n ih =>
    cases i with
    | zero => simp [leBytes]
    | succ i =>
      rw [leBytes, List.getD_cons_succ, ih _ _ (by omega), Nat.div_div_eq_div_mul, Nat.mul_succ, Nat.pow_add, Nat.mul_comm]

/-- The stores of lanes in order, one word each, to a core's memory. -/
def storeShared (core n : Nat) (at_ data : Nat → Nat) (ls : List Nat) (s : State) : State :=
  ls.foldl (fun t l => t.writeLocal .s core (at_ l) (leBytes n (data l))) s

/-- What the stores of lanes change: the core's memory and its poison alone. -/
theorem storeShared_frame {s : State} (hm : s.mon = []) (core n : Nat) (at_ data : Nat → Nat) (ls : List Nat) :
    storeShared core n at_ data ls s = { s with mem := { s.mem with
      shared := (storeShared core n at_ data ls s).mem.shared, sharedPsn := (storeShared core n at_ data ls s).mem.sharedPsn } } := by
  refine foldl_keeps (fun t : State => t = { s with mem := { s.mem with shared := t.mem.shared, sharedPsn := t.mem.sharedPsn } })
    _ ls s rfl fun t l ht => ?_
  rw [writeLocal_shared (by rw [ht]; exact hm), ht]

/-- The bytes that the stores of ascending lanes leave: each that some lane covers is the highest one's, every other one is as
before. -/
theorem sharedByte_storeShared {s : State} (hm : s.mon = []) {core n : Nat} {at_ data : Nat → Nat} {ls : List Nat}
    (hls : ls.Pairwise (· < ·)) (hb : ∀ l ∈ ls, at_ l + n ≤ Config.sharedBytes) {c a : Nat} (ha : a < Config.sharedBytes) :
    (c ≠ core ∨ (∀ l ∈ ls, ¬ (at_ l ≤ a ∧ a < at_ l + n)) → (storeShared core n at_ data ls s).sharedByte c a = s.sharedByte c a)
      ∧ ∀ l ∈ ls, c = core → at_ l ≤ a ∧ a < at_ l + n → (∀ j ∈ ls, at_ j ≤ a ∧ a < at_ j + n → j ≤ l) →
        (storeShared core n at_ data ls s).sharedByte c a = BitVec.ofNat 8 (data l / 2 ^ (8 * (a - at_ l))) := by
  induction ls using List.reverseRecOn with
  | nil => exact ⟨fun _ => rfl, fun l hl => absurd hl List.not_mem_nil⟩
  | append_singleton t k ih =>
    have hlt : ∀ j ∈ t, j < k := fun j hj => (List.pairwise_append.1 hls).2.2 j hj k (List.mem_singleton_self k)
    obtain ⟨ih1, ih2⟩ := ih (List.pairwise_append.1 hls).1 fun l hl => hb l (List.mem_append_left _ hl)
    have hk : at_ k + (leBytes n (data k)).length ≤ Config.sharedBytes := by
      rw [leBytes_length]
      exact hb k (List.mem_append_right _ (List.mem_singleton_self k))
    have hstep : (storeShared core n at_ data (t ++ [k]) s).sharedByte c a =
        if c = core ∧ at_ k ≤ a ∧ a < at_ k + n then (leBytes n (data k)).getD (a - at_ k) 0
        else (storeShared core n at_ data t s).sharedByte c a := by
      have hmon : (storeShared core n at_ data t s).mon = [] := by
        rw [storeShared_frame hm]
        exact hm
      rw [storeShared, List.foldl_append]
      refine (sharedByte_writeLocal hmon core (at_ k) _ hk c a ha).trans ?_
      rw [leBytes_length]
    rw [hstep]
    refine ⟨fun h => ?_, fun l hl hc hcov hmax => ?_⟩
    · rw [if_neg, ih1]
      · exact h.imp id fun h l hl => h l (List.mem_append_left _ hl)
      · rintro ⟨hc, hcov⟩
        exact h.elim (· hc) fun h => h k (List.mem_append_right _ (List.mem_singleton_self k)) hcov
    · by_cases hcov' : at_ k ≤ a ∧ a < at_ k + n
      · have hle := hmax k (List.mem_append_right _ (List.mem_singleton_self k)) hcov'
        have hlk : l = k := by
          rcases List.mem_append.1 hl with hl | hl
          · exact absurd (hlt l hl) (by omega)
          · exact List.mem_singleton.1 hl
        rw [if_pos ⟨hc, hcov'⟩, getD_leBytes _ _ _ (by omega), hlk]
      · rw [if_neg fun h => hcov' h.2]
        have hlt : l ∈ t := by
          rcases List.mem_append.1 hl with hl | hl
          · exact hl
          · exact absurd (List.mem_singleton.1 hl ▸ hcov) hcov'
        exact ih2 l hlt hc hcov fun j hj => hmax j (List.mem_append_left _ hj)

theorem maskLanes_pairwise_lt (m : LaneMask) : (maskLanes m).Pairwise (· < ·) := List.Pairwise.filter _ List.pairwise_lt_range

/-- Words of one lane each, stored in the core's memory of the issuing group. -/
theorem foldl_writeWords_shared {s : State} (hm : s.mon = []) (n : Nat) (at_ data off : Nat → Nat) (ls : List Nat) :
    (ls.map fun l => (l, [off l], [(⟨at_ l, 0⟩ : Place)])).foldl
      (fun (t : State) e => writeWords .s e.2.2 [leBytes n (data e.1)] t) s = storeShared s.cur.coreNo n at_ data ls s := by
  rw [List.foldl_map]
  induction ls using List.reverseRecOn with
  | nil => rfl
  | append_singleton t l ih =>
    have hcur : (storeShared s.cur.coreNo n at_ data t s).cur = s.cur := by rw [storeShared_frame hm]
    have hlast : storeShared s.cur.coreNo n at_ data (t ++ [l]) s =
        (storeShared s.cur.coreNo n at_ data t s).writeLocal .s s.cur.coreNo (at_ l) (leBytes n (data l)) := by
      rw [storeShared, List.foldl_append]
      rfl
    rw [List.foldl_append, ih, hlast]
    simp only [List.foldl_cons, List.foldl_nil, writeWords, State.writePlace, if_neg (show ¬ Space.s = Space.k by decide), spaceUnit,
      if_true, hcur]

/-- Settles O28: the lanes are checked and read, or stored, one after another, and no step but the store changes anything. -/
theorem sharedMemoryAccess : Obligations.SharedMemoryAccess := by
  unfold Obligations.SharedMemoryAccess
  refine ⟨fun m o s k => ?_, fun m o s => ?_⟩
  · intro eff n off value hsp hw hsx hd heff hpsn hl hwait
    have hact : actLanes s.cur o (uniformDest o.d) = eff := by rw [hd]; rfl
    have hc := checkLanes_of_local (sp := .s) (by decide) .read n n 0 eff off s hl
    have hr := readLanes_of_shared hpsn n eff off fun l => s.cur.sgs.base + off l
    have hld := exec_ld_of_acts (m := m) (o := o) (s := s) (by rw [hact]; exact heff)
    rw [hact, hsp] at hld
    rw [hld]
    have hlocs := laneLocs_of_single s.cur .s eff off
    have h := loadOp_issues (o := o) (opc := 0x180) (dests := loadDests m o.d) (put := loadPut m o.d) (by simpa using heff) hc
      (by rw [hlocs]; exact hwait) hr
    have hdests : loadDests m o.d = [.v k.val] := by simp only [hd, loadDests, if_neg hw]
    have hput (l x : Nat) : loadPut m o.d l [x] = [(.v k.val, l, BitVec.ofNat 64 x)] := by
      simp only [hd, loadPut, if_neg hw, extendLoad, hsx, Bool.false_eq_true, if_false, List.headD_cons]
    have hvals : ((eff.map fun l => (l, [value l])).map fun e => loadPut m o.d e.1 e.2).flatten
        = eff.map fun l => (.v k.val, l, BitVec.ofNat 64 (value l)) := by
      simp only [List.map_map, Function.comp_def, hput, ← List.flatMap_def]
      exact List.flatMap_pure_eq_map _ _
    rw [hdests] at h
    rw [← hvals, hdests]
    exact h
  · intro eff n at_ data covers hsp hm hl hlim hwait
    have hc := checkLanes_of_local (sp := .s) (by decide) .write n n 1 eff (laneOffset s o) s fun l hle =>
      ⟨Nat.add_le_add_iff_left.1 (Nat.add_assoc _ _ _ ▸ (hl l hle).1), by simpa [at_, laneOffset] using (hl l hle).2⟩
    have hlocs := laneLocs_of_single s.cur .s eff (laneOffset s o)
    have hst := storeOp_of_checked (data := fun l => [leBytes n (data l)]) hc (by rw [hlocs]; exact hwait)
    rw [foldl_writeWords_shared hm] at hst
    refine ⟨storeShared s.cur.coreNo n at_ data eff s, ?_, storeShared_frame hm _ _ _ _ _, fun c a ha => ?_⟩
    · rw [exec_st, execSt, hsp]
      exact hst
    · have hb : ∀ l ∈ eff, at_ l + n ≤ Config.sharedBytes := fun l hle => (hl l hle).1.trans hlim
      obtain ⟨h1, h2⟩ := sharedByte_storeShared hm (data := data) (maskLanes_pairwise_lt _) hb ha (c := c) (core := s.cur.coreNo)
      exact ⟨fun h => h1 (h.imp id fun h l hle hcov => h l ⟨hle, hcov⟩),
        fun l hcore hcov hmax => h2 l hcov.1 hcore hcov.2 fun j hj hjc => hmax j ⟨hj, hjc⟩⟩

end Sys2Proof.Machine
end

section
/-! ### Stores -/

namespace Sys2Proof.Machine

/-- The end of an access: on to the next point, or the trap of the lanes that failed (R154). -/
theorem finish_ends (t : State) (bad : List LaneFault) :
    (bad = [] → t.finish bad = t.advance) ∧ (bad ≠ [] → t.finish bad = t.laneTrap bad) := by
  refine ⟨fun h => ?_, fun h => ?_⟩
  · rw [State.finish, h]
    rfl
  · exact if_neg (by simpa using h)

/-- Settles O29: a store is `storeOp` of its lanes. -/
theorem localStores : Obligations.LocalStores := by
  unfold Obligations.LocalStores
  intro m o s u ok bad eff n one run word ends
  have hends {i : Instr} {t : State} (h : exec i s = .next (t.finish bad)) : ends i t :=
    ⟨fun hb => h.trans (congrArg _ ((finish_ends t bad).1 hb)), fun hb => h.trans (congrArg _ ((finish_ends t bad).2 hb))⟩
  refine ⟨fun hc hw => hends ?_, fun hc hw => hends ?_⟩
  · rw [exec_st, execSt]
    exact storeOp_of_checked hc hw
  · have hword : word = stbWord s o := rfl
    rw [exec_stb, execStb, hword]
    exact storeOp_of_checked hc hw

end Sys2Proof.Machine
end

/-! SUPPORT. The end of an operation (R21, R24, R185, R289), and a load's return. -/

section

namespace Sys2Proof.Machine

/-! ### The end of an operation -/

theorem mem_of_sfind {α : Type} {m : Sparse α} {k : Nat} {v : α} (h : sfind m k = some v) : (k, v) ∈ m := by
  induction m with
  | nil => simp at h
  | cons e t ih =>
    obtain ⟨j, w⟩ := e
    rw [sfind] at h
    split at h
    · rename_i hj
      cases h
      subst hj
      exact List.mem_cons_self
    · exact List.mem_cons_of_mem _ (ih h)

/-- No name has turned away from a tile of the group, so nothing is dropped (R289). -/
theorem dropTurnedAll_of_none {s : State} {gid : Nat} {g : Group} (hg : s.tileGroup gid = some g)
    (h : ∀ e ∈ g.tiles, e.2.turned = none) : s.dropTurnedAll gid = s := by
  rw [State.dropTurnedAll, hg]
  refine foldl_keeps (fun u : State => u = s) _ _ _ rfl fun u k hu => ?_
  rw [hu, State.dropTurned, hg]
  dsimp only
  split
  · rfl
  · rename_i t ht
    rw [h _ (mem_of_sfind ht)]

theorem tileGroup_of_any {s : State} {gid : Nat} {g : Group} (h : s.anyGroup gid = some g) : s.tileGroup gid = some g := by
  rw [State.tileGroup, h]
  rfl

theorem anyGroup_of_gid {s : State} {gid : Nat} (h : gid = s.cur.gid) : s.anyGroup gid = some s.cur := h ▸ anyGroup_cur s

/-- An operation of the issuing group ends: its results are written and its flags fall. -/
theorem endOp_of_cur {s : State} {id : Nat} {op : Op} (h : sfind s.ops id = some op) (hg : op.gid = s.cur.gid)
    (hd : op.deferred = []) : s.endOp id = { s with
      ops := sdel s.ops id, cur := (op.outs.foldl (fun g w => g.writeReg w.1 w.2.1 w.2.2) s.cur).lower op.flags } := by
  simp only [State.endOp, h, hd, List.foldl_nil, State.modGroup, hg, if_true]

/-- An operation of the group itself that completes without a failure, where no tile has to be dropped: its leave goes back
and its events are counted, and then it ends. -/
theorem completeOp_of_ok {s : State} {id : Nat} {op : Op} {g : Group} (h : sfind s.ops id = some op)
    (hg : s.anyGroup op.gid = some g) (ht : ∀ e ∈ g.tiles, e.2.turned = none) (hs : op.status = 0) (hq : ¬ op.queue < 6)
    (hc : ((s.returnLeave id).count op.grid (op.census ++ (s.returnLeave id).namedSite op)).anyGroup op.gid = some g) :
    s.completeOp id = ((s.returnLeave id).count op.grid (op.census ++ (s.returnLeave id).namedSite op)).endOp id := by
  have hd := dropTurnedAll_of_none (tileGroup_of_any hg) ht
  simp only [State.completeOp, h, hd, Option.bind_some, if_neg hq, hc, hs, true_or, if_true]

theorem count_nil (s : State) (grid : Nat) : s.count grid [] = s := rfl

/-- An operation without leave gives none back. -/
theorem returnLeave_eq {s : State} {id : Nat} {op : Op} (h : sfind s.ops id = some op) : s.returnLeave id = { s with
    leave := { s.leave with free := s.leave.free + op.grant, waiting := s.leave.waiting.filter (· ≠ id) },
    ops := supd s.ops id fun op => { op with grant := 0 } } := by
  rw [State.returnLeave, h]
  rfl

/-! ### A load's return (R24) -/

theorem exec_loadReturn (id : Nat) (s : State) : exec (.loadReturn id) s = execLoadReturn id s := rfl

theorem handlerPoison_nil (s : State) (op : Op) : s.handlerPoison op [] = none := by
  rw [State.handlerPoison]
  split
  · exact if_neg fun h => absurd h.2.2 (by decide)
  · rfl

/-- Settles O31: the operation takes its values, and ends. -/
theorem loadReturns : Obligations.LoadReturns := by
  unfold Obligations.LoadReturns
  intro id s op sp n outs h hw hp hg hq hgr hst hce hde ht
  have hop : sfind ((s.modOp id fun op => { op with outs := outs }).modOp id fun op => op).ops id = some { op with outs := outs } := by
    simp [sfind_supd, h]
  generalize hu : ((s.modOp id fun op => { op with outs := outs }).modOp id fun op => op) = u at hop
  have hcur : u.cur = s.cur := by rw [← hu]; rfl
  have hr := returnLeave_eq hop
  have hcount : (u.returnLeave id).count op.grid (op.census ++ (u.returnLeave id).namedSite { op with outs := outs }) = u.returnLeave id := by
    rw [hce, State.namedSite]
    simp only [hw]
    exact count_nil _ _
  have hany : (u.returnLeave id).anyGroup op.gid = some s.cur := by
    rw [hr]
    exact anyGroup_of_gid (hg.trans (congrArg Group.gid hcur.symm)) |>.trans (congrArg some hcur)
  have hdone : exec (.loadReturn id) s = .next (u.completeOp id) := by
    rw [exec_loadReturn]
    simp only [execLoadReturn, h, hw, hp, handlerPoison_nil, ← hu]
    rfl
  have hfin := completeOp_of_ok (g := s.cur) hop ((anyGroup_of_gid (hg.trans (congrArg Group.gid hcur.symm))).trans (congrArg some hcur)) ht
    hst (by simp [hq, noQueue]) (hcount.symm ▸ hany)
  have hop' : sfind (u.returnLeave id).ops id = some { op with outs := outs, grant := 0 } := by
    rw [hr]
    simp [sfind_supd, hop]
  have hrc : (u.returnLeave id).cur = s.cur := by rw [hr]; exact hcur
  have hend := endOp_of_cur hop' (hg.trans (congrArg Group.gid hrc.symm)) hde
  refine ⟨_, hdone, ?_⟩
  rw [hfin, hcount, hend, hrc, hr, ← hu]
  refine ⟨rfl, rfl, ?_, fun j hj => ?_, rfl, rfl⟩
  · simp [sfind_sdel]
  · simp [sfind_sdel, sfind_supd, hj]

end Sys2Proof.Machine
end

/-! SUPPORT. Fences (R175) and phase-bit barriers (R173, R174). -/

section
/-! ### A `qfence` and the entries before it (R175) -/

namespace Sys2Proof.Machine

theorem exec_qfence (o : Fields) (s : State) : exec (.qfence o) s = execQfence o s := rfl

/-- A `qfence` over two or more queues keeps the entries that still wait for something, and adds its own. -/
theorem exec_qfence_of_acts {o : Fields} {s : State} (ha : s.cur.acts o.guard = true)
    (h : ¬ countOnes 6 ((val s o.imm o.a 0).toNat % 64) < 2) : exec (.qfence o) s = .next (State.advance { s with
      qfences := s.liveFences ++ [⟨s.cur.gid, s.cur.coreNo, (val s o.imm o.a 0).toNat % 64, s.nextId, 0⟩] }) := by
  rw [exec_qfence, execQfence, if_neg (by simpa [ha] using h)]

theorem advance_qfences {s : State} (h : pcSlot s.cur.pc < 4) : s.advance.qfences = s.qfences := by
  rw [advance_within h]

/-- The fields of a `qfence` over the queues 0 and 1. -/
def twoQueues : Fields := ⟨⟨false, 7⟩, zeroOpnd, .imm, zeroOpnd, zeroOpnd, 0, 3⟩

/-- A group with one load outstanding, which enters no queue, and one `qfence` entry over the queues 0 and 1, which are empty. -/
def idleFence : State :=
  { State.reset with
    cur := { Group.vacant with gid := 1, exited := 0, slot0 := ⟨0, BitVec.allOnes 64, true, none, 0⟩ },
    ops := [(1, newOp State.reset twoQueues 0x180 noQueue [] (.load 1 4 [] []))],
    nextId := 6, qfences := [⟨1, 0, 3, 5, 0⟩] }

theorem idleFence_facts : idleFence.cur.acts twoQueues.guard = true
    ∧ (val idleFence twoQueues.imm twoQueues.a 0).toNat % 64 = 3 ∧ countOnes 6 3 = 2 ∧ (List.range 6).countP (3 : Nat).testBit = 2
    ∧ idleFence.liveFences = [] ∧ pcSlot idleFence.cur.pc < 4 := by
  decide +kernel

/-- Refutes O32: a `qfence` drops an entry of its core whose queues are empty, though an earlier load of the core, which enters
no queue, is outstanding. -/
theorem not_fencesAndWholeGroupBarriers : ¬ Obligations.FencesAndWholeGroupBarriers := by
  unfold Obligations.FencesAndWholeGroupBarriers
  intro h
  obtain ⟨hacts, hmask, hones, hcount, hlive, hslot⟩ := idleFence_facts
  have hq := ((h.1 ⟨.rel, .core⟩ twoQueues idleFence).2 hacts).2.2.2.2.2
  rw [hmask] at hq
  obtain ⟨q, hexec, -, hkeeps⟩ := hq (by rw [hcount])
  have hmem : (⟨1, 0, 3, 5, 0⟩ : QFence) ∈ q :=
    hkeeps _ (List.mem_singleton_self _) ⟨_, List.mem_singleton_self _, by decide, rfl⟩
  rw [exec_qfence_of_acts hacts (by rw [hmask, hones]; decide), hlive, hmask] at hexec
  have hlen := congrArg (fun t : State => t.qfences.length) (Host.Outcome.next.inj hexec)
  have hadv (l : List QFence) : (State.advance { idleFence with qfences := l }).qfences = l := advance_qfences hslot
  rw [hadv, hadv] at hlen
  cases q with
  | nil => exact absurd hmem List.not_mem_nil
  | cons f t => simp at hlen

end Sys2Proof.Machine
end

section
/-! ### Phase-bit barriers (R173, R174) -/

namespace Sys2Proof.Machine

theorem exec_phbarInit (o : Fields) (s : State) : exec (.phbarInit o) s = execPhbarInit o s := rfl
theorem exec_phbarArr (o : Fields) (s : State) : exec (.phbarArr o) s = execPhbarArr o s := rfl
theorem exec_phbarQuit (o : Fields) (s : State) : exec (.phbarQuit o) s = execPhbarQuit o s := rfl
theorem exec_phbarWait (o : Fields) (s : State) : exec (.phbarWait o) s = execPhbarWait o s := rfl
theorem exec_phbarTest (o : Fields) (s : State) : exec (.phbarTest o) s = execPhbarTest o s := rfl
theorem exec_phbarGen (o : Fields) (s : State) : exec (.phbarGen o) s = execPhbarGen o s := rfl

/-- The phase-bit barrier functions. -/
def phbarInstrs : List (Fields → Instr) := [.phbarInit, .phbarArr, .phbarQuit, .phbarWait, .phbarTest, .phbarGen]

theorem phbarRead_step (s : State) (o : Fields) (f : Nat → Nat → Phbar → State → State) : ∃ k, phbarRead s o f = phbarStep s o k :=
  ⟨fun core at_ s =>
    match s.phbarAt core at_ with
    | none => s.trap 12 3
    | some b => f core at_ b s, rfl⟩

/-- Each function is `phbarStep` of what it does at its object. -/
theorem phbar_step (o : Fields) (s : State) : ∀ f ∈ phbarInstrs, ∃ k, exec (f o) s = phbarStep s o k := by
  simp only [phbarInstrs, List.forall_mem_cons]
  refine ⟨⟨_, exec_phbarInit o s⟩, ?_, ?_, ?_, ?_, ?_, fun _ h => absurd h List.not_mem_nil⟩
  · rw [exec_phbarArr]
    exact phbarRead_step s o _
  · rw [exec_phbarQuit]
    exact phbarRead_step s o _
  · rw [exec_phbarWait]
    exact phbarRead_step s o _
  · rw [exec_phbarTest]
    exact phbarRead_step s o _
  · rw [exec_phbarGen]
    exact phbarRead_step s o _

section

variable {o : Fields} {s : State} {k : Nat → Nat → State → State}

theorem phbarStep_outside (h : s.cur.outsideFocus = true) : phbarStep s o k = .next (s.trap 2 0) := if_pos h

theorem phbarStep_idle (h : s.cur.outsideFocus = false) (ha : s.cur.acts o.guard = false) : phbarStep s o k = .next s.advance := by
  rw [phbarStep, h, ha]
  rfl

/-- What a function does where it acts. -/
theorem phbarStep_acts (h : s.cur.outsideFocus = false) (ha : s.cur.acts o.guard = true) : phbarStep s o k =
    match segCheck s.cur .s (val s o.imm o.a 0).toNat 16 16 with
    | some c => .next (s.trap c 0)
    | none =>
      if s.mustWait .s [s.cur.sgs.base + (val s o.imm o.a 0).toNat] 16 false then .next (s.hold .fence)
      else .next (k s.cur.coreNo (s.cur.sgs.base + (val s o.imm o.a 0).toNat) s) := by
  rw [phbarStep, h, ha]
  rfl

end

section

variable {o : Fields} {s : State} {k : Nat → Nat → Phbar → State → State} (h : s.cur.outsideFocus = false)
  (ha : s.cur.acts o.guard = true) (hc : segCheck s.cur .s (val s o.imm o.a 0).toNat 16 16 = none)
  (hw : s.mustWait .s [s.cur.sgs.base + (val s o.imm o.a 0).toNat] 16 false = false)

include h ha hc hw

/-- What a function that reads the object does, where it acts at a place that no access holds and no word is poisoned. -/
theorem phbarRead_acts {b : Phbar} (hb : s.phbarAt s.cur.coreNo (s.cur.sgs.base + (val s o.imm o.a 0).toNat) = some b) :
    phbarRead s o k = .next (k s.cur.coreNo (s.cur.sgs.base + (val s o.imm o.a 0).toNat) b s) := by
  rw [phbarRead, phbarStep_acts h ha, hc]
  dsimp only
  rw [hw, if_neg Bool.false_ne_true, hb]

/-- Poison in the object traps. -/
theorem phbarRead_poison (hb : s.phbarAt s.cur.coreNo (s.cur.sgs.base + (val s o.imm o.a 0).toNat) = none) :
    phbarRead s o k = .next (s.trap 12 3) := by
  rw [phbarRead, phbarStep_acts h ha, hc]
  dsimp only
  rw [hw, if_neg Bool.false_ne_true, hb]

end

/-- A phase that is due completes where a function only reads the object. -/
theorem phbarSeen_eq (s : State) (core at_ : Nat) (b : Phbar) : s.phbarSeen core at_ b =
    if b.settle = b then s else s.writeLocal .s core at_ b.settle.toBytes := rfl

theorem phbarSeen_frame {s : State} (hm : s.mon = []) (core at_ : Nat) (b : Phbar) :
    s.phbarSeen core at_ b = { s with mem := (s.phbarSeen core at_ b).mem } := by
  rw [phbarSeen_eq]
  split
  · rfl
  · rw [writeLocal_shared hm]

/-- The generation is compared with the operand as the function found it. -/
theorem phasePassed_seen {s : State} (hm : s.mon = []) (o : Fields) (core at_ : Nat) (b : Phbar) :
    phasePassed (s.phbarSeen core at_ b) o b = phasePassed s o b := by
  rw [phbarSeen_frame hm]
  rfl

/-- Settles O33: each function checks its place, and then does what it does to the object. -/
theorem phaseBarriers : Obligations.PhaseBarriers := by
  unfold Obligations.PhaseBarriers
  intro o s b all off at_ n store done up seen wait
  refine ⟨fun hf f hmem => ?_, fun hf => ⟨fun ha f hmem => ?_, fun ha hl f hmem => ?_, fun ha hl hal f hmem => ?_,
    fun ha hl hal hw f hmem => ?_, fun ha hl hal hw => ?_⟩⟩
  · obtain ⟨k, hk⟩ := phbar_step o s f hmem
    rw [hk, phbarStep_outside hf]
  · obtain ⟨k, hk⟩ := phbar_step o s f hmem
    rw [hk, phbarStep_idle hf ha]
  · obtain ⟨k, hk⟩ := phbar_step o s f hmem
    have hc : segCheck s.cur .s (val s o.imm o.a 0).toNat 16 16 = some 5 := if_pos hl
    rw [hk, phbarStep_acts hf ha, hc]
  · obtain ⟨k, hk⟩ := phbar_step o s f hmem
    have hc : segCheck s.cur .s (val s o.imm o.a 0).toNat 16 16 = some 6 := (if_neg (Nat.not_lt.2 hl)).trans (if_pos hal)
    rw [hk, phbarStep_acts hf ha, hc]
  all_goals have hc : segCheck s.cur .s (val s o.imm o.a 0).toNat 16 16 = none := (if_neg (Nat.not_lt.2 hl)).trans (if_neg (not_not.2 hal))
  · obtain ⟨k, hk⟩ := phbar_step o s f hmem
    rw [hk, phbarStep_acts hf ha, hc]
    exact if_pos hw
  · have hinit : exec (.phbarInit o) s = .next (if n = 0 ∨ 255 < n then s.trap 1 4
        else (s.writeLocal .s s.cur.coreNo at_ (Phbar.mk 0 n 0 0 0 false false).toBytes).advance) := by
      rw [exec_phbarInit, execPhbarInit, phbarStep_acts hf ha, hc]
      exact if_neg (Bool.eq_false_iff.1 hw)
    refine ⟨fun h1 h2 => ?_, fun h => ?_, fun hb => ?_, fun hb f hmem => ?_⟩
    · rw [hinit, if_neg (by omega)]
    · rw [hinit, if_pos h]
    · have hread {k : Nat → Nat → Phbar → State → State} := phbarRead_acts (k := k) hf ha hc hw hb
      have harr : exec (.phbarArr o) s = .next (if s.performedAll .rel then (store (done up)).advance else s.hold .fence) := by
        rw [exec_phbarArr]
        exact hread
      have hquit : exec (.phbarQuit o) s = .next (if b.need = b.left + 1 then s.trap 1 4
          else if s.performedAll .rel then (store (done { up with left := (b.left + 1) % 256 })).advance else s.hold .fence) := by
        rw [exec_phbarQuit]
        exact hread
      have hwait : exec (.phbarWait o) s = .next (if phasePassed seen o b then seen.advance else seen.hold .barwait) := by
        rw [exec_phbarWait]
        exact hread
      have htest : exec (.phbarTest o) s = .next (writeResult seen o fun _ => truth (phasePassed s o b)).advance := by
        rw [exec_phbarTest]
        exact hread
      have hgen : exec (.phbarGen o) s = .next (writeResult seen o fun _ => BitVec.ofNat 32 b.gen).advance := by
        rw [exec_phbarGen]
        exact hread
      have hpassed (hm : s.mon = []) : phasePassed seen o b = (b.gen != n % 256) := phasePassed_seen hm o _ _ b
      have htruth : truth (phasePassed s o b) = if b.gen ≠ n % 256 then 1 else 0 := by
        rw [truth, phasePassed]
        exact if_congr (by simp [n]) rfl rfl
      refine ⟨fun hp => ?_, fun hp => ?_, fun hq => ?_, fun hq hp => ?_, fun hq hp => ?_, fun hm hg => ?_, fun hm hg => ?_, fun hm => ?_,
        hgen, fun hd => ⟨lands_of_laneStep ?_, lands_of_laneStep ?_⟩⟩
      · rw [harr, if_pos hp]
      · rw [harr, hp]
        rfl
      · rw [hquit, if_pos hq]
      · rw [hquit, if_neg hq, if_pos hp]
      · rw [hquit, if_neg hq, hp]
        rfl
      · rw [hwait, hpassed hm, if_pos (bne_iff_ne.2 hg)]
      · rw [hwait, hpassed hm, if_neg (by simp [hg])]
        rfl
      · rw [htest, htruth]
      · have hseen : seen = s := if_pos hd
        rw [htest, htruth, hseen, laneStep]
      · have hseen : seen = s := if_pos hd
        rw [hgen, hseen, laneStep]
    · have hread {k : Nat → Nat → Phbar → State → State} := phbarRead_poison (k := k) hf ha hc hw hb
      revert f
      simp only [List.forall_mem_cons]
      refine ⟨?_, ?_, ?_, ?_, ?_, fun _ h => absurd h List.not_mem_nil⟩
      · rw [exec_phbarArr]
        exact hread
      · rw [exec_phbarQuit]
        exact hread
      · rw [exec_phbarWait]
        exact hread
      · rw [exec_phbarTest]
        exact hread
      · rw [exec_phbarGen]
        exact hread

end Sys2Proof.Machine
end

/-! SUPPORT. Copies, gathers, scatters and collectives at their issue (R159 to R164). -/

section

namespace Sys2Proof.Machine

theorem exec_cpy (m : CopyMod) (o : Fields) (s : State) : exec (.cpy m o) s = execCpy m o s := rfl
theorem exec_cpyf (m : CopyMod) (o : Fields) (s : State) : exec (.cpyf m o) s = execCpyf m o s := rfl
theorem exec_cpyg (m : CopyMod) (o : Fields) (s : State) : exec (.cpyg m o) s = execCpyg m o s := rfl
theorem exec_cpys (m : CopyMod) (o : Fields) (s : State) : exec (.cpys m o) s = execCpys m o s := rfl
theorem exec_coll (m : CopyMod) (o : Fields) (s : State) : exec (.coll m o) s = execColl m o s := rfl

/-! ### Uniform copies (R160, R161) -/

/-- A range of a uniform copy lies in its segment, or in `.g`. -/
def insideSeg (g : Group) (n : Nat) (sp : Space) (a : Nat) : Prop := sp = .g ∨ a + n ≤ (g.seg sp).limit

/-- A range that is not in its segment traps, before any other test. -/
theorem copyCheck_of_outside {g : Group} {ends : List (Space × Nat)} {n : Nat} (bar : Option Nat)
    (h : ∃ e ∈ ends, ¬ insideSeg g n e.1 e.2) : copyCheck g ends n bar = some 5 := by
  obtain ⟨e, he, hout⟩ := h
  rw [insideSeg, not_or, Nat.not_le] at hout
  unfold copyCheck
  dsimp only
  rw [if_pos]
  rw [Bool.or_eq_true, List.any_eq_true]
  exact .inl ⟨e, he, by simpa using hout⟩

/-- Ranges that lie in their segments: the alignments, then the form of an address. -/
theorem copyCheck_of_inside {g : Group} {ends : List (Space × Nat)} (n : Nat) {bar : Option Nat}
    (h : ∀ e ∈ ends, insideSeg g n e.1 e.2) (hb : ∀ b, bar = some b → b + 16 ≤ g.sgs.limit ∧ b % 16 = 0) :
    copyCheck g ends n bar = if n % 4 ≠ 0 ∨ ∃ e ∈ ends, e.2 % 4 ≠ 0 then some 6
      else if ∃ e ∈ ends, e.1 = .g ∧ ¬ e.2 < 2 ^ 54 then some 12 else none := by
  have hin : (ends.any fun e => decide (e.1 ≠ .g) && decide ((g.seg e.1).limit < e.2 + n)) = false := by
    rw [List.any_eq_false]
    intro e he hout
    have hin := h e he
    simp only [Bool.and_eq_true, decide_eq_true_eq] at hout
    exact hin.elim hout.1 fun hle => absurd hout.2 (Nat.not_lt.2 hle)
  unfold copyCheck
  cases bar with
  | none =>
    dsimp only
    rw [hin, if_neg (by decide)]
    simp only [canonical, List.any_eq_true, Bool.or_eq_true, Bool.and_eq_true, decide_eq_true_eq, Bool.not_eq_true',
      decide_eq_false_iff_not, Bool.false_eq_true, or_false]
  | some b =>
    obtain ⟨hlim, halign⟩ := hb b rfl
    dsimp only
    rw [hin, decide_eq_false (Nat.not_lt.2 hlim), decide_eq_false (p := b % 16 ≠ 0) (not_not.2 halign), if_neg (by decide)]
    simp only [canonical, List.any_eq_true, Bool.or_eq_true, Bool.and_eq_true, decide_eq_true_eq, Bool.not_eq_true',
      decide_eq_false_iff_not, Bool.false_eq_true, or_false]

section

variable {s : State} {o : Fields} {opc : Nat} {ends : List (Space × Nat)} {n : Nat} {work : Option Nat → Work}

theorem copyIssue_idle (h : s.cur.acts o.guard = false) : copyIssue s o opc ends n work = .next s.advance := by
  rw [copyIssue, h]
  rfl

theorem copyIssue_traps {c : Nat} (ha : s.cur.acts o.guard = true) (hc : copyCheck s.cur ends n (barrierOff s o) = some c) :
    copyIssue s o opc ends n work = .next (s.trap c 0) := by
  rw [copyIssue, ha]
  simp only [hc]
  rfl

/-- A copy that passes its checks, once its bytes are counted in its barrier. -/
theorem copyIssue_of_counted {u : State} (ha : s.cur.acts o.guard = true) (hc : copyCheck s.cur ends n (barrierOff s o) = none)
    (hu : s.countIn ((barrierOff s o).map fun b => s.cur.sgs.base + b) n = some u) :
    copyIssue s o opc ends n work = .next (State.advance
      (if n = 0 then State.endWork ((u.issueOp o opc 0 [] (work ((barrierOff s o).map fun b => s.cur.sgs.base + b))).trace u.nextId 1 0)
          u.nextId 0
        else u.issueOp o opc 0 [] (work ((barrierOff s o).map fun b => s.cur.sgs.base + b)))) := by
  rw [copyIssue, ha]
  simp only [hc, hu]
  rfl

end

/-- Work that is over stays in its operation, with its status. -/
theorem sfind_endWork {s : State} {id : Nat} {op : Op} (h : sfind s.ops id = some op) (status : Nat) :
    sfind (s.endWork id status).ops id = some { op with phase := .ended, status := status } := by
  rw [State.endWork, State.modOp_ops, sfind_supd, if_pos rfl, h]
  rfl

/-- No record is kept where the grid keeps no trace (R430). -/
theorem trace_of_quiet {s : State} {id : Nat} (h : ∀ op, sfind s.ops id = some op → ∀ gr, s.gridOf op.grid = some gr → gr.tlen = 0)
    (kind aux : Nat) : s.trace id kind aux = s := by
  rw [State.trace]
  split
  · rfl
  · rename_i op hop
    dsimp only
    rw [State.traceRec]
    split
    · rfl
    · rename_i gr hgr
      exact if_pos (h op hop gr hgr)

section

variable {s : State} {o : Fields} {opc : Nat} {ends : List (Space × Nat)} {n : Nat} {work : Option Nat → Work}
  (ha : s.cur.acts o.guard = true) (hb : barrierOff s o = none) (hc : copyCheck s.cur ends n none = none)

include ha hb hc

/-- A copy without a barrier whose checks pass. -/
theorem copyIssue_of_ok : copyIssue s o opc ends n work = .next (State.advance
    (if n = 0 then State.endWork ((s.issueOp o opc 0 [] (work none)).trace s.nextId 1 0) s.nextId 0
      else s.issueOp o opc 0 [] (work none))) := by
  have h := copyIssue_of_counted (work := work) (opc := opc) (u := s) ha (by rw [hb]; exact hc) (by rw [hb]; rfl)
  rw [hb] at h
  exact h

theorem copyIssue_issues (hn : 0 < n) : Issues (copyIssue s o opc ends n work) s o opc 0 [] (work none) := by
  rw [copyIssue_of_ok ha hb hc, if_neg hn.ne']
  exact issues_issueOp s o opc 0 [] (work none)

/-- A copy of no bytes is over at its issue. -/
theorem copyIssue_finished (hn : n = 0) (hq : ∀ gr, s.gridOf s.cur.grid = some gr → gr.tlen = 0) :
    ∃ t, copyIssue s o opc ends n work = .next (State.advance t) ∧ t.mem = s.mem
      ∧ ∃ q, sfind t.ops s.nextId = some q ∧ q.phase = .ended ∧ q.status = 0 ∧ q.queue = 0 := by
  have hop : sfind (s.issueOp o opc 0 [] (work none)).ops s.nextId = some (newOp s o opc 0 [] (work none)) := by
    rw [issueOp_eq]
    exact sfind_sput_same _ _ _
  have ht : (s.issueOp o opc 0 [] (work none)).trace s.nextId 1 0 = s.issueOp o opc 0 [] (work none) := by
    refine trace_of_quiet (fun op hfind gr hgr => hq gr ?_) 1 0
    rw [hop, Option.some_inj] at hfind
    subst hfind
    rw [issueOp_eq] at hgr
    exact hgr
  refine ⟨_, (copyIssue_of_ok ha hb hc).trans (by rw [if_pos hn, ht]), ?_, ?_⟩
  · rw [State.endWork, State.modOp_mem, issueOp_eq]
  · refine ⟨{ newOp s o opc 0 [] (work none) with phase := .ended, status := 0 }, ?_, rfl, rfl, rfl⟩
    exact sfind_endWork hop 0

end

/-! ### Gathers and scatters (R162) -/

theorem splitLanes_map_ok {α : Type} {f : Nat → Except LaneFault α} {g : Nat → α} {l : List Nat}
    (h : ∀ x ∈ l, f x = .ok (g x)) : splitLanes (l.map f) = (l.map g, []) := by
  induction l with
  | nil => rfl
  | cons x t ih =>
    rw [List.map_cons, h x (.head _), splitLanes, ih fun y hy => h y (.tail _ hy)]
    rfl

theorem splitLanes_map_error {α : Type} {f : Nat → Except LaneFault α} {g : Nat → LaneFault} {l : List Nat}
    (h : ∀ x ∈ l, f x = .error (g x)) : splitLanes (l.map f) = ([], l.map g) := by
  induction l with
  | nil => rfl
  | cons x t ih =>
    rw [List.map_cons, h x (.head _), splitLanes, ih fun y hy => h y (.tail _ hy)]
    rfl

theorem maskLanes_ne_nil_of_acts {g : Group} {gd : Guard} (h : g.acts gd = true) : maskLanes (g.effect gd) ≠ [] := by
  rw [Group.acts, bne_iff_ne] at h
  obtain ⟨l, hl, hm⟩ := (mask_ne_zero_iff _).1 h
  exact List.ne_nil_of_mem ((mem_maskLanes _ l).2 ⟨hl, hm⟩)

section

variable {s : State} {o : Fields} {opc : Nat} {sp : Space} {n kind : Nat} {work : List LaneOp → Option Nat → Work}

theorem gatherIssue_idle {bar : Option Nat} (h : s.cur.acts o.guard = false) :
    gatherIssue s o opc sp n kind bar work = .next s.advance := by
  rw [gatherIssue, h]
  rfl

/-- A gather or scatter of which no lane fails issues one command. -/
theorem gatherIssue_issues {f : Nat → LaneOp} (ha : s.cur.acts o.guard = true)
    (h : ∀ l ∈ maskLanes (s.cur.effect o.guard), gatherLane s o sp n kind l = .ok (f l)) :
    Issues (gatherIssue s o opc sp n kind none work) s o opc 1 [] (work ((maskLanes (s.cur.effect o.guard)).map f) none) := by
  have hne : ((maskLanes (s.cur.effect o.guard)).map f).isEmpty = false := by
    simpa using maskLanes_ne_nil_of_acts ha
  have hrun : gatherIssue s o opc sp n kind none work
      = .next (State.advance (s.issueOp o opc 1 [] (work ((maskLanes (s.cur.effect o.guard)).map f) none))) := by
    rw [gatherIssue, ha]
    simp only [splitLanes_map_ok h, hne]
    rfl
  rw [hrun]
  exact issues_issueOp s o opc 1 [] _

/-- A gather or scatter of which every lane fails traps with what the lanes met. -/
theorem gatherIssue_traps {f : Nat → LaneFault} (ha : s.cur.acts o.guard = true)
    (h : ∀ l ∈ maskLanes (s.cur.effect o.guard), gatherLane s o sp n kind l = .error (f l)) :
    gatherIssue s o opc sp n kind none work = .next (s.laneTrap ((maskLanes (s.cur.effect o.guard)).map f)) := by
  have hne : (maskLanes (s.cur.effect o.guard)).map f ≠ [] := by
    simpa using maskLanes_ne_nil_of_acts ha
  rw [gatherIssue, ha]
  simp only [splitLanes_map_error h]
  rw [← (finish_ends s _).2 hne]
  rfl

end

/-- A lane whose checks pass. -/
theorem gatherLane_ok {s : State} {o : Fields} {sp : Space} {n l : Nat} (kind : Nat)
    (h : segCheck s.cur sp (val s o.imm o.b l).toNat n n = none ∧ (valPair s o.imm o.a l).toNat % n = 0
      ∧ (valPair s o.imm o.a l).toNat < 2 ^ 54) :
    gatherLane s o sp n kind l = .ok ⟨l, (valPair s o.imm o.a l).toNat, (s.cur.seg sp).base + (val s o.imm o.b l).toNat,
      (valPair s o.imm o.a l).toNat, 0⟩ := by
  obtain ⟨hseg, halign, hform⟩ := h
  have hcan : (!canonical (valPair s o.imm o.a l).toNat) = false := by simpa [canonical] using hform
  simp only [gatherLane, hseg, hcan, halign]
  rfl

/-- What a lane meets of which a check fails: its segment offset counts before its address. -/
def gatherFault (s : State) (o : Fields) (sp : Space) (n kind l : Nat) : LaneFault :=
  match segCheck s.cur sp (val s o.imm o.b l).toNat n n with
  | some c => ⟨l, (val s o.imm o.b l).toNat, c, 0, spaceNo sp, n, kind⟩
  | none => ⟨l, (valPair s o.imm o.a l).toNat, if (valPair s o.imm o.a l).toNat % n ≠ 0 then 6 else 12, 0, 3, n, kind⟩

theorem gatherLane_error {s : State} {o : Fields} {sp : Space} {n l : Nat} (kind : Nat)
    (h : ¬ (segCheck s.cur sp (val s o.imm o.b l).toNat n n = none ∧ (valPair s o.imm o.a l).toNat % n = 0
      ∧ (valPair s o.imm o.a l).toNat < 2 ^ 54)) :
    gatherLane s o sp n kind l = .error (gatherFault s o sp n kind l) := by
  rw [gatherLane, gatherFault]
  cases hseg : segCheck s.cur sp (val s o.imm o.b l).toNat n n with
  | some c => rfl
  | none =>
    dsimp only
    by_cases halign : (valPair s o.imm o.a l).toNat % n = 0
    · have hcan : canonical (valPair s o.imm o.a l).toNat = false := by simpa [canonical, hseg, halign] using h
      rw [if_neg (not_not.2 halign), if_neg (not_not.2 halign), hcan]
      rfl
    · rw [if_pos halign, if_pos halign]

/-! ### The bytes that a copy owes to its barrier (R160, R174) -/

theorem execCpyf_local {m : CopyMod} (o : Fields) (s : State) (h : m.ds = .s) : execCpyf m o s =
    copyIssue s o 0x1C3 [(.s, (val s o.imm o.a 0).toNat)] (val s o.imm o.c 0).toNat
      (.fill .s m.lu (s.cur.sgs.base + (val s o.imm o.a 0).toNat) (val s o.imm o.b 0) (val s o.imm o.c 0).toNat) := by
  simp only [execCpyf, h, copyAddr, copyAt, Group.seg, reduceCtorEq, if_false]

/-- A counted fill of a core's memory owes its bytes before its command is in the queue. -/
theorem execCpyf_counted {m : CopyMod} {o : Fields} {s : State} {b : Phbar} {off : Nat} (ha : s.cur.acts o.guard = true)
    (hsp : m.ds = .s) (hbar : barrierOff s o = some off) (hoff : off % 16 = 0) (hlim : off + 16 ≤ s.cur.sgs.limit)
    (hin : (val s o.imm o.a 0).toNat + (val s o.imm o.c 0).toNat ≤ s.cur.sgs.limit) (hdst : (val s o.imm o.a 0).toNat % 4 = 0)
    (hn4 : (val s o.imm o.c 0).toNat % 4 = 0) (hn : 0 < (val s o.imm o.c 0).toNat)
    (hb : s.phbarAt s.cur.coreNo (s.cur.sgs.base + off) = some b) :
    execCpyf m o s = .next (State.advance
      ((s.phbarSet s.cur.coreNo (s.cur.sgs.base + off) (b.owe (val s o.imm o.c 0).toNat)).issueOp o 0x1C3 0 []
        (.fill .s m.lu (s.cur.sgs.base + (val s o.imm o.a 0).toNat) (val s o.imm o.b 0) (val s o.imm o.c 0).toNat
          (some (s.cur.sgs.base + off))))) := by
  have hc : copyCheck s.cur [(Space.s, (val s o.imm o.a 0).toNat)] (val s o.imm o.c 0).toNat (some off) = none := by
    rw [copyCheck_of_inside _ (by simpa [insideSeg, Group.seg] using hin) (by rintro b ⟨⟩; exact ⟨hlim, hoff⟩)]
    simp [hdst, hn4]
  have hu : s.countIn (some (s.cur.sgs.base + off)) (val s o.imm o.c 0).toNat
      = some (s.phbarSet s.cur.coreNo (s.cur.sgs.base + off) (b.owe (val s o.imm o.c 0).toNat)) := by
    simp only [State.countIn, hb]
  have hmap : ((some off : Option Nat).map fun b => s.cur.sgs.base + b) = some (s.cur.sgs.base + off) := rfl
  rw [execCpyf_local o s hsp, copyIssue_of_counted ha (by rw [hbar, hc]) (by rw [hbar, hmap, hu]), hbar, hmap, if_neg hn.ne']

theorem barrierOff_const {s : State} {o : Fields} {c : Constant} (h : o.d = .const c) : barrierOff s o = none := by
  rw [barrierOff, h]

theorem execColl_of_acts {m : CopyMod} {o : Fields} {s : State} (ha : s.cur.acts o.guard = true) : execColl m o s =
    if (val64 s o.imm o.a 0).toNat % 4 ≠ 0 then .next (s.trap 6 0)
    else if ¬ (val64 s o.imm o.a 0).toNat < 2 ^ 54 then .next (s.trap 12 0)
    else .next (s.issueOp o 0x1C4 2 [] (.coll (val64 s o.imm o.a 0).toNat [] [])).advance := by
  rw [execColl, ha]
  simp [canonical]

/-- Settles O34: a copy or fill is `copyIssue` of its ranges, a gather or scatter `gatherIssue` of its lanes. -/
theorem copyCommands : Obligations.CopyCommands := by
  unfold Obligations.CopyCommands
  refine ⟨?_, ?_⟩
  · intro m o s addr at_ n inside canon dst src eff N va off laneOk lanes faults cva quiet finished
    have hcheck {ends : List (Space × Nat)} (h : ∀ e ∈ ends, inside e.1 e.2) := copyCheck_of_inside n (bar := none) h (by simp)
    refine ⟨fun ha f hf => ?_, fun ha c hd => ?_, fun ha => ?_⟩
    · simp only [List.mem_cons, List.not_mem_nil, or_false] at hf
      obtain rfl | rfl | rfl | rfl | rfl := hf
      · exact copyIssue_idle ha
      · exact copyIssue_idle ha
      · rw [exec_cpyg, execCpyg]
        exact gatherIssue_idle ha
      · rw [exec_cpys, execCpys]
        exact gatherIssue_idle ha
      · rw [exec_coll, execColl, ha]
        rfl
    · have hb := barrierOff_const (s := s) hd
      have hcpy {c : Nat} (h : copyCheck s.cur [(m.ds, dst), (m.ss, src)] n none = some c) : exec (.cpy m o) s = .next (s.trap c 0) :=
        copyIssue_traps ha (by rw [hb]; exact h)
      have hcpyf {c : Nat} (h : copyCheck s.cur [(m.ds, dst)] n none = some c) : exec (.cpyf m o) s = .next (s.trap c 0) :=
        copyIssue_traps ha (by rw [hb]; exact h)
      have two {p : Space × Nat → Prop} (hp : p (m.ds, dst)) (hq : p (m.ss, src)) : ∀ e ∈ [(m.ds, dst), (m.ss, src)], p e := by
        simpa using ⟨hp, hq⟩
      have one {p : Space × Nat → Prop} (hp : p (m.ds, dst)) : ∀ e ∈ [(m.ds, dst)], p e := by simpa using hp
      have hgood {ends : List (Space × Nat)} (h : ∀ e ∈ ends, inside e.1 e.2) (hn : n % 4 = 0) (h4 : ∀ e ∈ ends, e.2 % 4 = 0) :
          copyCheck s.cur ends n none = if ∃ e ∈ ends, e.1 = .g ∧ ¬ e.2 < 2 ^ 54 then some 12 else none := by
        rw [hcheck h, if_neg]
        rintro (h | ⟨e, he, h⟩)
        · exact h hn
        · exact h (h4 e he)
      have hform {ends : List (Space × Nat)} (h : ∀ e ∈ ends, canon e.1 e.2) : ¬ ∃ e ∈ ends, e.1 = .g ∧ ¬ e.2 < 2 ^ 54 :=
        fun ⟨e, he, hg, hlt⟩ => hlt (h e he hg)
      have hbad {sp : Space} {a : Nat} (h : ¬ canon sp a) : sp = .g ∧ ¬ a < 2 ^ 54 := Classical.not_imp.1 h
      refine ⟨fun hid his hn hda hsa hcd hcs => ?_, fun hid hn hda hcd => ?_, fun h => hcpy (copyCheck_of_outside _ ?_),
        fun hid his h => hcpy ?_, fun hid his hn hda hsa h => hcpy ?_, fun h => hcpyf (copyCheck_of_outside _ ?_),
        fun hid h => hcpyf ?_, fun hid hn hda h => hcpyf ?_, fun h => ?_, fun h => ?_⟩
      · have hc := (hgood (two hid his) hn (two hda hsa)).trans (if_neg (hform (two hcd hcs)))
        exact ⟨copyIssue_issues ha hb hc, copyIssue_finished ha hb hc⟩
      · have hc := (hgood (one hid) hn (one hda)).trans (if_neg (hform (one hcd)))
        exact ⟨copyIssue_issues ha hb hc, copyIssue_finished ha hb hc⟩
      · obtain h | h := h
        · exact ⟨_, .head _, h⟩
        · exact ⟨_, .tail _ (.head _), h⟩
      · rw [hcheck (two hid his)]
        exact if_pos (by simpa using h)
      · rw [hgood (two hid his) hn (two hda hsa)]
        obtain h | h := h
        · exact if_pos ⟨_, .head _, hbad h⟩
        · exact if_pos ⟨_, .tail _ (.head _), hbad h⟩
      · exact ⟨_, .head _, h⟩
      · rw [hcheck (one hid)]
        exact if_pos (by simpa using h)
      · rw [hgood (one hid) hn (one hda)]
        exact if_pos ⟨_, .head _, hbad h⟩
      · rw [exec_cpyg, execCpyg, hb]
        exact gatherIssue_issues ha fun l hl => gatherLane_ok 4 (h l hl)
      · rw [exec_cpyg, execCpyg, hb]
        exact gatherIssue_traps ha fun l hl => gatherLane_error 4 (h l hl)
    · refine ⟨fun h => ?_, fun h => ?_, fun hal hcan => ?_, fun hal => ?_, fun hal hcan => ?_⟩
      · rw [exec_cpys, execCpys]
        exact gatherIssue_issues ha fun l hl => gatherLane_ok 5 (h l hl)
      · rw [exec_cpys, execCpys]
        exact gatherIssue_traps ha fun l hl => gatherLane_error 5 (h l hl)
      · rw [exec_coll, execColl_of_acts ha, if_neg (not_not.2 hal), if_neg (not_not.2 hcan)]
        exact issues_issueOp s o _ _ _ _
      · rw [exec_coll, execColl_of_acts ha, if_pos hal]
      · rw [exec_coll, execColl_of_acts ha, if_neg (not_not.2 hal), if_pos (Nat.not_lt.2 hcan)]
  · intro m o s b off n at_ dst owed ha hsp hbar hoff hlim hin hdst hn4 hn hb hcur
    have hi := issues_issueOp (s.phbarSet s.cur.coreNo at_ (b.owe n)) o 0x1C3 0 []
      (.fill .s m.lu (s.cur.sgs.base + dst) (val s o.imm o.b 0) n (some at_))
    rw [← execCpyf_counted ha hsp hbar hoff hlim hin hdst hn4 hn hb] at hi
    exact hi

end Sys2Proof.Machine
end

/-! SUPPORT. Atomics, waits and wakes at their issue (R165 to R169). -/

section

namespace Sys2Proof.Machine

theorem exec_waitv (m : AtomMod) (o : Fields) (s : State) : exec (.waitv m o) s = execWaitv m o s := rfl

/-- The check of a lane in a core's or a die's memory. -/
theorem atomCheck_of_local {s : State} {sp : Space} {a n l : Nat} (kind : Nat) (hs : sp = .s ∨ sp = .y)
    (hc : segCheck s.cur sp a n n = none) : s.atomCheck sp a n kind l = (.ok ((s.cur.seg sp).base + a), s) := by
  have hk : sp ≠ .k := by rintro rfl; simp at hs
  have hg : sp ≠ .g := by rintro rfl; simp at hs
  rw [State.atomCheck, if_neg hg, segPlace_of_local hc hk]

/-! ### A wait that its own issue ends

The group stands at the end of a line, where its two slots meet and a path is due from a stack that cannot be read: the group
ends (R477), and its failure entry is written where the monitor table names the wait that has just been issued. -/

/-- A `waitv` of the lanes that take effect, on offset 0 of `.s`, with its code in `s3`. -/
def waitF : Fields := ⟨⟨false, 7⟩, .s 3, zeroOpnd, zeroOpnd, zeroOpnd, 0, 0⟩
def waitM : AtomMod := ⟨.s, 0, false, .rlx, .core⟩

def recordDesc : LaunchDesc :=
  { entry := 0, tvec := 0, kbase := 0, ksize := 0, shared := 0, yard := 0, lanes := 64, groups := 1, teams := 1, gangs := 1,
    monlim := 32, priv := false, dies := 15, roles := [], vblk := [], vbud := [], tq := [], wdog := 0, fmask := 0, sarg := [],
    aarg := [] }

/-- A grid of context 0 with its record area at 64 KiB. -/
def recordGrid : Grid :=
  { ctx := 0, queue := 0, desc := recordDesc, blocks := [], prio := 0, order := 0, rec_ := 0x10000, cw := 0, cv := 0, irq := none,
    gangsLeft := 1, jobs := 0, fails := 0, xfail := 0, orphs := 0, xorph := 0, census := [], xsite := 0, speriod := 0, sbuf := 0,
    slen := 0, sused := 0, sdrop := 0, tbuf := 0, tlen := 0, tused := 0, tdrop := 0, posted := 0, placed := none, endedAt := none,
    ifault := 0, iio := 0, ended := false, aborted := false }

/-- Its group, in a context without a table: slot 0 ends its line where slot 1 stands, and one path is on the stack. -/
def meetingGroup : Group :=
  { Group.vacant with
    gid := 1, ctx := 1, exited := 0, pstk := 1, sgs := ⟨0, 65536⟩, slot0 := ⟨mkPc 0x1000 4, 1, true, none, 0⟩,
    slot1 := ⟨nextPoint (mkPc 0x1000 4), 2, true, none, 0⟩ }

/-- Context 0 maps the lowest 64 GiB to themselves; one monitor entry watches the first failure entry of the grid. -/
def lostWait : State :=
  { State.reset with
    cur := meetingGroup, xlate := { State.reset.xlate with ctxs := [(0, ⟨0x200000, [], true, false⟩)] },
    launch := { State.reset.launch with grids := [(0, recordGrid)] },
    mem := { State.reset.mem with hbm := [(State.reset.dramLoc 0x200000, 0x1F)] },
    nextId := 6, mon := [⟨0, .g, 0x11100 / 64, false, .grp, 6, 0⟩] }

/-- The operation that a run has left under a number. -/
def opLeft (id : Nat) : Out → Option Op
  | .next t => sfind t.ops id
  | _ => none

theorem lostWait_facts : (actLanes lostWait.cur waitF (uniformDest waitF.d)).head? = some 0
    ∧ (val lostWait waitF.imm waitF.a 0).toNat = 0 ∧ segCheck lostWait.cur .s 0 4 4 = none
    ∧ lostWait.mustWait .s [0] 4 false = false := by decide +kernel

theorem lostWait_ends : opLeft 6 (exec (.waitv waitM waitF) lostWait) = none := by decide +kernel

/-- Refutes O35: a `waitv` at the end of its line issues, but its operation is no longer there where the slot has gone on: the
group has ended at a pop that cannot be read, and the write of its failure entry has woken the wait. -/
theorem not_atomicsIssue : ¬ Obligations.AtomicsIssue := by
  unfold Obligations.AtomicsIssue
  intro h
  obtain ⟨hact, haddr, hseg, hwait⟩ := lostWait_facts
  have hcheck : lostWait.atomCheck .s (val lostWait waitF.imm waitF.a 0).toNat 4 3 0 = (.ok 0, lostWait) := by
    rw [haddr]
    exact atomCheck_of_local 3 (.inl rfl) hseg
  obtain ⟨⟨op, g, hexec, -⟩, hres⟩ := (h.1 waitM waitF lostWait lostWait []).2.2.2.1 3 0 0 rfl hact rfl hcheck hwait
  have hsome := hres _ hexec
  have hnone := lostWait_ends
  rw [hexec] at hnone
  rw [show sfind (State.advance _).ops lostWait.nextId = none from hnone] at hsome
  exact absurd hsome (by simp)

end Sys2Proof.Machine
end

/-! SUPPORT. Atomics and waits at their place (R166 to R168). -/

section

namespace Sys2Proof.Machine

theorem sfind_modOp {s : State} {id : Nat} {op : Op} (h : sfind s.ops id = some op) (f : Op → Op) :
    sfind (s.modOp id f).ops id = some (f op) := by
  rw [State.modOp_ops, sfind_supd, if_pos rfl, h]
  rfl

theorem endReads_ops (s : State) (key : Nat) : (s.endReads key).ops = s.ops := rfl

/-! ### What the completion of an operation changes before the operation ends (R185, R289, R296) -/

/-- The second state differs from the first one in tiles, in leave and in counts of events alone. -/
structure Tallied (s u : State) : Prop where
  frame : u = { s with cur := u.cur, others := u.others, launch := u.launch, ops := u.ops, leave := u.leave }
  cur : u.cur = { s.cur with tiles := u.cur.tiles }
  ops : ∀ j, ∃ c g, sfind u.ops j = (sfind s.ops j).map fun q => { q with census := c, grant := g }

namespace Tallied

variable {s u v : State}

theorem refl (s : State) : Tallied s s := by
  refine ⟨rfl, rfl, fun j => ?_⟩
  cases h : sfind s.ops j with
  | none => exact ⟨[], 0, rfl⟩
  | some q => exact ⟨q.census, q.grant, rfl⟩

theorem trans (h : Tallied s u) (k : Tallied u v) : Tallied s v := by
  refine ⟨?_, ?_, fun j => ?_⟩
  · exact Eq.trans k.frame (congrArg (fun x : State =>
      { x with cur := v.cur, others := v.others, launch := v.launch, ops := v.ops, leave := v.leave }) h.frame)
  · exact Eq.trans k.cur (congrArg (fun g : Group => { g with tiles := v.cur.tiles }) h.cur)
  · obtain ⟨c, g, hu⟩ := h.ops j
    obtain ⟨c', g', hv⟩ := k.ops j
    refine ⟨c', g', ?_⟩
    rw [hv, hu, Option.map_map]
    rfl

/-- Where the operations stay as they are. -/
theorem of_ops (hf : u = { s with cur := u.cur, others := u.others, launch := u.launch, ops := u.ops, leave := u.leave })
    (hc : u.cur = { s.cur with tiles := u.cur.tiles }) (ho : u.ops = s.ops) : Tallied s u :=
  ⟨hf, hc, fun j => by rw [ho]; exact (refl s).ops j⟩

theorem gid (h : Tallied s u) : u.cur.gid = s.cur.gid := (congrArg Group.gid h.cur).trans rfl
theorem mem (h : Tallied s u) : u.mem = s.mem := (congrArg State.mem h.frame).trans rfl
theorem mon (h : Tallied s u) : u.mon = s.mon := (congrArg State.mon h.frame).trans rfl

end Tallied

/-- A change of one operation in its events and its grant. -/
theorem tallied_modOp (s : State) (id : Nat) (c : Op → List (Nat × Nat × List Nat)) (g : Op → Nat) :
    Tallied s (s.modOp id fun op => { op with census := c op, grant := g op }) := by
  refine ⟨rfl, rfl, fun j => ?_⟩
  rw [State.modOp_ops, sfind_supd]
  split
  · cases h : sfind s.ops j with
    | none => exact ⟨[], 0, rfl⟩
    | some q => exact ⟨c q, g q, rfl⟩
  · exact (Tallied.refl s).ops j

theorem tallied_count (s : State) (grid : Nat) (evs : List (Nat × Nat × List Nat)) : Tallied s (s.count grid evs) := by
  rw [State.count]
  split
  · exact .refl s
  · exact .of_ops rfl rfl rfl

theorem tallied_modGroup (s : State) (gid : Nat) (f : Group → Sparse Tile) :
    Tallied s (s.modGroup gid fun g => { g with tiles := f g }) := by
  rw [State.modGroup]
  dsimp only
  split
  · exact .of_ops rfl rfl rfl
  · split
    · exact .of_ops rfl rfl rfl
    · exact .of_ops rfl rfl rfl

theorem tallied_dropTurned (s : State) (gid key : Nat) : Tallied s (s.dropTurned gid key) := by
  unfold State.dropTurned
  split
  · exact .refl s
  · split
    · exact .refl s
    · split
      · exact .refl s
      · split
        · exact .refl s
        · rename_i g _ t _ _ id _ _
          have hm := tallied_modGroup s gid fun g => sput g.tiles key { t with res := [], turned := none }
          dsimp only
          split
          · exact hm
          · split
            · split
              · exact hm.trans (tallied_count _ _ _)
              · exact hm.trans (tallied_modOp _ id (fun op => op.census ++ [(t.site, 0, [0, 0, 0, 1])]) fun op => op.grant)
            · exact hm.trans (tallied_count _ _ _)

theorem tallied_dropTurnedAll (s : State) (gid : Nat) : Tallied s (s.dropTurnedAll gid) := by
  rw [State.dropTurnedAll]
  split
  · exact .refl s
  · exact foldl_keeps (Tallied s) _ _ s (.refl s) fun u k hu => hu.trans (tallied_dropTurned u gid k)

theorem tallied_returnLeave (s : State) (id : Nat) : Tallied s (s.returnLeave id) := by
  rw [State.returnLeave]
  split
  · exact .refl s
  · rename_i op _
    exact Tallied.trans (u := { s with leave := { s.leave with free := s.leave.free + op.grant, waiting := s.leave.waiting.filter (· ≠ id) } })
      (.of_ops rfl rfl rfl) (tallied_modOp _ id (fun op => op.census) fun _ => 0)

/-- An operation of the issuing group, of no queue, that completes without a failure ends, once its events are counted. -/
theorem completeOp_ends {s : State} {id : Nat} {op : Op} (h : sfind s.ops id = some op) (hg : op.gid = s.cur.gid)
    (hs : op.status = 0) (hq : ¬ op.queue < 6) :
    ∃ u c g, Tallied s u ∧ sfind u.ops id = some { op with census := c, grant := g } ∧ s.completeOp id = u.endOp id := by
  have hd := tallied_dropTurnedAll s op.gid
  obtain ⟨c, g, hop⟩ := hd.ops id
  rw [h, Option.map_some] at hop
  have hr := hd.trans (tallied_returnLeave (s.dropTurnedAll op.gid) id)
  have ht := hr.trans (tallied_count _ op.grid (c ++ State.namedSite ((s.dropTurnedAll op.gid).returnLeave id)
    { op with census := c, grant := g }))
  obtain ⟨c', g', hu⟩ := ht.ops id
  rw [h, Option.map_some] at hu
  refine ⟨_, c', g', ht, hu, ?_⟩
  have hany := anyGroup_of_gid (hg.trans ht.gid.symm)
  rw [State.completeOp, h, Option.bind_some, hop]
  dsimp only
  rw [if_neg hq, hany]
  exact if_pos (.inl hs)

/-- What stands after the end of an operation with one value for a uniform register. -/
theorem endOp_scalar {s : State} {id d x : Nat} {op : Op} (h : sfind s.ops id = some op) (hg : op.gid = s.cur.gid)
    (hd : op.deferred = []) (ho : op.outs = [(.s d, 0, BitVec.ofNat 64 x)]) :
    (s.endOp id).cur.readS d = BitVec.ofNat 32 x ∧ (∀ k, k ≠ d → (s.endOp id).cur.readS k = s.cur.readS k)
      ∧ (s.endOp id).cur.v = s.cur.v ∧ sfind (s.endOp id).ops id = none ∧ (s.endOp id).mem = s.mem ∧ (s.endOp id).mon = s.mon
      ∧ ∀ k, k < 12 → (s.endOp id).cur.flagCount k = if op.flags.getLsbD k then s.cur.flagCount k - 1 else s.cur.flagCount k := by
  have hread (k : Nat) : (((s.cur.writeS d (BitVec.setWidth 32 (BitVec.ofNat 64 x))).lower op.flags).readS k)
      = if k = d then BitVec.setWidth 32 (BitVec.ofNat 64 x) else s.cur.readS k := Group.readS_writeS _ _ _ _
  rw [endOp_of_cur h hg hd, ho]
  refine ⟨(hread d).trans ?_, fun k hk => (hread k).trans (if_neg hk), rfl, ?_, rfl, rfl, fun k hk => ?_⟩
  · rw [if_pos rfl]
    exact BitVec.setWidth_ofNat_of_le (by decide) x
  · simp [sfind_sdel]
  · exact Group.flagCount_lower _ _ _ hk

/-! ### One read-modify-write in a core's memory (R166, R167) -/

theorem exec_atomicPerform (id : Nat) (s : State) : exec (.atomicPerform id) s = execAtomicPerform id s := rfl
theorem exec_waitvTimeout (id : Nat) (s : State) : exec (.waitvTimeout id) s = execWaitvTimeout id s := rfl

theorem scopeWithin_shared (scope : Scope) : scopeWithin scope .s = .grp ∨ scopeWithin scope .s = .core := by
  rw [scopeWithin]
  split
  · exact .inl rfl
  · exact .inr rfl

/-- What an atomic stores, or none where it writes nothing. -/
def atomStores (cas : Bool) (aop n old : Nat) (l : LaneOp) : Option Nat :=
  if cas then (if old = l.x then some l.y else none) else atomNew aop n old l.x

/-- The state after the write of an atomic, if any. -/
def atomWritten (core loc n : Nat) (s : State) : Option Nat → State
  | some v => s.writeLocal .s core loc (leBytes n v)
  | none => s

theorem rmw_shared {s : State} {id : Nat} {op : Op} {cas : Bool} {aop n : Nat} {ord : Ord} {scope : Scope} {l : LaneOp}
    (hp : s.mem.sharedPsn = []) : s.rmw id op .s cas aop n ord scope l =
      (.done (ofLe (s.sharedBytesAt op.core l.loc n)),
        atomWritten op.core l.loc n s (atomStores cas aop n (ofLe (s.sharedBytesAt op.core l.loc n)) l)) := by
  have hplace : s.atomPlace id false .s l.loc = (.ok ⟨l.loc, 0⟩, s) := rfl
  have hscope (p : Place) : s.atomScope .s scope p = scopeWithin scope .s := rfl
  have hread : s.homeRead op .s ⟨l.loc, 0⟩ n = (⟨s.sharedBytesAt op.core l.loc n, false⟩, s) := by
    rw [State.homeRead, if_pos (.inl rfl), spaceUnit, if_pos rfl, readLocal_shared hp]
  have hord (ord : Ord) (u : State) : u.relWaits op.gid (opKey id) ord (scopeWithin scope .s) = false
      ∧ u.releaseAt ord (flushedScope (scopeWithin scope .s)) = u ∧ u.acquireAt ord (scopeWithin scope .s) (dieOfCore op.core) = u := by
    obtain h | h := scopeWithin_shared scope <;> rw [h] <;> simp [State.relWaits, State.releaseAt, State.acquireAt, flushedScope]
  obtain ⟨hwait, hrel, -⟩ := hord ord s
  unfold State.rmw
  rw [hplace]
  dsimp only
  rw [hscope, hwait, hrel, hread]
  simp only [(hord ord _).2.2, Bool.false_eq_true, if_false, reduceCtorEq, false_and]
  refine Prod.ext rfl ?_
  show (match atomStores cas aop n _ l with | some v => _ | none => s) = _
  cases atomStores cas aop n (ofLe (s.sharedBytesAt op.core l.loc n)) l <;> rfl

theorem sharedBytesAt_writeLocal {s : State} (hm : s.mon = []) (core off : Nat) (b : Bytes)
    (hb : off + b.length ≤ Config.sharedBytes) : (s.writeLocal .s core off b).sharedBytesAt core off b.length = b := by
  refine List.ext_getElem (by simp [State.sharedBytesAt]) fun i hi hi' => ?_
  have hlt : i < b.length := hi'
  simp only [State.sharedBytesAt, List.getElem_map, List.getElem_range]
  rw [sharedByte_writeLocal hm core off b hb core _ (by omega),
    if_pos ⟨rfl, by omega, by omega⟩, Nat.add_sub_cancel_left, List.getD_eq_getElem _ _ hlt]

theorem ofLe_lt (b : Bytes) : ofLe b < 2 ^ (8 * b.length) := by
  induction b with
  | nil => simp [ofLe]
  | cons x t ih =>
    have hx := x.isLt
    rw [ofLe, List.length_cons, Nat.mul_succ, Nat.pow_add]
    omega

theorem fminmax_lt_of {F : FloatFmt} {x y m : Nat} (wantMax : Bool) (hc : F.canonNaN < m) (hx : x < m) (hy : y < m) :
    fminmax F wantMax x y < m := by
  rw [fminmax_eq]
  split_ifs <;> assumption

/-- What an atomic stores fits its place. -/
theorem atomStores_lt {cas : Bool} {aop n old : Nat} {l : LaneOp} (hn : n = 4 ∨ n = 8) (ho : old < 2 ^ (8 * n)) (hx : l.x < 2 ^ (8 * n))
    (hy : l.y < 2 ^ (8 * n)) : ∀ v ∈ atomStores cas aop n old l, v < 2 ^ (8 * n) := by
  intro v hv
  have hpow : 2 ^ 32 ≤ 2 ^ (8 * n) := Nat.pow_le_pow_right (by decide) (by omega)
  have hnan : F32.canonNaN < 2 ^ (8 * n) := lt_of_lt_of_le (by decide) hpow
  have hword (w : Word) : w.toNat < 2 ^ (8 * n) := lt_of_lt_of_le w.isLt hpow
  cases cas with
  | true =>
    simp only [atomStores, if_true] at hv
    split at hv
    · exact Option.some.inj hv ▸ hy
    · cases hv
  | false =>
    simp only [atomStores, Bool.false_eq_true, if_false, atomNew] at hv
    split at hv
    · exact Option.some.inj hv ▸ Nat.mod_lt _ (by positivity)
    · exact Option.some.inj hv ▸ hword _
    · exact Option.some.inj hv ▸ lt_of_le_of_lt (Nat.min_le_left _ _) ho
    · refine Option.some.inj hv ▸ ?_
      split <;> assumption
    · exact Option.some.inj hv ▸ fminmax_lt_of _ hnan ho hx
    · exact Option.some.inj hv ▸ max_lt ho hx
    · refine Option.some.inj hv ▸ ?_
      split <;> assumption
    · exact Option.some.inj hv ▸ fminmax_lt_of _ hnan ho hx
    · exact Option.some.inj hv ▸ Nat.and_lt_two_pow _ hx
    · exact Option.some.inj hv ▸ Nat.or_lt_two_pow ho hx
    · exact Option.some.inj hv ▸ Nat.xor_lt_two_pow ho hx
    · exact Option.some.inj hv ▸ hx
    · split at hv
      · exact Option.some.inj hv ▸ lt_of_le_of_lt (Nat.sub_le _ _) ho
      · cases hv

/-- The value at an atomic's place afterwards (R166). -/
theorem atomStores_getD (cas : Bool) (aop n old : Nat) (l : LaneOp) (hn : 0 < n) : (atomStores cas aop n old l).getD old =
    if cas then (if old = l.x then l.y else old) else match aop with
      | 0 => (old + l.x) % 2 ^ (8 * n) | 1 => (faddRn (BitVec.ofNat 32 old) (BitVec.ofNat 32 l.x)).toNat
      | 2 => min old l.x | 3 => if (BitVec.ofNat (8 * n) old).toInt < (BitVec.ofNat (8 * n) l.x).toInt then old else l.x
      | 4 => fminmax F32 false old l.x | 5 => max old l.x
      | 6 => if (BitVec.ofNat (8 * n) l.x).toInt < (BitVec.ofNat (8 * n) old).toInt then old else l.x
      | 7 => fminmax F32 true old l.x | 8 => old &&& l.x | 9 => old ||| l.x | 10 => old ^^^ l.x | 11 => l.x
      | _ => if 0 < (BitVec.ofNat (8 * n) old).toInt then old - 1 else old := by
  have hs (x : Nat) : sext x (8 * n) = (BitVec.ofNat (8 * n) x).toInt := sext_eq_toInt x _ (by omega)
  cases cas with
  | true =>
    simp only [atomStores, if_true]
    split <;> rfl
  | false =>
    simp only [atomStores, Bool.false_eq_true, if_false, atomNew, hs]
    match aop with
    | 0 | 1 | 2 | 3 | 4 | 5 | 6 | 7 | 8 | 9 | 10 | 11 => rfl
    | _ + 12 =>
      show (if 0 < (BitVec.ofNat (8 * n) old).toInt then some (old - 1) else none).getD old = if _ then _ else _
      split <;> rfl

/-- The memory after an atomic, where no wait stands that it could end. -/
theorem atomWritten_frame {s : State} (hm : s.mon = []) (core loc n : Nat) (x : Option Nat) : atomWritten core loc n s x =
    { s with mem := { s.mem with shared := (atomWritten core loc n s x).mem.shared,
                                 sharedPsn := (atomWritten core loc n s x).mem.sharedPsn } } := by
  cases x with
  | none => rfl
  | some v => rw [atomWritten, writeLocal_shared hm]

theorem sharedBytesAt_atomWritten {s : State} (hm : s.mon = []) {core loc n : Nat} (hb : loc + n ≤ Config.sharedBytes) {x : Option Nat}
    (hx : ∀ v ∈ x, v < 2 ^ (8 * n)) :
    ofLe ((atomWritten core loc n s x).sharedBytesAt core loc n) = x.getD (ofLe (s.sharedBytesAt core loc n)) := by
  cases x with
  | none => rfl
  | some v =>
    have h := sharedBytesAt_writeLocal hm core loc (leBytes n v) (by rw [leBytes_length]; exact hb)
    rw [leBytes_length] at h
    rw [atomWritten, h, ofLe_leBytes, Nat.mod_eq_of_lt (hx v rfl)]
    rfl

theorem sharedByte_atomWritten {s : State} (hm : s.mon = []) {core loc n : Nat} (hb : loc + n ≤ Config.sharedBytes) (x : Option Nat)
    {c a : Nat} (ha : a < Config.sharedBytes) (hout : c ≠ core ∨ a < loc ∨ loc + n ≤ a) :
    (atomWritten core loc n s x).sharedByte c a = s.sharedByte c a := by
  cases x with
  | none => rfl
  | some v =>
    rw [atomWritten, sharedByte_writeLocal hm core loc _ (by rw [leBytes_length]; exact hb) c a ha, leBytes_length, if_neg]
    omega

/-- An atomic of one lane in a core's memory: its value is read and stored, and its operation completes. -/
theorem atomicPerform_shared {s : State} {id : Nat} {op : Op} {cas wide : Bool} {aop : Nat} {ord : Ord} {scope : Scope} {d : Nat}
    {l : LaneOp} (h : sfind s.ops id = some op) (hw : op.work = .atomic .s cas aop wide ord scope (.s d) [l]) (hq : op.phase = .queued)
    (h0 : op.progress = 0) (hm : s.mon = []) (hp : s.mem.sharedPsn = []) {n : Nat} (hn : n = if wide then 8 else 4) :
    execAtomicPerform id s = .next (State.completeOp
      (State.endReads ((atomWritten op.core l.loc n s (atomStores cas aop n (ofLe (s.sharedBytesAt op.core l.loc n)) l)).modOp id
        fun q => { q with
          progress := q.progress + 1, outs := q.outs ++ (Dest.s d).put l.lane (ofLe (s.sharedBytesAt op.core l.loc n)) }) (opKey id)) id) := by
  have hrun : performLanes id op .s cas aop n ord scope (.s d) ([l].drop op.progress) s
      = (atomWritten op.core l.loc n s (atomStores cas aop n (ofLe (s.sharedBytesAt op.core l.loc n)) l)).modOp id
        fun q => { q with
          progress := q.progress + 1, outs := q.outs ++ (Dest.s d).put l.lane (ofLe (s.sharedBytesAt op.core l.loc n)) } := by
    rw [h0, List.drop_zero, performLanes, rmw_shared hp]
    simp only [performLanes]
  have hops : (atomWritten op.core l.loc n s (atomStores cas aop n (ofLe (s.sharedBytesAt op.core l.loc n)) l)).ops = s.ops := by
    rw [atomWritten_frame hm]
  have hlook : s.lookUp id .both op.work.laneGranules = (true, s) := by
    rw [hw]
    rfl
  rw [execAtomicPerform, h]
  dsimp only
  rw [if_neg (not_not.2 hq), hw]
  rw [hw] at hlook
  dsimp only
  rw [hlook, ← hn]
  dsimp only
  rw [hrun, State.modOp_ops, hops, sfind_supd, if_pos rfl, h]
  dsimp only [Option.map_some]
  rw [if_pos (by rw [h0]; rfl)]

/-! ### Waits (R168) -/

/-- A wait of the issuing group ends with a code: its register takes it, and its operation and its entry are gone. -/
theorem endWait_code {s : State} {id d : Nat} {op : Op} {x wide : Bool} {sp : Space} {ord : Ord} {scope : Scope} {loc at_ limit : Nat}
    (h : sfind s.ops id = some op) (hw : op.work = .wait sp x wide ord scope d loc at_ limit) (hd : op.deferred = [])
    (hg : op.gid = s.cur.gid) (c : Nat) : (s.endWait id c).cur.readS d = BitVec.ofNat 32 c ∧ sfind (s.endWait id c).ops id = none
      ∧ (∀ e ∈ (s.endWait id c).mon, e ∈ s.mon ∧ e.op ≠ id) ∧ (s.endWait id c).mem = s.mem := by
  have hops : sfind (s.modOp id fun op => { op with outs := [(.s d, 0, BitVec.ofNat 64 c)] }).ops id
      = some { op with outs := [(.s d, 0, BitVec.ofNat 64 c)] } := sfind_modOp h _
  obtain ⟨hread, -, -, hgone, hmem, hmon, -⟩ := endOp_scalar hops hg hd rfl
  have hend : s.endWait id c = { (s.modOp id fun op => { op with outs := [(.s d, 0, BitVec.ofNat 64 c)] }).endOp id with
      mon := s.mon.filter fun e => e.op ≠ id } := by
    rw [State.endWait, h]
    dsimp only
    rw [hw]
    rfl
  rw [hend]
  exact ⟨hread, hgone, fun e he => by simpa using he, hmem⟩

/-- A wait reaches its place in a core's memory. -/
theorem performWait_shared {s : State} {id : Nat} {op : Op} {x wide : Bool} {scope : Scope} {loc at_ : Nat}
    (hp : s.mem.sharedPsn = []) {n : Nat} (hn : n = if wide then 8 else 4) : s.performWait id op .s x wide .rlx scope loc at_ =
      if ofLe (s.sharedBytesAt op.core loc n) ≠ op.result.toNat then
        .next ((s.modOp id fun op => { op with phase := .running, since := s.now }).endWait id 1)
      else if !s.monRoom op.core op.grid then
        .next ((s.modOp id fun op => { op with phase := .running, since := s.now }).endWait id 3)
      else .next { s.modOp id fun op => { op with phase := .running, since := s.now } with
        mon := s.mon ++ [⟨op.core, .s, loc / 64, x, scope, id, op.grid⟩] } := by
  have hplace : s.atomPlace id true .s loc = (.ok ⟨loc, 0⟩, s) := rfl
  have hread : s.homeRead op .s ⟨loc, 0⟩ n = (⟨s.sharedBytesAt op.core loc n, false⟩, s) := by
    rw [State.homeRead, if_pos (.inl rfl), spaceUnit, if_pos rfl, readLocal_shared hp]
  unfold State.performWait
  rw [hplace, ← hn]
  dsimp only
  rw [hread]
  rfl

/-- Settles O36: an atomic is one read and one write of its core's memory, and a wait one read. -/
theorem atomicsAndWaitsArrive : Obligations.AtomicsAndWaitsArrive := by
  unfold Obligations.AtomicsAndWaitsArrive
  refine ⟨?_, ?_⟩
  · intro id s op cas wide aop ord scope d l n old b so sb new hop hwork hq h0 houts hdef _ _ hstat hqueue hgid hm hp hlim hb hy
    have hn : n = 4 ∨ n = 8 := by cases wide; exact .inl rfl; exact .inr rfl
    have hlen : (s.sharedBytesAt op.core l.loc n).length = n := by simp [State.sharedBytesAt]
    have hold : old < 2 ^ (8 * n) := by
      have := ofLe_lt (s.sharedBytesAt op.core l.loc n)
      rwa [hlen] at this
    have hx := atomStores_lt (cas := cas) (aop := aop) hn hold hb hy
    have hf := atomWritten_frame hm op.core l.loc n (atomStores cas aop n old l)
    have hnew : (atomStores cas aop n old l).getD old = new := atomStores_getD cas aop n old l (by omega)
    have hbytes := sharedBytesAt_atomWritten (core := op.core) hm hlim hx
    have hother := fun (c a : Nat) => sharedByte_atomWritten (core := op.core) hm hlim (atomStores cas aop n old l) (c := c) (a := a)
    have hrun := atomicPerform_shared hop hwork hq h0 hm hp (n := n) rfl
    generalize hw : atomWritten op.core l.loc n s (atomStores cas aop n old l) = w at hf hbytes hother hrun
    have hwops : w.ops = s.ops := by rw [hf]
    have hwcur : w.cur = s.cur := by rw [hf]
    have hput : sfind ((w.modOp id fun q => { q with
        progress := q.progress + 1, outs := q.outs ++ (Dest.s d.val).put l.lane old }).endReads (opKey id)).ops id
        = some { op with progress := op.progress + 1, outs := op.outs ++ (Dest.s d.val).put l.lane old } := by
      rw [endReads_ops]
      exact sfind_modOp (by rw [hwops]; exact hop) _
    have hgid' : op.gid = w.cur.gid := by rw [hwcur]; exact hgid
    obtain ⟨u, c, g, htally, hu, hend⟩ := completeOp_ends hput hgid' hstat (by rw [hqueue]; decide)
    have hcur : u.cur = { s.cur with tiles := u.cur.tiles } := by
      have hc : u.cur = { w.cur with tiles := u.cur.tiles } := htally.cur
      rwa [hwcur] at hc
    have hmem : u.mem = w.mem := htally.mem
    obtain ⟨hread, hkeep, hv, hgone, hmem', -, hflag⟩ := endOp_scalar hu (hgid'.trans htally.gid.symm) hdef
      (by rw [houts]; rfl)
    rw [hend] at hrun
    refine ⟨_, hrun, hread, fun k hk => (hkeep k hk).trans ?_, hv.trans ?_, ?_, fun core a ha hout => ?_, hgone,
      fun k hk => (hflag k hk).trans ?_⟩
    · rw [hcur]; rfl
    · rw [hcur]
    · rw [← hnew, ← hbytes]
      simp only [State.sharedBytesAt, State.sharedByte, hmem', hmem]
    · rw [← hother core a ha hout]
      simp only [State.sharedByte, hmem', hmem]
    · rw [hcur]; rfl
  · intro id s op x wide scope d loc at_ limit n v codes hop hwork hdef hgid hp
    have hrunning : sfind (s.modOp id fun op => { op with phase := .running, since := s.now }).ops id
        = some { op with phase := .running, since := s.now } := sfind_modOp hop _
    have hcode (c : Nat) := endWait_code hrunning hwork hdef hgid c
    have hwait := performWait_shared (s := s) (id := id) (op := op) (x := x) (scope := scope) (loc := loc) (at_ := at_) hp
      (n := n) rfl
    refine ⟨fun hq => ?_, fun hr h0 hlate => ?_⟩
    · have hrun : exec (.atomicPerform id) s = s.performWait id op .s x wide .rlx scope loc at_ := by
        rw [exec_atomicPerform, execAtomicPerform, hop]
        dsimp only
        rw [if_neg (not_not.2 hq), hwork]
      rw [hwait] at hrun
      refine ⟨fun hv => ?_, fun hv hroom => ?_, fun hv hroom => ?_⟩
      · rw [if_pos hv] at hrun
        exact ⟨_, hrun, hcode 1⟩
      · rw [if_neg (not_not.2 hv), hroom] at hrun
        exact ⟨_, hrun, hcode 3⟩
      · rw [if_neg (not_not.2 hv), hroom] at hrun
        exact ⟨_, hrun, rfl, rfl, rfl, _, hrunning, rfl, rfl⟩
    · refine ⟨_, ?_, endWait_code hop hwork hdef hgid 2⟩
      rw [exec_waitvTimeout, execWaitvTimeout, hop]
      dsimp only
      rw [hwork]
      exact if_pos ⟨hr, h0, hlate⟩

end Sys2Proof.Machine
end

/-! SUPPORT. Engine commands: start, leave, units of a copy and completion (R15, R161, R185, R267, R344). -/

section

namespace Sys2Proof.Machine

theorem exec_engineCommandStart (id : Nat) (s : State) : exec (.engineCommandStart id) s = execEngineCommandStart id s := rfl
theorem exec_leaveGrant (id : Nat) (s : State) : exec (.leaveGrant id) s = execLeaveGrant id s := rfl
theorem exec_commandComplete (id : Nat) (s : State) : exec (.commandComplete id) s = execCommandComplete id s := rfl
theorem exec_copyUnitWrite (id : Nat) (s : State) : exec (.copyUnitWrite id) s = execCopyUnitWrite id s := rfl

/-! ### Commands of one group -/

section

variable {s : State} {id : Nat} {op : Op} (h : sfind s.ops id = some op)

include h

theorem command_of_single (hm : op.mates = []) : s.command id = [id] := by
  rw [State.command, h]
  exact congrArg _ hm

theorem trace_of_no_trace (hq : ∀ gr, s.gridOf op.grid = some gr → gr.tlen = 0) (kind aux : Nat) : s.trace id kind aux = s := by
  refine trace_of_quiet (fun q hfind gr hgr => hq gr ?_) kind aux
  rw [h, Option.some_inj] at hfind
  rw [hfind]
  exact hgr

theorem traceAll_of_quiet (hm : op.mates = []) (hq : ∀ gr, s.gridOf op.grid = some gr → gr.tlen = 0) (kind aux : Nat) :
    s.traceAll id kind aux = s := by
  rw [State.traceAll, command_of_single h hm]
  exact trace_of_no_trace h hq kind aux

/-- A start that the queue allows, for a command that reads no descriptor first and keeps no trace. -/
theorem execEngineCommandStart_of_ready (hr : s.commandReady id op = true) (hd : s.readDesc id op = some s) (hm : op.mates = [])
    (hq : ∀ gr, s.gridOf op.grid = some gr → gr.tlen = 0) :
    execEngineCommandStart id s = match s.seekLeave id with | some s => .next s | none => notNow := by
  rw [execEngineCommandStart, h]
  dsimp only
  rw [hr, hd]
  simp only [Bool.not_true, Bool.false_eq_true, if_false, traceAll_of_quiet h hm hq] <;> rfl

theorem askedAt_of_op : s.askedAt id = some op.since := by rw [State.askedAt, h]

theorem asks_of_op : s.asks id = op.leave := by rw [State.asks, h]

end

/-- The power manager's list after a request: those of earlier cycles, and those that rank before it in its own, come first. -/
theorem queueLeave_eq (s : State) (id : Nat) : ∃ l r, s.leave.waiting = l ++ r
    ∧ s.queueLeave id = { s with leave := { s.leave with waiting := l ++ id :: r } }
    ∧ ∀ h ∈ l, s.askedAt h ≠ some s.now ∨ s.leaveRank h ≤ s.leaveRank id := by
  refine ⟨_, _, (List.takeWhile_append_dropWhile (p := fun h => s.askedAt h != some s.now || s.leaveRank h ≤ s.leaveRank id)).symm,
    rfl, fun h hh => ?_⟩
  have hp := List.mem_takeWhile_imp hh
  simpa using hp

/-- A change of one operation that keeps its unit keeps every request's rank. -/
theorem leaveRank_modOp {s : State} {id : Nat} {f : Op → Op} (hf : ∀ q, (f q).core = q.core ∧ (f q).queue = q.queue ∧ (f q).place = q.place)
    (h : Nat) : (s.modOp id f).leaveRank h = s.leaveRank h := by
  have hunit (q : Op) : (s.modOp id f).traceUnit h (f q) = s.traceUnit h q := by
    obtain ⟨hc, hqu, hp⟩ := hf q
    simp only [State.traceUnit, State.modOp_attn, hc, hqu, hp]
  have hsame (q : Op) : (s.modOp id f).traceUnit h q = s.traceUnit h q := rfl
  by_cases hh : h = id
  · cases hop : sfind s.ops h with
    | none =>
      simp only [State.leaveRank, State.modOp_ops, State.modOp_shed, sfind_supd, if_pos hh, hop, Option.map_none]
      split <;> simp_all
    | some q => simp only [State.leaveRank, State.modOp_ops, State.modOp_shed, sfind_supd, if_pos hh, hop, Option.map_some, (hf q).1, hunit]
  · simp only [State.leaveRank, State.modOp_ops, State.modOp_shed, sfind_supd, if_neg hh, hsame]

/-! ### A copy of one group -/

section

variable {s : State} {id : Nat} {op : Op} {ds ss : Space} {lu : Bool} {dst src count : Nat} {bar : Option Nat}
  (h : sfind s.ops id = some op) (hw : op.work = .copy ds ss lu dst src count bar)

include hw

theorem readDesc_copy : s.readDesc id op = some s := by rw [State.readDesc, hw]

theorem leave_copy : op.leave = if 2 ^ 20 ≤ count then 243 else 0 := by rw [Op.leave, hw]

include h

/-- A copy that has its leave runs. -/
theorem runAll_copy (hm : op.mates = []) : s.runAll (s.command id) = some (s.modOp id fun op => { op with phase := .running }) := by
  have hrun := sfind_modOp h fun op => { op with phase := .running }
  rw [command_of_single h hm]
  show s.runWork id = _
  simp only [State.runWork, hrun, hw]

theorem seekLeave_copy (hm : op.mates = []) (hp : op.phase = .queued) (hg : op.grant = 0) : s.seekLeave id =
    if 2 ^ 20 ≤ count then some (s.waitLeave id) else some (s.modOp id fun op => { op with phase := .running }) := by
  have hnothing : op.asksNothing = false := by rw [Op.asksNothing, hw]
  rw [State.seekLeave, h]
  dsimp only
  rw [if_neg (by rw [hp]; decide), hg, hnothing, leave_copy hw, if_neg (by decide : ¬ false = true), runAll_copy h hw hm]
  split
  · rfl
  · rfl

/-- The oldest request is granted once its leave is free, in a later cycle than its own. -/
theorem canGrant_copy (hbig : 2 ^ 20 ≤ count) (hhead : s.leave.waiting.head? = some id) :
    s.canGrant id (s.asks id) = (decide (243 ≤ s.leave.free) && decide (op.since < s.now)) := by
  have hnone : s.leave.waiting.takeWhile (· ≠ id) = [] := by
    cases hl : s.leave.waiting with
    | nil => rfl
    | cons x t =>
      rw [hl, List.head?_cons, Option.some_inj] at hhead
      simp [hhead]
  rw [State.canGrant, asks_of_op h, leave_copy hw, if_pos hbig, askedAt_of_op h, hnone, hhead]
  simp

end

/-! ### Completion (R185) -/

/-- A command of one group whose work is over completes, and an attention engine that it held is free. -/
theorem execCommandComplete_of_ended {s : State} {id : Nat} {op : Op} (h : sfind s.ops id = some op) (hm : op.mates = [])
    (hp : op.phase = .ended) (hs : op.status = 0) (hw : ∀ w, op.work ≠ .cor w) : execCommandComplete id s =
      .next { s.completeOp id with attn := { (s.completeOp id).attn with
        engines := (s.completeOp id).attn.engines.filter fun e => e.2.op ≠ id } } := by
  have hfinish : s.finishWork id = s := by
    rw [State.finishWork, h]
    exact if_pos (by rw [hp]; decide)
  have hover : s.workOver id = true := by
    rw [State.workOver, h]
    exact decide_eq_true hp
  have hverdict : s.commonVerdict [id] = s := by
    rw [State.commonVerdict]
    simp [h, hs]
  have hbind : s.bindResult id = s := by
    rw [State.bindResult, h]
    dsimp only
    split
    · rename_i w hcor
      exact absurd hcor (hw w)
    · rfl
  rw [execCommandComplete, command_of_single h hm]
  simp only [List.foldl_cons, List.foldl_nil, hfinish, List.all_cons, List.all_nil, hover, hverdict, hbind, List.isEmpty_cons,
    List.any_cons, List.any_nil, lt_self_iff_false, decide_false, Bool.or_self, Bool.and_self, Bool.not_true, Bool.false_eq_true,
    or_self, if_false]

/-- An operation of the issuing group that counted no events completes without a failure, where no tile has to be dropped and
its grid keeps no trace: its leave goes back, and then it ends. -/
theorem completeOp_of_quiet {s : State} {id : Nat} {op : Op} (h : sfind s.ops id = some op) (hg : op.gid = s.cur.gid)
    (ht : ∀ e ∈ s.cur.tiles, e.2.turned = none) (hs : op.status = 0) (hc : op.census = []) (hn : ∀ t : State, t.namedSite op = [])
    (hq : ∀ gr, s.gridOf op.grid = some gr → gr.tlen = 0) : s.completeOp id = (s.returnLeave id).endOp id := by
  have hd := dropTurnedAll_of_none (tileGroup_of_any (anyGroup_of_gid hg)) ht
  have hr := returnLeave_eq h
  have hfind : sfind (s.returnLeave id).ops id = some { op with grant := 0 } := by
    rw [hr]
    exact sfind_modOp h _
  have htrace : (s.returnLeave id).trace id 5 op.status = s.returnLeave id :=
    trace_of_no_trace hfind (by rw [hr]; exact hq) 5 op.status
  have hany : (s.returnLeave id).anyGroup op.gid = some s.cur := by
    have := anyGroup_of_gid (s := s.returnLeave id) (gid := op.gid) (by rw [hr]; exact hg)
    rwa [show (s.returnLeave id).cur = s.cur by rw [hr]] at this
  rw [State.completeOp, h, Option.bind_some, hd, h]
  dsimp only
  rw [hc, hn, List.append_nil, count_nil, hd, htrace, ite_self, hany]
  exact if_pos (.inl hs)

/-! ### A unit of a copy within a core's memory (R161) -/

/-- What a unit of n bytes leaves in its operation: the last one ends the work. -/
def unitDone (left n : Nat) (op : Op) : Op :=
  { op with progress := op.progress + n, done := op.done + n, phase := if left = n then .ended else op.phase }

/-- A unit is read and then written, and its operation moves on. -/
theorem copyUnitWrite_shared {s : State} {id : Nat} {op : Op} {lu : Bool} {dst src count : Nat} (h : sfind s.ops id = some op)
    (hp : op.phase = .running) (hw : op.work = .copy .s .s lu dst src count none) (hm : s.mon = []) (hpsn : s.mem.sharedPsn = []) {n : Nat}
    (hn : n = min 64 (count - op.progress)) :
    ∃ t, execCopyUnitWrite id s = .next t
      ∧ t = { s.writeLocal .s op.core (dst + op.progress) (s.sharedBytesAt op.core (src + op.progress) n) with ops := t.ops }
      ∧ sfind t.ops id = some (unitDone (count - op.progress) n op) := by
  have hagent : s.opAgent id = op.agent := by rw [State.opAgent, h]
  have hread : s.opRead id .s (src + op.progress) n = (.ok ⟨s.sharedBytesAt op.core (src + op.progress) n, false⟩, s) := by
    rw [← readLocal_shared hpsn, State.opRead, hagent]
    rfl
  have hlen : (s.sharedBytesAt op.core (src + op.progress) n).length = n := by simp [State.sharedBytesAt]
  have hwrite : s.opWrite id .s (dst + op.progress) (s.sharedBytesAt op.core (src + op.progress) n) false
      = (.ok ⟨[], false⟩, s.writeLocal .s op.core (dst + op.progress) (s.sharedBytesAt op.core (src + op.progress) n)) := by
    rw [State.opWrite, hagent]
    rfl
  have hpay (u : State) : u.payBack id none n false = (true, u) := by
    simp [State.payBack]
  have hops : sfind (s.writeLocal .s op.core (dst + op.progress) (s.sharedBytesAt op.core (src + op.progress) n)).ops id = some op := by
    rw [writeLocal_shared hm]
    exact h
  have hmove := sfind_modOp hops fun op => { op with progress := op.progress + n, done := op.done + n }
  have hend := sfind_modOp hmove fun op => { op with phase := .ended }
  rw [execCopyUnitWrite, h]
  dsimp only
  rw [if_neg (not_not.2 hp), hw]
  simp only [reduceCtorEq, and_self, if_false, State.lookParts, ← hn, hread, State.copyUnit, Bool.false_eq_true, hlen, hwrite,
    hpay, if_true]
  by_cases hl : count - op.progress = n
  · rw [if_pos hl]
    refine ⟨_, rfl, rfl, hend.trans ?_⟩
    rw [unitDone, if_pos hl]
  · rw [if_neg hl]
    refine ⟨_, rfl, rfl, hmove.trans ?_⟩
    rw [unitDone, if_neg hl]

/-- Settles O37: the start, the grant and the completion of a copy of one group, and its unit in a core's memory. -/
theorem engineCommandsRun : Obligations.EngineCommandsRun := by
  unfold Obligations.EngineCommandsRun
  refine ⟨?_, ?_⟩
  · intro id s op ds ss lu dst src count bar h hw hm hs hp hg _ hc hd ho hgid hq
    have hstart (hr : s.commandReady id op = true) : exec (.engineCommandStart id) s
        = match (if 2 ^ 20 ≤ count then some (s.waitLeave id) else some (s.modOp id fun op => { op with phase := .running })) with
          | some s => .next s | none => notNow := by
      have hqueued : op.phase = .queued := by
        simp only [State.commandReady, State.canStart, Bool.and_eq_true, decide_eq_true_eq] at hr
        exact hr.1.1.1.1.1
      rw [exec_engineCommandStart, execEngineCommandStart_of_ready h hr (readDesc_copy hw) hm hq, seekLeave_copy h hw hm hqueued hg]
    refine ⟨fun hr _ hlt => ?_, fun hr hbig => ?_, fun hbig hhead hfree hlate => ?_, fun hhead hno hbig => ?_, fun he ht => ?_⟩
    · rw [hstart hr, if_neg (Nat.not_le.2 hlt)]
    · rw [hstart hr, if_pos hbig]
      have hop := sfind_modOp h fun op => { op with phase := .leave, since := s.now }
      obtain ⟨l, r, hl, hu, hbefore⟩ := queueLeave_eq (s.modOp id fun op => { op with phase := .leave, since := s.now }) id
      rw [State.waitLeave, hu]
      refine ⟨_, rfl, rfl, rfl, rfl, ⟨l, r, rfl, hl, fun k hk => ?_⟩, _, hop, rfl, hg, rfl⟩
      have hrank (k : Nat) : (s.modOp id fun op => { op with phase := .leave, since := s.now }).leaveRank k = s.leaveRank k :=
        leaveRank_modOp (f := fun op => { op with phase := .leave, since := s.now }) (fun q => ⟨rfl, rfl, rfl⟩) k
      by_cases hid : k = id
      · exact .inr (by rw [hid])
      · have hasked : (s.modOp id fun op => { op with phase := .leave, since := s.now }).askedAt k = s.askedAt k := by
          simp only [State.askedAt, State.modOp_ops, State.modOp_shed, sfind_supd, if_neg hid]
        have hb := hbefore k hk
        rwa [hasked, hrank, hrank] at hb
    · have hin : s.leave.waiting.contains id = true := by simpa using List.mem_of_mem_head? hhead
      have hgrant : s.canGrant id (s.asks id) = true := by
        rw [canGrant_copy h hw hbig hhead, decide_eq_true hfree, decide_eq_true hlate]
        rfl
      have htake := sfind_modOp (s := { s with leave := { s.leave with
        free := s.leave.free - op.leave, waiting := s.leave.waiting.filter (· ≠ id) } }) h fun q => { q with grant := op.leave }
      have htrace : s.grantLeave id op.leave = s.takeLeave id op.leave := traceAll_of_quiet htake hm hq 4 0
      have hrun := runAll_copy htake hw hm
      refine ⟨_, ?_, ?_, ?_, _, sfind_modOp htake fun op => { op with phase := .running }, rfl, ?_⟩
      · rw [exec_leaveGrant, execLeaveGrant, hin, hgrant, h]
        simp only [Bool.not_true, Bool.false_eq_true, or_self, if_false, htrace]
        rw [show (s.takeLeave id op.leave).runAll ((s.takeLeave id op.leave).command id) = _ from hrun]
      · show s.leave.free - (op.leave : Int) = s.leave.free - 243
        rw [leave_copy hw, if_pos hbig]
        rfl
      · show id ∉ s.leave.waiting.filter (· ≠ id)
        simp
      · show op.leave = 243
        rw [leave_copy hw, if_pos hbig]
    · rw [exec_leaveGrant, execLeaveGrant]
      refine if_pos (.inr ?_)
      rw [canGrant_copy h hw hbig hhead]
      simp only [Bool.not_eq_true', Bool.and_eq_false_iff, decide_eq_false_iff_not]
      omega
    · have hcor (w : CorWork) : op.work ≠ .cor w := by rw [hw]; exact fun hc => Work.noConfusion hc
      have hsite (t : State) : t.namedSite op = [] := by rw [State.namedSite, hw]
      have hr := returnLeave_eq h
      have hfind : sfind (s.returnLeave id).ops id = some { op with grant := 0 } := by
        rw [hr]
        exact sfind_modOp h _
      have hcur : (s.returnLeave id).cur = s.cur := by rw [hr]
      have hend := endOp_of_cur hfind (by rw [hcur]; exact hgid) hd
      rw [exec_commandComplete, execCommandComplete_of_ended h hm he hs hcor, completeOp_of_quiet h hgid ht hs hc hsite hq, hend, ho, hr]
      refine ⟨_, rfl, ?_, rfl, fun j hj => ?_, rfl, rfl, fun k hk => Group.flagCount_lower _ _ _ hk⟩
      · simp [sfind_sdel]
      · simp [sfind_sdel, sfind_supd, hj]
  · intro id s op lu dst src count n h hp hw hlt hm hpsn hdst hsrc
    obtain ⟨t, hrun, ht, hq⟩ := copyUnitWrite_shared h hp hw hm hpsn (n := n) rfl
    have hlen : (s.sharedBytesAt op.core (src + op.progress) n).length = n := by simp [State.sharedBytesAt]
    have hn : n ≤ count - op.progress := Nat.min_le_right _ _
    have hbyte (core a : Nat) (ha : a < Config.sharedBytes) := sharedByte_writeLocal hm op.core (dst + op.progress)
      (s.sharedBytesAt op.core (src + op.progress) n) (by rw [hlen]; omega) core a ha
    rw [hlen] at hbyte
    have hshared (core a : Nat) : t.sharedByte core a = (s.writeLocal .s op.core (dst + op.progress)
        (s.sharedBytesAt op.core (src + op.progress) n)).sharedByte core a := by
      rw [ht]
      rfl
    have hwrite := writeLocal_shared hm op.core (dst + op.progress) (s.sharedBytesAt op.core (src + op.progress) n)
    refine ⟨t, hrun, fun i hi => ?_, fun core a ha hout => ?_, ?_, ?_, ?_, _, hq, rfl, rfl, ?_⟩
    · rw [hshared, hbyte _ _ (by omega), if_pos ⟨rfl, by omega, by omega⟩, Nat.add_sub_cancel_left,
        List.getD_eq_getElem _ _ (by rw [hlen]; exact hi)]
      simp [State.sharedBytesAt]
    · rw [hshared, hbyte core a ha, if_neg]
      omega
    · rw [ht, hwrite]
    · rw [ht, hwrite]
    · rw [ht, hwrite]
    · simp only [unitDone, hp]
      split <;> simp <;> omega

end Sys2Proof.Machine
end

/-! SUPPORT. Exact arithmetic: residue channels (R69 to R71) and rounding (R64, R107). -/

section

namespace Sys2Proof.Machine

/-! ### Residue channels -/

/-- The three channels of a container. -/
def rnsA (p : BitVec 34) : Nat := bits p.toNat 10 0
def rnsB (p : BitVec 34) : Nat := bits p.toNat 21 11
def rnsC (p : BitVec 34) : Nat := bits p.toNat 33 22

/-- A container holds an integer's residues. -/
def RnsHolds (p : BitVec 34) (t : Int) : Prop := (rnsA p : Int) = t % 2047 ∧ (rnsB p : Int) = t % 2048 ∧ (rnsC p : Int) = t % 2049

theorem rnsPack_channels {a b c : Nat} (ha : a < 2048) (hb : b < 2048) (hc : c < 4096) :
    rnsA (rnsPack a b c) = a ∧ rnsB (rnsPack a b c) = b ∧ rnsC (rnsPack a b c) = c := by
  have hn : (rnsPack a b c).toNat = a + b * 2048 + c * 4194304 := by
    rw [rnsPack, BitVec.toNat_ofNat]
    exact Nat.mod_eq_of_lt (by omega)
  simp only [rnsA, rnsB, rnsC, bits, hn]
  norm_num
  omega

/-- One channel of a multiply-accumulate. -/
theorem channel_mac {r : Nat} {t x y n : Int} (hn : 0 < n) (hr : (r : Int) = t % n) :
    (((((r : Int) + x % n * (y % n)) % n).toNat : Nat) : Int) = (t + x * y) % n := by
  rw [Int.toNat_of_nonneg (Int.emod_nonneg _ hn.ne'), hr, Int.emod_add_emod, ← Int.add_emod_emod, ← Int.mul_emod, Int.add_emod_emod]

theorem rnsMac_holds {p : BitVec 34} {t : Int} (h : RnsHolds p t) (x y : Int) : RnsHolds (rnsMac p x y) (t + x * y) := by
  obtain ⟨ha, hb, hc⟩ := h
  have ha' := channel_mac (n := 2047) (x := x) (y := y) (by decide) ha
  have hb' := channel_mac (n := 2048) (x := x) (y := y) (by decide) hb
  have hc' := channel_mac (n := 2049) (x := x) (y := y) (by decide) hc
  obtain ⟨h1, h2, h3⟩ := rnsPack_channels
    (a := (((rnsA p : Int) + x % 2047 * (y % 2047)) % 2047).toNat) (b := (((rnsB p : Int) + x % 2048 * (y % 2048)) % 2048).toNat)
    (c := (((rnsC p : Int) + x % 2049 * (y % 2049)) % 2049).toNat) (by omega) (by omega) (by omega)
  exact ⟨(congrArg Nat.cast h1).trans ha', (congrArg Nat.cast h2).trans hb', (congrArg Nat.cast h3).trans hc'⟩

/-- A chain of products from zero holds their sum. -/
theorem rnsMac_foldl_holds (l : List (Int × Int)) {p : BitVec 34} {t : Int} (h : RnsHolds p t) :
    RnsHolds (l.foldl (fun p e => rnsMac p e.1 e.2) p) (t + (l.map fun e => e.1 * e.2).sum) := by
  induction l generalizing p t with
  | nil => simpa using h
  | cons e l ih =>
    have h' := ih (rnsMac_holds h e.1 e.2)
    rwa [Int.add_assoc] at h'

/-- Reconversion gives the integer of the signed range that a container holds. -/
theorem rnsVal_of_holds {p : BitVec 34} {t : Int} (h : RnsHolds p t) (hlo : -4294966272 ≤ t) (hhi : t < 4294966272) : rnsVal p = t := by
  obtain ⟨ha, hb, hc⟩ := h
  have h : rnsVal p = let t1 := ((rnsA p : Int) - rnsB p) % 2047
      let t2 := (1024 * (((rnsB p : Int) - rnsC p) - t1)) % 2049
      let x := (rnsB p : Int) + 2048 * t1 + 4192256 * t2
      if 4294966272 ≤ x then x - 8589932544 else x := rfl
  rw [h, ha, hb, hc]
  dsimp only
  split <;> omega

/-! ### Rounding an exact value of a format -/

theorem roundsUp_exact (r : Rnd) (neg odd : Bool) : roundsUp r neg odd 0 2 false = false := by cases r <;> simp [roundsUp]

theorem roundQ_exact (r : Rnd) (neg : Bool) (man : Nat) (q : Int) : roundQ r neg man q q false = man := by
  simp only [roundQ, le_refl, if_true, sub_self, Int.toNat_zero, pow_zero, mul_one, roundsUp_exact, Bool.false_eq_true, if_false]

/-- A subnormal `F32` value rounds to its pattern. -/
theorem roundFin_subnormal (r : Rnd) (sat neg : Bool) {m : Nat} (hm : m < 2 ^ 23) (h0 : m ≠ 0) :
    roundFin F32 r sat neg m (-149) false = m + signBit F32 neg := by
  have hlog : Nat.log2 m < 23 := (Nat.log2_lt h0).2 hm
  have hq : max (-149 + (Nat.log2 m : Int) - (23 : Nat)) (1 - 127 - (23 : Nat)) = -149 := by omega
  have hlt : ¬ 0x7F7FFFFF < m := by omega
  simp only [roundFin, F32, hq, roundQ_exact, if_pos hm, if_neg hlt]

/-- A normal `F32` value rounds to its pattern. -/
theorem roundFin_normal (r : Rnd) (sat neg : Bool) {e m : Nat} (he : e < 255) (h0 : 0 < e) (hm : m < 2 ^ 23) :
    roundFin F32 r sat neg (2 ^ 23 + m) (e - 127 - (23 : Nat)) false = e * 2 ^ 23 + m + signBit F32 neg := by
  have hlog : Nat.log2 (2 ^ 23 + m) = 23 := (Nat.log2_eq_iff (by omega)).2 ⟨by omega, by omega⟩
  have hq : max ((e : Int) - 127 - (23 : Nat) + (23 : Nat) - (23 : Nat)) (1 - 127 - (23 : Nat)) = e - 127 - (23 : Nat) := by omega
  have hcode : ((e : Int) - 127 - (23 : Nat) - (1 - 127 - (23 : Nat)) + 1).toNat = e := by omega
  have hge : ¬ 2 ^ 23 + m < 2 ^ 23 := by omega
  have hsum : (e - 1) * 2 ^ 23 + (2 ^ 23 + m) = e * 2 ^ 23 + m := by omega
  have hlt : ¬ 0x7F7FFFFF < e * 2 ^ 23 + m := by omega
  simp only [roundFin, F32, hlog, hq, roundQ_exact, if_neg hge, hcode, hsum, if_neg hlt]

/-- An exact value that a pattern of `F32` holds is returned exactly. -/
theorem roundExt_floatVal (r : Rnd) (sat : Bool) {x : Nat} (hx : x < 2 ^ 32) (hn : floatVal F32 x ≠ .nan) :
    roundExt F32 r sat (floatVal F32 x) = x := by
  have hsign : signBit F32 (bits x 31 31 == 1) = x / 2 ^ 31 * 2 ^ 31 := by
    have h : x / 2 ^ 31 = 0 ∨ x / 2 ^ 31 = 1 := by omega
    have hb : bits x 31 31 = x / 2 ^ 31 := by
      rw [bits]
      omega
    obtain h | h := h <;> rw [hb, h] <;> rfl
  have hbits : bits x 30 23 = x / 2 ^ 23 % 2 ^ 8 := rfl
  have hval : floatVal F32 x = if 0x7F7FFFFF < x % 2 ^ 31 then (if x % 2 ^ 23 = 0 then .inf (bits x 31 31 == 1) else .nan)
      else if bits x 30 23 = 0 then .fin (bits x 31 31 == 1) (x % 2 ^ 23) (-149)
      else .fin (bits x 31 31 == 1) (2 ^ 23 + x % 2 ^ 23) (bits x 30 23 - 127 - (23 : Nat)) := by
    rw [floatVal]
    simp only [F32, true_and]
    congr
  rw [hval] at hn ⊢
  split at hn
  · rename_i hbig
    rw [if_pos hbig]
    split at hn
    · rename_i hm
      rw [if_pos hm]
      show infBits F32 _ = x
      rw [infBits, hsign]
      simp only [F32, if_true]
      omega
    · exact absurd rfl hn
  · rename_i hfin
    rw [if_neg hfin]
    have he : bits x 30 23 < 255 := by rw [hbits]; omega
    split
    · rename_i h0
      rw [hbits] at h0
      by_cases hm : x % 2 ^ 23 = 0
      · rw [hm]
        show signBit F32 _ = x
        rw [hsign]
        omega
      · have hround := roundFin_subnormal r sat (bits x 31 31 == 1) (m := x % 2 ^ 23) (by omega) hm
        rw [hsign] at hround
        rw [roundExt]
        · rw [hround]
          omega
        · exact hm
    · rename_i h0
      have hround := roundFin_normal r sat (bits x 31 31 == 1) he (Nat.pos_of_ne_zero h0) (m := x % 2 ^ 23) (by omega)
      rw [hsign, hbits] at hround
      rw [roundExt, hbits]
      · rw [hround]
        omega
      · omega

end Sys2Proof.Machine
end

/-! SUPPORT. Tiles behind a name (R284 to R290) and the work of the matrix units on them (R69 to R79, R193 to R196). -/

section

namespace Sys2Proof.Machine

/-! ### Maps as lists of values -/

section

variable {α : Type}

theorem length_toDense (d : α) (n k : Nat) (m : Sparse α) : (toDense d n k m).length = n := by
  induction n generalizing k m with
  | zero => cases m <;> rfl
  | succ n ih =>
    cases m with
    | nil => rw [toDense, List.length_cons, ih]
    | cons e t =>
      obtain ⟨k', v⟩ := e
      rw [toDense]
      split <;> rw [List.length_cons, ih]

theorem getD_toDense (d : α) (n k i : Nat) (m : Sparse α) (hm : skeysRise m = true) (hk : ∀ e ∈ m, k ≤ e.1) (hi : i < n) :
    (toDense d n k m).getD i d = sget d m (k + i) := by
  induction n generalizing k i m with
  | zero => omega
  | succ n ih =>
    cases m with
    | nil =>
      rw [toDense]
      cases i with
      | zero => rfl
      | succ i => rw [List.getD_cons_succ, ih (k + 1) i [] rfl (by simp) (by omega)]; rfl
    | cons e t =>
      obtain ⟨k', v⟩ := e
      rw [skeysRise_cons] at hm
      obtain ⟨hab, hm⟩ := hm
      have hk' : k ≤ k' := hk (k', v) (.head _)
      have hget (j : Nat) : sget d ((k', v) :: t) j = if j = k' then v else sget d t j := by
        rw [sget, sfind]
        split <;> rfl
      rw [toDense]
      split
      · rename_i heq
        cases i with
        | zero => rw [List.getD_cons_zero, hget, if_pos (by omega)]
        | succ i =>
          rw [List.getD_cons_succ, ih (k + 1) i t hm (fun e he => by have := hab e he; omega) (by omega), hget, if_neg (by omega)]
          congr 1
          omega
      · rename_i hne
        have hlow (e) (he : e ∈ (k', v) :: t) : k + 1 ≤ e.1 := by
          obtain rfl | he := List.mem_cons.1 he
          · show k + 1 ≤ k'
            omega
          · have := hab e he
            omega
        cases i with
        | zero =>
          rw [List.getD_cons_zero, hget, if_neg (by omega), sget]
          cases hf : sfind t k with
          | none => rfl
          | some x =>
            have := hab _ (mem_of_sfind hf)
            omega
        | succ i =>
          rw [List.getD_cons_succ, ih (k + 1) i _ ((skeysRise_cons _ _).2 ⟨hab, hm⟩) hlow (by omega)]
          congr 1
          omega

theorem skeysRise_ofDense [DecidableEq α] (d : α) (k : Nat) (l : List α) :
    skeysRise (ofDense d k l) = true ∧ ∀ e ∈ ofDense d k l, k ≤ e.1 := by
  induction l generalizing k with
  | nil => exact ⟨rfl, by simp [ofDense]⟩
  | cons v t ih =>
    obtain ⟨hr, hk⟩ := ih (k + 1)
    rw [ofDense]
    split
    · exact ⟨hr, fun e he => Nat.le_of_succ_le (hk e he)⟩
    · refine ⟨(skeysRise_cons _ _).2 ⟨fun e he => hk e he, hr⟩, fun e he => ?_⟩
      obtain rfl | he := List.mem_cons.1 he
      · exact le_rfl
      · exact Nat.le_of_succ_le (hk e he)

end

/-- A map with rising keys, as the list of its first n values. -/
theorem toDense_eq {α : Type} (d : α) (n : Nat) {m : Sparse α} (hm : skeysRise m = true) :
    toDense d n 0 m = (List.range n).map (sget d m) := by
  refine List.ext_getElem (by rw [length_toDense, List.length_map, List.length_range]) fun i hi hi' => ?_
  have hn : i < n := by rwa [length_toDense] at hi
  have h := getD_toDense d n 0 i m hm (fun _ _ => Nat.zero_le _) hn
  rw [List.getD_eq_getElem _ _ hi, Nat.zero_add] at h
  rw [h, List.getElem_map, List.getElem_range]

theorem supd_supd {α : Type} (m : Sparse α) (k : Nat) (f g : α → α) : supd (supd m k f) k g = supd m k fun v => g (f v) := by
  rw [supd, supd, supd, List.map_map]
  refine List.map_congr_left fun e _ => ?_
  simp only [Function.comp]
  split <;> simp_all

/-! ### Every element of a tile (R190) -/

section

variable {t : Tile} (ha : skeysRise t.acc = true) (hr : skeysRise t.res = true) (f : Nat → Nat → TileCell → TileCell)

theorem mapCells_rises : skeysRise (t.mapCells f).acc = true ∧ skeysRise (t.mapCells f).res = true :=
  ⟨(skeysRise_ofDense _ _ _).1, (skeysRise_ofDense _ _ _).1⟩

include ha hr

theorem getD_mapCells {e : Nat} (he : e < 4096) :
    (t.cells.zipIdx.map fun x => f (x.2 / 64) (x.2 % 64) x.1).getD e (0, 0) = f (e / 64) (e % 64) (sget 0 t.acc e, sget 0 t.res e) := by
  have hlen : t.cells.length = 4096 := by simp [Tile.cells, length_toDense]
  have hcell : t.cells[e]'(by rw [hlen]; exact he) = (sget 0 t.acc e, sget 0 t.res e) := by
    simp [Tile.cells, toDense_eq _ _ ha, toDense_eq _ _ hr]
  rw [List.getD_eq_getElem _ _ (by simpa [hlen] using he)]
  simp [hcell]

theorem acc_mapCells {e : Nat} (he : e < 4096) :
    sget 0 (t.mapCells f).acc e = (f (e / 64) (e % 64) (sget 0 t.acc e, sget 0 t.res e)).1 := by
  rw [← getD_mapCells ha hr f he, Tile.mapCells, Tile.setCells, sget_ofDense, if_pos (Nat.zero_le _), Nat.sub_zero]
  exact List.getD_map _ ((0, 0) : TileCell) (·.1)

theorem res_mapCells {e : Nat} (he : e < 4096) :
    sget 0 (t.mapCells f).res e = (f (e / 64) (e % 64) (sget 0 t.acc e, sget 0 t.res e)).2 := by
  rw [← getD_mapCells ha hr f he, Tile.mapCells, Tile.setCells, sget_ofDense, if_pos (Nat.zero_le _), Nat.sub_zero]
  exact List.getD_map _ ((0, 0) : TileCell) (·.2)

end

/-! ### A group's tile after a write of it -/

theorem anyGroup_modGroup (s : State) (gid : Nat) {f : Group → Group} (hf : ∀ g, (f g).gid = g.gid) :
    (s.modGroup gid f).tileGroup gid = (s.tileGroup gid).map f := by
  have hhere (g : Group) : (if g.gid = gid then f g else g).gid = g.gid := by split <;> simp [hf]
  have hfind (l : List Group) : (l.map fun g => if g.gid = gid then f g else g).find? (fun g => g.gid = gid)
      = (l.find? fun g => g.gid = gid).map f := by
    rw [List.find?_map]
    have hp : ((fun g : Group => decide (g.gid = gid)) ∘ fun g => if g.gid = gid then f g else g) = fun g => decide (g.gid = gid) := by
      funext g
      simp only [Function.comp, hhere]
    rw [hp]
    cases h : l.find? fun g => g.gid = gid with
    | none => rfl
    | some g =>
      have hg : g.gid = gid := by simpa using List.find?_some h
      simp [hg]
  by_cases hcur : s.cur.gid = gid
  · have hm : s.modGroup gid f = { s with cur := f s.cur } := by
      rw [State.modGroup]
      exact if_pos hcur
    simp [hm, State.tileGroup, State.anyGroup, State.findGroup, hf, hcur]
  · cases ho : sfind s.others gid with
    | some h =>
      have hm : s.modGroup gid f = { s with others := supd s.others gid f } := by
        rw [State.modGroup, ho]
        exact (if_neg hcur).trans (if_pos rfl)
      simp [hm, State.tileGroup, State.anyGroup, State.findGroup, hcur, ho, sfind_supd]
    | none =>
      have hm : s.modGroup gid f = { s with launch := { s.launch with
          saved := s.launch.saved.map fun sg => sg.modGroup gid f
          retired := s.launch.retired.map fun g => if g.gid = gid then f g else g } } := by
        rw [State.modGroup, ho]
        exact (if_neg hcur).trans (if_neg (by decide))
      have hsaved : ((s.launch.saved.map fun sg => sg.modGroup gid f).map (·.groups)).flatten
          = ((s.launch.saved.map (·.groups)).flatten).map fun g => if g.gid = gid then f g else g := by
        rw [List.map_map, List.map_flatten, List.map_map]
        rfl
      simp only [hm, State.tileGroup, State.anyGroup, State.findGroup, hcur, if_false, ho, Option.none_or, hsaved, hfind]
      cases (s.launch.saved.map (·.groups)).flatten.find? fun g => g.gid = gid <;> rfl

theorem tileOf_setTile {s : State} {gid : Nat} {g : Group} (hg : s.tileGroup gid = some g) (key : Nat) (t : Tile) :
    (s.setTile gid key t).tileOf gid key = t := by
  rw [State.tileOf, State.setTile, anyGroup_modGroup s gid (f := fun g => { g with tiles := sput g.tiles key t }) fun _ => rfl, hg]
  simp

theorem tileGroup_setTile {s : State} {gid : Nat} {g : Group} (hg : s.tileGroup gid = some g) (key : Nat) (t : Tile) :
    (s.setTile gid key t).tileGroup gid = some { g with tiles := sput g.tiles key t } := by
  rw [State.setTile, anyGroup_modGroup s gid (f := fun g => { g with tiles := sput g.tiles key t }) fun _ => rfl, hg]
  rfl

/-- A write of a tile changes groups alone. -/
theorem setTile_frame (s : State) (gid key : Nat) (t : Tile) : s.setTile gid key t =
    { s with cur := (s.setTile gid key t).cur, others := (s.setTile gid key t).others, launch := (s.setTile gid key t).launch } := by
  rw [State.setTile, State.modGroup]
  dsimp only
  split
  · rfl
  · split <;> rfl

/-! ### Steps of the residue path without scales and boundaries (R193) -/

/-- A chain of products into a partial. -/
def macs (p : BitVec 34) (l : List (Int × Int)) : BitVec 34 := l.foldl (fun p e => rnsMac p e.1 e.2) p

theorem macs_take_add (p : BitVec 34) (m n : Nat) (l : List (Int × Int)) :
    macs p (l.take (m + n)) = macs (macs p (l.take m)) ((l.drop m).take n) := by
  rw [macs, List.take_add, List.foldl_append]
  rfl

/-- Integer formats are not aligned. -/
theorem kBlock_int {f : Fmt} (h : floatFmt f = none) (xs : List Nat) : (kBlock f xs).q = xs.map (intVal f) := by rw [kBlock, h]

/-- The products of row i of A and column j of B, in order. -/
def pairsOf (fa fb : Fmt) (A B : List (List Nat)) (i j : Nat) : List (Int × Int) :=
  ((A.getD i []).map (intVal fa)).zip ((B.getD j []).map (intVal fb))

theorem getD_blocksAt {f : Fmt} (h : floatFmt f = none) (p : Nat) {ls : List (List Nat)} {i : Nat} (hi : i < ls.length) (z : KBlock) :
    ((blocksAt f p ls).getD i z).q = (((ls.getD i []).map (intVal f)).drop p).take 32 := by
  rw [blocksAt, List.getD_eq_getElem _ _ (by simpa using hi), List.getElem_map, kBlock_int h, List.getD_eq_getElem _ _ hi, List.map_take,
    List.map_drop]

/-- 32 steps of K on one element, without a boundary. -/
def KRun.macCell (w : MmaWork) (A B : List (List Nat)) (r : KRun) (i j : Nat) : TileCell → TileCell :=
  stepCell false ((blocksAt w.fb.fa r.done A).getD i ⟨[], 0, false, [], []⟩) ((blocksAt w.fb.fb r.done B).getD j ⟨[], 0, false, [], []⟩)
    .nan .nan

/-- 32 steps of K without a boundary. -/
def KRun.macStep (w : MmaWork) (A B : List (List Nat)) (r : KRun) : KRun :=
  let c := tally r.done w.lo w.hi (blocksAt w.fb.fa r.done A) (blocksAt w.fb.fb r.done B)
  ⟨{ r.tile.mapCells (r.macCell w A B) with kpos := r.tile.kpos + 32 }, r.done + 32, r.odd + c.1, r.lost + c.2, 0⟩

section

variable {s : State} {core : Nat} {w : MmaWork} {A B : List (List Nat)}
  (hfa : floatFmt w.fb.fa = none) (hfb : floatFmt w.fb.fb = none) (hkb : w.fb.kb = 0) (hA : A.length = 64) (hB : B.length = 64)

include hfa hfb

theorem residueSteps_succ (hkb : w.fb.kb = 0) (n : Nat) (r : KRun) :
    residueSteps s core w A B (n + 1) r = residueSteps s core w A B n (r.macStep w A B) := by
  have hbnd : ((floatFmt w.fb.fa).isSome || (floatFmt w.fb.fb).isSome
      || (decide (kbLen w.fb.kb ≠ 0) && decide ((r.tile.kpos + 32) % kbLen w.fb.kb = 0))) = false := by
    rw [hfa, hfb, hkb]
    rfl
  rw [residueSteps]
  dsimp only
  rw [hbnd]
  rfl

include hA hB

/-- 32 steps take the next 32 products into each partial. -/
theorem macStep_cells {r : KRun} (ha : skeysRise r.tile.acc = true) (hr : skeysRise r.tile.res = true) {i j : Nat} (hi : i < 64)
    (hj : j < 64) : sget 0 (r.macStep w A B).tile.acc (64 * i + j) = sget 0 r.tile.acc (64 * i + j)
      ∧ sget 0 (r.macStep w A B).tile.res (64 * i + j)
        = macs (sget 0 r.tile.res (64 * i + j)) (((pairsOf w.fb.fa w.fb.fb A B i j).drop r.done).take 32) := by
  have he : 64 * i + j < 4096 := by omega
  have hi' : (64 * i + j) / 64 = i := by omega
  have hj' : (64 * i + j) % 64 = j := by omega
  refine ⟨(acc_mapCells ha hr (r.macCell w A B) he).trans rfl, (res_mapCells ha hr (r.macCell w A B) he).trans ?_⟩
  rw [hi', hj']
  show macs _ (((blocksAt w.fb.fa r.done A).getD i _).q.zip ((blocksAt w.fb.fb r.done B).getD j _).q) = _
  rw [getD_blocksAt hfa _ (by omega), getD_blocksAt hfb _ (by omega)]
  simp only [pairsOf, List.zip_eq_zipWith, List.take_zipWith, List.drop_zipWith]

include hkb

/-- Each 32 steps of K take the next 32 products into each partial. -/
theorem residueSteps_int (n : Nat) (r : KRun) (ha : skeysRise r.tile.acc = true) (hr : skeysRise r.tile.res = true) (hs : r.status = 0) :
    (residueSteps s core w A B n r).status = 0 ∧ (residueSteps s core w A B n r).done = r.done + 32 * n
      ∧ (residueSteps s core w A B n r).tile.bad = r.tile.bad ∧ (residueSteps s core w A B n r).tile.kb = r.tile.kb
      ∧ (residueSteps s core w A B n r).tile.scales = r.tile.scales
      ∧ skeysRise (residueSteps s core w A B n r).tile.acc = true ∧ skeysRise (residueSteps s core w A B n r).tile.res = true
      ∧ ∀ i < 64, ∀ j < 64, sget 0 (residueSteps s core w A B n r).tile.acc (64 * i + j) = sget 0 r.tile.acc (64 * i + j)
        ∧ sget 0 (residueSteps s core w A B n r).tile.res (64 * i + j)
          = macs (sget 0 r.tile.res (64 * i + j)) (((pairsOf w.fb.fa w.fb.fb A B i j).drop r.done).take (32 * n)) := by
  induction n generalizing r with
  | zero => exact ⟨hs, rfl, rfl, rfl, rfl, ha, hr, fun i _ j _ => ⟨rfl, by simp [residueSteps, macs]⟩⟩
  | succ n ih =>
    have hrise := mapCells_rises (t := r.tile) (r.macCell w A B)
    obtain ⟨hstat, hdone, hbad, hkb', hsc, hua, hur, hcell⟩ := ih (r.macStep w A B) hrise.1 hrise.2 rfl
    rw [residueSteps_succ hfa hfb hkb]
    refine ⟨hstat, hdone.trans (show r.done + 32 + 32 * n = _ by omega), hbad, hkb', hsc, hua, hur, fun i hi j hj => ?_⟩
    obtain ⟨hacc, hres⟩ := hcell i hi j hj
    obtain ⟨hacc', hres'⟩ := macStep_cells hfa hfb hA hB ha hr hi hj
    refine ⟨hacc.trans hacc', hres.trans ?_⟩
    rw [hres', Nat.mul_succ, Nat.add_comm (32 * n) 32, macs_take_add, List.drop_drop]
    rfl

end

/-! ### The work of a command behind its queue (R15) -/

/-- A command that runs. -/
def State.running (s : State) (id : Nat) : State := s.modOp id fun op => { op with phase := .running }

theorem running_endWork (s : State) (id st : Nat) :
    (s.running id).endWork id st = s.modOp id fun op => { op with phase := .ended, status := st } := by
  rw [State.endWork, State.running, State.modOp, State.modOp, State.modOp]
  simp only [supd_supd]

section

variable {s : State} {id : Nat} {op : Op} (h : sfind s.ops id = some op)

include h

theorem sfind_running : sfind (s.running id).ops id = some { op with phase := .running } :=
  sfind_modOp h fun op => { op with phase := .running }

theorem runWork_mrd {nm : Nat} {t : Option Nat} {f : Fmt} {r : Rnd} {sat : Bool} {sp : Space} {dst : Nat}
    (hw : op.work = .mrd nm t f r sat sp dst) :
    s.runWork id = some ((s.running id).mrdRun id { op with phase := .running } t f r sat sp dst) := by
  simp only [State.runWork, sfind_modOp h, hw]
  rfl

theorem runWork_mwr {nm t : Nat} {sp : Space} {src : Nat} (hw : op.work = .mwr nm t sp src) :
    s.runWork id = some ((s.running id).mwrRun id { op with phase := .running } t sp src) := by
  simp only [State.runWork, sfind_modOp h, hw]
  rfl

theorem runWork_mclr {nm : Nat} {t : Option Nat} (hw : op.work = .mclr nm t) : s.runWork id = some ((s.running id).endWork id 0) := by
  simp only [State.runWork, sfind_modOp h, hw]
  rfl

theorem runWork_mma {w : MmaWork} (hw : op.work = .mma w) :
    s.runWork id = some ((s.running id).mmaGo id { op with phase := .running } w) := by
  simp only [State.runWork, sfind_modOp h, hw]
  rfl

end

/-- A write to a core's or a die's memory, where no wait stands that it could end. -/
theorem writeLocal_frame {s : State} (hm : s.mon = []) (sp : Space) (unit off : Nat) (b : Bytes) :
    s.writeLocal sp unit off b = { s with mem := (s.writeLocal sp unit off b).mem } := by
  cases sp
  all_goals
    simp only [State.writeLocal]
    rw [wakeRange_of_no_wait]
    exact hm

theorem writeLocal_mem {s u : State} (hm : s.mon = []) (hu : u.mon = []) (h : u.mem = s.mem) (sp : Space) (unit off : Nat) (b : Bytes) :
    (u.writeLocal sp unit off b).mem = (s.writeLocal sp unit off b).mem := by
  cases sp
  all_goals
    simp only [State.writeLocal, h]
    rw [wakeRange_of_no_wait (by exact hu), wakeRange_of_no_wait (by exact hm)]

/-! ### `mrd` and `mwr` (R194, R196) -/

theorem tileOf_running (s : State) (id gid key : Nat) : (s.running id).tileOf gid key = s.tileOf gid key := rfl

theorem readLocal_of_mem {s u : State} (h : u.mem = s.mem) (sp : Space) (unit off n : Nat) :
    u.readLocal sp unit off n = s.readLocal sp unit off n := by
  simp only [State.readLocal, h]

theorem readScales_of_mem {s u : State} (h : u.mem = s.mem) (core : Nat) (c : ScaleSrc) (ofB : Bool) (n : Nat) :
    u.readScales core c ofB n = s.readScales core c ofB n := by
  unfold State.readScales
  dsimp only
  rw [readLocal_of_mem h]

theorem bothScales_of_mem {s u : State} (h : u.mem = s.mem) (core : Nat) (c : ScaleSrc) (n : Nat) :
    u.bothScales core c n = s.bothScales core c n := by
  rw [State.bothScales, State.bothScales, readScales_of_mem h, readScales_of_mem h]

/-- Settling reads memory alone. -/
theorem settle_of_mem {s u : State} (h : u.mem = s.mem) (core : Nat) (t : Tile) : u.settle core t = s.settle core t := by
  unfold State.settle
  dsimp only
  rw [bothScales_of_mem h]

/-- The elements of a tile in row order, converted. -/
def rowBytes (fmt : Fmt) (rnd : Rnd) (sat : Bool) (acc : Nat → Word) : Bytes :=
  ((List.range 4096).map fun e => leBytes (fmtBits fmt / 8) (convElem .f32 fmt rnd sat (acc e).toNat)).flatten

theorem mrdRun_none (s : State) (id : Nat) (op : Op) (fmt : Fmt) (rnd : Rnd) (sat : Bool) (sp : Space) (dst : Nat) :
    s.mrdRun id op none fmt rnd sat sp dst
      = (s.writeLocal sp (spaceUnit sp op.core) dst (rowBytes fmt rnd sat fun _ => 0)).endWork id 0 := by
  rw [State.mrdRun]
  dsimp only
  rw [toDense_eq 0 4096 rfl, List.map_map]
  rfl

theorem mrdRun_some {s : State} {id : Nat} {op : Op} {k : Nat} {fmt : Fmt} {rnd : Rnd} {sat : Bool} {sp : Space} {dst : Nat} {tl : Tile}
    (h : s.settle op.core (s.tileOf op.gid k) = .ok tl) (hr : skeysRise tl.acc = true) : s.mrdRun id op (some k) fmt rnd sat sp dst
      = ((s.setTile op.gid k tl).writeLocal sp (spaceUnit sp op.core) dst (rowBytes fmt rnd sat (sget 0 tl.acc))).endWork id 0 := by
  rw [State.mrdRun]
  dsimp only
  rw [h]
  dsimp only
  rw [toDense_eq 0 4096 hr, List.map_map]
  rfl

theorem mrdRun_error {s : State} {id : Nat} {op : Op} {k : Nat} {fmt : Fmt} {rnd : Rnd} {sat : Bool} {sp : Space} {dst e : Nat}
    (h : s.settle op.core (s.tileOf op.gid k) = .error e) : s.mrdRun id op (some k) fmt rnd sat sp dst = s.endWork id e := by
  rw [State.mrdRun]
  dsimp only
  rw [h]

/-- A tile that takes the 4,096 elements of some bytes. -/
def Tile.load (t : Tile) (b : Bytes) : Tile :=
  { t with acc := ofDense 0 0 ((List.range 4096).map fun i => BitVec.ofNat 32 (ofLe ((b.drop (4 * i)).take 4))) }

theorem res_load (t : Tile) (b : Bytes) : (t.load b).res = t.res := by rw [Tile.load]

theorem acc_load (t : Tile) (b : Bytes) {e : Nat} (he : e < 4096) :
    sget 0 (t.load b).acc e = BitVec.ofNat 32 (ofLe ((b.drop (4 * e)).take 4)) := by
  rw [Tile.load, sget_ofDense, if_pos (Nat.zero_le _), Nat.sub_zero, List.getD_eq_getElem _ _ (by simpa using he), List.getElem_map,
    List.getElem_range]

section

variable {s : State} {id : Nat} {op : Op} {k : Nat} {sp : Space} {src : Nat}

theorem mwrRun_poisoned (h : (s.readLocal sp (spaceUnit sp op.core) src 16384).psn = true) :
    s.mwrRun id op k sp src = s.endWork id 2 := if_pos h

theorem mwrRun_loads (h : (s.readLocal sp (spaceUnit sp op.core) src 16384).psn = false) : s.mwrRun id op k sp src
    = (s.setTile op.gid k ((s.tileOf op.gid k).load (s.readLocal sp (spaceUnit sp op.core) src 16384).bytes)).endWork id 0 := by
  rw [State.mwrRun]
  dsimp only
  rw [h]
  rfl

end

/-- An operation whose work ends, after a write to local memory. -/
theorem sfind_writeLocal_endWork {s : State} {id : Nat} {op : Op} (h : sfind s.ops id = some op) (hm : s.mon = []) (sp : Space)
    (unit off : Nat) (b : Bytes) (st : Nat) :
    sfind ((s.writeLocal sp unit off b).endWork id st).ops id = some { op with phase := .ended, status := st } :=
  sfind_endWork (by rw [writeLocal_frame hm]; exact h) st

section

variable {s : State} {id : Nat} {op : Op} {g : Group} (h : sfind s.ops id = some op) (hg : s.tileGroup op.gid = some g)
  {k : Nat} {fmt : Fmt} {rnd : Rnd} {sat : Bool} {sp : Space} {at' : Nat}

include h hg

/-- `mrd` leaves its tile settled and writes its elements. -/
theorem mrdRun_ends (hm : s.mon = []) {tl : Tile} (hset : s.settle op.core (s.tileOf op.gid k) = .ok tl) (hr : skeysRise tl.acc = true) :
    ∃ q, sfind (s.mrdRun id op (some k) fmt rnd sat sp at').ops id = some q ∧ q.phase = .ended ∧ q.status = 0
      ∧ (s.mrdRun id op (some k) fmt rnd sat sp at').mem
        = (s.writeLocal sp (spaceUnit sp op.core) at' (rowBytes fmt rnd sat (sget 0 tl.acc))).mem
      ∧ (s.mrdRun id op (some k) fmt rnd sat sp at').tileOf op.gid k = tl := by
  have hframe := setTile_frame s op.gid k tl
  have hm' : (s.setTile op.gid k tl).mon = [] := by
    rw [hframe]
    exact hm
  have hmem : (s.setTile op.gid k tl).mem = s.mem := by rw [hframe]
  have hops : sfind (s.setTile op.gid k tl).ops id = some op := by
    rw [hframe]
    exact h
  rw [mrdRun_some hset hr]
  refine ⟨_, sfind_writeLocal_endWork hops hm' _ _ _ _ 0, rfl, rfl, writeLocal_mem hm hm' hmem _ _ _ _, ?_⟩
  rw [writeLocal_frame hm']
  exact tileOf_setTile hg k tl

/-- `mwr` loads its tile. -/
theorem mwrRun_ends (hp : (s.readLocal sp (spaceUnit sp op.core) at' 16384).psn = false) :
    ∃ q, sfind (s.mwrRun id op k sp at').ops id = some q ∧ q.phase = .ended ∧ q.status = 0 ∧ (s.mwrRun id op k sp at').mem = s.mem
      ∧ (s.mwrRun id op k sp at').tileOf op.gid k
        = (s.tileOf op.gid k).load (s.readLocal sp (spaceUnit sp op.core) at' 16384).bytes := by
  have hframe := setTile_frame s op.gid k ((s.tileOf op.gid k).load (s.readLocal sp (spaceUnit sp op.core) at' 16384).bytes)
  rw [mwrRun_loads hp]
  refine ⟨_, sfind_endWork (by rw [hframe]; exact h) 0, rfl, rfl, ?_, tileOf_setTile hg _ _⟩
  rw [State.endWork, State.modOp_mem, hframe]

end

/-! ### An `mma` from its start on (R193, R286) -/

/-- A loaded tile adopts the chain of the command that opens it, and every command leaves its scales. -/
def Tile.adopt (t : Tile) (w : MmaWork) : Tile :=
  { (if t.loaded then
      { t with residue := w.residue, fa := w.fb.fa, fb := w.fb.fb, kb := w.fb.kb, site := w.fb.site, loaded := false } else t) with
    scales := w.fb.src }

theorem adopt_keeps (t : Tile) (w : MmaWork) : (t.adopt w).acc = t.acc ∧ (t.adopt w).res = t.res ∧ (t.adopt w).bad = t.bad
    ∧ (t.adopt w).kpos = t.kpos ∧ (t.adopt w).scales = w.fb.src := by
  rw [Tile.adopt]
  split <;> exact ⟨rfl, rfl, rfl, rfl, rfl⟩

/-- A command with its rows of A read. -/
def MmaWork.withA (w : MmaWork) (b : Bytes) : MmaWork := { w with a := b }
def Op.withMma (w : MmaWork) (op : Op) : Op := { op with work := .mma w }

/-- The chain of a tile is the command's. -/
def Tile.Adopts (t : Tile) (w : MmaWork) : Prop :=
  t.loaded = true ∨ (t.residue = w.residue ∧ t.fa = w.fb.fa ∧ t.fb = w.fb.fb ∧ t.kb = w.fb.kb)

theorem adopt_kb {t : Tile} {w : MmaWork} (h : t.Adopts w) : (t.adopt w).kb = w.fb.kb := by
  rw [Tile.adopt]
  split
  · rfl
  · rename_i hl
    exact (h.resolve_left hl).2.2.2

section

variable {s : State} {id : Nat} {op : Op} {w : MmaWork}

theorem mmaBegin_refuses (h : ¬ (s.tileOf op.gid w.tile).Adopts w) :
    s.mmaBegin id op w = (4, s.tallyUp id w.fb.site 0 [0, 0, 0, 0, 0, 0, 1]) := by
  rw [Tile.Adopts, not_or] at h
  rw [State.mmaBegin]
  exact if_pos ⟨by simpa using h.1, h.2⟩

theorem mmaBegin_adopts (h : (s.tileOf op.gid w.tile).Adopts w) : s.mmaBegin id op w =
    let u := s.setTile op.gid w.tile ((s.tileOf op.gid w.tile).adopt w)
    let x := u.readLocal .s op.core w.aAt (64 * w.k * fmtBits w.fb.fa / 8)
    if x.psn then (2, u.tallyUp id w.fb.site 0 [])
    else (0, u.modOp id (Op.withMma (w.withA x.bytes))) := by
  have hneg : ¬ (!(s.tileOf op.gid w.tile).loaded) = true ∨ ((s.tileOf op.gid w.tile).residue = w.residue
      ∧ (s.tileOf op.gid w.tile).fa = w.fb.fa ∧ (s.tileOf op.gid w.tile).fb = w.fb.fb ∧ (s.tileOf op.gid w.tile).kb = w.fb.kb) := by
    obtain h | h := h
    · exact .inl (by simpa using h)
    · exact .inr h
  rw [State.mmaBegin]
  refine (if_neg ?_).trans rfl
  rintro ⟨h1, h2⟩
  exact hneg.elim (fun hn => hn h1) h2

/-- What steps of an `mma` give, with the settlement of `.fin`. -/
def mmaRun (s : State) (op : Op) (w : MmaWork) (upto : Nat) : KRun :=
  let t := s.tileOf op.gid w.tile
  let A := rowsOfA w.fb.fa w.k w.a
  let B := colsOfB w.fb.fb w.k w.b
  let r : KRun :=
    if t.bad then ⟨t, op.progress, 0, 0, 2⟩
    else if w.residue then residueSteps s op.core w A B ((upto - op.progress) / 32) ⟨t, op.progress, 0, 0, 0⟩
    else if upto = w.k then floatSteps w A B t else ⟨t, upto, 0, 0, 0⟩
  if r.done = w.k ∧ w.fin ∧ r.status = 0 then
    match s.settle op.core r.tile with
    | .ok t => { r with tile := t }
    | .error e => { r with status := e }
  else r

/-- What the steps up to a run's end leave in the operation. -/
def KRun.leave (w : MmaWork) (r : KRun) (q : Op) : Op :=
  { q with progress := r.done, done := r.done, status := r.status, phase := if r.done = w.k ∨ r.status ≠ 0 then .ended else q.phase }

theorem mmaSteps_eq (s : State) (id : Nat) (op : Op) (w : MmaWork) (upto : Nat) : ∃ c, s.mmaSteps id op w upto =
    ((s.setTile op.gid w.tile (mmaRun s op w upto).tile).modOp id fun q => { q with census := q.census ++ c }).modOp id
      ((mmaRun s op w upto).leave w) := ⟨_, rfl⟩

/-- Steps that bring a command to its end. -/
theorem mmaSteps_ends {g : Group} (h : sfind s.ops id = some op) (hg : s.tileGroup op.gid = some g) {upto : Nat}
    (hd : (mmaRun s op w upto).done = w.k ∨ (mmaRun s op w upto).status ≠ 0) :
    ∃ q, sfind (s.mmaSteps id op w upto).ops id = some q ∧ q.phase = .ended ∧ q.status = (mmaRun s op w upto).status
      ∧ (s.mmaSteps id op w upto).mem = s.mem ∧ (s.mmaSteps id op w upto).tileOf op.gid w.tile = (mmaRun s op w upto).tile := by
  have hset := setTile_frame s op.gid w.tile (mmaRun s op w upto).tile
  have hops : sfind (s.setTile op.gid w.tile (mmaRun s op w upto).tile).ops id = some op := by
    rw [hset]
    exact h
  obtain ⟨c, heq⟩ := mmaSteps_eq s id op w upto
  rw [heq]
  refine ⟨_, sfind_modOp (sfind_modOp hops _) _, if_pos hd, rfl, ?_, tileOf_setTile hg _ _⟩
  rw [State.modOp_mem, State.modOp_mem, hset]

section

variable (hb : (s.tileOf op.gid w.tile).bad = false) (hres : w.residue = true) (hp : op.progress = 0)

include hb hres hp

/-- Without `.fin` the run is its chains. -/
theorem mmaRun_chains (hfin : w.fin = false) : mmaRun s op w w.k =
    residueSteps s op.core w (rowsOfA w.fb.fa w.k w.a) (colsOfB w.fb.fb w.k w.b) (w.k / 32) ⟨s.tileOf op.gid w.tile, 0, 0, 0, 0⟩ := by
  rw [mmaRun]
  simp only [hb, hres, hp, hfin, Bool.false_eq_true, if_false, if_true, false_and, and_false, Nat.sub_zero]

/-- With `.fin` the tile is settled with its own scales. -/
theorem mmaRun_settles (hfin : w.fin = true) {r : KRun} (heq : r = residueSteps s op.core w (rowsOfA w.fb.fa w.k w.a)
    (colsOfB w.fb.fb w.k w.b) (w.k / 32) ⟨s.tileOf op.gid w.tile, 0, 0, 0, 0⟩) (hs : r.status = 0) (hd : r.done = w.k) {t : Tile}
    (hset : s.settle op.core r.tile = .ok t) : mmaRun s op w w.k = { r with tile := t } := by
  rw [mmaRun]
  simp only [hb, hres, hp, hfin, Bool.false_eq_true, if_false, if_true, Nat.sub_zero, ← heq, hs, hd, and_self, hset]

end

section

variable (hb : (s.tileOf op.gid w.tile).bad = false) (ha : skeysRise (s.tileOf op.gid w.tile).acc = true)
  (hr : skeysRise (s.tileOf op.gid w.tile).res = true)

include hb ha hr

/-- The float path takes the whole of K at once, with one rounding for each element. -/
theorem mmaRun_float (hres : w.residue = false) (hfin : w.fin = false) :
    (mmaRun s op w w.k).done = w.k ∧ (mmaRun s op w w.k).status = 0
      ∧ (mmaRun s op w w.k).tile.kpos = (s.tileOf op.gid w.tile).kpos + w.k
      ∧ ∀ i < 64, ∀ j < 64, sget 0 (mmaRun s op w w.k).tile.acc (64 * i + j)
        = floatCell w.fb.fa w.fb.fb ((rowsOfA w.fb.fa w.k w.a).getD i []) ((colsOfB w.fb.fb w.k w.b).getD j [])
          (sget 0 (s.tileOf op.gid w.tile).acc (64 * i + j)) := by
  have hrun : mmaRun s op w w.k = floatSteps w (rowsOfA w.fb.fa w.k w.a) (colsOfB w.fb.fb w.k w.b) (s.tileOf op.gid w.tile) := by
    rw [mmaRun]
    simp only [hb, hres, hfin, Bool.false_eq_true, if_false, if_true, false_and, and_false]
  rw [hrun]
  refine ⟨rfl, rfl, rfl, fun i hi j hj => ?_⟩
  have he : 64 * i + j < 4096 := by omega
  have hi' : (64 * i + j) / 64 = i := by omega
  have hj' : (64 * i + j) % 64 = j := by omega
  refine (acc_mapCells ha hr (fun i j c => (floatCell w.fb.fa w.fb.fb ((rowsOfA w.fb.fa w.k w.a).getD i [])
    ((colsOfB w.fb.fb w.k w.b).getD j []) c.1, c.2)) he).trans ?_
  rw [hi', hj']

variable (hfa : floatFmt w.fb.fa = none) (hfb : floatFmt w.fb.fb = none)
  (hkb : w.fb.kb = 0) (hk : w.k % 32 = 0)

include hfa hfb hkb hk

/-- The chains of the residue path over integers, before the settlement of `.fin`. -/
theorem mmaRun_steps : ∃ r : KRun,
    r = residueSteps s op.core w (rowsOfA w.fb.fa w.k w.a) (colsOfB w.fb.fb w.k w.b) (w.k / 32) ⟨s.tileOf op.gid w.tile, 0, 0, 0, 0⟩
    ∧ r.status = 0 ∧ r.done = w.k ∧ r.tile.bad = false ∧ r.tile.kb = (s.tileOf op.gid w.tile).kb
      ∧ r.tile.scales = (s.tileOf op.gid w.tile).scales ∧ skeysRise r.tile.acc = true ∧ skeysRise r.tile.res = true
      ∧ ∀ i < 64, ∀ j < 64, sget 0 r.tile.acc (64 * i + j) = sget 0 (s.tileOf op.gid w.tile).acc (64 * i + j)
        ∧ sget 0 r.tile.res (64 * i + j) = macs (sget 0 (s.tileOf op.gid w.tile).res (64 * i + j))
          (pairsOf w.fb.fa w.fb.fb (rowsOfA w.fb.fa w.k w.a) (colsOfB w.fb.fb w.k w.b) i j) := by
  have hA : (rowsOfA w.fb.fa w.k w.a).length = 64 := by simp [rowsOfA]
  have hB : (colsOfB w.fb.fb w.k w.b).length = 64 := by simp [colsOfB]
  obtain ⟨h1, h2, h3, h4, h5, h6, h7, hcell⟩ := residueSteps_int (s := s) (core := op.core) hfa hfb hkb hA hB (w.k / 32)
    ⟨s.tileOf op.gid w.tile, 0, 0, 0, 0⟩ ha hr rfl
  have hk' : 32 * (w.k / 32) = w.k := by omega
  refine ⟨_, rfl, h1, h2.trans ((Nat.zero_add _).trans hk'), h3.trans hb, h4, h5, h6, h7, fun i hi j hj => ?_⟩
  obtain ⟨hacc, hpart⟩ := hcell i hi j hj
  refine ⟨hacc, hpart.trans ?_⟩
  have hlen : (pairsOf w.fb.fa w.fb.fb (rowsOfA w.fb.fa w.k w.a) (colsOfB w.fb.fb w.k w.b) i j).length ≤ 32 * (w.k / 32) := by
    rw [hk', pairsOf, List.length_zip, List.length_map, List.getD_eq_getElem _ _ (by omega : i < _)]
    simp [rowsOfA]
  rw [List.drop_zero, List.take_of_length_le hlen]

end

end

/-! ### Settling without scales (R194) -/

theorem bothScales_none {s : State} {core : Nat} {c : ScaleSrc} (ha : c.hsa = false) (hb : c.hsb = false) (n : Nat) :
    s.bothScales core c n = .ok (List.replicate 64 (.fin false 1 0), List.replicate 64 (.fin false 1 0)) := by
  simp [State.bothScales, State.readScales, ha, hb]

/-- A tile without scales settles: every partial that is not zero is added to its element. -/
theorem settle_unscaled {s : State} {core : Nat} {t : Tile} (hb : t.bad = false) (ha : t.scales.hsa = false) (hsb : t.scales.hsb = false)
    (hacc : skeysRise t.acc = true) (hres : skeysRise t.res = true) : ∃ u, s.settle core t = .ok u ∧ ∀ e < 4096, sget 0 u.res e = 0
      ∧ sget 0 u.acc e = if sget 0 t.res e = 0 then sget 0 t.acc e
        else addTerm (sget 0 t.acc e) (residueTerm (rnsVal (sget 0 t.res e)) (.fin false 1 0) (.fin false 1 0) 0) := by
  by_cases hempty : t.res = []
  · refine ⟨t, by simp [State.settle, hb, hempty], fun e _ => ?_⟩
    simp [hempty, sget]
  · have hne : t.res.isEmpty = false := by simpa using hempty
    refine ⟨_, ?_, fun e he => ⟨res_mapCells hacc hres (fun i j => settleCell ((List.replicate 64 (Ext.fin false 1 0)).getD i .nan)
      ((List.replicate 64 (Ext.fin false 1 0)).getD j .nan)) he |>.trans ?_, acc_mapCells hacc hres _ he |>.trans ?_⟩⟩
    · simp only [State.settle, hb, hne, Bool.false_eq_true, if_false, bothScales_none ha hsb]
    · rw [settleCell]
      split
      · assumption
      · rfl
    · have h1 : (List.replicate 64 (Ext.fin false 1 0)).getD (e / 64) .nan = .fin false 1 0 := by
        rw [List.getD_eq_getElem _ _ (by simp; omega), List.getElem_replicate]
      have h2 : (List.replicate 64 (Ext.fin false 1 0)).getD (e % 64) .nan = .fin false 1 0 := by
        rw [List.getD_eq_getElem _ _ (by simp; omega), List.getElem_replicate]
      rw [h1, h2, settleCell]
      split <;> rfl

/-! ### The whole of an `mma` to one granule -/

/-- The rows of A, as the command reads them at its start. -/
def mmaRows (s : State) (op : Op) (w : MmaWork) : Got := s.readLocal .s op.core w.aAt (64 * w.k * fmtBits w.fb.fa / 8)

/-- The products of row i and column j, taken into the partial. -/
def mmaPart (s : State) (op : Op) (w : MmaWork) (i j : Nat) : BitVec 34 :=
  macs (sget 0 (s.tileOf op.gid w.tile).res (64 * i + j))
    (pairsOf w.fb.fa w.fb.fb (rowsOfA w.fb.fa w.k (mmaRows s op w).bytes) (colsOfB w.fb.fb w.k w.b) i j)

theorem granule_whole {w : MmaWork} (h : w.sg = 0) (a : Bytes) : (w.withA a).granule 0 = (w.withA a).k := if_pos h

section

variable {s : State} {id : Nat} {op : Op} {w : MmaWork} {g : Group} (h : sfind s.ops id = some op)
  (hg : s.tileGroup op.gid = some g) (hp : op.progress = 0)

include h hp

/-- A chain that does not fit its tile ends the command with 4. -/
theorem mmaGo_refuses (hno : ¬ (s.tileOf op.gid w.tile).Adopts w) : ∃ q, sfind (s.mmaGo id op w).ops id = some q ∧ q.phase = .ended
    ∧ q.status = 4 ∧ (s.mmaGo id op w).mem = s.mem ∧ (s.mmaGo id op w).tileOf op.gid w.tile = s.tileOf op.gid w.tile := by
  have hgo : s.mmaGo id op w = (s.tallyUp id w.fb.site 0 [0, 0, 0, 0, 0, 0, 1]).endWork id 4 := by
    rw [State.mmaGo, if_neg (by rw [hp]; exact lt_irrefl 0), mmaBegin_refuses hno]
    rfl
  rw [hgo]
  exact ⟨_, sfind_endWork (sfind_modOp h _) 4, rfl, rfl, rfl, rfl⟩

include hg

/-- A command that meets poison in A ends with 2, its chain adopted. -/
theorem mmaGo_poisoned (hyes : (s.tileOf op.gid w.tile).Adopts w)
    (hpsn : (s.readLocal .s op.core w.aAt (64 * w.k * fmtBits w.fb.fa / 8)).psn = true) :
    ∃ q, sfind (s.mmaGo id op w).ops id = some q ∧ q.phase = .ended ∧ q.status = 2 ∧ (s.mmaGo id op w).mem = s.mem
      ∧ (s.mmaGo id op w).tileOf op.gid w.tile = (s.tileOf op.gid w.tile).adopt w := by
  have hset := setTile_frame s op.gid w.tile ((s.tileOf op.gid w.tile).adopt w)
  have hread : ((s.setTile op.gid w.tile ((s.tileOf op.gid w.tile).adopt w)).readLocal .s op.core w.aAt
      (64 * w.k * fmtBits w.fb.fa / 8)).psn = true := by
    rw [hset]
    exact hpsn
  have hgo : s.mmaGo id op w = ((s.setTile op.gid w.tile ((s.tileOf op.gid w.tile).adopt w)).tallyUp id w.fb.site 0 []).endWork id 2 := by
    rw [State.mmaGo, if_neg (by rw [hp]; exact lt_irrefl 0), mmaBegin_adopts hyes]
    dsimp only
    rw [if_pos hread]
    rfl
  rw [hgo]
  refine ⟨_, sfind_endWork (sfind_modOp (by rw [hset]; exact h) _) 2, rfl, rfl, ?_, tileOf_setTile hg _ _⟩
  rw [State.endWork, State.tallyUp, State.modOp_mem, State.modOp_mem, hset]

/-- A command whose chain fits and whose rows are read takes its steps. -/
theorem mmaGo_runs (hyes : (s.tileOf op.gid w.tile).Adopts w) (hsg : w.sg = 0)
    (hpsn : (s.readLocal .s op.core w.aAt (64 * w.k * fmtBits w.fb.fa / 8)).psn = false) :
    ∃ (u : State) (g' : Group) (q : Op) (w' : MmaWork), w' = w.withA (s.readLocal .s op.core w.aAt (64 * w.k * fmtBits w.fb.fa / 8)).bytes
      ∧ s.mmaGo id op w = u.mmaSteps id q w' w'.k ∧ sfind u.ops id = some q ∧ q.gid = op.gid ∧ q.progress = 0
      ∧ u.tileGroup op.gid = some g' ∧ u.mem = s.mem ∧ u.tileOf op.gid w.tile = (s.tileOf op.gid w.tile).adopt w := by
  have hset := setTile_frame s op.gid w.tile ((s.tileOf op.gid w.tile).adopt w)
  have hread : (s.setTile op.gid w.tile ((s.tileOf op.gid w.tile).adopt w)).readLocal .s op.core w.aAt
      (64 * w.k * fmtBits w.fb.fa / 8) = s.readLocal .s op.core w.aAt (64 * w.k * fmtBits w.fb.fa / 8) := by
    rw [hset]
    rfl
  have hops : sfind (s.setTile op.gid w.tile ((s.tileOf op.gid w.tile).adopt w)).ops id = some op := by
    rw [hset]
    exact h
  have hq := sfind_modOp hops (Op.withMma (w.withA (s.readLocal .s op.core w.aAt (64 * w.k * fmtBits w.fb.fa / 8)).bytes))
  refine ⟨_, _, _, _, rfl, ?_, hq, rfl, hp, tileGroup_setTile hg w.tile _, ?_, tileOf_setTile hg _ _⟩
  · rw [State.mmaGo, if_neg (by rw [hp]; exact lt_irrefl 0), mmaBegin_adopts hyes]
    dsimp only
    rw [hread, hpsn]
    rw [if_neg (by decide)]
    show (match sfind (State.modOp _ id _).ops id with | some op => _ | none => _) = _
    rw [hq]
    show State.mmaSteps _ id _ _ ((w.withA _).granule 0) = _
    rw [granule_whole hsg]
  · rw [State.modOp_mem, hset]

/-- A chain on the float path: one rounding for each element. -/
theorem mmaGo_float (hyes : (s.tileOf op.gid w.tile).Adopts w) (hsg : w.sg = 0) (hpsn : (mmaRows s op w).psn = false)
    (hbad : (s.tileOf op.gid w.tile).bad = false) (hacc : skeysRise (s.tileOf op.gid w.tile).acc = true)
    (hres : skeysRise (s.tileOf op.gid w.tile).res = true) (hfl : w.residue = false) (hfin : w.fin = false) :
    ∃ q, sfind (s.mmaGo id op w).ops id = some q ∧ q.phase = .ended ∧ q.status = 0 ∧ (s.mmaGo id op w).mem = s.mem
      ∧ ((s.mmaGo id op w).tileOf op.gid w.tile).kpos = (s.tileOf op.gid w.tile).kpos + w.k
      ∧ ∀ i < 64, ∀ j < 64, sget 0 ((s.mmaGo id op w).tileOf op.gid w.tile).acc (64 * i + j)
        = floatCell w.fb.fa w.fb.fb ((rowsOfA w.fb.fa w.k (mmaRows s op w).bytes).getD i []) ((colsOfB w.fb.fb w.k w.b).getD j [])
          (sget 0 (s.tileOf op.gid w.tile).acc (64 * i + j)) := by
  obtain ⟨u, g', q', w', hw', hgo, hq', hgid, hprog, hug, humem, hold⟩ := mmaGo_runs h hg hp hyes hsg hpsn
  obtain ⟨ha, hb, hc, hd, he⟩ := adopt_keeps (s.tileOf op.gid w.tile) w
  have htl : w'.tile = w.tile := by rw [hw']; rfl
  have hug' : u.tileGroup q'.gid = some g' := by rw [hgid]; exact hug
  have hold' : u.tileOf q'.gid w'.tile = (s.tileOf op.gid w.tile).adopt w := by rw [hgid, htl]; exact hold
  obtain ⟨hdone, hstat, hkpos, hcells⟩ := mmaRun_float (s := u) (op := q') (w := w') (by rw [hold', hc]; exact hbad)
    (by rw [hold', ha]; exact hacc) (by rw [hold', hb]; exact hres) (by rw [hw']; exact hfl) (by rw [hw']; exact hfin)
  obtain ⟨q, hq, hph, hst, hmem, htile⟩ := mmaSteps_ends hq' hug' (upto := w'.k) (.inl hdone)
  rw [hgid, htl] at htile
  rw [hgo]
  refine ⟨q, hq, hph, hst.trans hstat, hmem.trans humem, ?_, fun i hi j hj => ?_⟩
  · rw [htile, hkpos, hold', hd, hw']
    rfl
  · rw [htile, hcells i hi j hj, hold', ha, hw']
    rfl

/-- A chain on the residue path over integers, with its partials added at `.fin`. -/
theorem mmaGo_residue (hyes : (s.tileOf op.gid w.tile).Adopts w) (hsg : w.sg = 0) (hpsn : (mmaRows s op w).psn = false)
    (hbad : (s.tileOf op.gid w.tile).bad = false) (hacc : skeysRise (s.tileOf op.gid w.tile).acc = true)
    (hres : skeysRise (s.tileOf op.gid w.tile).res = true) (hrs : w.residue = true) (hfa : floatFmt w.fb.fa = none)
    (hfb : floatFmt w.fb.fb = none) (hkb : w.fb.kb = 0) (hk : w.k % 32 = 0) (hsa : w.fb.src.hsa = false) (hsb : w.fb.src.hsb = false) :
    ∃ q, sfind (s.mmaGo id op w).ops id = some q ∧ q.phase = .ended ∧ q.status = 0 ∧ (s.mmaGo id op w).mem = s.mem
      ∧ ∀ i < 64, ∀ j < 64,
        (w.fin = false → sget 0 ((s.mmaGo id op w).tileOf op.gid w.tile).acc (64 * i + j)
            = sget 0 (s.tileOf op.gid w.tile).acc (64 * i + j)
          ∧ sget 0 ((s.mmaGo id op w).tileOf op.gid w.tile).res (64 * i + j) = mmaPart s op w i j)
        ∧ (w.fin = true → sget 0 ((s.mmaGo id op w).tileOf op.gid w.tile).res (64 * i + j) = 0
          ∧ sget 0 ((s.mmaGo id op w).tileOf op.gid w.tile).acc (64 * i + j)
            = if mmaPart s op w i j = 0 then sget 0 (s.tileOf op.gid w.tile).acc (64 * i + j)
              else addTerm (sget 0 (s.tileOf op.gid w.tile).acc (64 * i + j))
                (residueTerm (rnsVal (mmaPart s op w i j)) (.fin false 1 0) (.fin false 1 0) 0)) := by
  obtain ⟨u, g', q', w', hw', hgo, hq', hgid, hprog, hug, humem, hold⟩ := mmaGo_runs h hg hp hyes hsg hpsn
  obtain ⟨ha, hb, hc, hd, he⟩ := adopt_keeps (s.tileOf op.gid w.tile) w
  have htl : w'.tile = w.tile := by rw [hw']; rfl
  have hug' : u.tileGroup q'.gid = some g' := by rw [hgid]; exact hug
  have hold' : u.tileOf q'.gid w'.tile = (s.tileOf op.gid w.tile).adopt w := by rw [hgid, htl]; exact hold
  have hbad' : (u.tileOf q'.gid w'.tile).bad = false := by rw [hold', hc]; exact hbad
  have hwres : w'.residue = true := by rw [hw']; exact hrs
  obtain ⟨r, hr0, hst0, hdone, hrbad, hrkb, hrsc, hracc, hrres, hcells⟩ := mmaRun_steps hbad' (by rw [hold', ha]; exact hacc)
    (by rw [hold', hb]; exact hres) (by rw [hw']; exact hfa) (by rw [hw']; exact hfb) (by rw [hw']; exact hkb) (by rw [hw']; exact hk)
  have hcell (i j : Nat) (hi : i < 64) (hj : j < 64) : sget 0 r.tile.acc (64 * i + j) = sget 0 (s.tileOf op.gid w.tile).acc (64 * i + j)
      ∧ sget 0 r.tile.res (64 * i + j) = mmaPart s op w i j := by
    have hij := hcells i hi j hj
    rw [hold', ha, hb, hw'] at hij
    exact hij
  rw [hgo]
  by_cases hfin : w.fin = true
  · obtain ⟨tl, hset, hsettled⟩ := settle_unscaled (s := u) (core := q'.core) hrbad (by rw [hrsc, hold', he]; exact hsa)
      (by rw [hrsc, hold', he]; exact hsb) hracc hrres
    have hrun := mmaRun_settles hbad' hwres hprog (by rw [hw']; exact hfin) hr0 hst0 hdone hset
    obtain ⟨q, hq, hph, hst, hmem, htile⟩ := mmaSteps_ends hq' hug' (upto := w'.k) (.inl (by rw [hrun]; exact hdone))
    rw [hgid, htl, hrun] at htile
    refine ⟨q, hq, hph, by rw [hst, hrun]; exact hst0, hmem.trans humem, fun i hi j hj => ⟨fun h => ?_, fun _ => ?_⟩⟩
    · rw [hfin] at h
      exact Bool.noConfusion h
    · obtain ⟨hacc0, hres0⟩ := hcell i j hi hj
      obtain ⟨hzero, hsum⟩ := hsettled (64 * i + j) (by omega)
      rw [hacc0, hres0] at hsum
      rw [htile]
      exact ⟨hzero, hsum⟩
  · have hrun := mmaRun_chains hbad' hwres hprog (by rw [hw']; exact Bool.eq_false_iff.2 hfin)
    rw [← hr0] at hrun
    obtain ⟨q, hq, hph, hst, hmem, htile⟩ := mmaSteps_ends hq' hug' (upto := w'.k) (.inl (by rw [hrun]; exact hdone))
    rw [hgid, htl, hrun] at htile
    refine ⟨q, hq, hph, by rw [hst, hrun]; exact hst0, hmem.trans humem, fun i hi j hj => ⟨fun _ => ?_, fun h => absurd h hfin⟩⟩
    rw [htile]
    exact hcell i j hi hj

end

/-! ### Starts and grants of a command (R15, R188, R344) -/

section

variable {s : State} {id : Nat} {op : Op} (h : sfind s.ops id = some op) (hm : op.mates = [])
  (hq : ∀ gr, s.gridOf op.grid = some gr → gr.tlen = 0)

include h hm hq

/-- A command that asks for a leave of 0 runs at its start. -/
theorem start_runs (ha : op.asksNothing = true) (hr : s.commandReady id op = true) {t : State} (ht : s.runWork id = some t) :
    exec (.engineCommandStart id) s = .next t := by
  have hdesc : s.readDesc id op = some s := by
    rw [State.readDesc]
    split
    · rename_i hw
      rw [Op.asksNothing, hw] at ha
      exact Bool.noConfusion ha
    · rfl
  have hleave : op.leave = 0 := by
    rw [Op.asksNothing] at ha
    rw [Op.leave]
    split at ha
    · rename_i hw
      rw [hw]
    · rename_i hw
      rw [hw]
    · rename_i hw
      rw [hw]
    · exact Bool.noConfusion ha
  have hqueued : op.phase = .queued := by
    simp only [State.commandReady, State.canStart, Bool.and_eq_true, decide_eq_true_eq] at hr
    exact hr.1.1.1.1.1
  have hseek : s.seekLeave id = some t := by
    rw [State.seekLeave, h]
    dsimp only
    rw [if_neg (by rw [hqueued]; decide), if_pos (.inl hleave), ha, if_pos rfl, traceAll_of_quiet h hm hq, command_of_single h hm]
    exact ht
  rw [exec_engineCommandStart, execEngineCommandStart_of_ready h hr hdesc hm hq, hseek]

/-- A command that asks for leave runs with its grant. -/
theorem grant_runs (hhead : s.leave.waiting.head? = some id) (hfree : (op.leave : Int) ≤ s.leave.free) (hlate : op.since < s.now)
    {t : State} (ht : (s.takeLeave id op.leave).runWork id = some t) : exec (.leaveGrant id) s = .next t := by
  have hnone : s.leave.waiting.takeWhile (· ≠ id) = [] := by
    cases hl : s.leave.waiting with
    | nil => rfl
    | cons x t =>
      rw [hl, List.head?_cons, Option.some_inj] at hhead
      simp [hhead]
  have hin : s.leave.waiting.contains id = true := by simpa using List.mem_of_mem_head? hhead
  have hgrant : s.canGrant id (s.asks id) = true := by
    rw [State.canGrant, asks_of_op h, askedAt_of_op h, hnone, hhead]
    simp [hfree, hlate]
  have htake := sfind_modOp (s := { s with leave := { s.leave with
    free := s.leave.free - op.leave, waiting := s.leave.waiting.filter (· ≠ id) } }) h fun q => { q with grant := op.leave }
  have htrace : s.grantLeave id op.leave = s.takeLeave id op.leave := traceAll_of_quiet htake hm hq 4 0
  have hcmd : (s.takeLeave id op.leave).command id = [id] := command_of_single htake hm
  rw [exec_leaveGrant, execLeaveGrant, hin, hgrant, h]
  simp only [Bool.not_true, Bool.false_eq_true, or_self, if_false, htrace, hcmd]
  rw [show (s.takeLeave id op.leave).runAll [id] = (s.takeLeave id op.leave).runWork id from rfl, ht]

end

/-- Settles O38: the residue channels by R71's congruences, rounding by the two ranges of `F32`, and each tile command by its run. -/
theorem exactArithmetic : Obligations.ExactArithmetic := by
  unfold Obligations.ExactArithmetic
  refine ⟨?_, fun r sat x hx hn => roundExt_floatVal r sat hx hn, fun id s op g h hg => ?_⟩
  · intro l t hhi hlo
    have h0 : RnsHolds 0 0 := ⟨rfl, rfl, rfl⟩
    have hl := rnsMac_foldl_holds l h0
    rw [Int.zero_add] at hl
    exact rnsVal_of_holds hl hlo hhi
  intro one runs quiet
  have hr := sfind_running h
  refine ⟨fun ha hm hready hq t ht => start_runs h hm hq ha hready ht, fun _ hm hhead hfree hlate hq t ht =>
    grant_runs h hm hq hhead hfree hlate ht, ?_, ?_, ?_, ?_⟩
  · intro nm tile fmt rnd sat sp dst hw hmon out wrote
    have hrun := runWork_mrd h hw
    have hout (acc : Nat → Word) : out acc = rowBytes fmt rnd sat acc := by rw [rowBytes]
    have hwrote (t : State) (acc : Nat → Word) (ht : t.mem = (s.writeLocal sp (spaceUnit sp op.core) dst (rowBytes fmt rnd sat acc)).mem) :
        wrote t acc := by
      rw [← hout] at ht
      exact ht
    have hmemory (b : Bytes) : ((s.running id).writeLocal sp (spaceUnit sp op.core) dst b).mem
        = (s.writeLocal sp (spaceUnit sp op.core) dst b).mem := writeLocal_mem (u := s.running id) hmon hmon rfl _ _ _ _
    have hsettle (k : Nat) : (s.running id).settle op.core ((s.running id).tileOf op.gid k) = s.settle op.core (s.tileOf op.gid k) := by
      rw [tileOf_running]
      exact settle_of_mem rfl _ _
    refine ⟨fun hnone => ?_, fun k hk => ⟨fun tl hset hrise => ?_, fun e hset => ?_⟩⟩
    · rw [hnone, mrdRun_none] at hrun
      have hw0 := hwrote (((s.running id).writeLocal sp (spaceUnit sp op.core) dst (rowBytes fmt rnd sat fun _ => 0)).endWork id 0)
        (fun _ => 0) (hmemory _)
      exact ⟨_, _, hrun, sfind_writeLocal_endWork hr hmon _ _ _ _ 0, rfl, rfl, hw0⟩
    · rw [hk] at hrun
      obtain ⟨q, hq, hph, hst, hmem, htile⟩ := mrdRun_ends (at' := dst) hr hg hmon ((hsettle k).trans hset) hrise
      have hwk := hwrote _ _ (hmem.trans (hmemory _))
      exact ⟨_, q, hrun, hq, hph, hst, hwk, htile⟩
    · rw [hk, mrdRun_error (op := { op with phase := .running }) ((hsettle k).trans hset)] at hrun
      exact ⟨_, _, hrun, sfind_endWork hr e, rfl, rfl, rfl⟩
  · intro nm k sp src hw x
    have hrun := runWork_mwr h hw
    have hread : (s.running id).readLocal sp (spaceUnit sp op.core) src 16384 = x :=
      readLocal_of_mem (u := s.running id) rfl _ _ _ _
    refine ⟨fun hpsn => ?_, fun hpsn => ?_⟩
    · rw [mwrRun_poisoned (op := { op with phase := .running }) (by rw [hread]; exact hpsn)] at hrun
      exact ⟨_, _, hrun, sfind_endWork hr 2, rfl, rfl, rfl, rfl⟩
    · obtain ⟨q, hq, hph, hst, hmem, htile⟩ := mwrRun_ends (k := k) (at' := src) hr hg (by rw [hread]; exact hpsn)
      rw [hread] at htile
      refine ⟨_, q, hrun, hq, hph, hst, hmem, ?_, fun e he => ?_⟩
      · exact (congrArg Tile.res htile).trans (res_load _ _)
      · rw [htile]
        exact acc_load _ x.bytes he
  · intro nm k hw
    exact (runWork_mclr h hw).trans (congrArg some (running_endWork s id 0))
  · intro w hw hp hsg old new adopts x A B
    have hrun := runWork_mma h hw
    refine ⟨fun hno => ?_, fun hyes hpsn => ?_, fun hyes hpsn hbad hacc hres => ?_⟩
    · obtain ⟨q, hq, hph, hst, hmem, htile⟩ := mmaGo_refuses hr hp hno
      exact ⟨_, q, hrun, hq, hph, hst, hmem, htile⟩
    · obtain ⟨q, hq, hph, hst, hmem, htile⟩ := mmaGo_poisoned hr hg hp hyes hpsn
      obtain ⟨ha, hb, _⟩ := adopt_keeps old w
      exact ⟨_, q, hrun, hq, hph, hst, hmem, (congrArg Tile.acc htile).trans ha, (congrArg Tile.res htile).trans hb⟩
    refine ⟨fun hfl hfin => ?_, ?_⟩
    · obtain ⟨q, hq, hph, hst, hmem, hcells⟩ := mmaGo_float hr hg hp hyes hsg hpsn hbad hacc hres hfl hfin
      exact ⟨_, q, hrun, hq, hph, hst, hmem, hcells⟩
    · intro hrs hfa hfb hkb hk hsa hsb part
      obtain ⟨q, hq, hph, hst, hmem, hcells⟩ := mmaGo_residue hr hg hp hyes hsg hpsn hbad hacc hres hrs hfa hfb hkb hk hsa hsb
      exact ⟨_, q, hrun, hq, hph, hst, hmem, hcells⟩

end Sys2Proof.Machine
end

/-! SUPPORT. Collective instructions (R183), the tile commands at issue (R193 to R196), and the rendezvous of a quartet (R195, R291). -/

section

namespace Sys2Proof.Machine

/-! ### Which lanes a collective instruction needs (R183) -/

theorem converged_iff (g : Group) : g.converged = true ↔ ∀ l < 64, g.exited.getLsbD l = false → g.live.getLsbD l = true := by
  rw [Group.converged, beq_iff_eq, and_not_eq_zero_iff]
  refine forall₂_congr fun l hl => ?_
  simp [Group.present, hl]

theorem effect_le_live (g : Group) (gd : Guard) {l : Nat} (h : (g.effect gd).getLsbD l = true) : g.live.getLsbD l = true := by
  rw [Group.effect, BitVec.getLsbD_and, Bool.and_eq_true] at h
  exact h.1

/-- Every live lane takes effect. -/
theorem effect_eq_live_iff (g : Group) (gd : Guard) :
    g.effect gd = g.live ↔ ∀ l < 64, g.live.getLsbD l = true → (g.effect gd).getLsbD l = true := by
  refine ⟨fun h l _ hlive => by rw [h]; exact hlive, fun h => BitVec.eq_of_getLsbD_eq fun l hl => ?_⟩
  exact Bool.eq_iff_iff.2 ⟨effect_le_live g gd, h l hl⟩

section

variable {g : Group} {gd : Guard}

theorem collective_conv_of_apart (q : Bool) (h : g.converged = false) : g.collective gd q = .conv := by
  rw [Group.collective, h]
  rfl

theorem collective_none (hw : g.converged = true) (hn : g.effect gd = 0) : g.collective gd false = .none := by
  rw [Group.collective, hw, if_neg (by decide), if_pos hn]
  rfl

theorem collective_act (q : Bool) (hw : g.converged = true) (hne : g.effect gd ≠ 0) (hall : g.effect gd = g.live) :
    g.collective gd q = .act := by
  rw [Group.collective, hw, if_neg (by decide), if_neg hne, if_pos hall]

theorem collective_conv_of_part (q : Bool) (hne : g.effect gd ≠ 0) (hsome : g.effect gd ≠ g.live) : g.collective gd q = .conv := by
  rw [Group.collective, if_neg hne, if_neg hsome, ite_self]

end

/-! ### The tile commands at issue -/

section

variable {s : State} {o : Fields} {q : Bool} {name : Nat} {go : Unit → Out}

theorem tileIssue_conv (h : s.cur.collective o.guard q = .conv) : tileIssue s o q name go = .next (s.trap 2 0) := by
  rw [tileIssue, h]

theorem tileIssue_none (h : s.cur.collective o.guard q = .none) : tileIssue s o q name go = .next s.advance := by
  rw [tileIssue, h]

theorem tileIssue_act (h : s.cur.collective o.guard q = .act) (hv : s.verdict name = .clear) : tileIssue s o q name go = go () := by
  rw [tileIssue, h]
  dsimp only
  rw [hv]

end

/-- The physical tile of a name's index. -/
theorem tileKey_eq (n : Nat) : tileKey n = fun i => 2 * n + i := by
  funext i
  rw [tileKey, Nat.mul_comm]

section

variable (mm : MmaMod) (m : TileMod) (o : Fields) (s : State)

theorem exec_mma : exec (.mma mm o) s = tileIssue s o false (tileNo o.d) fun _ => match mmaPrep s mm o false with
    | .hold r => .next (s.hold r)
    | .trap c k => .next (s.trap c k)
    | .ok w => .next ((s.openChain w).issueOp o 0x280 3 [] (.mma w)).advance := rfl

theorem exec_mwr : exec (.mwr m o) s = tileIssue s o false (tileNo o.d) fun _ =>
    match segCheck s.cur m.sp (val s o.imm o.a 0).toNat 16384 256 with
    | some c => .next (s.trap c 0)
    | none => match s.spare (tileNo o.d) with
      | none => .next (s.hold .tilewait)
      | some i => .next ((s.rename (tileNo o.d) i { Tile.zero with loaded := true }).issueOp o 0x283 3 []
          (.mwr (tileNo o.d) (tileKey (tileNo o.d) i) m.sp ((s.cur.seg m.sp).base + (val s o.imm o.a 0).toNat))).advance := rfl

theorem exec_mrd : exec (.mrd m o) s = tileIssue s o false (tileNo o.a) fun _ =>
    match segCheck s.cur m.sp (val s o.imm o.b 0).toNat (4096 * (fmtBits m.fmt / 8)) 256 with
    | some c => .next (s.trap c 0)
    | none => .next (s.issueOp o 0x282 3 [] (.mrd (tileNo o.a) (s.cur.live? (tileNo o.a)) m.fmt m.rnd m.sat m.sp
        ((s.cur.seg m.sp).base + (val s o.imm o.b 0).toNat))).advance := rfl

theorem exec_mclr : exec (.mclr o) s = tileIssue s o false (tileNo o.d) fun _ => .next ((s.modCur fun g =>
    { g.turnAway (tileNo o.d) s.nextId with liveTile := sdel g.liveTile (tileNo o.d) }).issueOp o 0x284 3 []
      (.mclr (tileNo o.d) (s.cur.live? (tileNo o.d)))).advance := rfl

theorem exec_mmq : exec (.mmq mm o) s = quartetIssue s o (tileNo o.d) fun _ => match mmaPrep s mm o true with
    | .hold r => .hold r
    | .trap c k => .trap c k
    | .ok w => .ok (.mmq w o) := rfl

theorem exec_corq (m : CorMod) : exec (.corq m o) s = quartetIssue s o (tileNo o.d) fun _ => match corPrep s m o true with
    | .hold r => .hold r
    | .trap c k => .trap c k
    | .ok w => .ok (.corq w o) := rfl

theorem exec_quartetRendezvous (gid : Nat) : exec (.quartetRendezvous gid) s = execQuartetRendezvous gid s := rfl

variable {mm m o s}

/-- The four tile commands ask the same of a group's lanes. -/
theorem exec_tileCommand {i : Instr} (hi : i ∈ [Instr.mma mm o, .mwr m o, .mrd m o, .mclr o]) :
    ∃ name go, exec i s = tileIssue s o false name go := by
  fin_cases hi
  · exact ⟨_, _, exec_mma mm o s⟩
  · exact ⟨_, _, exec_mwr m o s⟩
  · exact ⟨_, _, exec_mrd m o s⟩
  · exact ⟨_, _, exec_mclr o s⟩

variable (hc : s.cur.collective o.guard false = .act)

include hc

theorem mma_issues (hv : s.verdict (tileNo o.d) = .clear) {w : MmaWork} (hw : mmaPrep s mm o false = .ok w) :
    Issues (exec (.mma mm o) s) (s.openChain w) o 0x280 3 [] (.mma w) := by
  rw [exec_mma, tileIssue_act hc hv, hw]
  exact issues_issueOp _ _ _ _ _ _

theorem mma_traps (hv : s.verdict (tileNo o.d) = .clear) {c k : Nat} (hw : mmaPrep s mm o false = .trap c k) :
    exec (.mma mm o) s = .next (s.trap c k) := by
  rw [exec_mma, tileIssue_act hc hv, hw]

theorem mwr_issues (hv : s.verdict (tileNo o.d) = .clear) (hchk : segCheck s.cur m.sp (val s o.imm o.a 0).toNat 16384 256 = none)
    {i : Nat} (hi : s.spare (tileNo o.d) = some i) :
    Issues (exec (.mwr m o) s) (s.rename (tileNo o.d) i { Tile.zero with loaded := true }) o 0x283 3 []
      (.mwr (tileNo o.d) (2 * tileNo o.d + i) m.sp ((s.cur.seg m.sp).base + (val s o.imm o.a 0).toNat)) := by
  rw [exec_mwr, tileIssue_act hc hv, hchk]
  dsimp only
  rw [hi, tileKey_eq]
  exact issues_issueOp _ _ _ _ _ _

theorem mclr_issues (hv : s.verdict (tileNo o.d) = .clear) : Issues (exec (.mclr o) s)
    { s with cur := { s.cur.turnAway (tileNo o.d) s.nextId with liveTile := sdel s.cur.liveTile (tileNo o.d) } } o 0x284 3 []
    (.mclr (tileNo o.d) ((sfind s.cur.liveTile (tileNo o.d)).map fun i => 2 * tileNo o.d + i)) := by
  rw [exec_mclr, tileIssue_act hc hv, Group.live?, tileKey_eq]
  exact issues_issueOp _ _ _ _ _ _

theorem mrd_issues (hv : s.verdict (tileNo o.a) = .clear)
    (hchk : segCheck s.cur m.sp (val s o.imm o.b 0).toNat (4096 * (fmtBits m.fmt / 8)) 256 = none) :
    Issues (exec (.mrd m o) s) s o 0x282 3 [] (.mrd (tileNo o.a) ((sfind s.cur.liveTile (tileNo o.a)).map fun i => 2 * tileNo o.a + i)
      m.fmt m.rnd m.sat m.sp ((s.cur.seg m.sp).base + (val s o.imm o.b 0).toNat)) := by
  rw [exec_mrd, tileIssue_act hc hv, hchk, Group.live?, tileKey_eq]
  exact issues_issueOp _ _ _ _ _ _

end

/-! ### `mmq` and `corq` up to their hold -/

section

variable {s : State} {o : Fields} {name : Nat} {prep : Unit → Prep Rdv}

theorem quartetIssue_first (hr : s.cur.rdv = none) (hc : s.cur.collective o.guard true = .act) (hv : s.verdict name = .clear) :
    quartetIssue s o name prep = if !s.hasQuartet then .next (s.trapHere 11 1) else match prep () with
      | .hold r => .next (s.hold r)
      | .trap c k => .next (s.trap c k)
      | .ok r => .next ((s.modCur fun g => { g with rdv := some r }).hold .quartet) := by
  rw [quartetIssue, if_neg (by rw [hr]; simp), hr]
  dsimp only
  rw [tileIssue_act hc hv] <;> rfl

theorem quartetIssue_apart (hr : s.cur.rdv.isSome = true) (hc : s.cur.converged = false) :
    quartetIssue s o name prep = .next (s.trap 2 0) := by
  rw [quartetIssue]
  exact if_pos ⟨hr, by rw [hc]; rfl⟩

theorem quartetIssue_split (hc : s.cur.converged = true) {c : Nat} (hr : s.cur.rdv = some (.split c)) :
    quartetIssue s o name prep = .next (s.trapHere 11 c) := by
  rw [quartetIssue, hc, if_neg (by simp), hr]

end

/-- `mmq` and `corq` meet in the same way. -/
theorem exec_quartetCommand {mm : MmaMod} {m : CorMod} {o : Fields} {s : State} {i : Instr} (hi : i ∈ [Instr.mmq mm o, .corq m o]) :
    ∃ prep, exec i s = quartetIssue s o (tileNo o.d) prep := by
  fin_cases hi
  · exact ⟨_, exec_mmq mm o s⟩
  · exact ⟨_, exec_corq o s m⟩

/-! ### The rendezvous (R195, R291) -/

/-- What of an operation its issue fixes. -/
def Op.issued (op : Op) : Nat × Nat × Nat × Phase × Work := (op.gid, op.opc, op.queue, op.phase, op.work)

/-- A step on the issuing group's behalf that keeps its place and its hold, the other groups, and what every operation was issued as. -/
structure KeepsIssue (s t : State) : Prop where
  gid : t.cur.gid = s.cur.gid
  pc : t.cur.pc = s.cur.pc
  rdv : t.cur.rdv = s.cur.rdv
  others : t.others = s.others
  nextId : t.nextId = s.nextId
  ops : ∀ j, (sfind t.ops j).map Op.issued = (sfind s.ops j).map Op.issued

theorem KeepsIssue.refl (s : State) : KeepsIssue s s := ⟨rfl, rfl, rfl, rfl, rfl, fun _ => rfl⟩

theorem KeepsIssue.trans {s t u : State} (h : KeepsIssue s t) (k : KeepsIssue t u) : KeepsIssue s u :=
  ⟨k.gid.trans h.gid, k.pc.trans h.pc, k.rdv.trans h.rdv, k.others.trans h.others, k.nextId.trans h.nextId,
    fun j => (k.ops j).trans (h.ops j)⟩

theorem keepsIssue_modCur (s : State) {f : Group → Group} (h : ∀ g, (f g).gid = g.gid ∧ (f g).pc = g.pc ∧ (f g).rdv = g.rdv) :
    KeepsIssue s (s.modCur f) := ⟨(h _).1, (h _).2.1, (h _).2.2, rfl, rfl, fun _ => rfl⟩

theorem issued_modOp (s : State) (id : Nat) {f : Op → Op} (h : ∀ op, (f op).issued = op.issued) (j : Nat) :
    (sfind (s.modOp id f).ops j).map Op.issued = (sfind s.ops j).map Op.issued := by
  rw [State.modOp_ops, sfind_supd]
  split
  · rename_i hj
    rw [hj]
    cases sfind s.ops id <;> simp [h]
  · rfl

theorem keepsIssue_modOp (s : State) (id : Nat) {f : Op → Op} (h : ∀ op, (f op).issued = op.issued) : KeepsIssue s (s.modOp id f) :=
  ⟨rfl, rfl, rfl, rfl, rfl, issued_modOp s id h⟩

theorem keepsIssue_count (s : State) (grid : Nat) (l : List (Nat × Nat × List Nat)) : KeepsIssue s (s.count grid l) := by
  rw [State.count]
  split
  · exact .refl s
  · exact ⟨rfl, rfl, rfl, rfl, rfl, fun _ => rfl⟩

theorem keepsIssue_dropTurned (s : State) (key : Nat) : KeepsIssue s (s.dropTurned s.cur.gid key) := by
  rw [State.dropTurned]
  split
  · exact .refl s
  split
  · exact .refl s
  split
  · exact .refl s
  rename_i g _ _ t _ _ id _
  dsimp only
  split
  · exact .refl s
  have hdrop : KeepsIssue s (s.modGroup s.cur.gid fun g => { g with tiles := sput g.tiles key { t with res := [], turned := none } }) := by
    rw [modGroup_cur]
    exact ⟨rfl, rfl, rfl, rfl, rfl, fun _ => rfl⟩
  split
  · exact hdrop
  split
  · split
    · exact hdrop.trans (keepsIssue_count _ _ _)
    · exact hdrop.trans (keepsIssue_modOp _ _ fun _ => rfl)
  · exact hdrop.trans (keepsIssue_count _ _ _)

theorem turnAway_keeps (g : Group) (name id : Nat) : (g.turnAway name id).gid = g.gid ∧ (g.turnAway name id).pc = g.pc
    ∧ (g.turnAway name id).rdv = g.rdv := by
  rw [Group.turnAway]
  split <;> exact ⟨rfl, rfl, rfl⟩

theorem keepsIssue_openChain (s : State) (w : MmaWork) : KeepsIssue s (s.openChain w) := by
  rw [State.openChain]
  split
  · exact (keepsIssue_dropTurned s _).trans (keepsIssue_modCur _ fun g => turnAway_keeps g _ _)
  · exact .refl s

theorem keepsIssue_takeBuild (s : State) (w : CorWork) : KeepsIssue s (s.takeBuild w) := by
  rw [State.takeBuild]
  split
  · exact keepsIssue_dropTurned s _
  · exact .refl s

/-- An instruction of the issuing group issues one operation. -/
structure IssuesOne (opc : Nat) (w : Work) (s t : State) : Prop where
  gid : t.cur.gid = s.cur.gid
  pc : t.cur.pc = s.cur.pc
  rdv : t.cur.rdv = s.cur.rdv
  others : t.others = s.others
  nextId : t.nextId = s.nextId + 1
  op : (sfind t.ops s.nextId).map Op.issued = some (s.cur.gid, opc, 3, .queued, w)
  ops : ∀ j, j ≠ s.nextId → (sfind t.ops j).map Op.issued = (sfind s.ops j).map Op.issued

theorem issuesOne_issueOp (s : State) (o : Fields) (opc : Nat) (dests : List RegRef) (w : Work) :
    IssuesOne opc w s (s.issueOp o opc 3 dests w) := by
  rw [issueOp_eq]
  refine ⟨rfl, rfl, rfl, rfl, rfl, ?_, fun j hj => ?_⟩
  · dsimp only
    rw [sfind_sput_same]
    rfl
  · dsimp only
    rw [sfind_sput, if_neg hj]

theorem IssuesOne.of_keeps {opc : Nat} {w : Work} {s t u : State} (h : KeepsIssue s t) (k : IssuesOne opc w t u) : IssuesOne opc w s u :=
  ⟨k.gid.trans h.gid, k.pc.trans h.pc, k.rdv.trans h.rdv, k.others.trans h.others, by rw [k.nextId, h.nextId],
    by rw [← h.nextId, k.op, h.gid], fun j hj => (k.ops j (by rw [h.nextId]; exact hj)).trans (h.ops j)⟩

/-! ### The groups on the device -/

/-- An entry of a map with rising keys is what its key finds. -/
theorem sfind_of_mem {α : Type} {m : Sparse α} (h : skeysRise m = true) {k : Nat} {v : α} (hv : (k, v) ∈ m) : sfind m k = some v := by
  induction m with
  | nil => exact absurd hv List.not_mem_nil
  | cons e t ih =>
    obtain ⟨k', v'⟩ := e
    rw [skeysRise_cons] at h
    obtain ⟨hlow, ht⟩ := h
    rw [sfind]
    obtain heq | hin := List.mem_cons.1 hv
    · rw [Prod.mk.injEq] at heq
      rw [if_pos heq.1, heq.2]
    · have hlt : k' < k := hlow _ hin
      rw [if_neg (by omega), ih ht hin]

/-- Every group stands under its number, which is not 0. -/
def State.Numbered (s : State) : Prop := s.cur.gid ≠ 0 ∧ ∀ e ∈ s.others, e.2.gid = e.1 ∧ e.1 ≠ 0

section

variable {s : State} (hs : s.Numbered)

include hs

/-- A group under focus is the issuing one; every group is found as before. -/
theorem focus_of_found {gid : Nat} {g : Group} (hg : s.findGroup gid = some g) : (s.focus gid).cur = g ∧ (s.focus gid).Numbered
    ∧ (∀ n, (s.focus gid).findGroup n = s.findGroup n) ∧ (s.focus gid).nextId = s.nextId ∧ (s.focus gid).ops = s.ops ∧ g.gid = gid := by
  obtain ⟨h0, hall⟩ := hs
  by_cases hcur : s.cur.gid = gid
  · have hf : s.focus gid = s := by rw [State.focus, if_pos hcur]
    rw [State.findGroup, if_pos hcur, Option.some_inj] at hg
    rw [hf]
    exact ⟨hg, ⟨h0, hall⟩, fun _ => rfl, rfl, rfl, by rw [← hg]; exact hcur⟩
  · rw [State.findGroup, if_neg hcur] at hg
    have hf : s.focus gid = { s with cur := g, others := sput (sdel s.others gid) s.cur.gid s.cur } := by
      rw [State.focus, if_neg hcur, hg]
      dsimp only
      rw [if_neg h0]
    obtain ⟨hgid, hne⟩ := hall _ (mem_of_sfind hg)
    dsimp only at hgid hne
    rw [hf]
    refine ⟨rfl, ⟨by rw [hgid]; exact hne, fun e he => ?_⟩, fun n => ?_, rfl, rfl, hgid⟩
    · obtain rfl | he := mem_sput _ _ _ _ he
      · exact ⟨rfl, h0⟩
      · exact hall e (List.mem_of_mem_filter he)
    · simp only [State.findGroup, hgid, sfind_sput, sfind_sdel]
      by_cases hn : gid = n
      · rw [if_pos hn, ← hn, if_neg hcur, hg]
      · rw [if_neg hn]
        by_cases hc : n = s.cur.gid
        · rw [if_pos hc, if_pos hc.symm]
        · rw [if_neg hc, if_neg (Ne.symm hn), if_neg (Ne.symm hc)]

/-- A group that stands among the others is found. -/
theorem findGroup_of_mem (hr : skeysRise s.others = true) (hcur : ∀ e ∈ s.others, e.1 ≠ s.cur.gid) {g : Group} (hg : g ∈ s.groups) :
    s.findGroup g.gid = some g := by
  rw [State.groups, if_neg hs.1, List.singleton_append, List.mem_cons] at hg
  obtain rfl | hg := hg
  · rw [State.findGroup, if_pos rfl]
  · obtain ⟨⟨k, g'⟩, he, rfl⟩ := List.mem_map.1 hg
    have hk : g'.gid = k := (hs.2 _ he).1
    have hne : k ≠ s.cur.gid := hcur _ he
    dsimp only
    rw [hk, State.findGroup, if_neg (Ne.symm hne)]
    exact sfind_of_mem hr he

end

/-! ### One group of a quartet issues -/

theorem halt_keeps (g : Group) : g.halt.gid = g.gid ∧ g.halt.pc = g.pc ∧ g.halt.rdv = g.rdv := ⟨rfl, rfl, rfl⟩

theorem keepsIssue_noteFirst (s : State) (g : Group) : KeepsIssue s (s.noteFirst g) := by
  rw [State.noteFirst]
  dsimp only
  split
  · split
    · exact .refl s
    · exact ⟨rfl, rfl, rfl, rfl, rfl, fun _ => rfl⟩
  · exact .refl s

theorem keepsIssue_afterIssue (s : State) (before : Group) : KeepsIssue s (s.afterIssue before) := by
  rw [State.afterIssue]
  dsimp only
  split
  · refine (keepsIssue_modCur s fun g => ?_).trans (keepsIssue_noteFirst _ _)
    split_ifs <;> exact ⟨rfl, rfl, rfl⟩
  · exact .refl s

theorem setSlot_rdv (g : Group) (p : PcSlot) : (g.setSlot p).rdv = g.rdv := by
  unfold Group.setSlot
  split <;> rfl

/-- A held group issues its instruction: one operation is added, its hold ends, and every other group stays. -/
structure Leaves (opc : Nat) (w : Work) (gid : Nat) (s t : State) : Prop where
  numbered : t.Numbered
  nextId : t.nextId = s.nextId + 1
  op : (sfind t.ops s.nextId).map Op.issued = some (gid, opc, 3, .queued, w)
  ops : ∀ j, j ≠ s.nextId → (sfind t.ops j).map Op.issued = (sfind s.ops j).map Op.issued
  here : ∃ h, t.findGroup gid = some h ∧ h.rdv = none
  others : ∀ n, n ≠ gid → t.findGroup n = s.findGroup n

theorem leaves_leaveRdv {s : State} (hs : s.Numbered) {gid : Nat} {g : Group} (hg : s.findGroup gid = some g) (hpc : pcSlot g.pc < 4)
    {opc : Nat} {w : Work} {issue : State → State} (hi : ∀ u, IssuesOne opc w u (issue u)) : Leaves opc w gid s (s.leaveRdv gid issue) := by
  obtain ⟨hcur, hnum, hfind, hnext, hops, hgid⟩ := focus_of_found hs hg
  have hone := hi ((s.focus gid).modCur fun g => { g with rdv := none, stall := none })
  have hadv := advance_within (s := issue ((s.focus gid).modCur fun g => { g with rdv := none, stall := none }))
    (by rw [hone.pc]; show pcSlot (s.focus gid).cur.pc < 4; rw [hcur]; exact hpc)
  have hafter := keepsIssue_afterIssue (issue ((s.focus gid).modCur fun g => { g with rdv := none, stall := none })).advance (s.focus gid).cur
  have ht : s.leaveRdv gid issue = ((issue ((s.focus gid).modCur fun g => { g with rdv := none, stall := none })).advance).afterIssue
    (s.focus gid).cur := rfl
  rw [← ht] at hafter
  have hgid' : (s.leaveRdv gid issue).cur.gid = gid := by
    rw [hafter.gid, hadv]
    exact (Group.setSlot_gid _ _).trans (hone.gid.trans (by rw [State.modCur_cur, hcur, hgid]))
  have hrdv : (s.leaveRdv gid issue).cur.rdv = none := by
    rw [hafter.rdv, hadv]
    exact (setSlot_rdv _ _).trans hone.rdv
  have hothers : (s.leaveRdv gid issue).others = (s.focus gid).others := by
    rw [hafter.others, hadv]
    exact hone.others
  have hall (j : Nat) : (sfind (s.leaveRdv gid issue).ops j).map Op.issued
      = (sfind (issue ((s.focus gid).modCur fun g => { g with rdv := none, stall := none })).ops j).map Op.issued := by
    rw [hafter.ops, hadv]
  refine ⟨⟨?_, ?_⟩, ?_, ?_, fun j hj => ?_, ⟨_, if_pos hgid', hrdv⟩, fun n hn => ?_⟩
  · rw [hgid', ← hgid, ← hcur]
    exact hnum.1
  · rw [hothers]
    exact hnum.2
  · rw [hafter.nextId, hadv]
    exact hone.nextId.trans (congrArg (· + 1) hnext)
  · rw [hall, ← hnext]
    refine hone.op.trans ?_
    rw [State.modCur_cur, hcur, hgid]
  · rw [hall, ← hops]
    exact hone.ops j (by rw [State.modCur_nextId, hnext]; exact hj)
  · rw [← hfind, State.findGroup, State.findGroup, hothers, if_neg (by rw [hgid']; exact Ne.symm hn),
      if_neg (by rw [hcur, hgid]; exact Ne.symm hn)]

/-! ### The four groups issue, and their operations are mates -/

theorem mateUp_frame (s : State) (l : List Nat) : s.mateUp l = { s with ops := (s.mateUp l).ops } := by
  rw [State.mateUp]
  exact foldl_keeps (fun t : State => t = { s with ops := t.ops }) _ l s rfl fun t i ht => by rw [ht]; rfl

theorem sfind_mates (L l : List Nat) (s : State) (j : Nat) :
    sfind (l.foldl (fun s i => s.modOp i fun op => { op with mates := L.filter (· ≠ i) }) s).ops j
      = if j ∈ l then (sfind s.ops j).map fun op => { op with mates := L.filter (· ≠ j) } else sfind s.ops j := by
  induction l generalizing s with
  | nil => simp
  | cons i t ih =>
    rw [List.foldl_cons, ih, State.modOp_ops, sfind_supd]
    by_cases hj : j = i
    · subst hj
      cases sfind s.ops j <;> simp
    · simp [hj]

theorem sfind_mateUp (s : State) {l : List Nat} {j : Nat} (h : j ∈ l) :
    sfind (s.mateUp l).ops j = (sfind s.ops j).map fun op => { op with mates := l.filter (· ≠ j) } := by
  rw [State.mateUp, sfind_mates, if_pos h]

section

variable {α : Type} {opc : Nat} {issue : Group × α → State → State} {work : Group × α → Work}
  (hi : ∀ e u, IssuesOne opc (work e) u (issue e u))

include hi

/-- Held groups issue one after the other, each with an operation of its own. -/
theorem meet_issues (l : List (Group × α)) {s : State} (hs : s.Numbered) (hd : l.Pairwise fun a b => a.1.gid ≠ b.1.gid)
    (hf : ∀ e ∈ l, s.findGroup e.1.gid = some e.1 ∧ pcSlot e.1.pc < 4) {t : State}
    (ht : t = l.foldl (fun s e => s.leaveRdv e.1.gid (issue e)) s) :
    t.Numbered ∧ (∀ n, (∀ e ∈ l, n ≠ e.1.gid) → t.findGroup n = s.findGroup n)
      ∧ (∀ j < s.nextId, (sfind t.ops j).map Op.issued = (sfind s.ops j).map Op.issued)
      ∧ ∀ k e, l[k]? = some e → (sfind t.ops (s.nextId + k)).map Op.issued = some (e.1.gid, opc, 3, .queued, work e)
        ∧ ∃ h, t.findGroup e.1.gid = some h ∧ h.rdv = none := by
  induction l generalizing s with
  | nil =>
    rw [ht]
    exact ⟨hs, fun _ _ => rfl, fun _ _ => rfl, fun k e he => by simp at he⟩
  | cons a l ih =>
    obtain ⟨hfa, hpc⟩ := hf a (.head _)
    obtain ⟨hnum, hnext, hop, hops, hhere, hothers⟩ := leaves_leaveRdv hs hfa hpc (hi a)
    rw [List.pairwise_cons] at hd
    obtain ⟨hda, hdl⟩ := hd
    have hfl (e) (he : e ∈ l) : (s.leaveRdv a.1.gid (issue a)).findGroup e.1.gid = some e.1 ∧ pcSlot e.1.pc < 4 := by
      rw [hothers _ (Ne.symm (hda e he))]
      exact hf e (.tail _ he)
    obtain ⟨htn, hto, htops, hte⟩ := ih hnum hdl hfl ht
    rw [hnext] at htops hte
    refine ⟨htn, fun n hn => ?_, fun j hj => ?_, fun k e he => ?_⟩
    · rw [hto n fun e he => hn e (.tail _ he), hothers n (hn a (.head _))]
    · rw [htops j (by omega), hops j (by omega)]
    · cases k with
      | zero =>
        rw [List.getElem?_cons_zero, Option.some_inj] at he
        rw [← he, hto _ hda]
        exact ⟨(htops _ (by omega)).trans hop, hhere⟩
      | succ k =>
        rw [List.getElem?_cons_succ] at he
        rw [show s.nextId + (k + 1) = s.nextId + 1 + k by omega]
        exact hte k e he

/-- A meeting of four: each group's operation has the other three as its mates, and no hold is left. -/
theorem meet_mates {l : List (Group × α)} {s : State} (hs : s.Numbered) (hd : l.Pairwise fun a b => a.1.gid ≠ b.1.gid)
    (hf : ∀ e ∈ l, s.findGroup e.1.gid = some e.1 ∧ pcSlot e.1.pc < 4) (h4 : l.length = 4) {ids : List Nat}
    (hids : ids = (List.range 4).map (s.nextId + ·)) {k : Nat} {e : Group × α} (he : l[k]? = some e) :
    ∃ q h, sfind (((l.foldl (fun s e => s.leaveRdv e.1.gid (issue e)) s).mateUp ids).focus s.cur.gid).ops (s.nextId + k) = some q
      ∧ q.gid = e.1.gid ∧ q.opc = opc ∧ q.queue = 3 ∧ q.phase = .queued ∧ q.work = work e ∧ q.mates = ids.filter (· ≠ s.nextId + k)
      ∧ (((l.foldl (fun s e => s.leaveRdv e.1.gid (issue e)) s).mateUp ids).focus s.cur.gid).findGroup e.1.gid = some h
      ∧ h.rdv = none := by
  obtain ⟨hnum, hothers, _, hall⟩ := meet_issues hi l hs hd hf rfl
  obtain ⟨hop, hhere⟩ := hall k e he
  have hframe := mateUp_frame (l.foldl (fun s e => s.leaveRdv e.1.gid (issue e)) s) ids
  have hk : k < 4 := by rw [← h4]; exact (List.getElem?_eq_some_iff.1 he).1
  have hmem : s.nextId + k ∈ ids := by rw [hids]; exact List.mem_map_of_mem (List.mem_range.2 hk)
  have hmate := sfind_mateUp (l.foldl (fun s e => s.leaveRdv e.1.gid (issue e)) s) hmem
  obtain ⟨g, hg⟩ : ∃ g, (l.foldl (fun s e => s.leaveRdv e.1.gid (issue e)) s).findGroup s.cur.gid = some g := by
    by_cases hin : ∃ e ∈ l, s.cur.gid = e.1.gid
    · obtain ⟨a, ha, hgid⟩ := hin
      obtain ⟨j, hj⟩ := List.mem_iff_getElem?.1 ha
      obtain ⟨_, h, hh, _⟩ := hall j a hj
      rw [hgid]
      exact ⟨h, hh⟩
    · push Not at hin
      exact ⟨s.cur, (hothers _ hin).trans (if_pos rfl)⟩
  have hnum' : ((l.foldl (fun s e => s.leaveRdv e.1.gid (issue e)) s).mateUp ids).Numbered := by
    rw [hframe]
    exact hnum
  obtain ⟨_, _, hfind, _, hops, _⟩ := focus_of_found hnum' (gid := s.cur.gid) (g := g) (by rw [hframe]; exact hg)
  obtain ⟨q, hq, hiss⟩ := Option.map_eq_some_iff.1 hop
  rw [hq] at hmate
  obtain ⟨h, hh, hrdv⟩ := hhere
  rw [Op.issued, Prod.mk.injEq, Prod.mk.injEq, Prod.mk.injEq, Prod.mk.injEq] at hiss
  obtain ⟨h1, h2, h3, h5, h6⟩ := hiss
  rw [hops, hfind]
  refine ⟨_, h, hmate, h1, h2, h3, h5, h6, rfl, ?_, hrdv⟩
  rw [hframe]
  exact hh

end

theorem keys_pairwise {α : Type} {m : Sparse α} (h : skeysRise m = true) : m.Pairwise fun a b => a.1 < b.1 := by
  induction m with
  | nil => exact .nil
  | cons a l ih =>
    rw [skeysRise_cons] at h
    exact .cons h.1 (ih h.2)

/-- The numbers of the groups on the device differ. -/
theorem groups_pairwise {s : State} (hs : s.Numbered) (hr : skeysRise s.others = true) (hcur : ∀ e ∈ s.others, e.1 ≠ s.cur.gid) :
    s.groups.Pairwise fun a b => a.gid ≠ b.gid := by
  rw [State.groups, if_neg hs.1, List.singleton_append, List.pairwise_cons, List.pairwise_map]
  refine ⟨fun g hg => ?_, ?_⟩
  · obtain ⟨e, he, rfl⟩ := List.mem_map.1 hg
    rw [(hs.2 e he).1]
    exact Ne.symm (hcur e he)
  · refine (keys_pairwise hr).imp_of_mem fun ha hb hab => ?_
    rw [(hs.2 _ ha).1, (hs.2 _ hb).1]
    omega

/-- The groups of a quartet that bring something, in the order of their slices. -/
theorem meet_ready {s : State} (hs : s.Numbered) (hr : skeysRise s.others = true) (hcur : ∀ e ∈ s.others, e.1 ≠ s.cur.gid)
    {gs : List Group} (hgs : gs = s.quartet.mergeSort fun g h => g.slice ≤ h.slice) (hpc : ∀ g ∈ gs, pcSlot g.pc < 4) {α : Type}
    (f : Group → Option α) {l : List (Group × α)} (hl : l = gs.filterMap fun g => (f g).map fun e => (g, e)) :
    (l.Pairwise fun a b => a.1.gid ≠ b.1.gid) ∧ ∀ e ∈ l, s.findGroup e.1.gid = some e.1 ∧ pcSlot e.1.pc < 4 := by
  have hperm : gs.Perm s.quartet := by
    rw [hgs]
    exact List.mergeSort_perm _ _
  have hpair : gs.Pairwise fun a b => a.gid ≠ b.gid :=
    (hperm.pairwise_iff fun h => Ne.symm h).2 ((groups_pairwise hs hr hcur).filter _)
  rw [hl]
  refine ⟨List.pairwise_filterMap.2 (hpair.imp fun hab a ha b hb => ?_), fun e he => ?_⟩
  · obtain ⟨_, _, rfl⟩ := Option.map_eq_some_iff.1 ha
    obtain ⟨_, _, rfl⟩ := Option.map_eq_some_iff.1 hb
    exact hab
  · obtain ⟨g, hg, he⟩ := List.mem_filterMap.1 he
    obtain ⟨_, _, rfl⟩ := Option.map_eq_some_iff.1 he
    exact ⟨findGroup_of_mem hs hr hcur (List.mem_of_mem_filter (hperm.mem_iff.1 hg)), hpc g hg⟩

/-- What a group's `mmq` issues, with the four quarters of B. -/
def mmqIssue (b : List Word) (e : Group × MmaWork × Fields) (s : State) : State :=
  ((s.openChain e.2.1).modCur fun g => { g with mmqCount := g.mmqCount + 1 }).issueOp e.2.2 0x281 3 [] (.mma { e.2.1 with b := b })

/-- What a group's `corq` issues, with the keys of the four. -/
def corqIssue (keys : List Word) (e : Group × CorWork × Fields) (s : State) : State :=
  ((s.takeBuild e.2.1).modCur fun g => { g with corqCount := g.corqCount + 1 }).issueOp e.2.2 0x2C1 3 e.2.1.dests
    (.cor { e.2.1 with keys := keys })

theorem mmqMeet_eq (s : State) (l : List (Group × MmaWork × Fields)) : s.mmqMeet l
    = (l.foldl (fun s e => s.leaveRdv e.1.gid (mmqIssue (l.map fun e => e.2.1.b).flatten e)) s).mateUp
      ((List.range 4).map (s.nextId + ·)) := rfl

theorem corqMeet_eq (s : State) (l : List (Group × CorWork × Fields)) : s.corqMeet l
    = (l.foldl (fun s e => s.leaveRdv e.1.gid (corqIssue (l.map fun e => e.2.1.keys).flatten e)) s).mateUp
      ((List.range 4).map (s.nextId + ·)) := rfl

theorem issuesOne_mmqIssue (b : List Word) (e : Group × MmaWork × Fields) (s : State) :
    IssuesOne 0x281 (.mma { e.2.1 with b := b }) s (mmqIssue b e s) :=
  .of_keeps ((keepsIssue_openChain s e.2.1).trans (keepsIssue_modCur _ (f := fun g => { g with mmqCount := g.mmqCount + 1 })
    fun _ => ⟨rfl, rfl, rfl⟩)) (issuesOne_issueOp _ _ _ _ _)

theorem issuesOne_corqIssue (keys : List Word) (e : Group × CorWork × Fields) (s : State) :
    IssuesOne 0x2C1 (.cor { e.2.1 with keys := keys }) s (corqIssue keys e s) :=
  .of_keeps ((keepsIssue_takeBuild s e.2.1).trans (keepsIssue_modCur _ (f := fun g => { g with corqCount := g.corqCount + 1 })
    fun _ => ⟨rfl, rfl, rfl⟩)) (issuesOne_issueOp _ _ _ _ _)

/-! ### When the four meet -/

section

variable {s : State} {gs : List Group} {ms : List (Group × MmaWork × Fields)} {cs : List (Group × CorWork × Fields)}
  (hgs : gs = s.quartet.mergeSort fun g h => g.slice ≤ h.slice) (h4 : gs.length = 4)
  (hms : ms = gs.filterMap fun g => g.mmqOf.map fun e => (g, e)) (hcs : cs = gs.filterMap fun g => g.corqOf.map fun e => (g, e))

include hgs hms hcs

theorem rendezvous_eq : exec (.quartetRendezvous s.cur.gid) s
      = if (s.findGroup s.cur.gid).isNone ∨ gs.length ≠ 4 ∨ (gs.any fun g => g.stopped || g.expired) then notNow
        else if ms.length + cs.length = 4 ∧ (gs.any fun g => g.stopReq) then .next (s.stopQuartet gs)
        else match ms, cs with
          | x :: _, [] =>
            if ms.length ≠ 4 then notNow
            else if ms.all fun e => e.2.1.agrees x.2.1 then .next ((s.mmqMeet ms).focus s.cur.gid)
            else .next (s.rdvSplit gs)
          | [], y :: _ =>
            if cs.length ≠ 4 then notNow
            else if cs.all fun e => e.2.1.agrees y.2.1 then .next ((s.corqMeet cs).focus s.cur.gid)
            else .next (s.rdvSplit gs)
          | _, _ => notNow := by
  rw [exec_quartetRendezvous, execQuartetRendezvous]
  rw [show s.focus s.cur.gid = s from if_pos rfl, ← hgs, ← hms, ← hcs] <;> rfl

theorem rendezvous_of_held (h : ∃ g ∈ gs, g.stopped = true ∨ g.expired = true) :
    exec (.quartetRendezvous s.cur.gid) s = .fault .notEnabled := by
  rw [rendezvous_eq hgs hms hcs]
  obtain ⟨g, hg, hstop⟩ := h
  exact if_pos (.inr (.inr (List.any_eq_true.2 ⟨g, hg, by simpa using hstop⟩)))

include h4

theorem rendezvous_of_free (hfree : ∀ g ∈ gs, g.stopped = false ∧ g.expired = false) : exec (.quartetRendezvous s.cur.gid) s
      = if ms.length + cs.length = 4 ∧ (gs.any fun g => g.stopReq) then .next (s.stopQuartet gs)
        else match ms, cs with
          | x :: _, [] =>
            if ms.length ≠ 4 then notNow
            else if ms.all fun e => e.2.1.agrees x.2.1 then .next ((s.mmqMeet ms).focus s.cur.gid)
            else .next (s.rdvSplit gs)
          | [], y :: _ =>
            if cs.length ≠ 4 then notNow
            else if cs.all fun e => e.2.1.agrees y.2.1 then .next ((s.corqMeet cs).focus s.cur.gid)
            else .next (s.rdvSplit gs)
          | _, _ => notNow := by
  have hno : ¬ ((s.findGroup s.cur.gid).isNone = true ∨ gs.length ≠ 4 ∨ (gs.any fun g => g.stopped || g.expired) = true) := by
    rw [State.findGroup, if_pos rfl]
    rintro (h | h | h)
    · exact Bool.noConfusion h
    · exact h h4
    · obtain ⟨g, hg, hgs⟩ := List.any_eq_true.1 h
      obtain ⟨h1, h2⟩ := hfree g hg
      rw [h1, h2] at hgs
      exact Bool.noConfusion hgs
  rw [rendezvous_eq hgs hms hcs, if_neg hno]

theorem rendezvous_of_mmq (hfree : ∀ g ∈ gs, g.stopped = false ∧ g.expired = false) (hstop : ∀ g ∈ gs, g.stopReq = false)
    (hm4 : ms.length = 4) (hc0 : cs = []) : ∃ x, ms.head? = some x ∧ exec (.quartetRendezvous s.cur.gid) s
      = if ms.all fun e => e.2.1.agrees x.2.1 then .next ((s.mmqMeet ms).focus s.cur.gid) else .next (s.rdvSplit gs) := by
  rw [rendezvous_of_free hgs h4 hms hcs hfree, if_neg (by simpa using fun _ g hg => hstop g hg), hc0]
  match ms, hm4 with
  | x :: l, hl => exact ⟨x, rfl, if_neg (not_not.2 hl)⟩

theorem rendezvous_of_corq (hfree : ∀ g ∈ gs, g.stopped = false ∧ g.expired = false) (hstop : ∀ g ∈ gs, g.stopReq = false)
    (hm0 : ms = []) (hc4 : cs.length = 4) : ∃ x, cs.head? = some x ∧ exec (.quartetRendezvous s.cur.gid) s
      = if cs.all fun e => e.2.1.agrees x.2.1 then .next ((s.corqMeet cs).focus s.cur.gid) else .next (s.rdvSplit gs) := by
  rw [rendezvous_of_free hgs h4 hms hcs hfree, if_neg (by simpa using fun _ g hg => hstop g hg), hm0]
  match cs, hc4 with
  | x :: l, hl => exact ⟨x, rfl, if_neg (not_not.2 hl)⟩

theorem rendezvous_of_stop (hfree : ∀ g ∈ gs, g.stopped = false ∧ g.expired = false) (hsum : ms.length + cs.length = 4)
    (h : ∃ g ∈ gs, g.stopReq = true) : exec (.quartetRendezvous s.cur.gid) s = .next (s.stopQuartet gs) := by
  rw [rendezvous_of_free hgs h4 hms hcs hfree]
  exact if_pos ⟨hsum, List.any_eq_true.2 h⟩

end

/-- Settles O39: a collective's lanes decide; the four of a quartet issue one after the other, each with an operation of its own. -/
theorem matrixCommands : Obligations.MatrixCommands := by
  unfold Obligations.MatrixCommands
  refine ⟨fun mm m o s => ?_, fun mm m o s => ?_⟩
  · intro live eff whole all some_ d a offA offB at_ four
    have hact (h : all) : s.cur.collective o.guard false = .act := by
      obtain ⟨hw, he, l, hl, hlive⟩ := h
      exact collective_act false ((converged_iff _).2 hw) ((mask_ne_zero_iff _).2 ⟨l, hl, he l hl hlive⟩)
        ((effect_eq_live_iff _ _).2 he)
    refine ⟨fun h hv => ⟨fun w hw => mma_issues (hact h) hv hw, fun c k hp => mma_traps (hact h) hv hp,
      fun i hchk hi => mwr_issues (hact h) hv hchk hi, mclr_issues (hact h) hv⟩, fun h hv hchk => mrd_issues (hact h) hv hchk,
      fun hw hn i hi => ?_, fun hs i hi => ?_⟩
    · obtain ⟨name, go, he⟩ := exec_tileCommand hi
      rw [he]
      refine tileIssue_none (collective_none ((converged_iff _).2 hw) ((mask_eq_zero_iff _).2 fun l hl => ?_))
      exact Bool.eq_false_iff.2 (hn l hl)
    · obtain ⟨name, go, he⟩ := exec_tileCommand hi
      rw [he]
      refine tileIssue_conv ?_
      obtain hs | ⟨⟨l, hl, hel⟩, j, hj, hlive, hne⟩ := hs
      · exact collective_conv_of_apart false (Bool.eq_false_iff.2 fun hc => hs ((converged_iff _).1 hc))
      · exact collective_conv_of_part false ((mask_ne_zero_iff _).2 ⟨l, hl, hel⟩)
          fun heq => hne ((effect_eq_live_iff _ _).1 heq j hj hlive)
  · intro ready held rdv
    refine ⟨fun ⟨hr, hc, hv⟩ hq w hw => ?_, fun ⟨hr, hc, hv⟩ hq w hw => ?_, fun ⟨hr, hc, hv⟩ hq => ⟨?_, ?_⟩, fun hr hc i hi => ?_,
      fun hc c hr i hi => ?_, fun gs ms cs hgs h4 hne => ?_⟩
    · rw [exec_mmq, quartetIssue_first hr hc hv, hq, hw]
      rfl
    · rw [exec_corq, quartetIssue_first hr hc hv, hq, hw]
      rfl
    · rw [exec_mmq, quartetIssue_first hr hc hv, hq]
      rfl
    · rw [exec_corq, quartetIssue_first hr hc hv, hq]
      rfl
    · obtain ⟨prep, he⟩ := exec_quartetCommand hi
      rw [he]
      exact quartetIssue_apart hr hc
    · obtain ⟨prep, he⟩ := exec_quartetCommand hi
      rw [he]
      exact quartetIssue_split hc hr
    intro free go hms hcs ids issued found
    refine ⟨fun hg hm4 hc0 hag => ⟨?_, fun ⟨hnum, hrise, hpc⟩ k e he => ?_⟩, fun hg hm0 hc4 hag => ⟨?_, fun ⟨hnum, hrise, hpc⟩ k e he => ?_⟩,
      fun hg hm4 hc0 hdis => ?_, fun hg hm0 hc4 hdis => ?_, fun h => rendezvous_of_held hgs hms hcs h,
      fun hf hsum h => rendezvous_of_stop hgs h4 hms hcs hf hsum h⟩
    · obtain ⟨x, hx, heq⟩ := rendezvous_of_mmq hgs h4 hms hcs hg.1 hg.2 hm4 hc0
      rw [heq]
      exact if_pos (List.all_eq_true.2 fun e he => hag e he x hx)
    · have hs : s.Numbered := ⟨hne, fun e he => ⟨(hnum e he).1, (hnum e he).2.2⟩⟩
      obtain ⟨hd, hf⟩ := meet_ready hs hrise (fun e he => (hnum e he).2.1) hgs hpc _ hms
      rw [mmqMeet_eq]
      exact meet_mates (issuesOne_mmqIssue _) hs hd hf hm4 rfl he
    · obtain ⟨x, hx, heq⟩ := rendezvous_of_corq hgs h4 hms hcs hg.1 hg.2 hm0 hc4
      rw [heq]
      exact if_pos (List.all_eq_true.2 fun e he => hag e he x hx)
    · have hs : s.Numbered := ⟨hne, fun e he => ⟨(hnum e he).1, (hnum e he).2.2⟩⟩
      obtain ⟨hd, hf⟩ := meet_ready hs hrise (fun e he => (hnum e he).2.1) hgs hpc _ hcs
      rw [corqMeet_eq]
      exact meet_mates (issuesOne_corqIssue _) hs hd hf hc4 rfl he
    · obtain ⟨x, hx, heq⟩ := rendezvous_of_mmq hgs h4 hms hcs hg.1 hg.2 hm4 hc0
      obtain ⟨e, he, y, hy, hno⟩ := hdis
      rw [hx, Option.some_inj] at hy
      rw [heq]
      refine if_neg fun hall => ?_
      rw [← hy, List.all_eq_true.1 hall e he] at hno
      exact Bool.noConfusion hno
    · obtain ⟨x, hx, heq⟩ := rendezvous_of_corq hgs h4 hms hcs hg.1 hg.2 hm0 hc4
      obtain ⟨e, he, y, hy, hno⟩ := hdis
      rw [hx, Option.some_inj] at hy
      rw [heq]
      refine if_neg fun hall => ?_
      rw [← hy, List.all_eq_true.1 hall e he] at hno
      exact Bool.noConfusion hno

end Sys2Proof.Machine
end

/-! SUPPORT. Correcting commands (R199 to R204, R293): their issue, their work on the rows of a tile, and their completion. -/

section

namespace Sys2Proof.Machine

/-! ### Issue -/

section

variable (m : CorMod) (o : Fields) (s : State)

theorem exec_gram : exec (.gram m o) s = collectiveIssue s o fun _ => s.issueOp o 0x2C2 3 (regRun (vregNo o.d) (m.kn.toNat + 1))
    (.gram (m.kn.toNat + 1) (vregNo o.d) s.cur.present (s.cur.readRegs (vregNo o.a) (m.kn.toNat + 1))) := rfl

theorem exec_trsv : exec (.trsv m o) s = collectiveIssue s o fun _ => s.issueOp o 0x2C3 3 (regRun (vregNo o.d) (m.kn.toNat + 1))
    (.trsv (m.kn.toNat + 1) (vregNo o.d) s.cur.present (s.cur.readEta m.es.toNat) (s.cur.readRegs (vregNo o.a) (m.kn.toNat + 1))
      (s.cur.readRegs (vregNo o.b) (m.kn.toNat + 1))) := rfl

theorem exec_cor : exec (.cor m o) s = tileIssue s o false (tileNo o.d) fun _ => match corPrep s m o false with
    | .hold r => .next (s.hold r)
    | .trap c k => .next (s.trap c k)
    | .ok w => .next ((s.takeBuild w).issueOp o 0x2C0 3 w.dests (.cor w)).advance := rfl

variable {m o s} {go : Unit → State}

theorem collectiveIssue_conv (h : s.cur.collective o.guard false = .conv) : collectiveIssue s o go = .next (s.trap 2 0) := by
  rw [collectiveIssue, h]

theorem collectiveIssue_none (h : s.cur.collective o.guard false = .none) : collectiveIssue s o go = .next s.advance := by
  rw [collectiveIssue, h]

theorem collectiveIssue_act (h : s.cur.collective o.guard false = .act) : collectiveIssue s o go = .next (go ()).advance := by
  rw [collectiveIssue, h]

/-- A group that is not whole traps. -/
theorem correcting_traps (h : s.cur.collective o.guard false = .conv) {i : Instr} (hi : i ∈ [Instr.cor m o, .gram m o, .trsv m o]) :
    exec i s = .next (s.trap 2 0) := by
  fin_cases hi
  · exact (exec_cor m o s).trans (tileIssue_conv h)
  · exact (exec_gram m o s).trans (collectiveIssue_conv h)
  · exact (exec_trsv m o s).trans (collectiveIssue_conv h)

/-- A group whose lanes all stand aside goes on. -/
theorem correcting_goes_on (h : s.cur.collective o.guard false = .none) {i : Instr} (hi : i ∈ [Instr.cor m o, .gram m o, .trsv m o]) :
    exec i s = .next s.advance := by
  fin_cases hi
  · exact (exec_cor m o s).trans (tileIssue_none h)
  · exact (exec_gram m o s).trans (collectiveIssue_none h)
  · exact (exec_trsv m o s).trans (collectiveIssue_none h)

/-- What `cor` reads at issue. -/
theorem corPrep_reads {w : CorWork} (h : corPrep s m o false = .ok w) : w.keys = s.cur.readRegs (vregNo o.a) (m.kn.toNat + 1)
    ∧ w.vals = s.cur.readRegs (vregNo o.b) (m.kn.toNat + 1) ∧ w.n = m.kn.toNat + 1 ∧ w.mode = m.mode
    ∧ w.eta = s.cur.readEta m.es.toNat ∧ w.vreg = vregNo o.b := by
  rw [corPrep] at h
  dsimp only at h
  split at h
  · split at h
    · cases h
    · injection h with h
      rw [← h]
      exact ⟨rfl, rfl, rfl, rfl, rfl, rfl⟩
  · injection h with h
    rw [← h]
    exact ⟨rfl, rfl, rfl, rfl, rfl, rfl⟩

theorem cor_issues (hc : s.cur.collective o.guard false = .act) (hv : s.verdict (tileNo o.d) = .clear) {w : CorWork}
    (hw : corPrep s m o false = .ok w) : Issues (exec (.cor m o) s) (s.takeBuild w) o 0x2C0 3
      (if m.mode = .rsp then (List.range (m.kn.toNat + 1)).map fun t => .v (vregNo o.b + t) else []) (.cor w) := by
  obtain ⟨_, _, hn, hmode, _, hvreg⟩ := corPrep_reads hw
  have hd : w.dests = if m.mode = .rsp then (List.range (m.kn.toNat + 1)).map fun t => .v (vregNo o.b + t) else [] := by
    rw [CorWork.dests, hn, hmode, hvreg]
  rw [exec_cor, tileIssue_act hc hv, hw, ← hd]
  exact issues_issueOp _ _ _ _ _ _

end

/-! ### Rows of 64 words -/

/-- A square of words by rows. -/
def square (x : Nat → Nat → Word) : List (List Word) := (List.range 64).map fun i => (List.range 64).map (x i)

theorem square_congr {x y : Nat → Nat → Word} (h : ∀ i < 64, ∀ j < 64, x i j = y i j) : square x = square y :=
  List.map_congr_left fun i hi => List.map_congr_left fun j hj => h i (List.mem_range.1 hi) j (List.mem_range.1 hj)

/-- A list as the values that its places have. -/
theorem eq_map_getD {α : Type} (d : α) (l : List α) : l = (List.range l.length).map fun i => l.getD i d := by
  refine List.ext_getElem (by simp) fun i hi _ => ?_
  rw [List.getElem_map, List.getElem_range, List.getD_eq_getElem _ _ hi]

theorem zip_maps {α β γ : Type} (l : List α) (f : α → β) (g : α → γ) : (l.map f).zip (l.map g) = l.map fun a => (f a, g a) := by
  rw [List.zip_eq_zipWith, List.zipWith_map, List.zipWith_self]

theorem getD_map_range {α : Type} (d : α) {n i : Nat} (f : Nat → α) (h : i < n) : ((List.range n).map f).getD i d = f i := by
  rw [List.getD_eq_getElem _ _ (by simpa using h), List.getElem_map, List.getElem_range]

theorem getD_take_drop {l : List Word} {p n i : Nat} (h : i < n) : ((l.drop p).take n).getD i 0 = l.getD (p + i) 0 := by
  rw [List.getD_eq_getElem?_getD, List.getElem?_take_of_lt h, List.getElem?_drop, ← List.getD_eq_getElem?_getD]

theorem length_regAt {l : List Word} {n t : Nat} (h : l.length = 64 * n) (ht : t < n) : (regAt l t).length = 64 := by
  rw [regAt, List.length_take, List.length_drop]
  omega

theorem getD_regAt (l : List Word) (t : Nat) {i : Nat} (h : i < 64) : (regAt l t).getD i 0 = l.getD (64 * t + i) 0 := getD_take_drop h

/-- A register's words by lane. -/
theorem regAt_eq {l : List Word} {n t : Nat} (h : l.length = 64 * n) (ht : t < n) :
    regAt l t = (List.range 64).map fun i => l.getD (64 * t + i) 0 := by
  rw [eq_map_getD 0 (regAt l t), length_regAt h ht]
  refine List.map_congr_left fun i hi => ?_
  exact getD_regAt l t (List.mem_range.1 hi)

/-- The rows of a tile. -/
theorem rows_eq {t : Tile} (h : skeysRise t.acc = true) : t.rows = square fun i j => sget 0 t.acc (64 * i + j) := by
  rw [Tile.rows, square, toDense_eq 0 4096 h]
  refine List.map_congr_left fun i hi => ?_
  have hi' := List.mem_range.1 hi
  have hlen : ((((List.range 4096).map (sget 0 t.acc)).drop (64 * i)).take 64).length = 64 := by
    rw [List.length_take, List.length_drop, List.length_map, List.length_range]
    omega
  rw [eq_map_getD 0 (List.take 64 _), hlen]
  refine List.map_congr_left fun j hj => ?_
  rw [getD_take_drop (List.mem_range.1 hj), getD_map_range _ _ (by have := List.mem_range.1 hj; omega)]

theorem flatten_square (x : Nat → Nat → Word) {i j : Nat} (hi : i < 64) (hj : j < 64) : (square x).flatten.getD (64 * i + j) 0 = x i j := by
  have hflat (n : Nat) (l : List (List Word)) (hl : ∀ r ∈ l, r.length = 64) (hn : n < l.length) :
      l.flatten.getD (64 * n + j) 0 = (l.getD n []).getD j 0 := by
    induction l generalizing n with
    | nil => exact absurd hn (Nat.not_lt_zero _)
    | cons r l ih =>
      have hr := hl r (.head _)
      rw [List.flatten_cons]
      cases n with
      | zero => rw [List.getD_append _ _ _ _ (by omega), Nat.mul_zero, Nat.zero_add, List.getD_cons_zero]
      | succ n =>
        rw [List.getD_append_right _ _ _ _ (by omega), hr, show 64 * (n + 1) + j - 64 = 64 * n + j by omega, List.getD_cons_succ]
        exact ih n (fun r hr => hl r (.tail _ hr)) (by simpa using hn)
  rw [hflat i _ (fun r hr => ?_) (by rw [square, List.length_map, List.length_range]; exact hi)]
  · rw [square, getD_map_range [] _ hi, getD_map_range _ _ hj]
  · obtain ⟨_, _, rfl⟩ := List.mem_map.1 hr
    rw [List.length_map, List.length_range]

theorem acc_ofRows (t : Tile) (x : Nat → Nat → Word) {i j : Nat} (hi : i < 64) (hj : j < 64) :
    sget 0 (t.ofRows (square x)).acc (64 * i + j) = x i j := by
  rw [Tile.ofRows, sget_ofDense, if_pos (Nat.zero_le _), Nat.sub_zero, flatten_square x hi hj]

/-! ### What the commands compute -/

/-- The residual of a key in row i. -/
def residualAt (S : Nat → Nat → Word) (k : List Word) (v : Nat → Word) (i : Nat) : Word :=
  fsubRn (v i) (dotRn ((List.range 64).map (S i)) k)

theorem residual_square (S : Nat → Nat → Word) (k : List Word) (v : Nat → Word) :
    residual (square S) k ((List.range 64).map v) = (List.range 64).map (residualAt S k v) := by
  rw [residual, square, zip_maps, List.map_map]
  rfl

theorem updStep_square (eta : Word) (S : Nat → Nat → Word) (k v : Nat → Word) :
    updStep eta ((List.range 64).map k) ((List.range 64).map v) (square S) = square fun i j =>
      sumRn (f32 (S i j)) [mulExt (mulExt (f32 eta) (f32 (residualAt S ((List.range 64).map k) v i))) (f32 (k j))] := by
  rw [updStep, residual_square]
  dsimp only
  rw [square, zip_maps, List.map_map, square]
  refine List.map_congr_left fun i _ => ?_
  dsimp only [Function.comp]
  rw [zip_maps, List.map_map]
  rfl

theorem zipIdx_range_map {α : Type} (n : Nat) (f : Nat → α) : ((List.range n).map f).zipIdx = (List.range n).map fun i => (f i, i) := by
  rw [List.zipIdx_eq_zip_range', List.length_map, List.length_range, ← List.range_eq_range']
  exact (congrArg (List.zip _) (List.map_id _).symm).trans (zip_maps _ _ _)

theorem addAll_square (eta : Word) (n : Nat) (keys xs : List Word) (S : Nat → Nat → Word) :
    addAll eta n keys xs (square S) = square fun i j => sumRn (f32 (S i j)) ((List.range n).map fun t =>
      mulExt (mulExt (f32 eta) (f32 (xs.getD (64 * t + i) 0))) (f32 (keys.getD (64 * t + j) 0))) := by
  rw [addAll, square, zipIdx_range_map, List.map_map, square]
  refine List.map_congr_left fun i _ => ?_
  dsimp only [Function.comp]
  rw [zipIdx_range_map, List.map_map]
  rfl

/-- Forward substitution finds the rows that solve it. -/
theorem trsvRows_eq {eta : Word} {rows rhs : List Word} {n : Nat} (hn : n ≤ 16) {x : Nat → Nat → Word}
    (hx : ∀ t l, x t l = sumRn (f32 (rhs.getD (64 * t + l) 0)) ((List.range t).map fun u =>
      negExt (mulExt (mulExt (f32 eta) (f32 (rows.getD (64 * t + u) 0))) (f32 (x u l))))) {t : Nat} (ht : t ≤ n) :
    trsvRows eta rows rhs t = (List.range t).map fun u => (List.range 64).map (x u) := by
  induction t with
  | zero => rfl
  | succ t ih =>
    rw [trsvRows, ih (by omega), List.range_succ (n := t), List.map_append]
    refine congrArg _ (congrArg (fun r => [r]) (List.map_congr_left fun l hl => ?_))
    have hl' := List.mem_range.1 hl
    rw [hx t l, getD_regAt _ _ hl', zipIdx_range_map, List.map_map]
    refine congrArg _ (List.map_congr_left fun u hu => ?_)
    have hu' := List.mem_range.1 hu
    dsimp only [Function.comp]
    rw [getD_regAt _ _ (by omega), getD_map_range _ _ hl']

/-! ### The work of `gram` and `trsv` -/

section

variable {s : State} {id : Nat} {op : Op} (h : sfind s.ops id = some op)

include h

theorem runWork_gram {n d : Nat} {mask : LaneMask} {keys : List Word} (hw : op.work = .gram n d mask keys) :
    s.runWork id = some ((s.running id).solveRun id mask d (gramRows n keys)) := by
  simp only [State.runWork, sfind_modOp h, hw]
  rfl

theorem runWork_trsv {n d : Nat} {mask : LaneMask} {eta : Word} {rows rhs : List Word} (hw : op.work = .trsv n d mask eta rows rhs) :
    s.runWork id = some ((s.running id).solveRun id mask d (trsvRows eta rows rhs n)) := by
  simp only [State.runWork, sfind_modOp h, hw]
  rfl

theorem runWork_cor {w : CorWork} (hw : op.work = .cor w) :
    s.runWork id = some ((s.running id).corGo id { op with phase := .running } w) := by
  simp only [State.runWork, sfind_modOp h, hw]
  rfl

theorem solveRun_ends (mask : LaneMask) (d : Nat) (rows : List (List Word)) : ∃ q, sfind (s.solveRun id mask d rows).ops id = some q
    ∧ q.phase = .ended ∧ q.status = 0 ∧ (s.solveRun id mask d rows).mem = s.mem ∧ q.outs = regOuts mask d rows :=
  ⟨_, sfind_endWork (sfind_modOp h fun op => { op with outs := regOuts mask d rows }) 0, rfl, rfl, rfl, rfl⟩

end

/-! ### The work of `cor` (R200, R201, R293) -/

theorem tileOf_setTile_other {s : State} {gid : Nat} {g : Group} (hg : s.tileGroup gid = some g) {key k : Nat} (hne : k ≠ key) (t : Tile) :
    (s.setTile gid key t).tileOf gid k = s.tileOf gid k := by
  rw [State.tileOf, State.tileOf, tileGroup_setTile hg, hg]
  simp [sfind_sput, hne]

/-- A tile written where there is one to write. -/
def State.putTile (s : State) (gid : Nat) : Option Nat → Tile → State
  | some k, t => s.setTile gid k t
  | none, _ => s

theorem putTile_keeps (s : State) (gid : Nat) (k : Option Nat) (t : Tile) : ((s.putTile gid k t).ops, (s.putTile gid k t).mem) = (s.ops, s.mem) := by
  cases k with
  | none => rfl
  | some k => rw [State.putTile, setTile_frame]

section

variable {s : State} {gid : Nat} {g : Group} (hg : s.tileGroup gid = some g)

include hg

theorem tileGroup_putTile (k : Option Nat) (t : Tile) : ∃ g', (s.putTile gid k t).tileGroup gid = some g' := by
  cases k with
  | none => exact ⟨g, hg⟩
  | some k => exact ⟨_, tileGroup_setTile hg k t⟩

theorem tileOf_putTile (k : Option Nat) (t : Tile) (j : Nat) :
    (s.putTile gid k t).tileOf gid j = if k = some j then t else s.tileOf gid j := by
  cases k with
  | none => rfl
  | some k =>
    by_cases hj : k = j
    · rw [hj, if_pos rfl]
      exact tileOf_setTile hg j t
    · rw [if_neg (fun h => hj (Option.some_inj.1 h))]
      exact tileOf_setTile_other hg (Ne.symm hj) t

end

theorem corBegin_ok {s : State} {op : Op} {w : CorWork} {tl : Tile} (hst : (if w.mode = .rsp then none else etaStatus w.eta) = none)
    (hset : s.settle op.core (s.corTile op.gid w) = .ok tl) :
    s.corBegin op w = (none, (s.putTile op.gid w.tile tl).putTile op.gid w.build { tl with res := [] }) := by
  rw [State.corBegin, hst]
  dsimp only
  rw [hset]
  cases w.tile <;> cases w.build <;> rfl

/-- A verdict ends the work; only its events are kept beside it. -/
theorem corVerdict_ends {s : State} {id : Nat} {op : Op} (h : sfind s.ops id = some op) (t : Tile) (bad : Bool) :
    ∃ q, sfind (s.corVerdict id t bad).ops id = some q ∧ q.phase = .ended ∧ q.status = (if bad then 6 else 0) ∧ q.outs = op.outs
      ∧ s.corVerdict id t bad = { s with ops := (s.corVerdict id t bad).ops } := by
  rw [State.corVerdict]
  split
  · exact ⟨_, sfind_endWork (sfind_modOp h _) _, rfl, rfl, rfl, rfl⟩
  · exact ⟨_, sfind_endWork h _, rfl, rfl, rfl, rfl⟩

section

variable {s : State} {id : Nat} {op : Op} {w : CorWork} {g : Group} {tl : Tile} (h : sfind s.ops id = some op)
  (hp : op.progress = 0)

include h hp

theorem corGo_refuses {st : Nat} (hst : (if w.mode = .rsp then none else etaStatus w.eta) = some st) :
    ∃ q, sfind (s.corGo id op w).ops id = some q ∧ q.phase = .ended ∧ q.status = st ∧ (s.corGo id op w).mem = s.mem := by
  rw [State.corGo, if_neg (by rw [hp]; exact lt_irrefl 0), State.corBegin, hst]
  dsimp only
  split
  · exact ⟨_, sfind_endWork (sfind_modOp h _) _, rfl, rfl, rfl⟩
  · exact ⟨_, sfind_endWork h _, rfl, rfl, rfl⟩

variable (hg : s.tileGroup op.gid = some g) (hset : s.settle op.core (s.corTile op.gid w) = .ok tl)

include hg hset

/-- A command that begins settles the live tile and puts its values into the building tile. -/
theorem corGo_begins (hst : (if w.mode = .rsp then none else etaStatus w.eta) = none) :
    ∃ (u : State) (g' : Group), s.corGo id op w = u.corSteps id op w w.granule ∧ sfind u.ops id = some op ∧ u.mem = s.mem
      ∧ u.tileGroup op.gid = some g' ∧ (∀ k, w.tile = some k → w.build ≠ some k → u.tileOf op.gid k = tl)
      ∧ (∀ b, w.build = some b → u.tileOf op.gid b = { tl with res := [] }) ∧ (u.corTile op.gid w).acc = tl.acc := by
  obtain ⟨g₁, hg₁⟩ := tileGroup_putTile hg w.tile tl
  obtain ⟨g₂, hg₂⟩ := tileGroup_putTile hg₁ w.build { tl with res := [] }
  have hkeep := (putTile_keeps (s.putTile op.gid w.tile tl) op.gid w.build { tl with res := [] }).trans
    (putTile_keeps s op.gid w.tile tl)
  refine ⟨(s.putTile op.gid w.tile tl).putTile op.gid w.build { tl with res := [] }, g₂, ?_, ?_, ?_, hg₂, fun k hk hne => ?_,
    fun b hb => ?_, ?_⟩
  · rw [State.corGo, if_neg (by rw [hp]; exact lt_irrefl 0), corBegin_ok hst hset]
  · rw [(Prod.mk.inj hkeep).1]
    exact h
  · exact (Prod.mk.inj hkeep).2
  · rw [tileOf_putTile hg₁, if_neg hne, tileOf_putTile hg, if_pos hk]
  · rw [tileOf_putTile hg₁, if_pos hb]
  · cases hk : w.tile with
    | none =>
      have hz (v : State) : v.corTile op.gid w = { Tile.zero with loaded := true } := by rw [State.corTile, hk]
      rw [hz] at hset ⊢
      injection hset with hset
      rw [← hset]
    | some k =>
      rw [hk] at hg₁
      rw [State.corTile, hk]
      dsimp only
      rw [tileOf_putTile hg₁, tileOf_putTile hg, if_pos rfl]
      split <;> rfl

variable (hr : skeysRise tl.acc = true) (hv : w.vals.length = 64 * w.n)

include hr hv

/-- `.rsp` gives the residuals of the settled tile. -/
theorem corGo_rsp (hm : w.mode = .rsp) : ∃ q, sfind (s.corGo id op w).ops id = some q ∧ q.phase = .ended ∧ q.status = 0
    ∧ (s.corGo id op w).mem = s.mem ∧ q.outs = regOuts w.mask w.vreg ((List.range w.n).map fun t => (List.range 64).map
      (residualAt (fun i j => sget 0 tl.acc (64 * i + j)) (regAt w.keys t) fun i => w.vals.getD (64 * t + i) 0)) := by
  obtain ⟨u, _, hgo, hops, hmem, _, _, _, hacc⟩ := corGo_begins h hp hg hset (by rw [if_pos hm])
  have hrows : (u.corTile op.gid w).rows = square fun i j => sget 0 tl.acc (64 * i + j) := by rw [rows_eq (by rw [hacc]; exact hr), hacc]
  have hsteps : u.corSteps id op w w.granule = (u.modOp id fun q => { q with outs := regOuts w.mask w.vreg ((List.range w.n).map fun t =>
      residual (u.corTile op.gid w).rows (regAt w.keys t) (regAt w.vals t)) }).endWork id 0 := by
    rw [State.corSteps, hm]
  have houts : ((List.range w.n).map fun t => residual (u.corTile op.gid w).rows (regAt w.keys t) (regAt w.vals t))
      = (List.range w.n).map fun t => (List.range 64).map
        (residualAt (fun i j => sget 0 tl.acc (64 * i + j)) (regAt w.keys t) fun i => w.vals.getD (64 * t + i) 0) :=
    List.map_congr_left fun t ht => by rw [hrows, regAt_eq hv (List.mem_range.1 ht), residual_square]
  rw [hgo, hsteps, houts]
  exact ⟨_, sfind_endWork (sfind_modOp hops _) 0, rfl, rfl, hmem, rfl⟩

end

/-- The tile that an update builds, with its verdict. -/
theorem corVerdict_builds {u v : State} {id gid b : Nat} {op : Op} {g : Group} (hg : u.tileGroup gid = some g) {t : Tile}
    (hops : sfind v.ops id = some op) (hmem : v.mem = u.mem) {x : Nat → Nat → Word}
    (htile : ∀ k, v.tileOf gid k = (u.setTile gid b (t.ofRows (square x))).tileOf gid k) (bad : Bool) :
    ∃ q, sfind (v.corVerdict id (t.ofRows (square x)) bad).ops id = some q ∧ q.phase = .ended ∧ q.status = (if bad then 6 else 0)
      ∧ (v.corVerdict id (t.ofRows (square x)) bad).mem = u.mem ∧ q.outs = op.outs
      ∧ (∀ k, k ≠ b → (v.corVerdict id (t.ofRows (square x)) bad).tileOf gid k = u.tileOf gid k)
      ∧ ∀ i < 64, ∀ j < 64, sget 0 ((v.corVerdict id (t.ofRows (square x)) bad).tileOf gid b).acc (64 * i + j) = x i j := by
  obtain ⟨q, hq, hph, hstat, houts, hverdict⟩ := corVerdict_ends hops (t.ofRows (square x)) bad
  have hsame (k : Nat) : (v.corVerdict id (t.ofRows (square x)) bad).tileOf gid k = v.tileOf gid k := by
    rw [hverdict]
    rfl
  refine ⟨q, hq, hph, hstat, by rw [hverdict]; exact hmem, houts, fun k hne => ?_, fun i hi j hj => ?_⟩
  · rw [hsame, htile, tileOf_setTile_other hg hne]
  · rw [hsame, htile, tileOf_setTile hg, acc_ofRows _ _ hi hj]

section

variable {s : State} {id : Nat} {op : Op} {w : CorWork} {g : Group} {tl : Tile} (h : sfind s.ops id = some op)
  (hp : op.progress = 0) (hg : s.tileGroup op.gid = some g) (hset : s.settle op.core (s.corTile op.gid w) = .ok tl)
  (hr : skeysRise tl.acc = true) {b : Nat} (hst : etaStatus w.eta = none) (hb : w.build = some b) {x : Nat → Nat → Word}

include h hp hg hset hr hst hb

/-- `.add` builds every element with one rounding. -/
theorem corGo_add (hm : w.mode = .add) (hx : ∀ i < 64, ∀ j < 64, x i j = sumRn (f32 (sget 0 tl.acc (64 * i + j)))
      ((List.range w.n).map fun t => mulExt (mulExt (f32 w.eta) (f32 (w.vals.getD (64 * t + i) 0))) (f32 (w.keys.getD (64 * t + j) 0)))) :
    ∃ q, sfind (s.corGo id op w).ops id = some q ∧ q.phase = .ended ∧ q.status = (if diverged w.lim (square x) then 6 else 0)
      ∧ (s.corGo id op w).mem = s.mem ∧ q.outs = op.outs ∧ (∀ k, w.tile = some k → k ≠ b → (s.corGo id op w).tileOf op.gid k = tl)
      ∧ ∀ i < 64, ∀ j < 64, sget 0 ((s.corGo id op w).tileOf op.gid b).acc (64 * i + j) = x i j := by
  obtain ⟨u, g', hgo, hops, hmem, hug, htile, hbuild, _⟩ := corGo_begins h hp hg hset (by rw [hm, if_neg (by decide)]; exact hst)
  have hrows : addAll w.eta w.n w.keys w.vals (u.tileOf op.gid b).rows = square x := by
    rw [hbuild b hb, rows_eq (t := { tl with res := [] }) hr, addAll_square]
    exact (square_congr hx).symm
  have hsteps : u.corSteps id op w w.granule = (u.setTile op.gid b ((u.tileOf op.gid b).ofRows (square x))).corVerdict id
      ((u.tileOf op.gid b).ofRows (square x)) (diverged w.lim (square x)) := by
    rw [State.corSteps, hm, hb]
    dsimp only
    rw [hrows]
  have hframe := setTile_frame u op.gid b ((u.tileOf op.gid b).ofRows (square x))
  obtain ⟨q, hq, hph, hstat, hmem', houts, hother, hcells⟩ := corVerdict_builds hug
    (v := u.setTile op.gid b ((u.tileOf op.gid b).ofRows (square x))) (by rw [hframe]; exact hops) (by rw [hframe])
    (fun _ => rfl) (diverged w.lim (square x))
  rw [hgo, hsteps]
  exact ⟨q, hq, hph, hstat, hmem'.trans hmem, houts, fun k hk hne => (hother k hne).trans
    (htile k hk fun he => hne (by rw [hb] at he; exact (Option.some_inj.1 he).symm)), hcells⟩

/-- `.upd` of one key builds every element with one rounding. -/
theorem corGo_upd (hk : w.keys.length = 64 * w.n) (hv : w.vals.length = 64 * w.n) (hm : w.mode = .upd) (hn : w.n = 1)
    (hrun : op.phase = .running) (hbad : tl.bad = false)
    (hx : ∀ i < 64, ∀ j < 64, x i j = sumRn (f32 (sget 0 tl.acc (64 * i + j))) [mulExt (mulExt (f32 w.eta)
      (f32 (residualAt (fun i j => sget 0 tl.acc (64 * i + j)) (regAt w.keys 0) (fun i => w.vals.getD (64 * 0 + i) 0) i)))
      (f32 (w.keys.getD (64 * 0 + j) 0))]) :
    ∃ q, sfind (s.corGo id op w).ops id = some q ∧ q.phase = .ended ∧ q.status = (if diverged w.lim (square x) then 6 else 0)
      ∧ (s.corGo id op w).mem = s.mem ∧ q.outs = op.outs ∧ (∀ k, w.tile = some k → k ≠ b → (s.corGo id op w).tileOf op.gid k = tl)
      ∧ ∀ i < 64, ∀ j < 64, sget 0 ((s.corGo id op w).tileOf op.gid b).acc (64 * i + j) = x i j := by
  obtain ⟨u, g', hgo, hops, hmem, hug, htile, hbuild, _⟩ := corGo_begins h hp hg hset (by rw [hm, if_neg (by decide)]; exact hst)
  have hgran : w.granule = 1 := by rw [CorWork.granule, hn, ite_self]
  have hrows : updStep w.eta (regAt w.keys 0) (regAt w.vals 0) (u.tileOf op.gid b).rows = square x := by
    rw [hbuild b hb, rows_eq (t := { tl with res := [] }) hr, regAt_eq hv (by omega), regAt_eq hk (by omega), updStep_square]
    rw [regAt_eq hk (by omega)] at hx
    exact (square_congr hx).symm
  have hstep : u.corSteps id op w w.granule = ((u.setTile op.gid b ((u.tileOf op.gid b).ofRows (square x))).modOp id fun q =>
      { q with progress := 1, done := if diverged w.lim (square x) then 0 else 1 }).corVerdict id
        ((u.tileOf op.gid b).ofRows (square x)) (diverged w.lim (square x)) := by
    have hnot : ¬ (u.tileOf op.gid b).bad = true := by
      rw [hbuild b hb]
      exact fun hc => Bool.noConfusion (hbad.symm.trans hc)
    rw [State.corSteps, hm, hb, hgran]
    dsimp only
    rw [State.updKeys, hops]
    dsimp only
    rw [if_pos hrun, State.updKeys, State.updKey, hp]
    dsimp only
    rw [if_neg hnot, hrows, if_pos (.inr hn.symm)]
  have hframe := setTile_frame u op.gid b ((u.tileOf op.gid b).ofRows (square x))
  obtain ⟨q, hq, hph, hstat, hmem', houts, hother, hcells⟩ := corVerdict_builds hug (x := x) (b := b) (t := u.tileOf op.gid b)
    (sfind_modOp (s := u.setTile op.gid b ((u.tileOf op.gid b).ofRows (square x))) (by rw [hframe]; exact hops) fun q =>
      { q with progress := 1, done := if diverged w.lim (square x) then 0 else 1 }) (by rw [State.modOp_mem, hframe])
    (fun _ => rfl) (diverged w.lim (square x))
  rw [hgo, hstep]
  exact ⟨q, hq, hph, hstat, hmem'.trans hmem, houts, fun k hk hne => (hother k hne).trans
    (htile k hk fun he => hne (by rw [hb] at he; exact (Option.some_inj.1 he).symm)), hcells⟩

end

/-! ### Register results (R184) -/

theorem foldl_writeVLane (n : Nat) (f : Nat → Word) (l : List Nat) (g : Group) :
    l.foldl (fun g i => g.writeReg (.v n) i ((f i).setWidth 64)) g = { g with v := l.foldl (fun v i => sset 0 v (n * 64 + i) (f i)) g.v } := by
  induction l generalizing g with
  | nil => rfl
  | cons i l ih =>
    rw [List.foldl_cons, ih, List.foldl_cons, Group.writeReg, Group.writeVLane]
    dsimp only
    rw [BitVec.setWidth_setWidth_of_le _ (by decide), BitVec.setWidth_eq]

theorem foldl_regOuts (mask : LaneMask) (d : Nat) (rows : List (List Word)) (g : Group) :
    (regOuts mask d rows).foldl (fun g w => g.writeReg w.1 w.2.1 w.2.2) g
      = rows.zipIdx.foldl (fun g r => g.writeV (d + r.2) mask fun l => r.1.getD l 0) g := by
  rw [regOuts, List.foldl_flatten, List.foldl_map]
  congr 1
  funext g r
  rw [List.foldl_map]
  exact foldl_writeVLane (d + r.2) (fun l => r.1.getD l 0) _ g

theorem readV_foldl_writeV (mask : LaneMask) (d : Nat) (rows : List (List Word)) (k : Nat) (g : Group) (n : Nat) {l : Nat} (hl : l < 64) :
    ((rows.zipIdx k).foldl (fun g r => g.writeV (d + r.2) mask fun l => r.1.getD l 0) g).readV n l
      = if d + k ≤ n ∧ n < d + k + rows.length ∧ mask.getLsbD l = true then (rows.getD (n - (d + k)) []).getD l 0 else g.readV n l := by
  induction rows generalizing k g with
  | nil => rw [List.zipIdx_nil, List.foldl_nil, if_neg (by rintro ⟨h1, h2, _⟩; simp at h2; omega)]
  | cons r rows ih =>
    rw [List.zipIdx_cons, List.foldl_cons, ih, List.length_cons]
    rw [Group.readV_writeV _ _ _ _ _ _ hl]
    by_cases hn : n = d + k
    · rw [if_neg (by omega), hn, Nat.sub_self, List.getD_cons_zero]
      exact if_congr (by simp) rfl rfl
    · by_cases hlow : d + k ≤ n
      · rw [show n - (d + k) = n - (d + (k + 1)) + 1 by omega, List.getD_cons_succ]
        refine if_congr ⟨fun ⟨h1, h2, h3⟩ => ⟨hlow, by omega, h3⟩, fun ⟨_, h2, h3⟩ => ⟨by omega, by omega, h3⟩⟩ rfl ?_
        exact if_neg fun h => hn h.1
      · rw [if_neg (by omega), if_neg (fun h => hn h.1), if_neg (fun h => hlow h.1)]

theorem liveTile_writeRegs (l : List (RegRef × Nat × DWord)) (g : Group) :
    (l.foldl (fun g w => g.writeReg w.1 w.2.1 w.2.2) g).liveTile = g.liveTile := by
  refine foldl_keeps (fun h : Group => h.liveTile = g.liveTile) _ l g rfl fun h w hh => ?_
  rw [← hh]
  unfold Group.writeReg
  split
  · rfl
  · rfl
  · rfl
  · rfl
  · rw [Group.writeP]
    split <;> rfl
  · rfl

theorem readV_lower (g : Group) (m : BitVec 12) (n l : Nat) : (g.lower m).readV n l = g.readV n l := rfl

/-- A command's register results, each in its lanes. -/
theorem readV_regOuts (mask : LaneMask) (d : Nat) (rows : List (List Word)) (g : Group) {k l : Nat} (hk : k < rows.length) (hl : l < 64) :
    ((regOuts mask d rows).foldl (fun g w => g.writeReg w.1 w.2.1 w.2.2) g).readV (d + k) l
      = if mask.getLsbD l then (rows.getD k []).getD l 0 else g.readV (d + k) l := by
  rw [foldl_regOuts, readV_foldl_writeV mask d rows 0 g _ hl, show d + k - (d + 0) = k by omega]
  exact if_congr ⟨fun h => h.2.2, fun h => ⟨by omega, by omega, h⟩⟩ rfl rfl

/-! ### Completion (R185, R293) -/

theorem count_frame (s : State) (grid : Nat) (l : List (Nat × Nat × List Nat)) :
    ∃ f : Grid → Grid, (∀ gr, (f gr).tlen = gr.tlen) ∧ s.count grid l = s.modGrid grid f := by
  rw [State.count]
  split
  · refine ⟨id, fun _ => rfl, ?_⟩
    rw [State.modGrid, supd]
    simp
  · refine ⟨_, ?_, rfl⟩
    exact fun _ => rfl

/-- An operation of the issuing group completes without a failure, where no tile has to be dropped and its grid keeps no trace. -/
theorem completeOp_succeeds {s : State} {id : Nat} {op : Op} (h : sfind s.ops id = some op) (hg : op.gid = s.cur.gid)
    (ht : ∀ e ∈ s.cur.tiles, e.2.turned = none) (hs : op.status = 0) (hd : op.deferred = [])
    (hq : ∀ gr, s.gridOf op.grid = some gr → gr.tlen = 0) :
    sfind (s.completeOp id).ops id = none ∧ (s.completeOp id).mem = s.mem
      ∧ (s.completeOp id).cur = (op.outs.foldl (fun g w => g.writeReg w.1 w.2.1 w.2.2) s.cur).lower op.flags := by
  have hdrop := dropTurnedAll_of_none (tileGroup_of_any (anyGroup_of_gid hg)) ht
  have hr := returnLeave_eq h
  obtain ⟨f, hf, hcount⟩ := count_frame (s.returnLeave id) op.grid (op.census ++ (s.returnLeave id).namedSite op)
  have hfind : sfind ((s.returnLeave id).count op.grid (op.census ++ (s.returnLeave id).namedSite op)).ops id
      = some { op with grant := 0 } := by
    rw [hcount, hr]
    exact sfind_modOp h fun op => { op with grant := 0 }
  have hcur : ((s.returnLeave id).count op.grid (op.census ++ (s.returnLeave id).namedSite op)).cur = s.cur := by
    rw [hcount, hr]
    rfl
  have hmem : ((s.returnLeave id).count op.grid (op.census ++ (s.returnLeave id).namedSite op)).mem = s.mem := by
    rw [hcount, hr]
    rfl
  have htrace := trace_of_no_trace hfind (fun gr hgr => by
    rw [hcount, hr] at hgr
    obtain ⟨g0, h0, rfl⟩ := Option.map_eq_some_iff.1 ((sfind_supd _ _ _ _).symm.trans hgr |>.symm.trans (if_pos rfl) |>.symm)
    rw [hf]
    exact hq _ h0) 5 op.status
  have hend : s.completeOp id = ((s.returnLeave id).count op.grid (op.census ++ (s.returnLeave id).namedSite op)).endOp id := by
    rw [State.completeOp, h, Option.bind_some, hdrop, h]
    dsimp only
    rw [hdrop, htrace, ite_self, anyGroup_of_gid (hg.trans (congrArg Group.gid hcur).symm)]
    exact if_pos (.inl hs)
  rw [hend, endOp_of_cur hfind (hg.trans (congrArg Group.gid hcur).symm) hd]
  dsimp only
  refine ⟨?_, hmem, by rw [hcur]⟩
  rw [sfind_sdel, if_pos rfl]

/-- The name that an update binds. -/
theorem bindResult_cur {s : State} {id : Nat} {op : Op} (h : sfind s.ops id = some op) (hg : op.gid = s.cur.gid) (hs : op.status = 0) :
    ∃ l, s.bindResult id = { s with cur := { s.cur with liveTile := l } }
      ∧ ∀ w b, op.work = .cor w → w.build = some b → sfind l w.name = some (b % 2) := by
  rw [State.bindResult, h]
  dsimp only
  split
  · rename_i w hw
    rw [State.corBind]
    split
    · rename_i b hb
      rw [if_pos hs, hg, modGroup_cur]
      refine ⟨_, rfl, fun w' b' hw' hb' => ?_⟩
      rw [hw, Work.cor.injEq] at hw'
      rw [← hw', hb, Option.some_inj] at hb'
      rw [← hw', ← hb', sfind_sput_same]
    · rename_i hb
      refine ⟨s.cur.liveTile, rfl, fun w' b' hw' hb' => ?_⟩
      rw [hw, Work.cor.injEq] at hw'
      rw [← hw', hb] at hb'
      cases hb'
  · rename_i hw
    exact ⟨s.cur.liveTile, rfl, fun w' b' hw' _ => absurd hw' (hw w')⟩

/-- A command of one group whose work is over: its verdict is its own, its tile is bound, and it completes. -/
theorem commandComplete_of_ended {s : State} {id : Nat} {op : Op} (h : sfind s.ops id = some op) (hm : op.mates = [])
    (hp : op.phase = .ended) (hs : op.status = 0) : exec (.commandComplete id) s =
      .next { (s.bindResult id).completeOp id with attn := { ((s.bindResult id).completeOp id).attn with
        engines := ((s.bindResult id).completeOp id).attn.engines.filter fun e => e.2.op ≠ id } } := by
  have hfinish : s.finishWork id = s := by
    rw [State.finishWork, h]
    exact if_pos (by rw [hp]; decide)
  have hover : s.workOver id = true := by
    rw [State.workOver, h]
    exact decide_eq_true hp
  have hverdict : s.commonVerdict [id] = s := by
    rw [State.commonVerdict]
    simp [h, hs]
  rw [exec_commandComplete, execCommandComplete, command_of_single h hm]
  simp only [List.foldl_cons, List.foldl_nil, hfinish, List.all_cons, List.all_nil, hover, hverdict, List.isEmpty_cons,
    List.any_cons, List.any_nil, lt_self_iff_false, decide_false, Bool.or_self, Bool.and_self, Bool.not_true, Bool.false_eq_true,
    or_self, if_false]

/-- A lane that is live has not exited. -/
theorem exited_of_live {g : Group} {l : Nat} (h : g.live.getLsbD l = true) : g.exited.getLsbD l = false := by
  have hp : g.pathMask.getLsbD l = true := by
    rw [Group.live, BitVec.getLsbD_and, Bool.and_eq_true] at h
    exact h.1
  rw [Group.pathMask, BitVec.getLsbD_and, Bool.and_eq_true] at hp
  obtain ⟨_, hn⟩ := hp
  rw [BitVec.getLsbD_not, Bool.and_eq_true] at hn
  simpa using hn.2

/-- Settles O40: the lanes decide the issue; a command's work is its rows, cell by cell; its completion writes and binds. -/
theorem correctingCommands : Obligations.CorrectingCommands := by
  unfold Obligations.CorrectingCommands
  intro m o s all n read
  refine ⟨fun ⟨l, hl, hex, hlive⟩ i hi => ?_, fun hw hn i hi => ?_, fun d a b hd ha hb hall => ?_⟩
  · refine correcting_traps (collective_conv_of_apart false (Bool.eq_false_iff.2 fun hc => ?_)) hi
    rw [(converged_iff _).1 hc l hl hex] at hlive
    exact Bool.noConfusion hlive
  · exact correcting_goes_on (collective_none ((converged_iff _).2 hw) ((mask_eq_zero_iff _).2 hn)) hi
  subst hd ha hb
  obtain ⟨hlanes, hne⟩ := hall
  obtain ⟨l, hl, hex⟩ : ∃ l < 64, s.cur.exited.getLsbD l = false := by
    by_contra hno
    push Not at hno
    refine hne (BitVec.eq_of_getLsbD_eq fun l hl => ?_)
    rw [BitVec.getLsbD_allOnes, decide_eq_true hl]
    exact Bool.eq_true_of_not_eq_false (hno l hl)
  have hact : s.cur.collective o.guard false = .act :=
    collective_act false ((converged_iff _).2 fun l hl hex => (hlanes l hl hex).1) ((mask_ne_zero_iff _).2 ⟨l, hl, (hlanes l hl hex).2⟩)
      ((effect_eq_live_iff _ _).2 fun l hl hlive => (hlanes l hl (exited_of_live hlive)).2)
  refine ⟨?_, ?_, fun w hv hw => ⟨cor_issues hact hv hw, ?_⟩⟩
  · rw [exec_gram, collectiveIssue_act hact]
    exact issues_issueOp _ _ _ _ _ _
  · rw [exec_trsv, collectiveIssue_act hact]
    exact issues_issueOp _ _ _ _ _ _
  obtain ⟨hkeys, hvals, hn, hmode, heta, _⟩ := corPrep_reads hw
  refine ⟨hkeys, hvals, hn, hmode, heta, fun id op h => ?_⟩
  intro reg runs gives
  have hrun := sfind_running h
  refine ⟨fun n d mask keys hwork hlen => ?_, fun n d mask eta rows rhs x hwork hlen hx hn => ?_,
    fun w g tl hwork hp hg hset hr hkl hvl => ?_, fun hph hst hm hdef hcen hrep hgid ht hq => ?_⟩
  · obtain ⟨q, hq, hph, hst, hmem, houts⟩ := solveRun_ends hrun mask d (gramRows n keys)
    exact ⟨_, q, runWork_gram h hwork, hq, hph, hst, hmem, houts⟩
  · obtain ⟨q, hq, hph, hst, hmem, houts⟩ := solveRun_ends hrun mask d (trsvRows eta rows rhs n)
    rw [trsvRows_eq hn hx le_rfl] at houts
    exact ⟨_, q, runWork_trsv h hwork, hq, hph, hst, hmem, houts⟩
  · intro S e made
    have hgo := runWork_cor h hwork
    have hset' : (s.running id).settle op.core ((s.running id).corTile op.gid w) = .ok tl :=
      (settle_of_mem (u := s.running id) rfl _ _).trans hset
    refine ⟨fun hm => ?_, fun hm st hst => ?_, fun b hm hst hb hbad => ⟨fun hadd => ?_, fun hupd hone => ?_⟩⟩
    · obtain ⟨q, hq, hph, hst, hmem, houts⟩ := corGo_rsp hrun hp hg hset' hr hvl hm
      exact ⟨_, q, hgo, hq, hph, hst, hmem, houts⟩
    · obtain ⟨q, hq, hph, hst', hmem⟩ := corGo_refuses hrun hp (by rw [if_neg hm]; exact hst)
      exact ⟨_, q, hgo, hq, hph, hst', hmem⟩
    · obtain ⟨q, hq, hph, hst', hmem, houts, hother, hcells⟩ := corGo_add hrun hp hg hset' hr hst hb hadd
        (x := fun i j => sumRn (f32 ((S i).getD j 0)) ((List.range w.n).map fun t =>
          mulExt (mulExt (f32 w.eta) (f32 (reg w.vals t i))) (f32 (reg w.keys t j))))
        fun i _ j hj => by rw [show (S i).getD j 0 = sget 0 tl.acc (64 * i + j) from getD_map_range _ _ hj]
      exact ⟨_, q, hgo, hq, hph, hst', hmem, houts, hother, hcells⟩
    · obtain ⟨q, hq, hph, hst', hmem, houts, hother, hcells⟩ := corGo_upd hrun hp hg hset' hr hst hb hkl hvl hupd hone rfl hbad
        (x := fun i j => sumRn (f32 ((S i).getD j 0)) [mulExt (mulExt (f32 w.eta) (f32 (e 0 i))) (f32 (reg w.keys 0 j))])
        fun i _ j hj => by
          rw [show (S i).getD j 0 = sget 0 tl.acc (64 * i + j) from getD_map_range _ _ hj]
          rfl
      exact ⟨_, q, hgo, hq, hph, hst', hmem, houts, hother, hcells⟩
  · obtain ⟨l, hbind, hname⟩ := bindResult_cur h hgid hst
    obtain ⟨hgone, hmem, hcur⟩ := completeOp_succeeds (s := s.bindResult id) (by rw [hbind]; exact h) (by rw [hbind]; exact hgid)
      (by rw [hbind]; exact ht) hst hdef (by rw [hbind]; exact hq)
    refine ⟨_, commandComplete_of_ended h hm hph hst, hgone, ?_, fun w b hw hb => ?_, fun mask d rows houts k hk l hl => ?_⟩
    · exact hmem.trans (by rw [hbind])
    · refine (congrArg (fun g => sfind g.liveTile w.name) hcur).trans ?_
      refine (congrArg (fun l => sfind l w.name) (liveTile_writeRegs op.outs (s.bindResult id).cur)).trans ?_
      rw [hbind]
      exact hname w b hw hb
    · refine (congrArg (fun g => g.readV (d + k) l) hcur).trans ?_
      refine (readV_lower _ _ _ _).trans ?_
      rw [houts, readV_regOuts mask d rows _ hk hl, hbind]
      rfl

end Sys2Proof.Machine
end

/-! SUPPORT. Attention, key-value and side commands at issue (R205, R206, R211 to R217), and the key-value commands' runs (R208 to R210). -/

section

namespace Sys2Proof.Machine

/-! ### Uniform commands (R183) -/

section

variable {s : State} {o : Fields} {go : Unit → Out}

theorem uniformIssue_idle (h : s.cur.acts o.guard = false) : uniformIssue s o go = .next s.advance := by
  rw [uniformIssue, h]
  rfl

theorem uniformIssue_acts (h : s.cur.acts o.guard = true) : uniformIssue s o go = go () := if_pos h

end

/-! ### Reads of shared memory at issue (R184) -/

section

variable {s : State} {off n align : Nat}

theorem segCheck_low (h : s.cur.sgs.limit < off + n) : segCheck s.cur .s off n align = some 5 := by
  rw [segCheck_eq]
  exact if_pos h

theorem segCheck_askew (h : off + n ≤ s.cur.sgs.limit) (ha : off % align ≠ 0) : segCheck s.cur .s off n align = some 6 := by
  rw [segCheck_eq]
  exact (if_neg (Nat.not_lt.2 h)).trans (if_pos ha)

theorem segCheck_fits (h : off + n ≤ s.cur.sgs.limit) (ha : off % align = 0) : segCheck s.cur .s off n align = none := by
  rw [segCheck_eq]
  exact (if_neg (Nat.not_lt.2 h)).trans (if_neg (not_not.2 ha))

theorem sharedRead_low (h : s.cur.sgs.limit < off + n) : s.sharedRead off n align = .error (5, 0) := by
  rw [State.sharedRead, segCheck_low h]

theorem sharedRead_askew (h : off + n ≤ s.cur.sgs.limit) (ha : off % align ≠ 0) : s.sharedRead off n align = .error (6, 0) := by
  rw [State.sharedRead, segCheck_askew h ha]

section

variable (h : off + n ≤ s.cur.sgs.limit) (ha : off % align = 0)

include h ha

theorem sharedRead_poisoned (hp : (s.readLocal .s s.cur.coreNo (s.cur.sgs.base + off) n).psn = true) :
    s.sharedRead off n align = .error (12, 3) := by
  rw [State.sharedRead, segCheck_fits h ha]
  exact if_pos hp

theorem sharedRead_fits (hp : (s.readLocal .s s.cur.coreNo (s.cur.sgs.base + off) n).psn = false) :
    s.sharedRead off n align = .ok (s.readLocal .s s.cur.coreNo (s.cur.sgs.base + off) n).bytes := by
  rw [State.sharedRead, segCheck_fits h ha]
  exact if_neg (by rw [hp]; decide)

end

end

/-! ### `attn` at issue (R206) -/

section

variable {m : AttnMod} {o : Fields} {s : State}

theorem exec_attn (m : AttnMod) (o : Fields) (s : State) : exec (.attn m o) s = uniformIssue s o fun _ =>
    match s.sharedRead (val s o.imm o.a 0).toNat 64 64 with
    | .error (c, k) => .next (s.trap c k)
    | .ok b => match attnDesc b with
      | .error (c, k) => .next (s.trap c k)
      | .ok d => if d.kv % 256 ≠ 0 then .next (s.trap 6 0)
        else .next (s.issueOp o 0x300 4 [.s (uniNo o.d)] (.attn (uniNo o.d) m.sg.toNat d)).advance := rfl

variable (ha : s.cur.acts o.guard = true)

include ha

theorem attn_unread {e : Bad} (h : s.sharedRead (val s o.imm o.a 0).toNat 64 64 = .error e) :
    exec (.attn m o) s = .next (s.trap e.1 e.2) := by rw [exec_attn, uniformIssue_acts ha, h]

theorem attn_refused {b : Bytes} (h : s.sharedRead (val s o.imm o.a 0).toNat 64 64 = .ok b) {e : Bad} (hd : attnDesc b = .error e) :
    exec (.attn m o) s = .next (s.trap e.1 e.2) := by
  rw [exec_attn, uniformIssue_acts ha, h]
  dsimp only
  rw [hd]

theorem attn_issues {b : Bytes} (h : s.sharedRead (val s o.imm o.a 0).toNat 64 64 = .ok b) {d : AttnDesc} (hd : attnDesc b = .ok d)
    (hk : d.kv % 256 = 0) : Issues (exec (.attn m o) s) s o 0x300 4 [.s (uniNo o.d)] (.attn (uniNo o.d) m.sg.toNat d) := by
  rw [exec_attn, uniformIssue_acts ha, h]
  dsimp only
  rw [hd]
  dsimp only
  rw [if_neg (not_not.2 hk)]
  exact issues_issueOp _ _ _ _ _ _

theorem attn_askew {b : Bytes} (h : s.sharedRead (val s o.imm o.a 0).toNat 64 64 = .ok b) {d : AttnDesc} (hd : attnDesc b = .ok d)
    (hk : d.kv % 256 ≠ 0) : exec (.attn m o) s = .next (s.trap 6 0) := by
  rw [exec_attn, uniformIssue_acts ha, h]
  dsimp only
  rw [hd]
  exact if_pos hk

end

/-! ### Key-value commands at issue (R205) -/

theorem kvAddr_ok {va : Nat} (h : va % 256 = 0 ∧ va < 2 ^ 54) : kvAddr va = none := by
  rw [kvAddr, if_neg (not_not.2 h.1), if_neg (by simpa [canonical] using h.2)]

theorem kvAddr_askew {va : Nat} (h : va % 256 ≠ 0) : kvAddr va = some (6, 0) := if_pos h

theorem kvAddr_high {va : Nat} (h : va % 256 = 0) (hv : 2 ^ 54 ≤ va) : kvAddr va = some (12, 0) := by
  rw [kvAddr, if_neg (not_not.2 h), if_pos (by simpa [canonical] using hv)]

section

variable (m : AttnMod) (o : Fields) (s : State)

theorem exec_kvalloc : exec (.kvalloc m o) s = kvIssue s o 1 m.t (.a (uniNo o.d)) false 0 := rfl
theorem exec_kvcommit : exec (.kvcommit m o) s = kvIssue s o 2 m.t (.s (uniNo o.d)) false (val s o.imm o.b 0).toNat := rfl
theorem exec_kvrel : exec (.kvrel m o) s = kvIssue s o 3 false (.s (uniNo o.d)) true (val64 s o.imm o.b 0).toNat := rfl
theorem exec_kvlink : exec (.kvlink m o) s = kvIssue s o 4 false (.s (uniNo o.d)) true (val64 s o.imm o.b 0).toNat := rfl
theorem exec_kvchk : exec (.kvchk m o) s = kvIssue s o 5 false (.s (uniNo o.d)) false 0 := rfl

variable {m o s}

theorem exec_kv {i : Instr} (hi : i ∈ [Instr.kvalloc m o, .kvcommit m o, .kvchk m o, .kvrel m o, .kvlink m o]) :
    ∃ fn t dst addr arg, exec i s = kvIssue s o fn t dst addr arg := by
  fin_cases hi
  · exact ⟨_, _, _, _, _, exec_kvalloc m o s⟩
  · exact ⟨_, _, _, _, _, exec_kvcommit m o s⟩
  · exact ⟨_, _, _, _, _, exec_kvchk m o s⟩
  · exact ⟨_, _, _, _, _, exec_kvrel m o s⟩
  · exact ⟨_, _, _, _, _, exec_kvlink m o s⟩

theorem exec_kvTwo {i : Instr} (hi : i ∈ [Instr.kvrel m o, .kvlink m o]) :
    ∃ fn dst, exec i s = kvIssue s o fn false dst true (val64 s o.imm o.b 0).toNat := by
  fin_cases hi
  · exact ⟨_, _, exec_kvrel m o s⟩
  · exact ⟨_, _, exec_kvlink m o s⟩

end

section

variable {s : State} {o : Fields} {fn : Nat} {t : Bool} {dst : Dest} {arg : Nat}

theorem kvIssue_idle (h : s.cur.acts o.guard = false) {addr : Bool} : kvIssue s o fn t dst addr arg = .next s.advance := uniformIssue_idle h

variable (ha : s.cur.acts o.guard = true)

include ha

theorem kvIssue_eq (addr : Bool) : kvIssue s o fn t dst addr arg =
    match (kvAddr (val64 s o.imm o.a 0).toNat).or (if addr then kvAddr arg else none) with
    | some (c, k) => .next (s.trap c k)
    | none => .next (s.issueOp o (0x300 + fn) 4 dst.regs (.kv fn t dst (val64 s o.imm o.a 0).toNat arg)).advance :=
  uniformIssue_acts ha

theorem kvIssue_bad {addr : Bool} {c k : Nat} (h : kvAddr (val64 s o.imm o.a 0).toNat = some (c, k)) :
    kvIssue s o fn t dst addr arg = .next (s.trap c k) := by
  rw [kvIssue_eq ha, h]
  rfl

variable (hblk : kvAddr (val64 s o.imm o.a 0).toNat = none)

include hblk

theorem kvIssue_badArg {c k : Nat} (h : kvAddr arg = some (c, k)) : kvIssue s o fn t dst true arg = .next (s.trap c k) := by
  rw [kvIssue_eq ha, hblk, if_pos rfl, h]
  rfl

theorem kvIssue_issues {addr : Bool} (h : addr = true → kvAddr arg = none) :
    Issues (kvIssue s o fn t dst addr arg) s o (0x300 + fn) 4 dst.regs (.kv fn t dst (val64 s o.imm o.a 0).toNat arg) := by
  have hnone : (kvAddr (val64 s o.imm o.a 0).toNat).or (if addr then kvAddr arg else none) = none := by
    rw [hblk, Option.none_or]
    split
    · exact h ‹_›
    · rfl
  rw [kvIssue_eq ha, hnone]
  exact issues_issueOp _ _ _ _ _ _

end

/-! ### Side commands at issue (R211 to R217) -/

section

variable (o : Fields) (s : State)

theorem exec_swarm : exec (.swarm o) s = uniformIssue s o fun _ => match s.sharedRead (val s o.imm o.a 0).toNat 32 32 with
    | .error (c, k) => .next (s.trap c k)
    | .ok b => .next (s.issueOp o 0x340 5 [.s (uniNo o.d)]
        (.swarm (uniNo o.d) (sweepDesc b) (s.cur.sgs.base + (val s o.imm o.a 0).toNat))).advance := rfl
theorem exec_swreq : exec (.swreq o) s = handleIssue s o 1 := rfl
theorem exec_swcan : exec (.swcan o) s = handleIssue s o 2 := rfl
theorem exec_swst : exec (.swst o) s = handleIssue s o 3 := rfl
theorem exec_shedj : exec (.shedj o) s = uniformIssue s o fun _ =>
    if (val64 s o.imm o.a 0).toNat % 128 ≠ 0 then .next (s.trap 6 0)
    else if !canonical (val64 s o.imm o.a 0).toNat then .next (s.trap 12 0)
    else .next (s.issueOp o 0x344 5 [.s (uniNo o.d)]
      (.shedj (uniNo o.d) (val64 s o.imm o.a 0).toNat (val s o.imm o.b 0).toNat)).advance := rfl
theorem exec_cbs : exec (.cbs o) s = uniformIssue s o fun _ => match s.sharedRead (val s o.imm o.b 0).toNat 64 64 with
    | .error (c, k) => .next (s.trap c k)
    | .ok b => .next (s.issueOp o 0x345 5 [.s (uniNo o.d)] (.cbs (uniNo o.d) (val s o.imm o.a 0).toNat b)).advance := rfl
theorem exec_cbr : exec (.cbr o) s = uniformIssue s o fun _ => match segCheck s.cur .s (val s o.imm o.b 0).toNat 64 64 with
    | some c => .next (s.trap c 0)
    | none => .next (s.issueOp o 0x346 5 [.s (uniNo o.d)]
        (.cbr (uniNo o.d) (val s o.imm o.a 0).toNat (s.cur.sgs.base + (val s o.imm o.b 0).toNat))).advance := rfl
theorem exec_cbw : exec (.cbw o) s = uniformIssue s o fun _ => .next (s.issueOp o 0x347 5 [.s (uniNo o.d)]
    (.cbw (uniNo o.d) (val s o.imm o.a 0).toNat (val s o.imm o.c 0).toNat)).advance := rfl

variable {o s}

theorem exec_side {f : Fields → Instr} (hf : f ∈ [Instr.swarm, .swreq, .swcan, .swst, .shedj, .cbs, .cbr, .cbw]) :
    ∃ go, exec (f o) s = uniformIssue s o go := by
  fin_cases hf
  · exact ⟨_, exec_swarm o s⟩
  · exact ⟨_, exec_swreq o s⟩
  · exact ⟨_, exec_swcan o s⟩
  · exact ⟨_, exec_swst o s⟩
  · exact ⟨_, exec_shedj o s⟩
  · exact ⟨_, exec_cbs o s⟩
  · exact ⟨_, exec_cbr o s⟩
  · exact ⟨_, exec_cbw o s⟩

variable (ha : s.cur.acts o.guard = true)

include ha

theorem handleIssue_issues (fn : Nat) : Issues (handleIssue s o fn) s o (0x340 + fn) 5 [.s (uniNo o.d)]
    (.sweep fn (uniNo o.d) (val s o.imm o.a 0).toNat) := by
  rw [handleIssue, uniformIssue_acts ha]
  exact issues_issueOp _ _ _ _ _ _

theorem swarm_unread {e : Bad} (h : s.sharedRead (val s o.imm o.a 0).toNat 32 32 = .error e) :
    exec (.swarm o) s = .next (s.trap e.1 e.2) := by rw [exec_swarm, uniformIssue_acts ha, h]

theorem cbs_unread {e : Bad} (h : s.sharedRead (val s o.imm o.b 0).toNat 64 64 = .error e) :
    exec (.cbs o) s = .next (s.trap e.1 e.2) := by rw [exec_cbs, uniformIssue_acts ha, h]

theorem cbr_outside {c : Nat} (h : segCheck s.cur .s (val s o.imm o.b 0).toNat 64 64 = some c) :
    exec (.cbr o) s = .next (s.trap c 0) := by rw [exec_cbr, uniformIssue_acts ha, h]

theorem swarm_issues {b : Bytes} (h : s.sharedRead (val s o.imm o.a 0).toNat 32 32 = .ok b) :
    Issues (exec (.swarm o) s) s o 0x340 5 [.s (uniNo o.d)]
      (.swarm (uniNo o.d) (sweepDesc b) (s.cur.sgs.base + (val s o.imm o.a 0).toNat)) := by
  rw [exec_swarm, uniformIssue_acts ha, h]
  exact issues_issueOp _ _ _ _ _ _

theorem cbs_issues {b : Bytes} (h : s.sharedRead (val s o.imm o.b 0).toNat 64 64 = .ok b) :
    Issues (exec (.cbs o) s) s o 0x345 5 [.s (uniNo o.d)] (.cbs (uniNo o.d) (val s o.imm o.a 0).toNat b) := by
  rw [exec_cbs, uniformIssue_acts ha, h]
  exact issues_issueOp _ _ _ _ _ _

theorem cbr_issues (h : segCheck s.cur .s (val s o.imm o.b 0).toNat 64 64 = none) : Issues (exec (.cbr o) s) s o 0x346 5 [.s (uniNo o.d)]
    (.cbr (uniNo o.d) (val s o.imm o.a 0).toNat (s.cur.sgs.base + (val s o.imm o.b 0).toNat)) := by
  rw [exec_cbr, uniformIssue_acts ha, h]
  exact issues_issueOp _ _ _ _ _ _

theorem cbw_issues : Issues (exec (.cbw o) s) s o 0x347 5 [.s (uniNo o.d)]
    (.cbw (uniNo o.d) (val s o.imm o.a 0).toNat (val s o.imm o.c 0).toNat) := by
  rw [exec_cbw, uniformIssue_acts ha]
  exact issues_issueOp _ _ _ _ _ _

theorem shedj_askew (h : (val64 s o.imm o.a 0).toNat % 128 ≠ 0) : exec (.shedj o) s = .next (s.trap 6 0) := by
  rw [exec_shedj, uniformIssue_acts ha, if_pos h]

theorem shedj_high (h : (val64 s o.imm o.a 0).toNat % 128 = 0) (hv : 2 ^ 54 ≤ (val64 s o.imm o.a 0).toNat) :
    exec (.shedj o) s = .next (s.trap 12 0) := by
  rw [exec_shedj, uniformIssue_acts ha, if_neg (not_not.2 h), if_pos (by simpa [canonical] using hv)]

theorem shedj_issues (h : (val64 s o.imm o.a 0).toNat % 128 = 0) (hv : (val64 s o.imm o.a 0).toNat < 2 ^ 54) :
    Issues (exec (.shedj o) s) s o 0x344 5 [.s (uniNo o.d)]
      (.shedj (uniNo o.d) (val64 s o.imm o.a 0).toNat (val s o.imm o.b 0).toNat) := by
  rw [exec_shedj, uniformIssue_acts ha, if_neg (not_not.2 h), if_neg (by simpa [canonical] using hv)]
  exact issues_issueOp _ _ _ _ _ _

end

/-! ### The runs of key-value commands (R208 to R210, R301) -/

section

variable {s u v : State} {id va n : Nat} {x : Bytes}

theorem kvRead_ok (h : u.opRead id .g va n = (.ok ⟨x, false⟩, v)) : u.kvRead id va n = .ok (x, v) := by
  rw [State.kvRead, h]
  rfl

theorem kvRead_poisoned {g : Got} (h : u.opRead id .g va n = (.ok g, v)) (hp : g.psn = true) :
    u.kvRead id va n = .error (.fail 2 va false) := by
  rw [State.kvRead, h]
  exact if_pos hp

theorem kvRead_fails {st at_ : Nat} {rep : Bool} (h : u.opRead id .g va n = (.fail st at_ rep, v)) :
    u.kvRead id va n = .error (.fail st at_ rep) := by
  rw [State.kvRead, h]

theorem kvWrite_ok {b : Bytes} (h : ∃ y, u.opWrite id .g va b false = (.ok y, v)) : u.kvWrite id va b = .ok ((), v) := by
  obtain ⟨y, h⟩ := h
  rw [State.kvWrite, h]

end

/-- The payload rows that a header's tag covers are read. -/
def KvPayload (id : Nat) (u : State) (va : Nat) (h : KvHead) (p : Bytes) (v : State) : Prop :=
  (h.count = 0 ∧ p = [] ∧ v = u) ∨ (h.count ≠ 0 ∧ ∃ k l w, u.opRead id .g (va + 256) (2 * h.hdh * h.count) = (.ok ⟨k, false⟩, w)
    ∧ w.opRead id .g (va + 256 + 2 * h.hdh * h.cap) (2 * h.hdh * h.count) = (.ok ⟨l, false⟩, v) ∧ p = k ++ l)

/-- A header is written with its tag. -/
def KvPut (id : Nat) (u : State) (va : Nat) (tail : Bytes) (h : KvHead) (v : State) : Prop := ∃ p w, KvPayload id u va h p w
  ∧ ∃ y, w.opWrite id .g va ((h.bytes ++ tail).take 248 ++ leBytes 8 (kvTag (h.bytes ++ tail) p)) false = (.ok y, v)

theorem kvPayload_ok {id : Nat} {u v : State} {va : Nat} {h : KvHead} {p : Bytes} (hp : KvPayload id u va h p v) :
    u.kvPayload id va h = .ok (p, v) := by
  rw [State.kvPayload]
  obtain ⟨h0, rfl, rfl⟩ | ⟨h0, k, l, w, hk, hl, rfl⟩ := hp
  · rw [if_pos h0]
  · rw [if_neg h0, show kvRow va h.hdh 0 = va + 256 by rw [kvRow, Nat.mul_zero, Nat.add_zero], kvRead_ok hk]
    show (w.kvRead id (kvRow va h.hdh h.cap) (2 * h.hdh * h.count) >>= fun e => pure (k ++ e.1, e.2)) = _
    rw [show kvRow va h.hdh h.cap = va + 256 + 2 * h.hdh * h.cap from rfl, kvRead_ok hl]
    rfl

theorem ok_bind {ε α β : Type} (a : α) (f : α → Except ε β) : (Except.ok a >>= f) = f a := rfl

theorem kvPut_ok {id : Nat} {u v : State} {va : Nat} {old : Bytes} {h : KvHead} (hp : KvPut id u va (old.drop 24) h v) :
    u.kvPut id va old h = .ok ((), v) := by
  obtain ⟨p, w, hpay, hw⟩ := hp
  have hput : u.kvPut id va old h = (u.kvPayload id va h >>= fun e => e.2.kvWrite id va
      ((h.bytes ++ old.drop 24).take 248 ++ leBytes 8 (kvTag (h.bytes ++ old.drop 24) e.1))) := rfl
  rw [hput, kvPayload_ok hpay, ok_bind, kvWrite_ok hw]

theorem leBytes_zero (n : Nat) : leBytes n 0 = List.replicate n 0 := by
  induction n with
  | zero => rfl
  | succ n ih =>
    rw [leBytes, List.replicate_succ, Nat.zero_div, ih] <;> rfl

theorem drop_leBytes_zero (n m : Nat) : (leBytes (m + n) 0).drop m = leBytes n 0 := by
  rw [leBytes_zero, leBytes_zero, List.drop_replicate, Nat.add_sub_cancel_left]

section

variable {id : Nat} {t : Bool} {blk arg : Nat} {u v w y z : State} {x p : Bytes}

/-- `kvalloc` of a pool that holds no block. -/
theorem kvRun_alloc_empty (hp : u.opRead id .g blk 64 = (.ok ⟨p, false⟩, v)) (h0 : fieldAt p 0 8 = 0) :
    u.kvRun id 1 t blk arg = .ok ((7, 0), v) := by
  show (u.kvRead id blk 64 >>= _) = _
  rw [kvRead_ok hp, ok_bind]
  exact if_pos h0

/-- `kvalloc` takes the pool's first block. -/
theorem kvRun_alloc (hp : u.opRead id .g blk 64 = (.ok ⟨p, false⟩, v)) (h0 : fieldAt p 0 8 ≠ 0)
    (hx : v.opRead id .g (fieldAt p 0 8) 256 = (.ok ⟨x, false⟩, w))
    (hput : KvPut id w (fieldAt p 0 8) (leBytes 232 0) ⟨0x0100, t, 0, 0, fieldAt p 12 2, fieldAt p 14 2, 0⟩ y)
    (hw : ∃ r, y.opWrite id .g blk (leBytes 8 (fieldAt x 16 8) ++ leBytes 4 (fieldAt p 8 4 + (2 ^ 32 - 1))) false = (.ok r, z)) :
    u.kvRun id 1 t blk arg = .ok ((0, fieldAt p 0 8), z) := by
  show (u.kvRead id blk 64 >>= _) = _
  rw [kvRead_ok hp, ok_bind]
  refine (if_neg h0).trans ?_
  show (v.kvRead id (fieldAt p 0 8) 256 >>= _) = _
  rw [kvRead_ok hx, ok_bind]
  show (w.kvPut id (fieldAt p 0 8) (leBytes 256 0) _ >>= _) = _
  rw [← drop_leBytes_zero 232 24] at hput
  rw [kvPut_ok hput, ok_bind]
  show (y.kvWrite id blk _ >>= _) = _
  rw [show (kvHead x).succ = fieldAt x 16 8 from rfl, kvWrite_ok hw]
  rfl

/-- `kvcommit` of a block that is none, or not tentative, or too small. -/
theorem kvRun_commit_bad (hx : u.opRead id .g blk 256 = (.ok ⟨x, false⟩, v))
    (hb : (kvHead x).ver = 0 ∨ (kvHead x).tent = false ∨ (if t then (kvHead x).cap else (kvHead x).count) < arg) :
    u.kvRun id 2 t blk arg = .ok ((8, 8), v) := by
  show (u.kvRead id blk 256 >>= _) = _
  rw [kvRead_ok hx, ok_bind]
  exact if_pos (by simpa using hb)

theorem kvRun_commit (hx : u.opRead id .g blk 256 = (.ok ⟨x, false⟩, v))
    (hb : ¬ ((kvHead x).ver = 0 ∨ (kvHead x).tent = false ∨ (if t then (kvHead x).cap else (kvHead x).count) < arg))
    (hput : KvPut id v blk (x.drop 24) { kvHead x with count := arg, tent := t } w) : u.kvRun id 2 t blk arg = .ok ((0, 0), w) := by
  show (u.kvRead id blk 256 >>= _) = _
  rw [kvRead_ok hx, ok_bind]
  refine (if_neg (by simpa using hb)).trans ?_
  show (v.kvPut id blk x _ >>= _) = _
  rw [kvPut_ok hput]
  rfl

section

variable (hx : u.opRead id .g blk 256 = (.ok ⟨x, false⟩, v)) (hp : v.opRead id .g arg 64 = (.ok ⟨p, false⟩, w))

include hx hp

/-- `kvrel` of no block. -/
theorem kvRun_rel_none (h0 : (kvHead x).ver = 0) : u.kvRun id 3 t blk arg = .ok ((8, 8), w) := by
  show (u.kvRead id blk 256 >>= _) = _
  rw [kvRead_ok hx, ok_bind]
  show (v.kvRead id arg 64 >>= _) = _
  rw [kvRead_ok hp, ok_bind]
  exact if_pos h0

variable (h0 : (kvHead x).ver ≠ 0)

include h0

/-- `kvrel` to a pool of another shape. -/
theorem kvRun_rel_misfit (hf : ¬ ((kvHead x).cap = fieldAt p 12 2 ∧ (kvHead x).hdh = fieldAt p 14 2)) :
    u.kvRun id 3 t blk arg = .ok ((4, 4), w) := by
  show (u.kvRead id blk 256 >>= _) = _
  rw [kvRead_ok hx, ok_bind]
  show (v.kvRead id arg 64 >>= _) = _
  rw [kvRead_ok hp, ok_bind]
  refine (if_neg h0).trans (if_pos ?_)
  by_contra hc
  rw [not_or, not_not, not_not] at hc
  exact hf hc

theorem kvRun_rel (hf : (kvHead x).cap = fieldAt p 12 2 ∧ (kvHead x).hdh = fieldAt p 14 2)
    (hput : KvPut id w blk (x.drop 24) { kvHead x with ver := 0, count := 0, tent := false, succ := fieldAt p 0 8 } y)
    (hw : ∃ r, y.opWrite id .g arg (leBytes 8 blk ++ leBytes 4 (fieldAt p 8 4 + 1)) false = (.ok r, z)) :
    u.kvRun id 3 t blk arg = .ok ((0, 0), z) := by
  show (u.kvRead id blk 256 >>= _) = _
  rw [kvRead_ok hx, ok_bind]
  show (v.kvRead id arg 64 >>= _) = _
  rw [kvRead_ok hp, ok_bind]
  refine (if_neg h0).trans ((if_neg fun h => h.elim (· hf.1) (· hf.2)).trans ?_)
  show (w.kvPut id blk x _ >>= _) = _
  rw [kvPut_ok hput, ok_bind]
  show (y.kvWrite id arg _ >>= _) = _
  rw [kvWrite_ok hw]
  rfl

end

section

variable (hx : u.opRead id .g blk 256 = (.ok ⟨x, false⟩, v))

include hx

/-- `kvlink` of no block. -/
theorem kvRun_link_none (h0 : (kvHead x).ver = 0) : u.kvRun id 4 t blk arg = .ok ((8, 8), v) := by
  show (u.kvRead id blk 256 >>= _) = _
  rw [kvRead_ok hx, ok_bind]
  exact if_pos h0

variable (h0 : (kvHead x).ver ≠ 0)

include h0

/-- `kvlink` to no successor. -/
theorem kvRun_link_end (ha : arg = 0) (hput : KvPut id v blk (x.drop 24) { kvHead x with succ := 0 } w) :
    u.kvRun id 4 t blk arg = .ok ((0, 0), w) := by
  show (u.kvRead id blk 256 >>= _) = _
  rw [kvRead_ok hx, ok_bind]
  refine (if_neg h0).trans ((if_pos ha).trans ?_)
  show (v.kvPut id blk x _ >>= _) = _
  rw [kvPut_ok hput]
  rfl

variable {c : Bytes} (ha : arg ≠ 0) (hc : v.opRead id .g arg 256 = (.ok ⟨c, false⟩, w))

include ha hc

/-- `kvlink` to what is no block. -/
theorem kvRun_link_bad (hv : (kvHead c).ver = 0) : u.kvRun id 4 t blk arg = .ok ((8, 8), w) := by
  show (u.kvRead id blk 256 >>= _) = _
  rw [kvRead_ok hx, ok_bind]
  refine (if_neg h0).trans ((if_neg ha).trans ?_)
  show (v.kvRead id arg 256 >>= _) = _
  rw [kvRead_ok hc, ok_bind]
  exact if_pos hv

theorem kvRun_link {a b d : State} {q : Bytes} (hv : (kvHead c).ver ≠ 0)
    (hput : KvPut id w blk (x.drop 24) { kvHead x with succ := arg } a) (hq : a.opRead id .g arg 256 = (.ok ⟨q, false⟩, b))
    (hseq : KvPut id b arg (q.drop 24) { kvHead q with seq := (kvHead x).seq + 1 } d) : u.kvRun id 4 t blk arg = .ok ((0, 0), d) := by
  show (u.kvRead id blk 256 >>= _) = _
  rw [kvRead_ok hx, ok_bind]
  refine (if_neg h0).trans ((if_neg ha).trans ?_)
  show (v.kvRead id arg 256 >>= _) = _
  rw [kvRead_ok hc, ok_bind]
  refine (if_neg hv).trans ?_
  show (w.kvPut id blk x _ >>= _) = _
  rw [kvPut_ok hput, ok_bind]
  show (a.kvRead id arg 256 >>= _) = _
  rw [kvRead_ok hq, ok_bind]
  show (b.kvPut id arg q _ >>= _) = _
  rw [kvPut_ok hseq]
  rfl

end

/-- `kvchk` compares the tag. -/
theorem kvRun_chk (hx : u.opRead id .g blk 256 = (.ok ⟨x, false⟩, v)) (hp : KvPayload id v blk (kvHead x) p w) :
    u.kvRun id 5 t blk arg
      = .ok ((if kvTag x p = fieldAt x 248 8 then 0 else 2, if kvTag x p = fieldAt x 248 8 then 0 else 2), w) := by
  show (u.kvRead id blk 256 >>= _) = _
  rw [kvRead_ok hx, ok_bind]
  show (v.kvPayload id blk (kvHead x) >>= _) = _
  rw [kvPayload_ok hp]
  rfl

/-- A first read that fails ends the run. -/
theorem kvRun_unread {fn n : Nat} (hn : if fn = 1 then n = 64 else n = 256) (hf : fn ≤ 5) {r : OpRes} (h : u.kvRead id blk n = .error r) :
    u.kvRun id fn t blk arg = .error r := by
  match fn with
  | 1 =>
    rw [if_pos rfl] at hn
    show (u.kvRead id blk 64 >>= _) = _
    rw [← hn, h]
    rfl
  | 0 | 2 | 3 | 4 | 5 =>
    rw [if_neg (by decide)] at hn
    show (u.kvRead id blk 256 >>= _) = _
    rw [← hn, h]
    rfl

end

/-! ### Key-value commands start (R206, R208) -/

section

variable {s : State} {id : Nat} {op : Op} {fn : Nat} {t : Bool} {dst : Dest} {blk arg : Nat} (h : sfind s.ops id = some op)
  (hw : op.work = .kv fn t dst blk arg) (hm : op.mates = []) (hr : s.commandReady id op = true)
  (hq : ∀ gr, s.gridOf op.grid = some gr → gr.tlen = 0)

include h hw hm hr hq

/-- A key-value command is performed whole at its start. -/
theorem kv_starts {u : State} (hu : (s.running id).kvPerform id { op with phase := .running } fn t dst blk arg = some u) :
    exec (.engineCommandStart id) s = .next u := by
  have hdesc : s.readDesc id op = some s := by
    rw [State.readDesc, hw]
  have hleave : op.leave = 0 := by rw [Op.leave, hw]
  have hnothing : op.asksNothing = false := by rw [Op.asksNothing, hw]
  have hqueued : op.phase = .queued := by
    simp only [State.commandReady, State.canStart, Bool.and_eq_true, decide_eq_true_eq] at hr
    exact hr.1.1.1.1.1
  have hrun : s.runWork id = some u := by
    rw [← hu]
    simp only [State.runWork, sfind_modOp h, hw]
    rfl
  have hseek : s.seekLeave id = some u := by
    rw [State.seekLeave, h]
    dsimp only
    rw [if_neg (by rw [hqueued]; decide), if_pos (.inl hleave), hnothing, if_neg (by decide), command_of_single h hm]
    exact hrun
  rw [exec_engineCommandStart, execEngineCommandStart_of_ready h hr hdesc hm hq, hseek]

theorem kv_ends {st x : Nat} {v : State}
    (hu : ((s.running id).order .ar .dev (dieOfCore op.core)).kvRun id fn t blk arg = .ok ((st, x), v)) :
    exec (.engineCommandStart id) s = .next ((v.order .rel .dev (dieOfCore op.core)).modOp id fun op =>
      { op with phase := .ended, status := st, faddr := 0, outs := dst.put 0 x }) := by
  refine kv_starts h hw hm hr hq ?_
  rw [State.kvPerform]
  dsimp only
  rw [hu]

theorem kv_fails {st va : Nat} {rep : Bool}
    (hu : ((s.running id).order .ar .dev (dieOfCore op.core)).kvRun id fn t blk arg = .error (.fail st va rep)) :
    exec (.engineCommandStart id) s = .next (((s.running id).order .ar .dev (dieOfCore op.core)).modOp id fun op =>
      { op with phase := .ended, status := st, faddr := va, outs := dst.put 0 (if fn = 1 then 0 else st) }) := by
  refine kv_starts h hw hm hr hq ?_
  rw [State.kvPerform]
  dsimp only
  rw [hu]

end

/-- Settles O41: each command's checks in order; a key-value command's run is its reads and writes in order. -/
theorem attentionAndSideCommands : Obligations.AttentionAndSideCommands := by
  unfold Obligations.AttentionAndSideCommands
  refine ⟨fun m o s => ?_, fun o s => ?_, fun id s op fn t dst blk arg h hw hm hr hq => ?_⟩
  · intro off blk b64 b32 okVa d x two five
    refine ⟨fun ha i hi => ?_, fun ha => ⟨fun hfit hal hpsn => ⟨fun desc hd => ⟨fun hk => ?_, fun hk => ?_⟩, fun e he => ?_⟩, fun hlow => ?_,
      fun hfit hal => ?_, fun hfit hal hpsn => ?_, fun hblk => ⟨?_, ?_, ?_, fun h64 => ⟨?_, ?_⟩, fun h64 i hi => ?_, fun h64 hhi i hi => ?_⟩,
      fun hblk i hi => ?_, fun hblk hhi i hi => ?_⟩⟩
    · obtain rfl | hi := List.mem_cons.1 hi
      · exact (exec_attn m o s).trans (uniformIssue_idle ha)
      · obtain ⟨fn, t, dst, addr, arg, he⟩ := exec_kv hi
        exact he.trans (kvIssue_idle ha)
    · exact attn_issues ha (sharedRead_fits hfit hal hpsn) hd hk
    · exact attn_askew ha (sharedRead_fits hfit hal hpsn) hd hk
    · exact attn_refused ha (sharedRead_fits hfit hal hpsn) he
    · exact attn_unread ha (sharedRead_low hlow)
    · exact attn_unread ha (sharedRead_askew hfit hal)
    · exact attn_unread ha (sharedRead_poisoned hfit hal hpsn)
    · exact kvIssue_issues ha (kvAddr_ok hblk) (fun hf => Bool.noConfusion hf)
    · exact kvIssue_issues ha (kvAddr_ok hblk) (fun hf => Bool.noConfusion hf)
    · exact kvIssue_issues ha (kvAddr_ok hblk) (fun hf => Bool.noConfusion hf)
    · exact kvIssue_issues ha (kvAddr_ok hblk) (fun _ => kvAddr_ok h64)
    · exact kvIssue_issues ha (kvAddr_ok hblk) (fun _ => kvAddr_ok h64)
    · obtain ⟨fn, dst, he⟩ := exec_kvTwo hi
      exact he.trans (kvIssue_badArg ha (kvAddr_ok hblk) (kvAddr_askew h64))
    · obtain ⟨fn, dst, he⟩ := exec_kvTwo hi
      exact he.trans (kvIssue_badArg ha (kvAddr_ok hblk) (kvAddr_high h64 hhi))
    · obtain ⟨fn, t, dst, addr, arg, he⟩ := exec_kv hi
      exact he.trans (kvIssue_bad ha (kvAddr_askew hblk))
    · obtain ⟨fn, t, dst, addr, arg, he⟩ := exec_kv hi
      exact he.trans (kvIssue_bad ha (kvAddr_high hblk hhi))
  · intro a32 b32 card d rd fits checks
    refine ⟨fun ha f hf => ?_, fun ha => ⟨⟨fun hlow => ?_, fun hfit hal => ?_⟩, ⟨fun hlow => ?_, fun hfit hal => ?_⟩,
      ⟨fun hlow => ?_, fun hfit hal => ?_⟩, fun hfit hpsn => ?_, fun hfit hpsn => ?_, handleIssue_issues ha 1, handleIssue_issues ha 2,
      handleIssue_issues ha 3, fun hal hlo => shedj_issues ha hal hlo, fun hal => shedj_askew ha hal, fun hal hhi => shedj_high ha hal hhi,
      fun hfit hpsn => ?_, fun hfit hpsn => ?_, fun hfit => ?_, cbw_issues ha⟩⟩
    · obtain ⟨go, he⟩ := exec_side hf
      exact he.trans (uniformIssue_idle ha)
    · exact swarm_unread ha (sharedRead_low hlow)
    · exact swarm_unread ha (sharedRead_askew hfit hal)
    · exact cbs_unread ha (sharedRead_low hlow)
    · exact cbs_unread ha (sharedRead_askew hfit hal)
    · exact cbr_outside ha (segCheck_low hlow)
    · exact cbr_outside ha (segCheck_askew hfit hal)
    · exact swarm_issues ha (sharedRead_fits hfit.1 hfit.2 hpsn)
    · exact swarm_unread ha (sharedRead_poisoned hfit.1 hfit.2 hpsn)
    · exact cbs_issues ha (sharedRead_fits hfit.1 hfit.2 hpsn)
    · exact cbs_unread ha (sharedRead_poisoned hfit.1 hfit.2 hpsn)
    · exact cbr_issues ha (segCheck_fits hfit.1 hfit.2)
  · intro die u starts ends rd wr payload put
    have hends {st x : Nat} {v : State} (hu : u.kvRun id fn t blk arg = .ok ((st, x), v)) : ends v st x := kv_ends h hw hm hr hq hu
    refine ⟨fun n hn hf => ⟨fun x v hx hp => ?_, fun st va rep v hx => ?_⟩, fun hfn p v hp => ?_, fun hfn x v hx => ?_,
      fun hfn x v p w hx hp => ?_, fun hfn x v hx => ?_, fun hfn x v p w hx hp => ?_⟩
    · exact kv_fails h hw hm hr hq (kvRun_unread hn hf (kvRead_poisoned hx hp))
    · exact kv_fails h hw hm hr hq (kvRun_unread hn hf (kvRead_fails hx))
    all_goals subst hfn
    · exact ⟨fun h0 => hends (kvRun_alloc_empty hp h0), fun h0 x w y z hx hput hwr => hends (kvRun_alloc hp h0 hx hput hwr)⟩
    · exact ⟨fun hb => hends (kvRun_commit_bad hx hb), fun hb w hput => hends (kvRun_commit hx hb hput)⟩
    · exact ⟨fun h0 => hends (kvRun_rel_none hx hp h0), fun h0 hf => hends (kvRun_rel_misfit hx hp h0 hf),
        fun h0 hf y z hput hwr => hends (kvRun_rel hx hp h0 hf hput hwr)⟩
    · exact ⟨fun h0 => hends (kvRun_link_none hx h0), fun h0 ha w hput => hends (kvRun_link_end hx h0 ha hput),
        fun h0 ha y w hy => ⟨fun hv => hends (kvRun_link_bad hx h0 ha hy hv),
          fun hv a b c hput z hz hseq => hends (kvRun_link hx h0 ha hy hv hput hz hseq)⟩⟩
    · have hrun := kvRun_chk (t := t) (arg := arg) hx hp
      refine ⟨fun htag => ?_, fun htag => ?_⟩
      · rw [if_pos htag] at hrun
        exact hends hrun
      · rw [if_neg htag] at hrun
        exact hends hrun

end Sys2Proof.Machine
end

/-! SUPPORT. Line entry (R25, R30, R34, R36, R37), the offered slot (R223) and the end of a park (R138). -/

section

namespace Sys2Proof.Machine

theorem exec_clauseStart (s : State) : exec .clauseStart s = execClauseStart s := rfl
theorem exec_ifetchFill (s : State) : exec .ifetchFill s = execIfetchFill s := rfl
theorem exec_yieldResume (s : State) : exec .yieldResume s = execYieldResume s := rfl

theorem flagsClear_iff (g : Group) (m : BitVec 12) :
    g.flagsClear m = true ↔ ∀ n, n < 12 → m.getLsbD n = true → g.flagCount n = 0 := by
  rw [Group.flagsClear, List.all_eq_true]
  refine ⟨fun h n hn hm => ?_, fun h n hn => ?_⟩
  · have := h n (List.mem_range.2 hn)
    simpa [hm] using this
  · cases hm : m.getLsbD n with
    | false => rfl
    | true => simp [h n (List.mem_range.1 hn) hm]

/-! ### The offered slot (R223) -/

section

variable {s : State}

theorem eligible_iff (g : Group) (b : Bool) : g.eligible b = true ↔ (g.slotOf b).valid = true ∧ (g.slotOf b).park = none := by
  simp [Group.eligible]

theorem offer_free (h : s.cur.stepLeft = 0) : s.offer = match s.cur.eligible false, s.cur.eligible true with
    | true, true => some (if s.masked (decide (s.cur.slot1.pc.toNat < s.cur.slot0.pc.toNat))
        && !s.masked (!decide (s.cur.slot1.pc.toNat < s.cur.slot0.pc.toNat))
        then !decide (s.cur.slot1.pc.toNat < s.cur.slot0.pc.toNat) else decide (s.cur.slot1.pc.toNat < s.cur.slot0.pc.toNat))
    | true, false => some false
    | false, true => some true
    | false, false => none := by
  rw [State.offer]
  exact if_neg (by rw [h]; exact lt_irrefl 0)

theorem offer_both (h : s.cur.stepLeft = 0) (h0 : s.cur.eligible false = true) (h1 : s.cur.eligible true = true) : s.offer = some (
    let low := decide (s.cur.slot1.pc.toNat < s.cur.slot0.pc.toNat)
    if s.masked low = true ∧ s.masked (!low) = false then !low else low) := by
  rw [offer_free h, h0, h1]
  refine congrArg some (if_congr ?_ rfl rfl)
  rw [Bool.and_eq_true, Bool.not_eq_true']

theorem offer_first (h : s.cur.stepLeft = 0) (h0 : s.cur.eligible false = true) (h1 : s.cur.eligible true = false) :
    s.offer = some false := by rw [offer_free h, h0, h1]

theorem offer_second (h : s.cur.stepLeft = 0) (h0 : s.cur.eligible false = false) (h1 : s.cur.eligible true = true) :
    s.offer = some true := by rw [offer_free h, h0, h1]

end

/-! ### A line entry -/

/-- The state with the offered slot as the issuing one. -/
def State.offering (s : State) (b : Bool) : State := { s with cur := { s.cur with issue1 := b } }

theorem slot_offering (g : Group) (b : Bool) : Group.slot { g with issue1 := b } = g.slotOf b := by cases b <;> rfl

theorem startClause_clear {v : State} {b : Bool} {x : LineBits} (h : v.cur.flagsClear (BitVec.ofNat 12 (lineWait x)) = true) :
    v.startClause b x = { v with cur := { v.cur.setWait b none with inClause := true, line := x, stall := none } } := if_pos h

theorem startClause_waits {v : State} {b : Bool} {x : LineBits} (h : ¬ v.cur.flagsClear (BitVec.ofNat 12 (lineWait x)) = true) :
    v.startClause b x = { v with cur := { v.cur with stall := some .flagwait } } := if_neg h

section

variable {s : State} {b : Bool} (hb : s.cur.between = true) (hs : s.stopsHere = false) (ho : s.offer = some b)

include hb hs ho

/-- A slot that has entered its line starts its clause. -/
theorem clauseStart_entered {x : LineBits} (hw : s.cur.waitOf b = some x) :
    exec .clauseStart s = .next ((s.offering b).startClause b x) := by
  have hw' : (s.offering b).cur.waitOf b = some x := hw
  rw [exec_clauseStart, execClauseStart, hb, hs, if_neg (by decide), ho]
  dsimp only
  rw [show (s.modCur fun g => { g with issue1 := b }) = s.offering b from rfl, hw']

/-- A slot enters the line that the instruction buffer holds for it. -/
theorem clauseStart_enters {x : IbufLine} (hw : s.cur.waitOf b = none) (hshrink : s.cur.shrink = 0) (hring : s.cur.ring = [])
    (hrecs : s.cur.waitingRecs = []) (hapart : s.cur.together = false ∨ s.cur.stepLeft ≠ 0)
    (hx : s.ibufFind s.cur.coreNo s.cur.ctx (pcLine (s.offering b).cur.slot.pc) = some x) :
    exec .clauseStart s = .next ((s.offering b).enterSlot b x.data) := by
  have hw' : (s.offering b).cur.waitOf b = none := hw
  have hentry : (s.offering b).atEntry = s.offering b := by
    rw [atEntry_of_none (s := s.offering b) hrecs]
    rw [show (s.offering b).cur.shrink = 0 from hshrink, show (s.offering b).cur.ring = [] from hring, Nat.sub_zero, if_pos rfl,
      List.filter_nil, ← show (s.offering b).cur.shrink = 0 from hshrink, ← show (s.offering b).cur.ring = [] from hring]
  have hraised : (s.offering b).cur.unraised = none := by
    rw [Group.unraised, show (s.offering b).cur.ring = [] from hring, List.find?_nil, ite_self]
  have hline : (s.offering b).lineOf b = some x.data := by
    have hx' : (s.offering b).ibufFind (s.offering b).cur.coreNo (s.offering b).cur.ctx (pcLine ((s.offering b).cur.slotOf b).pc) = some x := by
      rw [show (s.offering b).cur.slotOf b = (s.offering b).cur.slot from (slot_offering s.cur b).symm]
      exact hx
    rw [State.lineOf, hw']
    dsimp only
    rw [hx']
    rfl
  rw [exec_clauseStart, execClauseStart, hb, hs, if_neg (by decide), ho]
  dsimp only
  rw [show (s.modCur fun g => { g with issue1 := b }) = s.offering b from rfl, hw']
  dsimp only
  rw [hentry, hraised]
  dsimp only
  rw [if_neg (fun h => hapart.elim (fun ha => Bool.noConfusion (ha.symm.trans h.1)) (fun hl => hl h.2)), hline]

/-- A line that is not in the buffer is filled. -/
theorem ifetchFill_fills (hw : s.cur.waitOf b = none)
    (hx : s.ibufFind s.cur.coreNo s.cur.ctx (pcLine (s.offering b).cur.slot.pc) = none) (hr : s.cur.unraised = none)
    (hpc : s.cur.fresh = false ∨ isPc (s.offering b).cur.slot.pc = true) {h : State}
    (hh : h = { s with cur := { (s.offering b).cur with stall := some .ifetch } }) : exec .ifetchFill s =
      match h.fetchLine h.cur (pcLine (s.offering b).cur.slot.pc) with
      | (.ok _, s) => .next s
      | (.error c, s) => .next (s.trapEntry 12 c 0 0 (pcSlot s.cur.pc)) := by
  have hline : s.lineOf b = none := by
    have hx' : s.ibufFind s.cur.coreNo s.cur.ctx (pcLine (s.cur.slotOf b).pc) = none := by
      rw [← slot_offering s.cur b]
      exact hx
    rw [State.lineOf, hw]
    dsimp only
    rw [hx']
    rfl
  have hfresh : (h.cur.fresh && !isPc h.cur.pc) = false := by
    rw [hh]
    show (s.cur.fresh && !isPc (s.offering b).cur.slot.pc) = false
    obtain hf | hp := hpc
    · rw [hf]
      rfl
    · rw [hp, Bool.not_true, Bool.and_false]
  rw [exec_ifetchFill, execIfetchFill, hb, hs, if_neg (by decide), ho]
  dsimp only
  rw [hline, hr, if_neg (by decide)]
  rw [show (s.modCur fun g => { g with issue1 := b, stall := some .ifetch }) = h from hh.symm, hfresh, if_neg (by decide)]
  rw [show h.cur.pc = (s.offering b).cur.slot.pc by rw [hh]; rfl] <;> rfl

end

/-! ### The checks of a line (R28, R30, R34) -/

/-- The entering slot points into the fresh copy of its line. -/
def State.copied (s : State) : State := s.modCur fun g => { g.setSlot { g.slot with copy := 0 } with fresh := false }

section

variable {u : State} {b : Bool} {x : LineBits}

theorem enterSlot_untargeted (hf : u.cur.fresh = true) (hp : isPc u.cur.pc = true) (ht : lineTgt x (pcSlot u.cur.pc) = false) :
    u.enterSlot b x = u.trapLaunch 0 := by
  rw [State.enterSlot]
  dsimp only
  rw [hf, hp, ht, if_neg (by decide), if_pos (by decide)]

/-- Past the target bit of a launch entry point, the line's parity and encodings are checked. -/
theorem enterSlot_checks (h : u.cur.fresh = false ∨ (isPc u.cur.pc = true ∧ lineTgt x (pcSlot u.cur.pc) = true)) :
    u.enterSlot b x = match u.copied.parityLine x with
      | (.error (code, cause, step), s) => s.trapEntry code cause step 0 (pcSlot u.cur.pc)
      | (.ok x, s) => match lineFail s.cur.env x (pcSlot u.cur.pc) with
        | some f => s.trapEntry f.code f.cause f.step f.test f.slot
        | none => ((s.modCur fun g => g.setWait b (some x)).enterIbuf (pcLine s.cur.pc)).startClause b x := by
  have h1 : (u.cur.fresh && !isPc u.cur.pc) = false := by
    obtain hf | ⟨hp, _⟩ := h
    · rw [hf]
      rfl
    · rw [hp, Bool.not_true, Bool.and_false]
  have h2 : (u.cur.fresh && !lineTgt x (pcSlot u.cur.pc)) = false := by
    obtain hf | ⟨_, ht⟩ := h
    · rw [hf]
      rfl
    · rw [ht, Bool.not_true, Bool.and_false]
  rw [State.enterSlot]
  dsimp only
  rw [h1, h2, if_neg (by decide), if_neg (by decide)] <;> rfl

theorem parityLine_ok (h : lineParity x = true) : u.parityLine x = (.ok x, u) := if_pos h

end

theorem copied_pc (u : State) : u.copied.cur.pc = u.cur.pc := by
  show Group.pc { u.cur.setSlot { u.cur.slot with copy := 0 } with fresh := false } = u.cur.pc
  by_cases h : u.cur.issue1 = true <;> simp [Group.pc, Group.slot, Group.setSlot, h]

theorem copied_env (u : State) : u.copied.cur.env = u.cur.env := by
  show Group.env { u.cur.setSlot { u.cur.slot with copy := 0 } with fresh := false } = u.cur.env
  rw [Group.setSlot_eq]
  rfl

theorem copied_coreNo (u : State) : u.copied.cur.coreNo = u.cur.coreNo := by
  show Group.coreNo { u.cur.setSlot { u.cur.slot with copy := 0 } with fresh := false } = u.cur.coreNo
  rw [Group.setSlot_eq]
  rfl

theorem copied_ctx (u : State) : u.copied.cur.ctx = u.cur.ctx := by
  show Group.ctx { u.cur.setSlot { u.cur.slot with copy := 0 } with fresh := false } = u.cur.ctx
  rw [Group.setSlot_eq]

theorem copied_flags (u : State) : u.copied.cur.flags = u.cur.flags := Group.setSlot_flags _ _

/-- The buffer without the fresh copy of a line. -/
def State.without (s : State) (core ctx line : Nat) : State :=
  s.setIbuf core ((s.ibufOf core).filter fun y => !(y.line = line && y.ctx = ctx && y.copy = 0))

theorem ibufFind_without (s : State) (core ctx line : Nat) : (s.without core ctx line).ibufFind core ctx line = none := by
  rw [State.ibufFind, State.without, State.ibufOf, State.setIbuf, sfind_sput_same, Option.getD_some, List.find?_eq_none]
  intro y hy
  rw [List.mem_filter, Bool.not_eq_true'] at hy
  exact Bool.eq_false_iff.1 hy.2

/-- A copy whose parity fails is fetched once more (R30). -/
theorem parityLine_refetches {u : State} {x : LineBits} (h : lineParity x = false) : u.parityLine x =
    match (u.without u.cur.coreNo u.cur.ctx (pcLine u.cur.pc)).fillLine u.cur.agent (pcLine u.cur.pc) with
    | (.error c, k) => (.error (12, c, 0), k)
    | (.ok y, k) =>
      let k := k.setIbuf u.cur.coreNo (⟨pcLine u.cur.pc, u.cur.ctx, y, 0⟩ :: k.ibufRoom u.cur.coreNo)
      if lineParity y then (.ok y, k.noteError levelIbuf false (pcLine u.cur.pc) u.cur.ctx)
      else (.error (4, 0, 1), k.noteError levelIbuf true (pcLine u.cur.pc) u.cur.ctx) := by
  have hfetch : (u.without u.cur.coreNo u.cur.ctx (pcLine u.cur.pc)).fetchLine u.cur (pcLine u.cur.pc)
      = match (u.without u.cur.coreNo u.cur.ctx (pcLine u.cur.pc)).fillLine u.cur.agent (pcLine u.cur.pc) with
        | (.ok x, s) => (.ok x, s.setIbuf u.cur.coreNo (⟨pcLine u.cur.pc, u.cur.ctx, x, 0⟩ :: s.ibufRoom u.cur.coreNo))
        | r => r := by
    rw [State.fetchLine, ibufFind_without] <;> rfl
  have hsplit : u.parityLine x = match (u.without u.cur.coreNo u.cur.ctx (pcLine u.cur.pc)).fetchLine u.cur (pcLine u.cur.pc) with
      | (.error c, s) => (.error (12, c, 0), s)
      | (.ok y, s) => if lineParity y then (.ok y, s.noteError levelIbuf false (pcLine u.cur.pc) u.cur.ctx)
        else (.error (4, 0, 1), s.noteError levelIbuf true (pcLine u.cur.pc) u.cur.ctx) :=
    if_neg (by rw [h]; decide)
  rw [hsplit, hfetch]
  cases (u.without u.cur.coreNo u.cur.ctx (pcLine u.cur.pc)).fillLine u.cur.agent (pcLine u.cur.pc) with
  | mk r k => cases r <;> rfl

theorem enterIbuf_cur (s : State) (line : Nat) : (s.enterIbuf line).cur = s.cur := by
  rw [State.enterIbuf]
  split <;> rfl

theorem noteError_cur (s : State) (level : Nat) (fatal : Bool) (unit ctx : Nat) : (s.noteError level fatal unit ctx).cur = s.cur := by
  cases fatal <;> rfl

theorem setWait_flags (g : Group) (b : Bool) (x : Option LineBits) : (g.setWait b x).flags = g.flags := by cases b <;> rfl

section

variable {u : State} {b : Bool} {x : LineBits} (h : u.cur.fresh = false ∨ (isPc u.cur.pc = true ∧ lineTgt x (pcSlot u.cur.pc) = true))

include h

theorem enterSlot_starts (hp : lineParity x = true) (hf : lineFail u.cur.env x (pcSlot u.cur.pc) = none) : u.enterSlot b x =
    ((u.copied.modCur fun g => g.setWait b (some x)).enterIbuf (pcLine u.cur.pc)).startClause b x := by
  rw [enterSlot_checks h, parityLine_ok hp]
  dsimp only
  rw [copied_env, copied_pc, hf]

theorem enterSlot_fails (hp : lineParity x = true) {f : EntryFail} (hf : lineFail u.cur.env x (pcSlot u.cur.pc) = some f) :
    u.enterSlot b x = u.copied.takeTrap
      { code := f.code, cause := f.cause, step := f.step, test := f.test, slot := f.slot, tpc := u.cur.pc, resume := u.cur.pc } := by
  rw [enterSlot_checks h, parityLine_ok hp]
  dsimp only
  rw [copied_env, hf]
  dsimp only
  rw [State.trapEntry, copied_pc]

variable (hp : lineParity x = false) {k : State}

include hp

/-- The second fetch fails. -/
theorem enterSlot_unread {c : Nat}
    (hk : (u.copied.without u.cur.coreNo u.cur.ctx (pcLine u.cur.pc)).fillLine u.copied.cur.agent (pcLine u.cur.pc) = (.error c, k)) :
    u.enterSlot b x = k.trapEntry 12 c 0 0 (pcSlot u.cur.pc) := by
  rw [enterSlot_checks h, parityLine_refetches hp, copied_pc, copied_coreNo, copied_ctx, hk]

variable {y : LineBits} (hk : (u.copied.without u.cur.coreNo u.cur.ctx (pcLine u.cur.pc)).fillLine u.copied.cur.agent (pcLine u.cur.pc) = (.ok y, k))

include hk

/-- The second copy fails too. -/
theorem enterSlot_twice (hy : lineParity y = false) : u.enterSlot b x =
    (State.noteError (k.setIbuf u.cur.coreNo (⟨pcLine u.cur.pc, u.cur.ctx, y, 0⟩ :: k.ibufRoom u.cur.coreNo))
      levelIbuf true (pcLine u.cur.pc) u.cur.ctx).trapEntry 4 0 1 0 (pcSlot u.cur.pc) := by
  rw [enterSlot_checks h, parityLine_refetches hp, copied_pc, copied_coreNo, copied_ctx, hk]
  dsimp only
  rw [hy]
  rfl

/-- The second copy is entered. -/
theorem enterSlot_refetched (hcur : k.cur = u.copied.cur) (hy : lineParity y = true)
    (hf : lineFail u.cur.env y (pcSlot u.cur.pc) = none) : u.enterSlot b x =
    (((State.noteError (k.setIbuf u.cur.coreNo (⟨pcLine u.cur.pc, u.cur.ctx, y, 0⟩ :: k.ibufRoom u.cur.coreNo))
      levelIbuf false (pcLine u.cur.pc) u.cur.ctx).modCur fun g => g.setWait b (some y)).enterIbuf (pcLine u.cur.pc)).startClause
        b y := by
  have hsame : (State.noteError (k.setIbuf u.cur.coreNo (⟨pcLine u.cur.pc, u.cur.ctx, y, 0⟩
      :: k.ibufRoom u.cur.coreNo)) levelIbuf false (pcLine u.cur.pc) u.cur.ctx).cur = u.copied.cur :=
    (noteError_cur _ _ _ _ _).trans hcur
  rw [enterSlot_checks h, parityLine_refetches hp, copied_pc, copied_coreNo, copied_ctx, hk]
  dsimp only
  rw [hy, if_pos rfl]
  dsimp only
  rw [hsame, copied_env, hf, copied_pc]

end

/-! ### The end of a park (R138) -/

theorem wakes_of_clear {g : Group} {p : PcSlot} {f : BitVec 12} (hv : p.valid = true) (hp : p.park = some f) (hf : g.flagsClear f = true) :
    g.wakes p = true := by
  rw [Group.wakes, hv, hp]
  exact hf

theorem wakes_of_awake {g : Group} {p : PcSlot} (hp : p.park = none) : g.wakes p = false := by
  rw [Group.wakes, hp, Bool.and_false]

/-- What a line entry of the offered slot does once its line is known: the statement's `starts`. -/
theorem starts_of {s : State} {i : Instr} {v : State} {b : Bool} {x : LineBits} (h : exec i s = .next (v.startClause b x))
    (hf : v.cur.flags = s.cur.flags) :
    ((∀ n, n < 12 → (BitVec.ofNat 12 (lineWait x)).getLsbD n = true → s.cur.flagCount n = 0) → exec i s = .next { v with
        cur := { v.cur.setWait b none with inClause := true, line := x, stall := none } })
      ∧ (¬ (∀ n, n < 12 → (BitVec.ofNat 12 (lineWait x)).getLsbD n = true → s.cur.flagCount n = 0) →
        exec i s = .next { v with cur := { v.cur with stall := some .flagwait } }) := by
  have hcount (n : Nat) : v.cur.flagCount n = s.cur.flagCount n := by rw [Group.flagCount, Group.flagCount, hf]
  have hclear := flagsClear_iff v.cur (BitVec.ofNat 12 (lineWait x))
  simp only [hcount] at hclear
  exact ⟨fun hc => h.trans (congrArg _ (startClause_clear (hclear.2 hc))), fun hn => h.trans (congrArg _ (startClause_waits fun hc => hn (hclear.1 hc)))⟩

/-- Settles O42: the offered slot, and then the branches of its line entry. -/
theorem lineEntry : Obligations.LineEntry := by
  unfold Obligations.LineEntry
  intro s b g u e clear may apart starts hgid hres hstop hexp hclause
  have hbetween : s.cur.between = true := by
    rw [Group.between, hres, hstop, hexp, hclause]
    simpa using hgid
  have hmay (b : Bool) : s.cur.eligible b = true ↔ may (s.cur.slotOf b) := eligible_iff s.cur b
  refine ⟨fun hl h0 h1 => offer_both hl ((hmay false).2 h0) ((hmay true).2 h1),
    fun hl h0 h1 => offer_first hl ((hmay false).2 h0) (Bool.eq_false_iff.2 fun h => h1 ((hmay true).1 h)),
    fun hl h0 h1 => offer_second hl (Bool.eq_false_iff.2 fun h => h0 ((hmay false).1 h)) ((hmay true).2 h1),
    fun hhere hoffer => ⟨fun x hw => ?_, ?_, ?_, ?_⟩, ?_, ?_⟩
  · exact starts_of (clauseStart_entered hbetween hhere hoffer hw) rfl
  · intro x hw hshrink hring hrecs hapart hx hpar v
    have henter := clauseStart_enters hbetween hhere hoffer hw hshrink hring hrecs hapart hx
    refine ⟨fun hgo => ⟨fun hfail => ?_, fun f hfail => ?_⟩, fun hf hp ht => ?_⟩
    · refine starts_of (henter.trans (congrArg _ (enterSlot_starts hgo hpar hfail))) ?_
      rw [enterIbuf_cur]
      exact (setWait_flags _ _ _).trans (copied_flags u)
    · exact henter.trans (congrArg _ (enterSlot_fails hgo hpar hfail))
    · exact henter.trans (congrArg _ (enterSlot_untargeted (u := u) hf hp ht))
  · intro x hw hshrink hring hrecs hapart hx hpar hgo line v w
    have henter := clauseStart_enters hbetween hhere hoffer hw hshrink hring hrecs hapart hx
    refine ⟨fun c k hk hcur => henter.trans (congrArg _ (enterSlot_unread hgo hpar hk)), ?_⟩
    intro y k hk hcur k'
    refine ⟨fun hy => henter.trans (congrArg _ (enterSlot_twice hgo hpar hk hy)), fun hy hfail => ?_⟩
    refine starts_of (henter.trans (congrArg _ (enterSlot_refetched hgo hpar hk hcur hy hfail))) ?_
    rw [enterIbuf_cur]
    refine (setWait_flags _ _ _).trans ?_
    rw [noteError_cur]
    exact (congrArg Group.flags hcur).trans (copied_flags u)
  · intro hw hx hr hpc h
    have hfill := ifetchFill_fills hbetween hhere hoffer hw hx hr hpc (h := h) rfl
    have hfetch : h.fetchLine h.cur (pcLine g.slot.pc) = match h.fillLine g.agent (pcLine g.slot.pc) with
        | (.ok x, s) => (.ok x, s.setIbuf g.coreNo (⟨pcLine g.slot.pc, g.ctx, x, 0⟩ :: s.ibufRoom g.coreNo))
        | r => r := by
      rw [State.fetchLine, show h.ibufFind h.cur.coreNo h.cur.ctx (pcLine g.slot.pc) = none from hx]
      rfl
    refine ⟨fun x v hv => ?_, fun c v hv => ?_⟩
    · rw [hv] at hfetch
      exact hfill.trans (by rw [show h.fetchLine h.cur (pcLine (s.offering b).cur.slot.pc) = _ from hfetch])
    · rw [hv] at hfetch
      exact hfill.trans (by rw [show h.fetchLine h.cur (pcLine (s.offering b).cur.slot.pc) = _ from hfetch])
  · intro f hv hp hf v
    refine ⟨?_, fun ha => settleSlots_of_apart ?_⟩
    · rw [exec_yieldResume, execYieldResume]
      dsimp only
      rw [hbetween, wakes_of_clear hv hp ((flagsClear_iff _ _).2 hf)]
      rfl
    · exact fun h => ha.elim (fun ha => Bool.noConfusion (ha.symm.trans h.1)) (fun hl => hl h.2)
  · intro f h0 hv hp hf v
    refine ⟨?_, fun ha => settleSlots_of_apart ?_⟩
    · rw [exec_yieldResume, execYieldResume]
      dsimp only
      rw [hbetween, wakes_of_awake h0, wakes_of_clear hv hp ((flagsClear_iff _ _).2 hf)]
      rfl
    · exact fun h => ha.elim (fun ha => Bool.noConfusion (ha.symm.trans h.1)) (fun hl => hl h.2)

end Sys2Proof.Machine
end

section
/-! SUPPORT. Translation faults, upcalls and the pagers' answers (O43). -/

namespace Sys2Proof.Machine

/-- A change of every operation that keeps its number. -/
theorem sfind_map {β : Type} (f : Nat × β → Nat × β) (hf : ∀ e, (f e).1 = e.1) (l : List (Nat × β)) (k : Nat) :
    sfind (l.map f) k = (sfind l k).map fun x => (f (k, x)).2 := by
  induction l with
  | nil => rfl
  | cons e t ih =>
    have he : f e = (e.1, (f e).2) := Prod.ext (hf e) rfl
    rw [List.map_cons, he, sfind, sfind, ih]
    by_cases hk : k = e.1
    · subst hk
      rw [if_pos rfl, if_pos rfl, Option.map_some]
    · rw [if_neg hk, if_neg hk]

/-! ### The fault -/

theorem exec_translationFault {s : State} {id : Nat} {op : Op} {m : Miss} (h : sfind s.ops id = some op)
    (hm : firstMiss (fun s va acc => s.opTranslate id va acc) (s.waitsFor id) op.work.independent
      (spanParts (s.spansOf id op)) s = some m) : exec (.translationFault id) s = .next (s.faultOp id op m) := by
  show execTranslationFault id s = _
  rw [execTranslationFault, h]
  dsimp only
  rw [hm]

theorem faultOp_refused {s : State} {id : Nat} {op : Op} {m : Miss}
    (h : s.hasPager op.ctx m.pager = false ∨ op.upcalled.contains m.key = true) :
    s.faultOp id op m = s.modOp id fun op => { op with refused := (m.granule, 1) :: op.refused } := by
  rw [State.faultOp, if_pos]
  simpa using h

theorem faultOp_waits {s : State} {id : Nat} {op : Op} {m : Miss} (hp : s.hasPager op.ctx m.pager = true)
    (hu : op.upcalled.contains m.key = false) :
    s.faultOp id op m =
      let u := (s.modOp id fun op => { op with upcalled := m.key :: op.upcalled }).joinUpcall op.ctx id op.work.srcCode m
      match op.work with
      | .attn _ _ _ => u
      | _ => u.logOp id op := by
  have hn : ¬ ((!s.hasPager op.ctx m.pager) = true ∨ op.upcalled.contains m.key = true) := by
    rw [hp, hu]
    decide
  rw [State.faultOp, if_neg hn] <;> rfl

/-- What an upcall changes: the upcalls alone. -/
theorem joinUpcall_frame (s : State) (ctx id src : Nat) (m : Miss) :
    (s.joinUpcall ctx id src m).mem = s.mem ∧ (s.joinUpcall ctx id src m).cur = s.cur
      ∧ (s.joinUpcall ctx id src m).others = s.others ∧ (s.joinUpcall ctx id src m).ops = s.ops := by
  rw [State.joinUpcall]
  dsimp only
  split <;> exact ⟨rfl, rfl, rfl, rfl⟩

theorem joinUpcall_new {s : State} {ctx id src : Nat} {m : Miss}
    (h : (s.xlate.upcalls.any fun u => u.ctx = ctx && u.pager = m.pager && u.granule = m.granule) = false) :
    (s.joinUpcall ctx id src m).xlate.upcalls = s.xlate.upcalls ++
      [⟨ctx, m.pager, m.granule, sget 1 s.xlate.nextUid ctx, src, m.acc ≠ .write, m.acc ≠ .read, none, [id], []⟩] := by
  rw [State.joinUpcall]
  dsimp only
  rw [if_neg (by rw [h]; decide)]

theorem joinUpcall_joins {s : State} {ctx id src : Nat} {m : Miss}
    (h : (s.xlate.upcalls.any fun u => u.ctx = ctx && u.pager = m.pager && u.granule = m.granule) = true) :
    (s.joinUpcall ctx id src m).xlate.upcalls = s.xlate.upcalls.map fun u =>
      if u.ctx = ctx && u.pager = m.pager && u.granule = m.granule then
        { u with ops := u.ops ++ [id], read := u.read || decide (m.acc ≠ .write), write := u.write || decide (m.acc ≠ .read) }
      else u := by
  rw [State.joinUpcall]
  dsimp only
  rw [if_pos h]

theorem sfind_logOp {s : State} {id : Nat} {op e : Op} (h : sfind s.ops id = some e) :
    sfind (s.logOp id op).ops id = some { e with phase := .logged, xl := [] } := by
  rw [State.logOp]
  dsimp only
  rw [sfind_map, h]
  · exact congrArg some (if_pos rfl)
  · exact fun _ => rfl

/-- The state in which an operation waits for its upcall. -/
theorem faultOp_joined {s : State} {id : Nat} {op : Op} {m : Miss} (h : sfind s.ops id = some op)
    (hp : s.hasPager op.ctx m.pager = true) (hu : op.upcalled.contains m.key = false) :
    let t := s.faultOp id op m
    let same (u : Upcall) : Bool := u.ctx = op.ctx && u.pager = m.pager && u.granule = m.granule
    t.mem = s.mem ∧ t.cur = s.cur ∧ t.others = s.others
      ∧ ((∃ d sg q, op.work = .attn d sg q) → sfind t.ops id = some { op with upcalled := m.key :: op.upcalled })
      ∧ ((∀ d sg q, op.work ≠ .attn d sg q) →
          sfind t.ops id = some { op with phase := .logged, xl := [], upcalled := m.key :: op.upcalled })
      ∧ (s.xlate.upcalls.any same = false → t.xlate.upcalls = s.xlate.upcalls ++
          [⟨op.ctx, m.pager, m.granule, sget 1 s.xlate.nextUid op.ctx, op.work.srcCode, m.acc ≠ .write, m.acc ≠ .read, none,
            [id], []⟩])
      ∧ (s.xlate.upcalls.any same = true → t.xlate.upcalls = s.xlate.upcalls.map fun u =>
          if same u then
            { u with ops := u.ops ++ [id], read := u.read || decide (m.acc ≠ .write), write := u.write || decide (m.acc ≠ .read) }
          else u) := by
  intro t same
  have hv : sfind (s.modOp id fun op => { op with upcalled := m.key :: op.upcalled }).ops id
      = some { op with upcalled := m.key :: op.upcalled } := sfind_modOp h fun op => { op with upcalled := m.key :: op.upcalled }
  obtain ⟨hmem, hcur, hoth, hops⟩ := joinUpcall_frame (s.modOp id fun op => { op with upcalled := m.key :: op.upcalled })
    op.ctx id op.work.srcCode m
  have hnew := joinUpcall_new (s := s.modOp id fun op => { op with upcalled := m.key :: op.upcalled }) (ctx := op.ctx) (id := id)
    (src := op.work.srcCode) (m := m)
  have hjoin := joinUpcall_joins (s := s.modOp id fun op => { op with upcalled := m.key :: op.upcalled }) (ctx := op.ctx)
    (id := id) (src := op.work.srcCode) (m := m)
  have ht : t = _ := faultOp_waits hp hu
  clear_value t
  by_cases ha : ∃ d sg q, op.work = .attn d sg q
  · obtain ⟨d, sg, q, ha⟩ := ha
    simp only [ha] at ht
    subst ht
    rw [ha] at hmem hcur hoth hops hnew hjoin
    exact ⟨hmem, hcur, hoth, fun _ => by rw [hops]; exact hv, fun hn => absurd ha (hn d sg q), by rw [ha]; exact hnew, hjoin⟩
  · have hl : t = ((s.modOp id fun op => { op with upcalled := m.key :: op.upcalled }).joinUpcall op.ctx id op.work.srcCode m).logOp
        id op := by
      rw [ht]
      dsimp only
      split
      · next d sg q hw => exact absurd ⟨d, sg, q, hw⟩ ha
      · rfl
    subst hl
    exact ⟨hmem, hcur, hoth, fun hx => absurd hx ha, fun _ => sfind_logOp (by rw [hops]; exact hv), hnew, hjoin⟩

/-! ### The answer -/

theorem exec_pagerAnswer {s v : State} {ctx pager h : Nat} {q : PagerQueue} {u : Upcall} (hh : s.pagerHeader ctx pager = some h)
    (hq : s.pagerQueue ctx h = some (q, v))
    (hu : (v.upcallsOf ctx pager).find? (fun u => (v.answerOf ctx q u).isSome) = some u) :
    exec (.pagerAnswer ctx pager) s = .next (u.ops.foldl
      (fun s i => s.replayOp u.granule (if u.pins.all (v.pinKept ctx) then (v.answerOf ctx q u).getD 1 else 1) i)
      (v.setUpcalls (v.xlate.upcalls.filter (· ≠ u)))) := by
  show execPagerAnswer ctx pager s = _
  rw [execPagerAnswer, hh]
  dsimp only
  rw [hq]
  dsimp only
  rw [hu]

/-- A logged operation that is replayed on its core stands at the head of its queue. -/
theorem replayOp_logged {s : State} {granule code id : Nat} {op : Op} (h : sfind s.ops id = some op) (hoff : s.offCore op = false)
    (hp : op.phase = .logged) :
    (s.replayOp granule code id).xlate = s.xlate ∧ (s.replayOp granule code id).mem = s.mem
      ∧ sfind (s.replayOp granule code id).ops id = some { op with
          phase := .queued, replayed := true, lead := s.steps + 1,
          refused := if code = 0 then op.refused else (granule, code) :: op.refused } := by
  rw [State.replayOp]
  dsimp only
  rw [h]
  refine ⟨rfl, rfl, ?_⟩
  dsimp only
  rw [sfind_map, h, Option.map_some]
  · dsimp only
    rw [if_pos rfl, if_pos hp, hoff, if_neg Bool.false_ne_true]
  · exact fun _ => rfl

/-! ### The upcall -/

theorem exec_upcallPost {s v : State} {ctx pager h : Nat} {u : Upcall} {rest : List Upcall} {q : PagerQueue}
    (hh : s.pagerHeader ctx pager = some h) (hu : (s.upcallsOf ctx pager).filter (·.msg.isNone) = u :: rest)
    (hq : s.pagerQueue ctx h = some (q, v)) (hd : ∀ x ∈ v.upcallsOf ctx pager, ∀ i, x.msg = some i → q.head ≤ i) :
    exec (.upcallPost ctx pager) s =
      if q.nent ≤ q.tail - q.head then
        if rest.length + 1 = q.held then notNow else .next (v.countHeld ctx h (rest.length + 1) q.held)
      else
        let w := v.outWrite ctx (q.slot q.tail) u.message
        let w := w.outWrite ctx (q.slot q.tail + 56) (leBytes 8 (q.tail + 1))
        let w := (w.order .rel .dev 0).outWrite ctx (h + 16) (leBytes 8 (q.tail + 1))
        let w := w.countHeld ctx h (if q.nent ≤ q.tail + 1 - q.head then rest.length else 0) q.held
        .next (w.setUpcalls (w.xlate.upcalls.map fun x =>
          if x = u then { x with msg := some q.tail, pins := w.pinned ctx } else x)) := by
  show execUpcallPost ctx pager s = _
  have hno : ((v.upcallsOf ctx pager).any fun u => match u.msg with | some i => decide (i < q.head) | none => false) = false := by
    rw [List.any_eq_false]
    intro x hx
    cases hm : x.msg with
    | none => simp
    | some i => simpa using hd x hx i hm
  rw [execUpcallPost, hh, hu]
  dsimp only
  rw [hq]
  dsimp only
  exact if_neg fun hc => Bool.false_ne_true (hno.symm.trans hc)

theorem countHeld_same (s : State) (ctx h n : Nat) : s.countHeld ctx h n n = s := if_pos rfl

/-- Settles O43: the fault of an operation, the answer that replays it, and the posting of the oldest upcall. -/
theorem faultsUpcallsAndAnswers : Obligations.FaultsUpcallsAndAnswers := by
  unfold Obligations.FaultsUpcallsAndAnswers
  refine ⟨fun s id op h => ⟨?_, ?_⟩, ?_⟩
  · intro m hm
    refine ⟨fun hr => ?_, fun hp hu => ⟨s.faultOp id op m, exec_translationFault h hm, faultOp_joined h hp hu⟩⟩
    rw [exec_translationFault h hm, faultOp_refused hr]
    rfl
  · intro ctx pager a q u v answer hh hq hu ha hops hv hoff hp code
    refine ⟨_, exec_pagerAnswer hh hq hu, ?_⟩
    have hr := replayOp_logged (s := v.setUpcalls (v.xlate.upcalls.filter (· ≠ u))) (granule := u.granule) (code := code)
      (by rw [← hv] at h; exact h) hoff hp
    rw [hops, ha]
    exact ⟨by rw [List.foldl_cons, List.foldl_nil]; exact congrArg _ hr.1, hr.2.1, hr.2.2⟩
  · intro s ctx pager a u rest q v hh hu hq hd
    refine ⟨fun hroom hfull hless => ?_, fun hfull hne => ?_⟩
    · intro at_ w₁ w₂
      have hheld : (if q.nent ≤ q.tail + 1 - q.head then rest.length else 0) = q.held := by
        split
        · next hc => exact hfull hc
        · next hc => exact (hless (by omega)).symm
      rw [exec_upcallPost hh hu hq hd, if_neg (by omega), hheld]
      dsimp only
      rw [countHeld_same]
      rfl
    · rw [exec_upcallPost hh hu hq hd, if_pos hfull, if_neg hne, State.countHeld, if_neg hne]

end Sys2Proof.Machine
end

section
/-! SUPPORT. Mapping matrices, shoot-downs with their acknowledgements, and a read buffer's invalidation (O44). -/

namespace Sys2Proof.Machine

theorem hold_eq (s : State) (r : Stall) : s.hold r = { s with cur := { s.cur with stall := some r } } := rfl

/-! ### `mapld` -/

theorem exec_mapld_idle {o : Fields} {s : State} (h : s.cur.acts o.guard = false) : exec (.mapld o) s = .next s.advance := by
  show execMapld o s = _
  rw [execMapld, if_pos (by rw [h]; rfl)]

theorem exec_mapld_acts {o : Fields} {s : State} {va region : Nat} (h : s.cur.acts o.guard = true)
    (hva : (val64 s o.imm o.a 0).toNat = va) (hr : (val s o.imm o.b 0).toNat = region) :
    exec (.mapld o) s =
      if !canonical (va + 127) then .next (s.trap 12 0)
      else if s.mustWait .g [va] 128 false then .next (s.hold .sys)
      else match s.readVa s.cur.agent va 128 with
        | (.fault _ f, s) => .next (s.trap 12 (pageCause f))
        | (.ok x, s) =>
          let code := if va % 4 = 0 then s.mapCode region x.bytes else 1
          if x.psn then .next (s.trap 12 3)
          else if region < Config.regions ∧ (s.stackCtl (region % 12)).asleep then .next (s.hold .sys)
          else
            let s := if code = 0 then s.switchMatrix region x.bytes else s
            .next (writeResult s o fun _ => BitVec.ofNat 32 code).advance := by
  subst hva hr
  show execMapld o s = _
  exact if_neg (by rw [h]; decide)

theorem mapld_outside {o : Fields} {s : State} {va : Nat} (h : s.cur.acts o.guard = true)
    (hva : (val64 s o.imm o.a 0).toNat = va) (hout : 2 ^ 54 ≤ va + 127) : exec (.mapld o) s = .next (s.trap 12 0) := by
  rw [exec_mapld_acts h hva rfl, if_pos]
  rw [canonical, decide_eq_false (by omega)]
  rfl

theorem mapld_inside {o : Fields} {s : State} {va region : Nat} (h : s.cur.acts o.guard = true)
    (hva : (val64 s o.imm o.a 0).toNat = va) (hr : (val s o.imm o.b 0).toNat = region) (hin : va + 127 < 2 ^ 54) :
    exec (.mapld o) s =
      if s.mustWait .g [va] 128 false then .next (s.hold .sys)
      else match s.readVa s.cur.agent va 128 with
        | (.fault _ f, s) => .next (s.trap 12 (pageCause f))
        | (.ok x, s) =>
          let code := if va % 4 = 0 then s.mapCode region x.bytes else 1
          if x.psn then .next (s.trap 12 3)
          else if region < Config.regions ∧ (s.stackCtl (region % 12)).asleep then .next (s.hold .sys)
          else
            let s := if code = 0 then s.switchMatrix region x.bytes else s
            .next (writeResult s o fun _ => BitVec.ofNat 32 code).advance := by
  rw [exec_mapld_acts h hva hr]
  exact if_neg (by rw [canonical, decide_eq_true hin]; decide)

/-- The image is read: the region's stack holds issue, or the matrix gets its code. -/
theorem mapld_read {o : Fields} {s u : State} {va region : Nat} {x : Got} (h : s.cur.acts o.guard = true)
    (hva : (val64 s o.imm o.a 0).toNat = va) (hr : (val s o.imm o.b 0).toNat = region) (hin : va + 127 < 2 ^ 54)
    (hw : s.mustWait .g [va] 128 false = false) (hx : s.readVa s.cur.agent va 128 = (.ok x, u)) (hp : x.psn = false) :
    exec (.mapld o) s =
      let code := if va % 4 = 0 then u.mapCode region x.bytes else 1
      if region < Config.regions ∧ (u.stackCtl (region % 12)).asleep then .next (u.hold .sys)
      else
        let w := if code = 0 then u.switchMatrix region x.bytes else u
        .next (writeResult w o fun _ => BitVec.ofNat 32 code).advance := by
  rw [mapld_inside h hva hr hin, if_neg (by rw [hw]; decide), hx]
  exact if_neg (by rw [hp]; decide)

theorem switchMatrix_cur (s : State) (region : Nat) (image : Bytes) : (s.switchMatrix region image).cur = s.cur := rfl

/-- A result written once to a scalar register. -/
theorem writeResult_scalar {s : State} {o : Fields} {n : Fin 64} {x : Word} (hd : o.d = .s n) (h : s.cur.acts o.guard = true) :
    writeResult s o (fun _ => x) = { s with cur := s.cur.writeS n.val x } := by
  rw [writeResult, hd]
  exact if_pos h

/-! ### `tlbi` -/

theorem exec_tlbi_idle {form : TlbForm} {o : Fields} {s : State} (h : s.cur.acts o.guard = false) :
    exec (.tlbi form o) s = .next s.advance := by
  show execTlbi form o s = _
  rw [execTlbi, if_pos (by rw [h]; rfl)]

theorem tlbi_starts {form : TlbForm} {o : Fields} {s : State} (h : s.cur.acts o.guard = true) (hs : s.cur.shoot = none) :
    exec (.tlbi form o) s =
      if !s.performedAll .rel then .next (s.hold .sys)
      else
        let b := (val s o.imm o.b 0).toNat
        let va := if form = .va then (val64 s o.imm o.a 0).toNat else 0
        let h : Shoot := ⟨s.cur.gid, form, va, bits b 1 0, if form = .va then bits b 31 16 else bits b 15 0, []⟩
        let u := s.order .rel .dev s.cur.die
        .next (State.hold { u with nextId := u.nextId + 1, shoots := sput u.shoots u.nextId h,
                                   mem := { u.mem with held := [] }, cur := { u.cur with shoot := some u.nextId } } .sys) := by
  show execTlbi form o s = _
  rw [execTlbi, if_neg (by rw [h]; decide), hs]
  rfl

theorem tlbi_waits {form : TlbForm} {o : Fields} {s : State} {k : Nat} {d : Shoot} (h : s.cur.acts o.guard = true)
    (hs : s.cur.shoot = some k) (hd : sfind s.shoots k = some d) :
    exec (.tlbi form o) s =
      if d.acked.length < xlateUnits then .next (s.hold .sys)
      else .next (State.advance { s with shoots := sdel s.shoots k, cur := { s.cur with shoot := none } }) := by
  show execTlbi form o s = _
  rw [execTlbi, if_neg (by rw [h]; decide), hs]
  dsimp only
  rw [hd]
  rfl

/-! ### Acknowledgements -/

theorem exec_shootdownAck {s : State} {key unit : Nat} {h : Shoot} (hk : sfind s.shoots key = some h) (hu : unit < xlateUnits)
    (ha : h.acked.contains unit = false)
    (hno : ∀ e ∈ s.ops, e.2.core = unit → s.usesXl e.1 e.2 = true → ∀ x ∈ e.2.xl, h.covers e.2.ctx x = false) :
    exec (.shootdownAck key unit) s =
      let u := s.setTlb unit ((s.tlb unit).without h)
      let drop (op : Op) : Op :=
        if decide (op.core = unit) then { op with xl := op.xl.filter fun x => !h.covers op.ctx x } else op
      .next { u with ops := u.ops.map fun e => (e.1, drop e.2), shoots := sput u.shoots key { h with acked := unit :: h.acked } } := by
  have hany : (s.ops.any fun e => decide (e.2.core = unit) && s.usesXl e.1 e.2 && e.2.xl.any fun x => h.covers e.2.ctx x) = false := by
    rw [List.any_eq_false]
    intro e he hc
    simp only [Bool.and_eq_true, decide_eq_true_eq, List.any_eq_true] at hc
    obtain ⟨⟨hcore, huse⟩, x, hx, hcov⟩ := hc
    exact Bool.false_ne_true ((hno e he hcore huse x hx).symm.trans hcov)
  show execShootdownAck key unit s = _
  rw [execShootdownAck, hk]
  refine if_neg fun hc => ?_
  rcases hc with hc | hc | hc
  · exact absurd hu (Nat.not_lt.mpr hc)
  · exact Bool.false_ne_true (ha.symm.trans hc)
  · exact Bool.false_ne_true (hany.symm.trans hc)

theorem tlb_setTlb (s : State) (unit n : Nat) (t : Tlb) : (s.setTlb unit t).tlb n = if n = unit then t else s.tlb n := by
  show (sfind (sput s.xlate.tlb unit t) n).getD _ = _
  rw [sfind_sput]
  split <;> rfl

/-- What a unit keeps of its leaves, the shoot-down does not cover. -/
theorem without_leaves (t : Tlb) (h : Shoot) {e : TlbEntry} (he : e ∈ (t.without h).small ++ (t.without h).large) :
    h.takes true e = false := by
  rcases List.mem_append.mp he with he | he
  all_goals
    have hk := (List.mem_filter.mp he).2
    rwa [Bool.not_eq_true'] at hk

/-- What a unit keeps of its table entries, the shoot-down does not cover. -/
theorem without_walk (t : Tlb) (h : Shoot) {e : TlbEntry} (he : e ∈ (t.without h).walk) : h.takes false e = false := by
  have hk := (List.mem_filter.mp he).2
  rwa [Bool.not_eq_true'] at hk

theorem exec_readBufferInvalidation {s : State} {die line : Nat} {x : BitVec 512 × Bool} (hx : sfind s.mem.rbuf (rbufKey die line) = some x)
    (hne : x ≠ s.homeLine line) :
    exec (.readBufferInvalidation die line) s
      = .next { s with mem := { s.mem with rbuf := sdel s.mem.rbuf (rbufKey die line) } } := by
  show execReadBufferInvalidation die line s = _
  rw [execReadBufferInvalidation, hx]
  exact if_neg hne

/-- Settles O44: the two instructions by their branches, the acknowledgement by what the unit keeps. -/
theorem mapsAndShootdowns : Obligations.MapsAndShootdowns := by
  unfold Obligations.MapsAndShootdowns
  intro o s form va region hold
  refine ⟨fun hi => ⟨exec_mapld_idle hi, exec_tlbi_idle hi⟩, fun ha => ⟨?_, ?_, ?_, ?_, ?_, ?_⟩, ?_, ?_⟩
  · intro hin hw
    rw [mapld_inside ha rfl rfl hin]
    exact if_pos hw
  · intro hin hw x u hx hp hu
    have hm := mapld_read ha rfl rfl hin hw hx hp
    refine ⟨fun hs => hm.trans (if_pos hs), fun hs d hd => ?_⟩
    intro code w
    have hwc : w.cur = s.cur := by
      rw [← hu]
      show (if code = 0 then u.switchMatrix region x.bytes else u).cur = _
      split <;> rfl
    refine ⟨s.cur.writeS d.val (BitVec.ofNat 32 code), ?_, rfl, fun n => by rw [Group.readS_writeS]⟩
    rw [hm]
    refine (if_neg hs).trans ?_
    show Host.Outcome.next (writeResult w o fun _ => BitVec.ofNat 32 code).advance = _
    rw [writeResult_scalar hd (by rw [hwc]; exact ha), hwc]
  · exact mapld_outside ha rfl
  · intro hs hp
    rw [tlbi_starts ha hs]
    exact if_pos (by rw [hp]; rfl)
  · intro hs hp u
    refine ⟨_, ?_, ?_, (tlbi_starts ha hs).trans (if_neg (by rw [hp]; decide))⟩ <;> rfl
  · intro k h hs hk
    refine ⟨fun hl => (tlbi_waits ha hs hk).trans (if_pos hl), fun hl => (tlbi_waits ha hs hk).trans (if_neg (by omega))⟩
  · intro key unit h hk hu hc hno
    refine ⟨_, exec_shootdownAck hk hu hc hno, sfind_sput_same _ _ _, ?_, ?_, fun n hn => ?_, rfl, rfl⟩
    · show ∀ e ∈ ((s.setTlb unit ((s.tlb unit).without h)).tlb unit).small ++ ((s.setTlb unit ((s.tlb unit).without h)).tlb unit).large, _
      rw [tlb_setTlb, if_pos rfl]
      exact fun e => without_leaves _ h
    · show ∀ e ∈ ((s.setTlb unit ((s.tlb unit).without h)).tlb unit).walk, _
      rw [tlb_setTlb, if_pos rfl]
      exact fun e => without_walk _ h
    · exact (tlb_setTlb s unit n _).trans (if_neg hn)
  · exact fun die line x => exec_readBufferInvalidation

end Sys2Proof.Machine
end

section
/-! SUPPORT. A group that is listed under another number than its own (O45). -/

namespace Sys2Proof.Machine

/-- A group of number 2 whose lanes have all exited. -/
def exitedGroup : Group := { Group.vacant with gid := 2, exited := BitVec.allOnes 64 }

/-- It stands in the list of groups under the number 1. -/
def misplacedGroup : State := { State.reset with others := [(1, exitedGroup)] }

theorem findGroup_misplaced : misplacedGroup.findGroup 1 = some exitedGroup := rfl

/-- Its retirement takes the entry of its own number off the list, and so leaves the entry under 1. -/
theorem groupRetire_misplaced : exec (.groupRetire 1) misplacedGroup
    = .next { misplacedGroup with launch := { misplacedGroup.launch with
        retired := misplacedGroup.launch.retired ++ [{ exitedGroup with resident := false, waitingRecs := [] }] } } := rfl

/-- Refutes O45: a group is found under the number of its entry and leaves under its own, and the statement speaks of states in which
they differ (no step makes one): the group of number 2 under the entry 1 is still there after `groupRetire 1`. -/
theorem not_growRequestsAndGroupEnds : ¬ Obligations.GrowRequestsAndGroupEnds := by
  unfold Obligations.GrowRequestsAndGroupEnds
  intro h
  obtain ⟨-, hretire, -⟩ := h.1 misplacedGroup 1 exitedGroup (by decide) findGroup_misplaced
  obtain ⟨t, ht, -, -, hothers, -⟩ := hretire rfl rfl rfl fun e he => absurd he List.not_mem_nil
  rw [groupRetire_misplaced] at ht
  obtain rfl := Host.Outcome.next.inj ht
  exact absurd ((hothers (by decide)).2 1) (by decide)

end Sys2Proof.Machine
end

section
/-! SUPPORT. Entries of the launch queues and the ends of grids (O46). -/

namespace Sys2Proof.Machine

/-! ### Accesses of the Groom -/

theorem accesses_dropDie (s : State) (die : Nat) : Accesses s (s.dropDie die) := ⟨rfl, memOk_dropDie die⟩

theorem accesses_emit (s : State) (o : Output) : Accesses s (s.emit o) := ⟨rfl, id⟩

theorem accesses_order (s : State) (ord : Ord) (scope : Scope) (die : Nat) : Accesses s (s.order ord scope die) := by
  have hrel : Accesses s (s.releaseAt ord scope) := by
    rw [State.releaseAt]
    split
    · dsimp only
      split
      · exact (accesses_dropStale s).trans (accesses_emit _ _)
      · exact accesses_dropStale s
    · exact .refl s
  refine hrel.trans ?_
  show Accesses _ ((s.releaseAt ord scope).acquireAt ord scope die)
  rw [State.acquireAt]
  split
  · exact accesses_dropDie _ _
  · exact .refl _

theorem accesses_outWrite {s : State} (h : s.mon = []) (ctx va : Nat) (b : Bytes) : Accesses s (s.outWrite ctx va b) :=
  accesses_writeVa h _ va b

theorem accesses_recWrite {s : State} (h : s.mon = []) (n off : Nat) (b : Bytes) : Accesses s (s.recWrite n off b) := by
  rw [State.recWrite]
  split
  · exact .refl s
  · split
    · exact .refl s
    · exact accesses_writeVa h _ _ _

theorem accesses_writeHeader {s : State} (h : s.mon = []) (n : Nat) (gr : Grid) (x : RecordHead) :
    Accesses s (s.writeHeader n gr x) := by
  have ha := accesses_recWrite h n 0 (leBytes 4 1 ++ leBytes 1 x.out ++ leBytes 1 x.why ++ leBytes 2 0)
  have hb := (accesses_recWrite (ha.mon.trans h) n 0x10 (leBytes 8 x.igroom ++ leBytes 8 x.ifault ++ leBytes 8 x.iio ++ leBytes 8 x.iexec
    ++ leBytes 4 gr.fails ++ leBytes 4 gr.xfail ++ leBytes 4 gr.orphs ++ leBytes 4 gr.xorph
    ++ leBytes 4 gr.census.length ++ leBytes 4 gr.xsite ++ leBytes 8 gr.sdrop ++ leBytes 8 gr.tdrop
    ++ leBytes 4 gr.sused ++ leBytes 4 gr.tused)).after ha
  exact (accesses_recWrite (hb.mon.trans h) n 0x80 (leBytes 128 0)).after hb

theorem outbox_append_nil (s : State) : { s with outbox := s.outbox ++ [] } = s := by rw [List.append_nil]

/-- The completion word and the interrupt of a launch (R339). -/
theorem complete_eq (s : State) (ctx cw cv out why : Nat) (irq : Option Nat) :
    s.complete ctx cw cv out why irq =
      let u := s.order .rel .sys 0
      let w := if cw = 0 then u else u.outWrite ctx cw (leBytes 8 (cv % 2 ^ 48 + why * 2 ^ 48 + out * 2 ^ 56))
      { w with outbox := w.outbox ++ ((irq.filter (· < 2048)).map Output.msix).toList } := by
  unfold State.complete
  dsimp only
  cases irq with
  | none => exact (outbox_append_nil _).symm
  | some v =>
    dsimp only
    by_cases hv : v < 2048
    · have hf : (some v).filter (· < 2048) = some v := Option.filter_some.trans (if_pos (decide_eq_true hv))
      rw [if_pos hv, hf]
      rfl
    · have hf : (some v).filter (· < 2048) = none := Option.filter_some.trans (if_neg fun hc => hv (of_decide_eq_true hc))
      rw [if_neg hv, hf]
      exact (outbox_append_nil _).symm

theorem accesses_complete {s : State} (h : s.mon = []) (ctx cw cv out why : Nat) (irq : Option Nat) :
    Accesses s (s.complete ctx cw cv out why irq) := by
  have ho := accesses_order s .rel .sys 0
  rw [complete_eq]
  dsimp only
  split
  · exact ho.trans ⟨rfl, id⟩
  · exact (ho.trans (accesses_outWrite (ho.mon.trans h) _ _ _)).trans ⟨rfl, id⟩

theorem msix_mem_complete (s : State) (ctx cw cv out why : Nat) {irq : Option Nat} {v : Nat} (hi : irq = some v) (hv : v < 2048) :
    .msix v ∈ (s.complete ctx cw cv out why irq).outbox := by
  subst hi
  rw [complete_eq, Option.filter_some, if_pos (decide_eq_true hv)]
  exact List.mem_append_right _ (List.mem_singleton.mpr rfl)

/-! ### Entries -/

/-- The queue of an entry forgets the stamps below its head (R337). -/
def LaunchQueue.passed (h : QueueHead) (x : LaunchQueue) : LaunchQueue := { x with seen := x.seen.filter fun y => h.head ≤ y.1 }

/-- What the consumption of an entry changes beside memory. -/
theorem consume_launch {v : State} (hm : v.mon = []) (n : Nat) (q : LaunchQueue) (h : QueueHead) :
    (v.consume n q h).mon = [] ∧ (v.consume n q h).launch =
      { v.launch with served := sput v.launch.served h.prio q.reg, queues := supd v.launch.queues n (LaunchQueue.passed h) } := by
  have hd := Accesses.foldl accesses_dropDie (List.range 4) v
  have hw := (accesses_outWrite (hd.mon.trans hm) q.ctx (q.header + 24) (leBytes 8 (h.head + 1))).after hd
  refine ⟨hw.mon.trans hm, ?_⟩
  rw [State.consume]
  dsimp only
  rw [hw.launch]
  rfl

theorem groomRead_accesses {s u : State} {ctx va n : Nat} {b : Bytes} (h : s.groomRead ctx va n = some (b, u)) : Accesses s u := by
  have hr := accesses_readVa s (outside ctx) va n
  rw [State.groomRead] at h
  split at h
  · split at h
    · next x w hx =>
      split at h
      · cases h
      · obtain ⟨-, rfl⟩ := Prod.mk.inj (Option.some.inj h)
        rw [hx] at hr
        exact hr
    · cases h
  · cases h

/-- A refused entry starts nothing and asks for its interrupt. -/
theorem refuseEntry_starts_none {u : State} (hm : u.mon = []) (h : QueueHead) (n : Nat) (e : Entry) (why : Nat) :
    (u.refuseEntry h n e why).launch.pending = u.launch.pending ∧ (u.refuseEntry h n e why).launch.queues = u.launch.queues
      ∧ (u.refuseEntry h n e why).launch.served = u.launch.served
      ∧ ∀ vec, e.irq = some vec → vec < 2048 → .msix vec ∈ (u.refuseEntry h n e why).outbox := by
  have hh := accesses_writeHeader (s := u.addGrid { newGrid u h n e (launchDesc []) [] with gangsLeft := 0, ended := true }) hm
    u.launch.nextOrder { newGrid u h n e (launchDesc []) [] with gangsLeft := 0, ended := true }
    ⟨2, why, nsOf (u.now - (newGrid u h n e (launchDesc []) []).posted), 0, 0, 0⟩
  have hl := ((accesses_complete (hh.mon.trans hm) h.ctx e.cw e.cv 2 why e.irq).after hh).launch
  have ht : (u.refuseEntry h n e why).launch =
      (u.addGrid { newGrid u h n e (launchDesc []) [] with gangsLeft := 0, ended := true }).launch := hl
  rw [ht]
  exact ⟨rfl, rfl, rfl, fun vec hi hv => msix_mem_complete _ _ _ _ _ _ hi hv⟩

/-- An accepted launch: its grid, its pending gangs, and its queue that waits for it. -/
theorem acceptLaunch_starts {u : State} (hm : u.mon = []) (h : QueueHead) (n : Nat) (e : Entry) (d : LaunchDesc) :
    let t := u.acceptLaunch h n e d
    t.launch.served = u.launch.served
      ∧ t.gridOf u.launch.nextOrder = some (newGrid u h n e d (u.recordHead h.ctx e.rec_))
      ∧ (∀ k < d.gangs, (u.launch.nextOrder, k) ∈ t.launch.pending)
      ∧ t.launch.queues = supd u.launch.queues n fun q => { q with running := q.running ++ [u.launch.nextOrder] } := by
  intro t
  let g := newGrid u h n e d (u.recordHead h.ctx e.rec_)
  let w := (u.addGrid g).writeHeader u.launch.nextOrder g ⟨0, 0, 0, 0, 0, 0⟩
  have hw : w.launch = (u.addGrid g).launch := (accesses_writeHeader (s := u.addGrid g) hm _ _ _).launch
  let run (q : LaunchQueue) : LaunchQueue := { q with running := q.running ++ [u.launch.nextOrder] }
  let x : State := { w with launch := { w.launch with queues := supd w.launch.queues n run } }
  have ho : ((x.staleLines h.ctx).order .acq .sys 0).launch = x.launch := (accesses_order (x.staleLines h.ctx) .acq .sys 0).launch
  have hx : x.launch = { (u.addGrid g).launch with queues := supd u.launch.queues n run } := by
    show ({ w.launch with queues := supd w.launch.queues n run } : LaunchState) = _
    rw [hw]
    rfl
  have ht : t = ((x.staleLines h.ctx).order .acq .sys 0).pend ((List.range d.gangs).map fun k => (u.launch.nextOrder, k)) := rfl
  clear_value t x w
  subst ht
  refine ⟨?_, ?_, fun k hk => ?_, ?_⟩
  · show ((x.staleLines h.ctx).order .acq .sys 0).launch.served = _
    rw [ho, hx]
    rfl
  · show sfind ((x.staleLines h.ctx).order .acq .sys 0).launch.grids _ = _
    rw [ho, hx]
    exact sfind_sput_same _ _ _
  · refine List.mem_mergeSort.mpr (List.mem_append_right _ ?_)
    exact List.mem_map.mpr ⟨k, List.mem_range.mpr hk, rfl⟩
  · show ((x.staleLines h.ctx).order .acq .sys 0).launch.queues = _
    rw [ho, hx]

section

variable {n : Nat} {s v : State} {q : LaunchQueue} {h : QueueHead} {e : Entry} (hh : s.headEntry n = some (q, h, e, v))
  (ht : v.queueTurn q h.prio = true)

include hh ht

theorem consume_unreadable (hp : e.poison = true) :
    exec (.launchEntryConsume n) s = .next ((v.consume n q h).refuseEntry h n e 17) := by
  show execLaunchEntryConsume n s = _
  rw [execLaunchEntryConsume, hh]
  dsimp only
  rw [if_neg (by simp [ht, hp]), if_pos hp]

theorem consume_bad (hp : e.poison = false) (hb : e.bad = true) :
    exec (.launchEntryConsume n) s = .next ((v.consume n q h).refuseEntry h n e 16) := by
  show execLaunchEntryConsume n s = _
  rw [execLaunchEntryConsume, hh]
  dsimp only
  rw [if_neg (by simp [ht, hb]), if_neg (by simp [hp]), if_pos hb]

theorem consume_launches (hp : e.poison = false) (hb : e.bad = false) (hk : e.kind ≠ 1) :
    exec (.launchEntryConsume n) s =
      match (v.consume n q h).groomRead h.ctx e.desc 256 with
      | none => .next ((v.consume n q h).refuseEntry h n e 17)
      | some (b, s) =>
        let why := s.refusal h b
        if why = 0 then .next (s.acceptLaunch h n e (launchDesc b)) else .next (s.refuseEntry h n e why) := by
  show execLaunchEntryConsume n s = _
  rw [execLaunchEntryConsume, hh]
  dsimp only
  rw [if_neg (by simp [ht, hk]), if_neg (by simp [hp]), if_neg (by simp [hb])] <;> rfl

theorem fileLoad_loads (hp : e.poison = false) (hb : e.bad = false) (hk : e.kind = 1) :
    exec (.fileLoad n) s =
      match (v.consume n q h).loadFile h.ctx e.desc with
      | .error why => .next ((v.consume n q h).refuseEntry h n e why)
      | .ok (_, s) => .next ((s.order .rel .sys 0).endLoad h n e) := by
  show execFileLoad n s = _
  rw [execFileLoad, hh]
  dsimp only
  rw [if_neg (by simp [ht, hp, hk, hb])] <;> rfl

end

theorem exec_launchQueueReset {n : Nat} {s v : State} {q : LaunchQueue} {h : QueueHead} (hq : sfind s.launch.queues n = some q)
    (hh : s.queueHead q = some (h, v)) (hn : v.headEntry n = none) :
    exec (.launchQueueReset n) s = .next ((List.range h.nent).foldl
      (fun s i => s.outWrite h.ctx (h.ring + 64 * i + 56) (leBytes 8 0)) (v.outWrite q.ctx (q.header + 16) (leBytes 20 0))) := by
  show execLaunchQueueReset n s = _
  rw [execLaunchQueueReset, hq]
  dsimp only
  rw [hh]
  dsimp only
  rw [if_neg (by rw [hn]; decide)]

/-! ### Ends of grids -/

/-- A grid is not over: it has gangs or jobs left, or an access or a sample of it is on its way. -/
theorem gridEnd_waits {n : Nat} {s : State} {gr : Grid} (hg : s.gridOf n = some gr)
    (h : gr.ended = true ∨ gr.gangsLeft ≠ 0 ∨ gr.jobs ≠ 0
      ∨ (¬ ∀ e ∈ s.ops, e.2.grid = n → e.2.unperformed = false ∧ e.2.incomplete = false)
      ∨ ¬ ∀ e ∈ s.prof.queues, ∀ x ∈ e.2, x.grid ≠ n) : exec (.gridEnd n) s = .fault .notEnabled := by
  show execGridEnd n s = _
  rw [execGridEnd, hg]
  refine if_pos ?_
  rcases h with h | h | h | h | h
  · exact .inl h
  · exact .inr (.inl h)
  · exact .inr (.inr (.inl h))
  · refine .inr (.inr (.inr (.inl ?_)))
    push Not at h
    obtain ⟨e, he, hgr, hu⟩ := h
    refine List.any_eq_true.mpr ⟨e, he, ?_⟩
    simp only [hgr, decide_true, Bool.true_and, Bool.or_eq_true]
    by_cases hp : e.2.unperformed = true
    · exact .inl hp
    · exact .inr (by simpa using hu (by simpa using hp))
  · refine .inr (.inr (.inr (.inr ?_)))
    push Not at h
    obtain ⟨e, he, x, hx, hgr⟩ := h
    exact List.any_eq_true.mpr ⟨e, he, List.any_eq_true.mpr ⟨x, hx, decide_eq_true hgr⟩⟩

theorem gridEnd_ends {n : Nat} {s : State} {gr : Grid} (hg : s.gridOf n = some gr) (he : gr.ended = false) (hl : gr.gangsLeft = 0)
    (hj : gr.jobs = 0) (hp : ∀ e ∈ s.ops, e.2.grid = n → e.2.unperformed = false ∧ e.2.incomplete = false)
    (hd : ∀ e ∈ s.prof.queues, ∀ x ∈ e.2, x.grid ≠ n) :
    exec (.gridEnd n) s =
      let u := s.order .rel .dev 0
      let out := if gr.fails + gr.xfail = 0 then 0 else 1
      let w := (u.writeCensus n gr.census).writeHeader n gr (gr.head out u.now)
      .next ((w.complete gr.ctx gr.cw gr.cv out 0 gr.irq).closeGrid n) := by
  show execGridEnd n s = _
  rw [execGridEnd, hg]
  refine if_neg ?_
  rintro (h | h | h | h | h)
  · exact Bool.false_ne_true (he.symm.trans h)
  · exact h hl
  · exact h hj
  · obtain ⟨e, hm, hu⟩ := List.any_eq_true.mp h
    simp only [Bool.and_eq_true, decide_eq_true_eq, Bool.or_eq_true] at hu
    obtain ⟨hpf, hic⟩ := hp e hm hu.1
    rw [hpf, hic] at hu
    simp at hu
  · obtain ⟨e, hm, hx⟩ := List.any_eq_true.mp h
    obtain ⟨x, hxm, hxg⟩ := List.any_eq_true.mp hx
    exact hd e hm x hxm (of_decide_eq_true hxg)

/-- A grid without a record area has nothing written there. -/
theorem recWrite_none {s : State} {n : Nat} {gr : Grid} (hg : s.gridOf n = some gr) (hr : gr.rec_ = 0) (off : Nat) (b : Bytes) :
    s.recWrite n off b = s := by
  rw [State.recWrite, hg]
  exact if_pos hr

theorem writeHeader_none {s : State} {n : Nat} {gr : Grid} (hg : s.gridOf n = some gr) (hr : gr.rec_ = 0) (x : Grid)
    (y : RecordHead) : s.writeHeader n x y = s := by
  rw [State.writeHeader, recWrite_none hg hr, recWrite_none hg hr, recWrite_none hg hr]

theorem writeCensus_none {s : State} {n : Nat} {gr : Grid} (hg : s.gridOf n = some gr) (hr : gr.rec_ = 0) (l : List Census) :
    s.writeCensus n l = s := by
  rw [State.writeCensus, recWrite_none hg hr]

theorem closeGrid_running (s : State) (n : Nat) : ∀ e ∈ (s.closeGrid n).launch.queues, n ∉ e.2.running := by
  intro e he
  obtain ⟨x, -, rfl⟩ := List.mem_map.mp he
  exact fun hm => absurd rfl (of_decide_eq_true (List.mem_filter.mp hm).2)

theorem gridOf_closeGrid {s : State} {n : Nat} {gr : Grid} (h : s.gridOf n = some gr) :
    (s.closeGrid n).gridOf n = some { gr with ended := true } := by
  refine (sfind_supd s.launch.grids n n fun g => { g with ended := true }).trans ?_
  have h : sfind s.launch.grids n = some gr := h
  rw [if_pos rfl, h]
  rfl

/-- Settles O46: entries by what their consumption leaves of the launch state, and the end of a grid by its conditions. -/
theorem launchEntriesAndGridEnds : Obligations.LaunchEntriesAndGridEnds := by
  unfold Obligations.LaunchEntriesAndGridEnds
  intro n s
  refine ⟨?_, fun q h v hq hh hn => exec_launchQueueReset hq hh hn, fun gr hg => ?_⟩
  · intro q h e v hh ht hm _ c gone served none_
    obtain ⟨hcm, hcl⟩ := consume_launch hm n q h
    have hnone {i : Instr} {u : State} {why : Nat} (hu : u.launch = c.launch) (hum : u.mon = [])
        (hi : exec i s = .next (u.refuseEntry h n e why)) : none_ i := by
      obtain ⟨hp, hq, hs, hv⟩ := refuseEntry_starts_none hum h n e why
      refine ⟨_, hi, hp.trans ?_, hq.trans ?_, hs.trans ?_, hv⟩ <;> rw [hu, hcl] <;> rfl
    refine ⟨fun hp => hnone rfl hcm (consume_unreadable hh ht hp), fun hp hb => hnone rfl hcm (consume_bad hh ht hp hb),
      fun hp hb hk => ⟨fun hr => ?_, fun b u hr => ?_⟩, fun hp hb hk => ⟨fun r hr => ?_, fun u hr => ?_⟩⟩
    · have hx := consume_launches hh ht hp hb hk
      rw [hr] at hx
      exact hnone rfl hcm hx
    · have hx := consume_launches hh ht hp hb hk
      have hacc := groomRead_accesses hr
      have hul : u.launch = _ := hacc.launch.trans hcl
      rw [hr] at hx
      refine ⟨fun hw => hnone hacc.launch (hacc.mon.trans hcm) (hx.trans (if_neg hw)), fun hw => ?_⟩
      obtain ⟨hserved, hgrid, hpend, hqueues⟩ := acceptLaunch_starts (hacc.mon.trans hcm) h n e (launchDesc b)
      have hord : u.launch.nextOrder = v.launch.nextOrder := by rw [hul]
      rw [hord] at hgrid hpend hqueues
      refine ⟨_, _, hx.trans (if_pos hw), hserved.trans (by rw [hul]), hgrid, rfl, rfl, rfl, rfl, rfl, rfl, rfl, hpend,
        fun x hxq => ?_⟩
      rw [hqueues, hul, sfind_supd, if_pos rfl, sfind_supd, if_pos rfl, hxq]
      rfl
    · have hx := fileLoad_loads hh ht hp hb hk
      rw [hr] at hx
      exact hnone rfl hcm hx
    · have hx := fileLoad_loads hh ht hp hb hk
      rw [hr] at hx
      exact hx
  · intro performed drained
    refine ⟨gridEnd_waits hg, fun he hl hj hp hd hrec hm _ => ?_⟩
    intro u out w
    have hdev := accesses_order s .rel .dev 0
    have hsys := (accesses_order _ .rel .sys 0).after hdev
    have hgd : (s.order .rel .dev 0).gridOf n = some gr := by
      rw [State.gridOf, hdev.launch]
      exact hg
    have hw : Accesses s w := by
      show Accesses s (if gr.cw = 0 then u else u.outWrite gr.ctx gr.cw (leBytes 8 (gr.cv % 2 ^ 48 + out * 2 ^ 56)))
      split
      · exact hsys
      · exact hsys.trans (accesses_outWrite (hsys.mon.trans hm) _ _ _)
    have hgw : w.gridOf n = some gr := by
      rw [State.gridOf, hw.launch]
      exact hg
    have hx := gridEnd_ends hg he hl hj hp hd
    dsimp only at hx
    rw [writeCensus_none hgd hrec, writeHeader_none hgd hrec, complete_eq, Nat.zero_mul, Nat.add_zero] at hx
    refine ⟨_, _, hx, gridOf_closeGrid (s := { w with outbox := _ }) hgw, rfl, rfl, rfl, rfl, closeGrid_running _ n⟩

end Sys2Proof.Machine
end

section
/-! SUPPORT. A relation between states that every elementary part of an access to device memory keeps is kept by the whole access:
one induction over reads, walks and writes, for every frame of such accesses. -/

namespace Sys2Proof.Machine

/-- A relation that the elementary parts of an access to device memory keep (R262 to R266, R354 to R358, R375). -/
structure AccessClosed (R : State → State → Prop) : Prop where
  refl : ∀ s, R s s
  trans : ∀ {s u v}, R s u → R u v → R s v
  tlb : ∀ (s : State) (t : Sparse Tlb), R s { s with xlate := { s.xlate with tlb := t } }
  port : ∀ (s : State) (f : FabricState) (o : List Output), R s { s with fabric := f, outbox := o }
  cached : ∀ (s : State) (h : Sparse Nat) (b : Sparse (BitVec 512 × Bool)), R s { s with mem := { s.mem with held := h, rbuf := b } }
  dram : ∀ (s : State) (m : Mem) (p : Sparse Bool), R s { s with mem := { s.mem with hbm := m, hbmPsn := p } }
  activate : ∀ (s : State) (locs : List Nat), R s (s.activate locs)

namespace AccessClosed

variable {R : State → State → Prop} (h : AccessClosed R)

include h

theorem foldl {β : Type} {f : State → β → State} (hf : ∀ s b, R s (f s b)) (l : List β) (s : State) : R s (l.foldl f s) := by
  induction l generalizing s with
  | nil => exact h.refl s
  | cons b t ih => exact h.trans (hf s b) (ih _)

/-! ### Reads -/

theorem pump (n : Nat) (s : State) : R s (s.pump n) := by
  induction n generalizing s with
  | zero => exact h.refl s
  | succ n ih =>
    rw [State.pump]
    dsimp only
    split
    · exact h.refl s
    · exact h.trans (h.port s _ _) (ih _)

theorem burstsOf (s : State) (n : Nat) : R s (s.burstsOf n) := h.trans (h.port s _ s.outbox) (h.pump _ _)

theorem sendBursts (s : State) (ag : Agent) (write : Bool) (pa n : Nat) : R s (s.sendBursts ag write pa n) := by
  rw [State.sendBursts]
  split
  · refine h.trans (u := match ag.gid with | some _ => _ | none => _) ?_ (h.burstsOf _ n)
    split
    · split
      · exact h.port s _ s.outbox
      · exact h.refl s
    · exact h.refl s
  · exact h.refl s

theorem promote (s : State) (ag : Agent) (pa n : Nat) : R s (s.promote ag pa n) := by
  unfold State.promote
  dsimp only
  split
  · exact h.refl s
  · split
    · exact h.cached s _ _
    · exact h.refl s

theorem dropLines (s : State) (p : Nat → Bool) (l : List Nat) : R s (s.dropLines p l) := h.cached s s.mem.held _

theorem fillRbuf (s : State) (die line : Nat) : R s (s.fillRbuf die line) := by
  unfold State.fillRbuf
  split
  · exact h.refl s
  · exact h.cached s s.mem.held _

theorem readPa (s : State) (ag : Agent) (attr pa n : Nat) : R s (s.readPa ag attr pa n).2 := by
  rw [State.readPa]
  dsimp only
  split <;> dsimp only
  · exact h.trans (h.sendBursts _ _ _ _ _) (h.trans (h.promote _ _ _ _) (h.trans (h.activate _ _)
      (h.foldl (fun s l => h.fillRbuf s _ l) _ _)))
  · exact h.trans (h.sendBursts _ _ _ _ _) (h.trans (h.promote _ _ _ _) (h.trans (h.activate _ _) (h.dropLines _ _ _)))

/-! ### Translation -/

theorem walkLevel (core : Option Nat) (ctx va level table : Nat) {next : Nat → State → WalkRes × State}
    (hn : ∀ t s, R s (next t s).2) (s : State) : R s (walkLevel core ctx va level table next s).2 := by
  have hp : R s (s.readPte (table + 8 * vaIndex va level)).2 := h.readPa s _ _ _ _
  have hset (u : State) (f : Nat → Tlb) : R u (match core with | some c => u.setTlb c (f c) | none => u) := by
    split
    · exact h.tlb u _
    · exact h.refl u
  delta Machine.walkLevel
  dsimp only
  split
  · split
    · exact hset s _
    · exact h.trans (hset s _) (hn _ _)
  · split
    · exact h.refl s
    · split
      · rename_i u hu
        rw [hu] at hp
        exact hp
      · rename_i e u hu
        rw [hu] at hp
        split
        · exact hp
        · split
          · split
            · exact hp
            · exact hp
          · split
            · exact hp
            · split
              · exact h.trans (h.trans hp (hset u _)) (hn _ _)
              · exact hp

theorem walkFrom (core : Option Nat) (ctx va level table : Nat) (s : State) : R s (walkFrom core ctx va level table s).2 := by
  induction level generalizing table s with
  | zero =>
    rw [walkFrom_zero]
    exact h.walkLevel core ctx va 0 table (fun _ s => h.refl s) s
  | succ l ih =>
    rw [walkFrom_succ]
    exact h.walkLevel core ctx va (l + 1) table ih s

theorem translate (s : State) (cn : Option Nat) (ctx va : Nat) (k : Acc) : R s (s.translate cn ctx va k).2 := by
  unfold State.translate
  dsimp only
  split
  · exact h.refl s
  · split
    · exact h.tlb s _
    · split
      · exact h.refl s
      · rename_i cn _ _ _ _ c _
        have hw := h.walkFrom cn ctx va 3 c.root s
        split
        · rename_i level e u hu
          rw [hu] at hw
          split
          · exact h.trans hw (h.tlb u _)
          · exact hw
        · rename_i f u hu
          rw [hu] at hw
          exact hw

theorem readParts (ag : Agent) (l : List (Nat × Nat)) (acc : Got) (s : State) : R s (readParts ag l acc s).2 := by
  induction l generalizing acc s with
  | nil => exact h.refl s
  | cons p t ih =>
    obtain ⟨va, n⟩ := p
    have ht := h.translate s ag.core ag.ctx va .read
    rw [Machine.readParts]
    split
    · rename_i u hu
      rw [hu] at ht
      exact h.trans (h.trans ht (h.readPa u _ _ _ _)) (ih _ _)
    · rename_i u hu
      rw [hu] at ht
      exact ht

theorem readVa (s : State) (ag : Agent) (va n : Nat) : R s (s.readVa ag va n).2 := h.readParts _ _ _ s

/-! ### Writes, where no wait stands -/

theorem writePlaces (ag : Agent) (l : List (Nat × Nat)) (s : State) : R s (writePlaces ag l s).2 := by
  induction l generalizing s with
  | nil => exact h.refl s
  | cons p t ih =>
    obtain ⟨va, n⟩ := p
    have ht := h.translate s ag.core ag.ctx va .write
    rw [Machine.writePlaces]
    split
    · rename_i u hu
      rw [hu] at ht
      have hi := ih u
      split
      · rename_i v hv
        rw [hv] at hi
        exact h.trans ht hi
      · exact h.trans ht hi
    · rename_i u hu
      rw [hu] at ht
      exact ht

theorem writeFrame {s : State} (hm : s.mon = []) (ag : Agent) (attr pa : Nat) (b : Bytes) : R s (s.writeFrame ag attr pa b) := by
  have ha := (accesses_activate (s.promote ag pa b.length) ((s.promote ag pa b.length).locs pa b.length)).after
    (accesses_promote s ag pa b.length)
  rw [State.writeFrame]
  rw [wakeRange_of_no_wait]
  · exact h.trans (h.trans (h.promote s ag pa b.length) (h.activate _ _)) (h.trans (h.dram _ _ _) (h.dropLines _ _ _))
  · exact ha.mon.trans hm

theorem writePa {s : State} (hm : s.mon = []) (ag : Agent) (attr pa : Nat) (b : Bytes) : R s (s.writePa ag attr pa b) := by
  have hs := h.sendBursts s ag true pa b.length
  have hn : (s.sendBursts ag true pa b.length).mon = [] := (accesses_sendBursts s ag true pa b.length).mon.trans hm
  rw [State.writePa]
  split
  · refine (foldl_keeps (fun u : State => R s u ∧ u.mon = []) _ _ _ ⟨hs, hn⟩ fun u d hu => ?_).1
    exact ⟨h.trans hu.1 (h.writeFrame hu.2 _ _ _ _), (accesses_writeFrame hu.2 _ _ _ _).mon.trans hu.2⟩
  · exact h.trans hs (h.writeFrame hn _ _ _ _)

theorem writeVa {s : State} (hm : s.mon = []) (ag : Agent) (va : Nat) (b : Bytes) : R s (s.writeVa ag va b).2 := by
  have hp := h.writePlaces ag (granuleParts va b.length) s
  have hn := (accesses_writePlaces ag (granuleParts va b.length) s).mon.trans hm
  unfold State.writeVa
  split
  · rename_i l u hw
    rw [hw] at hp hn
    refine (foldl_keeps (fun a : State × Bytes => R s a.1 ∧ a.1.mon = []) _ _ _ ⟨hp, hn⟩ fun a p ha => ?_).1
    exact ⟨h.trans ha.1 (h.writePa ha.2 _ _ _ _), (accesses_writePa ha.2 _ _ _ _).mon.trans ha.2⟩
  · rename_i hw
    rw [hw] at hp
    exact hp

theorem kWrite {s : State} (hm : s.mon = []) (g : Group) (off : Nat) (b : Bytes) : R s (s.kWrite g off b).2 := by
  have hw := h.writeVa hm g.agent (g.sgk.base + off) b
  unfold State.kWrite
  split
  · split
    · rename_i hu
      rw [hu] at hw
      exact hw
    · rename_i hu
      rw [hu] at hw
      exact hw
  · exact h.refl s

end AccessClosed

/-! ### What an access to device memory leaves of the other memories -/

/-- The memories of the cores and the Yards with their poison, and the matrices, are as they were, and so are the contexts and the
upcalls. -/
def SameLocal (s u : State) : Prop :=
  u.mem = { s.mem with hbm := u.mem.hbm, hbmPsn := u.mem.hbmPsn, held := u.mem.held, rbuf := u.mem.rbuf }
    ∧ u.xlate = { s.xlate with tlb := u.xlate.tlb }

theorem SameLocal.trans {s u v : State} (h : SameLocal s u) (k : SameLocal u v) : SameLocal s v := by
  obtain ⟨hm, hx⟩ := h
  obtain ⟨km, kx⟩ := k
  refine ⟨km.trans ?_, kx.trans ?_⟩
  · rw [hm]
  · rw [hx]

theorem sameLocal_foldl {β : Type} {f : State → β → State} (hf : ∀ s b, SameLocal s (f s b)) (l : List β) (s : State) :
    SameLocal s (l.foldl f s) := by
  induction l generalizing s with
  | nil => exact ⟨rfl, rfl⟩
  | cons b t ih => exact (hf s b).trans (ih _)

theorem sameLocal_applyReg (s : State) (key : Nat) (r : SweepReg) (row : Nat) : SameLocal s (applyReg s key r row) := by
  rw [applyReg]
  dsimp only
  split
  · exact ⟨rfl, rfl⟩
  · unfold transformRow
    dsimp only
    split <;> exact ⟨rfl, rfl⟩

theorem sameLocal_activate (s : State) (locs : List Nat) : SameLocal s (s.activate locs) := by
  have hn : SameLocal s (s.noteShut locs) := by
    rw [State.noteShut]
    split <;> exact ⟨rfl, rfl⟩
  rw [State.activate]
  split
  · exact hn
  · refine hn.trans ?_
    rw [touchRows]
    split
    · exact ⟨rfl, rfl⟩
    · exact sameLocal_foldl (fun s row => sameLocal_foldl (fun s _ => sameLocal_applyReg s _ _ _) _ s) _ _

theorem sameLocal_closed : AccessClosed SameLocal where
  refl _ := ⟨rfl, rfl⟩
  trans := SameLocal.trans
  tlb _ _ := ⟨rfl, rfl⟩
  port _ _ _ := ⟨rfl, rfl⟩
  cached _ _ _ := ⟨rfl, rfl⟩
  dram _ _ _ := ⟨rfl, rfl⟩
  activate := sameLocal_activate

end Sys2Proof.Machine
end

section
/-! SUPPORT. The placement of a gang (O47): each group enters the device under the next number, and each team's window reads
zero. -/

namespace Sys2Proof.Machine

/-- What entering groups and windows keeps, where no wait stands: the issuing group, the launch state, the Yards, and the groups
that are there. -/
structure Enters (s u : State) : Prop where
  mon : u.mon = []
  cur : u.cur = s.cur
  launch : u.launch = s.launch
  yard : u.mem.yard = s.mem.yard
  next : s.nextId ≤ u.nextId
  others : ∀ k, k < s.nextId → sfind u.others k = sfind s.others k

theorem Enters.refl {s : State} (h : s.mon = []) : Enters s s := ⟨h, rfl, rfl, rfl, Nat.le_refl _, fun _ _ => rfl⟩

theorem Enters.trans {s u v : State} (h : Enters s u) (k : Enters u v) : Enters s v :=
  ⟨k.mon, k.cur.trans h.cur, k.launch.trans h.launch, k.yard.trans h.yard, h.next.trans k.next,
    fun n hn => (k.others n (Nat.lt_of_lt_of_le hn h.next)).trans (h.others n hn)⟩

theorem enters_foldl {β : Type} {f : State → β → State} (hf : ∀ s b, s.mon = [] → Enters s (f s b)) (l : List β) {s : State}
    (h : s.mon = []) : Enters s (l.foldl f s) := by
  induction l generalizing s with
  | nil => exact .refl h
  | cons b t ih => exact (hf s b h).trans (ih (hf s b h).mon)

/-- A step of a run stands between what goes before it and what comes after it. -/
theorem enters_around {β : Type} {f : State → β → State} (hf : ∀ s b, s.mon = [] → Enters s (f s b)) {l : List β} {b : β}
    (hb : b ∈ l) {s : State} (h : s.mon = []) : ∃ w, Enters s w ∧ Enters (f w b) (l.foldl f s) := by
  induction l generalizing s with
  | nil => cases hb
  | cons c t ih =>
    rcases List.mem_cons.mp hb with rfl | hb
    · exact ⟨s, .refl h, enters_foldl hf t (hf s b h).mon⟩
    · obtain ⟨w, hw, hr⟩ := ih hb (hf s c h).mon
      exact ⟨w, (hf s c h).trans hw, hr⟩

/-! ### Groups -/

section

variable {s : State} (h : s.mon = [])

include h

theorem placeGroup_accesses (g : Group) :
    Accesses { s with nextId := s.nextId + 1, others := sput s.others s.nextId g } (s.placeGroup g) :=
  accesses_kWrite (s := { s with nextId := s.nextId + 1, others := sput s.others s.nextId g }) h g 0 (launchHeader g)

theorem placeGroup_nextId (g : Group) : (s.placeGroup g).nextId = s.nextId + 1 :=
  (congrArg State.nextId (placeGroup_accesses h g).frame).trans rfl

theorem placeGroup_others (g : Group) : (s.placeGroup g).others = sput s.others s.nextId g := (placeGroup_accesses h g).others

theorem placeGroup_shared (g : Group) : (s.placeGroup g).mem.shared = s.mem.shared :=
  (congrArg Memories.shared (sameLocal_closed.kWrite
    (s := { s with nextId := s.nextId + 1, others := sput s.others s.nextId g }) h g 0 (launchHeader g)).1).trans rfl

theorem placeGroup_enters (g : Group) : Enters s (s.placeGroup g) := by
  have ha := placeGroup_accesses h g
  refine ⟨ha.mon.trans h, ha.cur, ha.launch, ?_, ?_, fun k hk => ?_⟩
  · exact (congrArg Memories.yard (sameLocal_closed.kWrite
      (s := { s with nextId := s.nextId + 1, others := sput s.others s.nextId g }) h g 0 (launchHeader g)).1).trans rfl
  · rw [placeGroup_nextId h]
    exact Nat.le_succ _
  · rw [placeGroup_others h, sfind_sput, if_neg (by omega)]

end

/-- The groups of a team enter one after the other, each made for the next number. -/
def placeGroups (mk : Nat → Seat × Nat → Group) (l : List (Seat × Nat)) (s : State) : State :=
  l.foldl (fun s e => s.placeGroup (mk s.nextId e)) s

theorem placeGroups_enters (mk : Nat → Seat × Nat → Group) (l : List (Seat × Nat)) {s : State} (h : s.mon = []) :
    Enters s (placeGroups mk l s) := enters_foldl (fun _ _ h => placeGroup_enters h _) l h

theorem placeGroups_shared (mk : Nat → Seat × Nat → Group) (l : List (Seat × Nat)) {s : State} (h : s.mon = []) :
    (placeGroups mk l s).mem.shared = s.mem.shared := by
  refine (foldl_keeps (fun u : State => u.mem.shared = s.mem.shared ∧ u.mon = []) _ _ _ ⟨rfl, h⟩ fun u e hu => ?_).1
  exact ⟨(placeGroup_shared hu.2 _).trans hu.1, (placeGroup_enters hu.2 _).mon⟩

/-- Each seat's group is there, under a number that was free. -/
theorem placeGroups_places (mk : Nat → Seat × Nat → Group) {l : List (Seat × Nat)} {e : Seat × Nat} (he : e ∈ l) {s : State}
    (h : s.mon = []) :
    ∃ n, s.nextId ≤ n ∧ n < (placeGroups mk l s).nextId ∧ sfind (placeGroups mk l s).others n = some (mk n e) := by
  obtain ⟨w, hw, hr⟩ := enters_around (f := fun s e => s.placeGroup (mk s.nextId e)) (fun _ _ h => placeGroup_enters h _) he h
  have hn := placeGroup_nextId hw.mon (mk w.nextId e)
  have hlt : w.nextId < (w.placeGroup (mk w.nextId e)).nextId := by rw [hn]; exact Nat.lt_succ_self _
  refine ⟨w.nextId, hw.next, Nat.lt_of_lt_of_le hlt hr.next, (hr.others _ hlt).trans ?_⟩
  rw [placeGroup_others hw.mon, sfind_sput_same]

/-! ### Windows -/

theorem writeBlocks_frame {s : State} (h : s.mon = []) (core base len : Nat) (l : List (Nat × Bytes)) :
    s.writeBlocks core base len l = { s with mem := { s.mem with
      shared := (s.writeBlocks core base len l).mem.shared, sharedPsn := (s.writeBlocks core base len l).mem.sharedPsn } } := by
  refine foldl_keeps (fun t : State => t = { s with mem := { s.mem with shared := t.mem.shared, sharedPsn := t.mem.sharedPsn } })
    _ l s rfl fun t e ht => ?_
  split
  · rw [writeLocal_shared (by rw [ht]; exact h), ht]
  · exact ht

/-- What no format block covers stays as it was. -/
theorem writeBlocks_outside {s : State} (h : s.mon = []) (core base len : Nat) {l : List (Nat × Bytes)} {i : Nat}
    (ho : ∀ e ∈ l, i < e.1 ∨ e.1 + e.2.length ≤ i) :
    (s.writeBlocks core base len l).sharedByte core (base + i) = s.sharedByte core (base + i) := by
  induction l generalizing s with
  | nil => rfl
  | cons e t ih =>
    have htail := ho e List.mem_cons_self
    have hrest := fun (u : State) (hu : u.mon = []) => ih hu fun x hx => ho x (List.mem_cons_of_mem _ hx)
    show ((if e.1 + 32 ≤ len then s.writeLocal .s core (base + e.1) e.2 else s).writeBlocks core base len t).sharedByte _ _ = _
    split
    · rw [writeLocal_shared h]
      refine (hrest _ ?_).trans ?_
      · exact h
      refine sget_storeAt_other _ _ _ _ fun hm => ?_
      obtain ⟨j, hj, he⟩ := List.mem_map.mp hm
      have hj := List.mem_range.mp hj
      simp only [sharedAt] at he
      omega
    · exact hrest s h

theorem sharedByte_clearShared (s : State) (core base n c a : Nat) :
    (s.clearShared core base n).sharedByte c a
      = if sharedAt core base ≤ sharedAt c a ∧ sharedAt c a < sharedAt core base + n then 0 else s.sharedByte c a :=
  sget_sclear _ _ _ _ _

/-- The group of a seat of a team. -/
def seatGroup (gr : Grid) (grid gngx tign die yBase : Nat) (t : Team) (gid : Nat) (e : Seat × Nat) : Group :=
  newGroup gr grid gngx tign e.2 gid die yBase t e.1

section

variable (grid gngx tign die yBase : Nat) (gr : Grid) (t : Team) (seats : List Seat) {s : State} (h : s.mon = [])

theorem placeTeam_eq : s.placeTeam grid gngx tign die yBase gr t seats = placeGroups (seatGroup gr grid gngx tign die yBase t)
    seats.zipIdx ((s.clearShared t.core t.shBase t.shLen).writeBlocks t.core t.shBase t.shLen gr.blocks) := rfl

include h

theorem window_enters : Enters s ((s.clearShared t.core t.shBase t.shLen).writeBlocks t.core t.shBase t.shLen gr.blocks) := by
  have hf := writeBlocks_frame (s := s.clearShared t.core t.shBase t.shLen) h t.core t.shBase t.shLen gr.blocks
  generalize (s.clearShared t.core t.shBase t.shLen).writeBlocks t.core t.shBase t.shLen gr.blocks = w at hf ⊢
  exact ⟨(congrArg State.mon hf).trans h, (congrArg State.cur hf).trans rfl, (congrArg State.launch hf).trans rfl,
    (congrArg (fun u : State => u.mem.yard) hf).trans rfl, ((congrArg State.nextId hf).trans rfl).ge,
    fun k _ => (congrArg (fun u : State => sfind u.others k) hf).trans rfl⟩

theorem placeTeam_enters : Enters s (s.placeTeam grid gngx tign die yBase gr t seats) := by
  have hw := window_enters gr t h
  rw [placeTeam_eq]
  exact hw.trans (placeGroups_enters (seatGroup gr grid gngx tign die yBase t) seats.zipIdx hw.mon)

theorem placeTeam_places {i : Nat} {x : Seat} (hx : seats[i]? = some x) :
    ∃ n, s.nextId ≤ n ∧ n < (s.placeTeam grid gngx tign die yBase gr t seats).nextId
      ∧ sfind (s.placeTeam grid gngx tign die yBase gr t seats).others n = some (newGroup gr grid gngx tign i n die yBase t x) := by
  have hw := window_enters gr t h
  obtain ⟨n, hn, hlt, hf⟩ := placeGroups_places (seatGroup gr grid gngx tign die yBase t)
    (List.mk_mem_zipIdx_iff_getElem?.mpr hx) hw.mon
  exact ⟨n, hw.next.trans hn, hlt, hf⟩

/-- The window of a team reads zero, but where a format block stands. -/
theorem placeTeam_window {i : Nat} (hi : i < t.shLen) (ho : ∀ e ∈ gr.blocks, i < e.1 ∨ e.1 + e.2.length ≤ i) :
    (s.placeTeam grid gngx tign die yBase gr t seats).sharedByte t.core (t.shBase + i) = 0 := by
  have hw := window_enters gr t h
  rw [State.sharedByte, placeTeam_eq, placeGroups_shared _ _ hw.mon]
  refine (writeBlocks_outside (s := s.clearShared t.core t.shBase t.shLen) h _ _ _ ho).trans ?_
  rw [sharedByte_clearShared, if_pos]
  simp only [sharedAt]
  omega

/-- Without format blocks, what reads zero goes on to read zero. -/
theorem placeTeam_zero (hb : gr.blocks = []) {c a : Nat} (hz : s.sharedByte c a = 0) :
    (s.placeTeam grid gngx tign die yBase gr t seats).sharedByte c a = 0 := by
  have hw := window_enters gr t h
  rw [State.sharedByte, placeTeam_eq, placeGroups_shared _ _ hw.mon, hb]
  refine (sharedByte_clearShared s t.core t.shBase t.shLen c a).trans ?_
  split
  · rfl
  · exact hz

end

/-- The teams of a gang enter in order. -/
def placeTeams (grid gngx die yBase : Nat) (gr : Grid) (l : List ((Team × List Seat) × Nat)) (s : State) : State :=
  l.foldl (fun s e => s.placeTeam grid gngx e.2 die yBase gr e.1.1 e.1.2) s

theorem placeTeams_enters (grid gngx die yBase : Nat) (gr : Grid) (l : List ((Team × List Seat) × Nat)) {s : State}
    (h : s.mon = []) : Enters s (placeTeams grid gngx die yBase gr l s) :=
  enters_foldl (fun _ _ h => placeTeam_enters _ _ _ _ _ _ _ _ h) l h

theorem placeTeams_places (grid gngx die yBase : Nat) (gr : Grid) {l : List ((Team × List Seat) × Nat)} {s : State}
    (h : s.mon = []) {t : Team} {seats : List Seat} {j i : Nat} {x : Seat} (hl : ((t, seats), j) ∈ l) (hx : seats[i]? = some x) :
    ∃ n, s.nextId ≤ n
      ∧ sfind (placeTeams grid gngx die yBase gr l s).others n = some (newGroup gr grid gngx j i n die yBase t x) := by
  obtain ⟨w, hw, hr⟩ := enters_around (f := fun s e => s.placeTeam grid gngx e.2 die yBase gr e.1.1 e.1.2)
    (fun _ _ h => placeTeam_enters _ _ _ _ _ _ _ _ h) hl h
  obtain ⟨n, hn, hlt, hf⟩ := placeTeam_places grid gngx j die yBase gr t seats hw.mon hx
  exact ⟨n, hw.next.trans hn, (hr.others n hlt).trans hf⟩

/-- Without format blocks every window reads zero, whatever teams come after. -/
theorem placeTeams_window (grid gngx die yBase : Nat) (gr : Grid) (hb : gr.blocks = []) {l : List ((Team × List Seat) × Nat)}
    {s : State} (h : s.mon = []) {t : Team} {seats : List Seat} {j i : Nat} (hl : ((t, seats), j) ∈ l) (hi : i < t.shLen) :
    (placeTeams grid gngx die yBase gr l s).sharedByte t.core (t.shBase + i) = 0 := by
  induction l generalizing s with
  | nil => cases hl
  | cons e r ih =>
    have he := placeTeam_enters grid gngx e.2 die yBase gr e.1.1 e.1.2 h
    rcases List.mem_cons.mp hl with rfl | hl
    · refine (foldl_keeps (fun u : State => u.mon = [] ∧ u.sharedByte t.core (t.shBase + i) = 0) _ r _ ⟨he.mon, ?_⟩
        fun u e hu => ?_).2
      · exact placeTeam_window grid gngx j die yBase gr t seats h hi (by rw [hb]; exact fun e he => absurd he List.not_mem_nil)
      · exact ⟨(placeTeam_enters _ _ _ _ _ _ _ _ hu.1).mon, placeTeam_zero _ _ _ _ _ _ _ _ hu.1 hb hu.2⟩
    · exact ih he.mon hl

/-! ### The gang -/

theorem exec_gangPlace {grid gang : Nat} {s : State} {gr : Grid} {p : GangSeat} (hg : s.gridOf grid = some gr)
    (hm : s.mayPlace grid gang = true) (hs : s.savedGang grid gang = none) (hp : s.gangSeat gr.desc.gangNeed s.room = some p) :
    exec (.gangPlace grid gang) s =
      let u := s.enterGang ⟨grid, gang, p.die, p.yBase, p.teams.map (·.1), s.steps, false⟩
      let u := u.modGrid grid fun g => { g with placed := g.placed.or (some s.now) }
      .next (placeTeams grid gang p.die p.yBase gr p.teams.zipIdx (u.clearYard p.die p.yBase gr.desc.yard)) := by
  show execGangPlace grid gang s = _
  rw [execGangPlace, hg]
  dsimp only
  rw [if_neg (by simp [hm, hs]), hp]
  rfl

theorem yardByte_clearYard (s : State) {die base n i : Nat} (hi : i < n) : (s.clearYard die base n).yardByte die (base + i) = 0 := by
  refine (sget_sclear _ _ _ _ _).trans (if_pos ?_)
  simp only [yardAt]
  omega

/-- The lanes of a launch (R55). -/
theorem launched_getLsbD {lanes l : Nat} (hl : l < 64) : (BitVec.ofNat 64 (2 ^ lanes - 1)).getLsbD l = true ↔ l < lanes := by
  rw [BitVec.getLsbD_ofNat, Nat.testBit_two_pow_sub_one]
  simp [hl]

/-- Settles O47: the windows are cleared and the groups enter one by one, and nothing that comes later takes that back. -/
theorem gangIsPlaced : Obligations.GangIsPlaced := by
  unfold Obligations.GangIsPlaced
  intro grid gang s gr p hg hmay hs hp hm d
  let u := ((s.enterGang ⟨grid, gang, p.die, p.yBase, p.teams.map (·.1), s.steps, false⟩).modGrid grid
    fun g => { g with placed := g.placed.or (some s.now) }).clearYard p.die p.yBase gr.desc.yard
  have hum : u.mon = [] := hm
  have he := placeTeams_enters grid gang p.die p.yBase gr p.teams.zipIdx hum
  refine ⟨_, exec_gangPlace hg hmay hs hp, ?_, ?_, he.cur, he.others, fun i hi => ?_, fun tm seats hmem i hi hb => ?_,
    fun j tm seats hj i x hx => ?_⟩
  · rw [he.launch]
    exact fun hmem => absurd rfl (of_decide_eq_true (List.mem_filter.mp hmem).2)
  · rw [he.launch]
    rfl
  · rw [State.yardByte, he.yard]
    exact yardByte_clearYard _ hi
  · rcases hb with hb | ⟨hlen, hb⟩
    · obtain ⟨j, hj⟩ := List.mem_iff_getElem?.mp hmem
      exact placeTeams_window _ _ _ _ _ hb hum (List.mk_mem_zipIdx_iff_getElem?.mpr hj) hi
    · obtain ⟨e, he1⟩ := List.length_eq_one_iff.mp hlen
      rw [he1] at hmem
      obtain rfl := List.mem_singleton.mp hmem
      have hz : p.teams.zipIdx = [((tm, seats), 0)] := by
        rw [he1]
        rfl
      rw [hz]
      exact placeTeam_window grid gang 0 p.die p.yBase gr tm seats hum hi hb
  · obtain ⟨n, hn, hf⟩ := placeTeams_places grid gang p.die p.yBase gr hum (List.mk_mem_zipIdx_iff_getElem?.mpr hj) hx
    refine ⟨n, _, hn, hf, rfl, rfl, rfl, rfl, rfl, rfl, rfl, rfl, rfl, rfl, rfl, rfl, rfl, rfl, rfl, rfl, rfl, rfl,
      fun l hl => launched_getLsbD hl, fun _ _ => rfl, fun _ => rfl, fun n => ?_, fun n => ?_, rfl, rfl, rfl, rfl, fun _ => rfl,
      fun _ => ⟨rfl, rfl⟩, fun _ => rfl, rfl, fun _ => rfl, rfl, rfl, rfl, rfl, rfl⟩
    · exact (sget_ofDense 0 d.sarg 0 n).trans (if_pos (Nat.zero_le _))
    · exact (sget_ofDense 0 d.aarg 0 n).trans (if_pos (Nat.zero_le _))

end Sys2Proof.Machine
end

section
/-! SUPPORT. Gangs taken off and placed again, and contexts switched and torn down (O48). -/

namespace Sys2Proof.Machine

/-- What one element of a list establishes and the others keep, the run over the list establishes. -/
theorem foldl_establishes {σ β : Type} (P : σ → Prop) (f : σ → β → σ) {l : List β} {b : β} (hb : b ∈ l) (hset : ∀ s, P (f s b))
    (hkeep : ∀ s, ∀ c ∈ l, P s → P (f s c)) (s : σ) : P (l.foldl f s) := by
  induction l generalizing s with
  | nil => cases hb
  | cons c t ih =>
    have ht : ∀ s, ∀ d ∈ t, P s → P (f s d) := fun s d hd => hkeep s d (List.mem_cons_of_mem _ hd)
    by_cases hbt : b ∈ t
    · exact ih hbt ht _
    · obtain rfl := (List.mem_cons.mp hb).resolve_right hbt
      clear ih hb hbt hkeep
      rw [List.foldl_cons]
      generalize f s b = u, hset s = hu
      induction t generalizing u with
      | nil => exact hu
      | cons d r ih => exact ih (fun s e he => ht s e (List.mem_cons_of_mem _ he)) _ (ht u d List.mem_cons_self hu)

/-! ### Settled operations -/

/-- An operation waits at its queue's head for its gang's return. -/
def State.savedAt (s : State) (k : Nat) : Prop := ∃ q, sfind s.ops k = some q ∧ q.phase = .saved

/-- What settling the operations of a gang keeps. -/
structure Settles (s u : State) : Prop where
  cur : u.cur = s.cur
  others : u.others = s.others
  mon : u.mon = s.mon
  gangs : u.launch.gangs = s.launch.gangs
  pending : u.launch.pending = s.launch.pending
  present : ∀ k, (sfind s.ops k).isSome = true → (sfind u.ops k).isSome = true
  saved : ∀ k, s.savedAt k → u.savedAt k

theorem Settles.refl (s : State) : Settles s s := ⟨rfl, rfl, rfl, rfl, rfl, fun _ => id, fun _ => id⟩

theorem Settles.trans {s u v : State} (h : Settles s u) (k : Settles u v) : Settles s v :=
  ⟨k.cur.trans h.cur, k.others.trans h.others, k.mon.trans h.mon, k.gangs.trans h.gangs, k.pending.trans h.pending,
    fun n hn => k.present n (h.present n hn), fun n hn => k.saved n (h.saved n hn)⟩

theorem settles_of_ops {s u : State} (hc : u.cur = s.cur) (ho : u.others = s.others) (hm : u.mon = s.mon)
    (hg : u.launch.gangs = s.launch.gangs) (hp : u.launch.pending = s.launch.pending) (h : u.ops = s.ops) : Settles s u :=
  ⟨hc, ho, hm, hg, hp, fun k hk => by rw [h]; exact hk, fun k hk => by rw [State.savedAt, h]; exact hk⟩

/-- A change of one operation that leaves a saved one saved. -/
theorem settles_modOp (s : State) (id : Nat) {f : Op → Op} (hf : ∀ op : Op, op.phase = .saved → (f op).phase = .saved) :
    Settles s (s.modOp id f) := by
  refine ⟨rfl, rfl, rfl, rfl, rfl, fun k hk => ?_, fun k ⟨q, hq, hp⟩ => ?_⟩
  · rw [State.modOp_ops, sfind_supd]
    split
    · rwa [Option.isSome_map]
    · exact hk
  · rw [State.savedAt, State.modOp_ops, sfind_supd, hq]
    split
    · exact ⟨f q, rfl, hf q hp⟩
    · exact ⟨q, rfl, hp⟩

theorem settles_modGrid (s : State) (n : Nat) (f : Grid → Grid) : Settles s (s.modGrid n f) := settles_of_ops rfl rfl rfl rfl rfl rfl

theorem settles_of_accesses {s u : State} (h : Accesses s u) : Settles s u :=
  settles_of_ops h.cur h.others h.mon (congrArg LaunchState.gangs h.launch) (congrArg LaunchState.pending h.launch) h.ops

theorem settles_traceRec {s : State} (hm : s.mon = []) (grid : Nat) (rec : Bytes) : Settles s (s.traceRec grid rec) := by
  rw [State.traceRec]
  split
  · exact .refl s
  · next gr hgr =>
    have hw := accesses_writeVa hm (outside gr.ctx) (gr.tbuf + gr.tused) rec
    dsimp only
    split
    · exact .refl s
    · split
      · exact settles_modGrid _ _ _
      · split
        · next hx =>
          rw [hx] at hw
          exact (settles_of_accesses hw).trans (settles_modGrid _ _ _)
        · next hx =>
          rw [hx] at hw
          exact (settles_of_accesses hw).trans (settles_modGrid _ _ _)

theorem settles_trace {s : State} (hm : s.mon = []) (id kind aux : Nat) : Settles s (s.trace id kind aux) := by
  rw [State.trace]
  split
  · exact .refl s
  · exact settles_traceRec hm _ _

theorem settles_returnLeave (s : State) (id : Nat) : Settles s (s.returnLeave id) := by
  rw [State.returnLeave]
  split
  · exact .refl s
  · next op _ =>
    have hl : Settles s { s with
        leave := { s.leave with free := s.leave.free + op.grant, waiting := s.leave.waiting.filter (· ≠ id) } } :=
      settles_of_ops rfl rfl rfl rfl rfl rfl
    exact hl.trans (settles_modOp _ id (f := fun op => { op with grant := 0 }) fun _ h => h)

theorem settles_freeEngine (s : State) (id : Nat) : Settles s (s.freeEngine id) := by
  rw [State.freeEngine]
  split
  · exact settles_of_ops rfl rfl rfl rfl rfl rfl
  · exact .refl s

/-- An operation gives back its grant and its engine and is saved. -/
def State.saveOp (s : State) (id : Nat) : State :=
  ((s.returnLeave id).freeEngine id).modOp id fun op => { op with phase := .saved, xl := [] }

theorem settles_saveOp (s : State) (id : Nat) : Settles s (s.saveOp id) :=
  ((settles_returnLeave s id).trans (settles_freeEngine _ id)).trans (settles_modOp _ id fun _ _ => rfl)

theorem savedAt_saveOp {s : State} {id : Nat} (h : (sfind s.ops id).isSome = true) : (s.saveOp id).savedAt id := by
  obtain ⟨q, hq⟩ := Option.isSome_iff_exists.mp (((settles_returnLeave s id).trans (settles_freeEngine _ id)).present id h)
  exact ⟨_, sfind_modOp hq fun op => { op with phase := .saved, xl := [] }, rfl⟩

theorem settleOp_eq (s : State) (e : Nat × Op) :
    s.settleOp e = match e.2.phase with
      | .running => (s.trace e.1 2 (s.splitDone e.1 e.2)).saveOp e.1
      | .leave => s.saveOp e.1
      | .queued => s.saveOp e.1
      | .logged => s.returnLeave e.1
      | _ => s := rfl

theorem settles_settleOp {s : State} (hm : s.mon = []) (e : Nat × Op) : Settles s (s.settleOp e) := by
  rw [settleOp_eq]
  split
  · exact (settles_trace hm _ _ _).trans (settles_saveOp _ _)
  · exact settles_saveOp _ _
  · exact settles_saveOp _ _
  · exact settles_returnLeave _ _
  · exact .refl s

/-- An operation that waits or runs is saved. -/
theorem savedAt_settleOp {s : State} (hm : s.mon = []) {e : Nat × Op} (h : (sfind s.ops e.1).isSome = true)
    (hp : e.2.phase = .queued ∨ e.2.phase = .running ∨ e.2.phase = .leave) : (s.settleOp e).savedAt e.1 := by
  rw [settleOp_eq]
  rcases hp with hp | hp | hp
  · rw [hp]
    exact savedAt_saveOp h
  · rw [hp]
    exact savedAt_saveOp ((settles_trace hm _ _ _).present _ h)
  · rw [hp]
    exact savedAt_saveOp h

theorem settles_foldl {s : State} (hm : s.mon = []) (l : List (Nat × Op)) : Settles s (l.foldl State.settleOp s) :=
  (foldl_keeps (fun u : State => Settles s u) _ l s (.refl s) fun _ e hu => hu.trans (settles_settleOp (hu.mon.trans hm) e))

theorem savedAt_foldl {s : State} (hm : s.mon = []) {l : List (Nat × Op)} {e : Nat × Op} (he : e ∈ l)
    (h : (sfind s.ops e.1).isSome = true) (hp : e.2.phase = .queued ∨ e.2.phase = .running ∨ e.2.phase = .leave) :
    (l.foldl State.settleOp s).savedAt e.1 := by
  induction l generalizing s with
  | nil => cases he
  | cons d t ih =>
    have hd := settles_settleOp hm d
    rcases List.mem_cons.mp he with rfl | he
    · exact (settles_foldl (hd.mon.trans hm) t).saved _ (savedAt_settleOp hm h hp)
    · exact ih (hd.mon.trans hm) he (hd.present _ h)

/-! ### Taking a gang off -/

theorem preempt_serves {grid gang : Nat} {s : State} (h : s.servesUpcall grid = true) :
    exec (.preemptGang grid gang) s = .fault .notEnabled := by
  show execPreemptGang grid gang s = _
  rw [execPreemptGang]
  split
  · rfl
  · exact if_pos (.inr h)

/-- A pre-emption that goes on, in a gang without a wait to end. -/
theorem preempt_goes {grid gang : Nat} {s : State} {x : Gang}
    (hx : s.launch.gangs.find? (fun g => g.grid = grid && g.gngx = gang) = some x) (hy : s.mustYield x = true ∨ x.leaving = true)
    (hu : s.servesUpcall grid = false) (hc : ∀ e ∈ s.gangOps grid gang, e.2.cut = false) :
    exec (.preemptGang grid gang) s =
      if s.gangStopped grid gang then .next ((s.markLeaving grid gang).takeOff x)
      else if x.leaving then notNow else .next (s.markLeaving grid gang) := by
  have hw : (s.gangOps grid gang).filter (fun e => e.2.cut) = [] :=
    List.filter_eq_nil_iff.mpr fun e he => by rw [hc e he]; decide
  have hn : ¬ ((x.leaving = false ∧ s.mustYield x = false) ∨ s.servesUpcall grid = true) := by
    rintro (⟨hl, hm⟩ | hs)
    · rcases hy with hy | hy
      · exact Bool.false_ne_true (hm.symm.trans hy)
      · exact Bool.false_ne_true (hl.symm.trans hy)
    · exact Bool.false_ne_true (hu.symm.trans hs)
  show execPreemptGang grid gang s = _
  rw [execPreemptGang, hx]
  dsimp only
  rw [if_neg (by simpa using hn), hw]
  simp only [List.foldl_nil, List.isEmpty_nil, true_and]
  rfl

theorem groups_dropGang (s : State) (grid gang : Nat) {g : Group} (h : g ∈ (s.dropGang grid gang).groups) :
    ¬ (g.gid ≠ 0 ∧ g.grid = grid ∧ g.gngx = gang) := by
  rintro ⟨h0, hg, hn⟩
  rw [State.groups] at h
  rcases List.mem_append.mp h with h | h
  · split at h
    · cases h
    · obtain rfl := List.mem_singleton.mp h
      revert h0 hg hn
      show (if _ then _ else _ : Group).gid ≠ 0 → (if _ then _ else _ : Group).grid = grid → (if _ then _ else _ : Group).gngx = gang → _
      split
      · exact fun h0 => absurd rfl h0
      · next hc =>
        intro h0 hg hn
        simp [hg, hn, h0] at hc
  · obtain ⟨e, he, rfl⟩ := List.mem_map.mp h
    have hk := (List.mem_filter.mp he).2
    simp [hg, hn] at hk

theorem takeOff_takes {u : State} {x : Gang} (hm : u.mon = []) :
    let t := u.takeOff x
    (∀ g ∈ t.groups, ¬ (g.gid ≠ 0 ∧ g.grid = x.grid ∧ g.gngx = x.gngx))
      ∧ (∀ g ∈ t.launch.gangs, ¬ (g.grid = x.grid ∧ g.gngx = x.gngx)) ∧ (x.grid, x.gngx) ∈ t.launch.pending
      ∧ (∃ sv ∈ t.launch.saved, sv.grid = x.grid ∧ sv.gngx = x.gngx ∧ sv.teams = x.teams
          ∧ ∀ g ∈ u.gangGroups x.grid x.gngx, g.off ∈ sv.groups)
      ∧ ∀ e ∈ u.gangOps x.grid x.gngx, e.2.phase = .queued ∨ e.2.phase = .running ∨ e.2.phase = .leave → t.savedAt e.1 := by
  intro t
  have hs := settles_foldl hm (u.gangOps x.grid x.gngx)
  refine ⟨fun g hg => groups_dropGang _ _ _ hg, fun g hg hc => ?_, ?_, ⟨_, List.mem_append_right _ (List.mem_singleton.mpr rfl),
    rfl, rfl, rfl, fun g hg => ?_⟩, fun e he hp => ?_⟩
  · have hk := (List.mem_filter.mp hg).2
    simp [hc.1, hc.2] at hk
  · exact List.mem_mergeSort.mpr (List.mem_append_right _ (List.mem_singleton.mpr rfl))
  · refine List.mem_mergeSort.mpr (List.mem_map.mpr ⟨g, ?_, rfl⟩)
    rw [State.gangGroups, State.groups, hs.cur, hs.others]
    exact hg
  · have hfound : (sfind u.ops e.1).isSome = true := by
      have hmem := List.mem_of_mem_filter he
      clear hs he t
      generalize u.ops = l at hmem
      induction l with
      | nil => cases hmem
      | cons d r ih =>
        rw [sfind]
        split
        · rfl
        · next hne =>
          rcases List.mem_cons.mp hmem with rfl | hmem
          · exact absurd rfl hne
          · exact ih hmem
    exact savedAt_foldl hm he hfound hp

/-! ### Placing a gang again -/

theorem place_base (m : Move) : m.place m.lo = m.dst := by
  rw [Move.place, if_pos ⟨Nat.le_refl _, Nat.le_add_right _ _⟩]
  omega

/-- The groups of a saved gang's team. -/
def SavedGang.teamGroups (x : SavedGang) (j : Nat) : List Group :=
  x.groups.filter fun g => g.grid = x.grid && g.gngx = x.gngx && g.tign = j

/-- Groups enter the seats of a team, each as it now stands there. -/
def seatAll (m : Moves) (die : Nat) (o : Sparse Group) (l : List (Group × Seat)) : Sparse Group :=
  l.foldl (fun o e => sput o e.1.gid ((m.group e.1).seated die e.2)) o

theorem foldl_seats (m : Moves) (die : Nat) (l : List (Group × Seat)) (s : State) :
    l.foldl (fun (s : State) e => { s with others := sput s.others e.1.gid ((m.group e.1).seated die e.2) }) s
      = { s with others := seatAll m die s.others l } := by
  induction l generalizing s with
  | nil => rfl
  | cons e t ih => rw [List.foldl_cons, ih]; rfl

theorem foldl_no_refill {l : List Group} (h : ∀ g ∈ l, g.refill = false) (s : State) :
    l.foldl (fun (s : State) g => if g.refill then s.refillGroup g.gid else s) s = s := by
  induction l generalizing s with
  | nil => rfl
  | cons g t ih =>
    rw [List.foldl_cons, if_neg (by rw [h g List.mem_cons_self]; decide)]
    exact ih (fun k hk => h k (List.mem_cons_of_mem _ hk)) s

/-- An operation of a team at its new core (R348, R349). -/
def Op.reloaded (steps grid team core : Nat) (m : Moves) (op : Op) : Op :=
  if op.grid = grid ∧ op.team = team then
    { op with core := core, work := m.work op.work, lead := steps + 1, phase := if op.phase = .saved then .queued else op.phase }
  else op

theorem reloaded_not_saved {steps grid team core : Nat} {m : Moves} {op : Op} (h : (op.reloaded steps grid team core m).phase = .saved) :
    op.phase = .saved ∧ ¬ (op.grid = grid ∧ op.team = team) := by
  rw [Op.reloaded] at h
  split at h
  · next hc =>
    dsimp only at h
    split at h
    · cases h
    · next hp => exact absurd h hp
  · next hc => exact ⟨h, hc⟩

theorem reloaded_place (steps grid team core : Nat) (m : Moves) (op : Op) :
    (op.reloaded steps grid team core m).grid = op.grid ∧ (op.reloaded steps grid team core m).team = op.team := by
  rw [Op.reloaded]
  split <;> exact ⟨rfl, rfl⟩

/-- What a team's return changes of groups, operations and the launch state, where no group of it has to be fetched again. -/
theorem reloadTeam_facts {x : SavedGang} (hr : ∀ g ∈ x.groups, g.refill = false) (s : State) (p : GangSeat) (yard j : Nat) (t : Team)
    (seats : List Seat) :
    let u := s.reloadTeam x p yard j t seats
    u.cur = s.cur ∧ u.launch.pending = s.launch.pending ∧ u.launch.saved = s.launch.saved
      ∧ u.others = seatAll (teamMoves x p yard j) p.die s.others ((x.teamGroups j).zip seats)
      ∧ u.ops = s.ops.map fun e => (e.1, e.2.reloaded s.steps x.grid (x.gngx * x.teams.length + j) t.core (teamMoves x p yard j)) := by
  have hsh : (s.reloadShared t ((x.shared[j]?).getD ([], []))).cur = s.cur ∧ (s.reloadShared t ((x.shared[j]?).getD ([], []))).launch = s.launch
      ∧ (s.reloadShared t ((x.shared[j]?).getD ([], []))).others = s.others ∧ (s.reloadShared t ((x.shared[j]?).getD ([], []))).ops = s.ops
      ∧ (s.reloadShared t ((x.shared[j]?).getD ([], []))).steps = s.steps := by
    rw [State.reloadShared]
    split <;> exact ⟨rfl, rfl, rfl, rfl, rfl⟩
  unfold State.reloadTeam
  dsimp only
  rw [foldl_seats, foldl_no_refill fun g hg => hr g (List.mem_of_mem_filter hg)]
  generalize s.reloadShared t ((x.shared[j]?).getD ([], [])) = w at hsh
  obtain ⟨hc, hl, ho, hops, hst⟩ := hsh
  refine ⟨hc, congrArg LaunchState.pending hl, congrArg LaunchState.saved hl, ?_, ?_⟩
  · rw [← ho]
    rfl
  · rw [← hops, ← hst]
    rfl

/-- A saved group with a number of its own stands in its seat. -/
theorem sfind_seatAll (m : Moves) (die : Nat) {gs : List Group} {seats : List Seat} (hn : (gs.map (·.gid)).Nodup) {i : Nat} {g : Group}
    {y : Seat} (hg : gs[i]? = some g) (hy : seats[i]? = some y) (o : Sparse Group) :
    sfind (seatAll m die o (gs.zip seats)) g.gid = some ((m.group g).seated die y) := by
  have hz : (gs.zip seats)[i]? = some (g, y) := List.getElem?_zip_eq_some.mpr ⟨hg, hy⟩
  refine foldl_establishes (fun o => sfind o g.gid = some ((m.group g).seated die y)) _ (List.mem_iff_getElem?.mpr ⟨i, hz⟩)
    (fun o => sfind_sput_same _ _ _) (fun o e he ho => ?_) o
  rw [sfind_sput]
  split
  · next heq =>
    obtain ⟨k, hk⟩ := List.mem_iff_getElem?.mp he
    obtain ⟨hkg, hky⟩ := List.getElem?_zip_eq_some.mp hk
    have hlt : k < (gs.map (·.gid)).length := by
      rw [List.length_map]
      exact (List.getElem?_eq_some_iff.mp hkg).1
    obtain rfl : k = i := (List.getElem?_inj hlt hn).mp (by rw [List.getElem?_map, List.getElem?_map, hkg, hg, Option.map_some, Option.map_some, heq])
    obtain rfl : e = (g, y) := Option.some_inj.mp (hk.symm.trans hz)
    rfl
  · exact ho

/-- The seats of groups leave the groups of other numbers alone. -/
theorem sfind_seatAll_other (m : Moves) (die : Nat) {l : List (Group × Seat)} {k : Nat} (h : ∀ e ∈ l, e.1.gid ≠ k) (o : Sparse Group) :
    sfind (seatAll m die o l) k = sfind o k := by
  induction l generalizing o with
  | nil => rfl
  | cons e t ih =>
    refine (ih (fun d hd => h d (List.mem_cons_of_mem _ hd)) _).trans ?_
    rw [sfind_sput, if_neg fun hk => h e List.mem_cons_self hk.symm]

/-- Groups of a list with the same number are one. -/
theorem eq_of_gid_eq {l : List Group} (h : (l.map (·.gid)).Nodup) {g k : Group} (hg : g ∈ l) (hk : k ∈ l) (he : g.gid = k.gid) : g = k :=
  List.inj_on_of_nodup_map h hg hk he

/-- The teams of a saved gang return in order. -/
def reloadTeams (x : SavedGang) (p : GangSeat) (yard : Nat) (s : State) : State :=
  p.teams.zipIdx.foldl (fun s e => s.reloadTeam x p yard e.2 e.1.1 e.1.2) s

section

variable {x : SavedGang} (hr : ∀ g ∈ x.groups, g.refill = false) (p : GangSeat) (yard : Nat) (s : State)

include hr

theorem reloadTeams_frame : (reloadTeams x p yard s).cur = s.cur ∧ (reloadTeams x p yard s).launch.pending = s.launch.pending
    ∧ (reloadTeams x p yard s).launch.saved = s.launch.saved := by
  refine foldl_keeps (fun u : State => u.cur = s.cur ∧ u.launch.pending = s.launch.pending ∧ u.launch.saved = s.launch.saved) _ _ _
    ⟨rfl, rfl, rfl⟩ fun u e hu => ?_
  obtain ⟨hc, hp, hs, -, -⟩ := reloadTeam_facts hr u p yard e.2 e.1.1 e.1.2
  exact ⟨hc.trans hu.1, hp.trans hu.2.1, hs.trans hu.2.2⟩

theorem reloadTeams_ops {j : Nat} (hj : j < p.teams.length) : ∀ e ∈ (reloadTeams x p yard s).ops, e.2.phase = .saved →
    ¬ (e.2.grid = x.grid ∧ e.2.team = x.gngx * x.teams.length + j) := by
  obtain ⟨tm, htm⟩ : ∃ tm, p.teams[j]? = some tm := ⟨_, List.getElem?_eq_getElem hj⟩
  refine foldl_establishes (fun u : State => ∀ e ∈ u.ops, e.2.phase = .saved →
    ¬ (e.2.grid = x.grid ∧ e.2.team = x.gngx * x.teams.length + j)) _ (List.mk_mem_zipIdx_iff_getElem?.mpr htm) (fun u => ?_)
    (fun u c _ hu => ?_) s
  · obtain ⟨-, -, -, -, hops⟩ := reloadTeam_facts hr u p yard j tm.1 tm.2
    intro e he hp
    rw [hops] at he
    obtain ⟨d, -, rfl⟩ := List.mem_map.mp he
    obtain ⟨hgrid, hteam⟩ := reloaded_place u.steps x.grid (x.gngx * x.teams.length + j) tm.1.core (teamMoves x p yard j) d.2
    dsimp only
    rw [hgrid, hteam]
    exact (reloaded_not_saved hp).2
  · obtain ⟨-, -, -, -, hops⟩ := reloadTeam_facts hr u p yard c.2 c.1.1 c.1.2
    intro e he hp
    rw [hops] at he
    obtain ⟨d, hd, rfl⟩ := List.mem_map.mp he
    obtain ⟨hgrid, hteam⟩ := reloaded_place u.steps x.grid (x.gngx * x.teams.length + c.2) c.1.1.core (teamMoves x p yard c.2) d.2
    dsimp only
    rw [hgrid, hteam]
    exact hu d hd (reloaded_not_saved hp).1

theorem reloadTeams_group (hn : (x.groups.map (·.gid)).Nodup) {j i : Nat} {tm : Team} {seats : List Seat} {g : Group} {y : Seat}
    (hj : p.teams[j]? = some (tm, seats)) (hg : (x.teamGroups j)[i]? = some g) (hy : seats[i]? = some y) :
    sfind (reloadTeams x p yard s).others g.gid = some (((teamMoves x p yard j).group g).seated p.die y) := by
  have hgm : g ∈ x.teamGroups j := List.mem_iff_getElem?.mpr ⟨i, hg⟩
  have hnj : ((x.teamGroups j).map (·.gid)).Nodup := hn.sublist (List.filter_sublist.map _)
  have hset (u : State) : sfind (u.reloadTeam x p yard j tm seats).others g.gid
      = some (((teamMoves x p yard j).group g).seated p.die y) := by
    obtain ⟨-, -, -, ho, -⟩ := reloadTeam_facts hr u p yard j tm seats
    rw [ho]
    exact sfind_seatAll _ _ hnj hg hy _
  refine foldl_establishes (fun u : State => sfind u.others g.gid = some (((teamMoves x p yard j).group g).seated p.die y)) _
    (List.mk_mem_zipIdx_iff_getElem?.mpr hj) hset (fun u c hc hu => ?_) s
  obtain ⟨⟨tm', seats'⟩, k⟩ := c
  by_cases hk : k = j
  · subst hk
    obtain h : (tm', seats') = (tm, seats) := Option.some_inj.mp ((List.mk_mem_zipIdx_iff_getElem?.mp hc).symm.trans hj)
    obtain ⟨rfl, rfl⟩ := Prod.mk.inj h
    exact hset u
  · obtain ⟨-, -, -, ho, -⟩ := reloadTeam_facts hr u p yard k tm' seats'
    dsimp only
    rw [ho, sfind_seatAll_other]
    · exact hu
    · intro e he hgid
      have hem := (List.of_mem_zip he).1
      have heq := eq_of_gid_eq hn (List.mem_of_mem_filter hem) (List.mem_of_mem_filter hgm) hgid
      have hke := (List.mem_filter.mp hem).2
      have hje := (List.mem_filter.mp hgm).2
      rw [heq] at hke
      simp only [Bool.and_eq_true, decide_eq_true_eq] at hke hje
      exact hk (hke.2.symm.trans hje.2)

end

/-- A saved gang has its place again, and its Yard window, but no team yet. -/
def State.regain (s : State) (grid gang : Nat) (gr : Grid) (x : SavedGang) (p : GangSeat) : State :=
  let u := s.enterGang ⟨grid, gang, p.die, p.yBase, p.teams.map (·.1), s.steps, false⟩
  let u := { u with launch := { u.launch with saved := u.launch.saved.filter fun y => !(y.grid = grid && y.gngx = gang) } }
  (u.dropDie p.die).reloadYard p.die p.yBase gr.desc.yard x.yard

theorem exec_gangRestore {grid gang : Nat} {s : State} {gr : Grid} {x : SavedGang} {p : GangSeat} (hg : s.gridOf grid = some gr)
    (hx : s.savedGang grid gang = some x) (hm : s.mayPlace grid gang = true) (hp : s.gangSeat (x.need gr.desc) s.room = some p) :
    exec (.gangRestore grid gang) s = .next (reloadTeams x p gr.desc.yard (s.regain grid gang gr x p)) := by
  show execGangRestore grid gang s = _
  rw [execGangRestore, hg, hx]
  dsimp only
  rw [if_neg (by rw [hm]; decide), hp]
  rfl

theorem pending_regain (s : State) (grid gang : Nat) (gr : Grid) (x : SavedGang) (p : GangSeat) :
    (s.regain grid gang gr x p).launch.pending = s.launch.pending.filter (· ≠ (grid, gang)) := rfl

theorem saved_regain (s : State) (grid gang : Nat) (gr : Grid) (x : SavedGang) (p : GangSeat) :
    (s.regain grid gang gr x p).launch.saved = s.launch.saved.filter fun y => !(y.grid = grid && y.gngx = gang) := rfl

/-! ### Contexts -/

theorem switchCtx_same {s : State} {n : Nat} {c : Ctx} (h : sfind s.xlate.ctxs n = some c) :
    s.switchCtx n c.switchedOut = .fault .notEnabled := by
  rw [State.switchCtx, h]
  exact if_pos rfl

theorem switchCtx_other {s : State} {n : Nat} {c : Ctx} {out : Bool} (h : sfind s.xlate.ctxs n = some c) (ho : c.switchedOut ≠ out) :
    s.switchCtx n out = .next { s with xlate := { s.xlate with ctxs := sput s.xlate.ctxs n { c with switchedOut := out } } } := by
  rw [State.switchCtx, h]
  exact if_neg ho

theorem exec_contextTeardown {s : State} {n : Nat} {c : Ctx} (h : sfind s.xlate.ctxs n = some c) :
    exec (.contextTeardown n) s = if s.sweepsCancel n then .next (s.tearDown n) else .fault .notEnabled := by
  show execContextTeardown n s = _
  rw [execContextTeardown, h]
  cases s.sweepsCancel n <;> rfl

/-- Nothing of a context is registered once it is dropped. -/
theorem dropCtx_none (s : State) (n : Nat) : sfind (s.dropCtx n).xlate.ctxs n = none ∧ (∀ e ∈ (s.dropCtx n).launch.queues, e.2.ctx ≠ n)
    ∧ (∀ e ∈ (s.dropCtx n).nvme.pairs, e.2.ctx ≠ n) ∧ ∀ r ∈ (s.dropCtx n).nvme.reqs, r.ctx ≠ n := by
  refine ⟨?_, fun e he => of_decide_eq_true (List.mem_filter.mp he).2, fun e he => of_decide_eq_true (List.mem_filter.mp he).2,
    fun r hr => of_decide_eq_true (List.mem_filter.mp hr).2⟩
  exact (sfind_sdel _ _ _).trans (if_pos rfl)

/-- Settles O48: a gang is taken off by settling its operations one by one, and returns team by team. -/
theorem gangsAndContexts : Obligations.GangsAndContexts := by
  unfold Obligations.GangsAndContexts
  refine ⟨fun grid gang s => ⟨preempt_serves, ?_, ?_, ?_⟩, fun n s c hc => ?_⟩
  · intro x hx hy hl hu hcut hstop
    rw [preempt_goes hx (.inl hy) hu hcut, if_neg (by rw [hstop]; decide), if_neg (by rw [hl]; decide)]
    rfl
  · intro x hx hy hu hcut hstop hm _
    have hxg := List.find?_some hx
    simp only [Bool.and_eq_true, decide_eq_true_eq] at hxg
    obtain ⟨rfl, rfl⟩ := hxg
    obtain ⟨hgroups, hgangs, hpend, ⟨sv, hsv, hgrid, hgngx, hteams, hoff⟩, hops⟩ := takeOff_takes (u := s.markLeaving x.grid x.gngx)
      (x := x) hm
    exact ⟨_, sv, (preempt_goes hx hy hu hcut).trans (if_pos hstop), hgroups, hgangs, hpend, hsv, hgrid, hgngx, hteams, hoff, hops⟩
  · intro gr x p hg hx hmay hp hn hr
    have hxg := List.find?_some hx
    simp only [Bool.and_eq_true, decide_eq_true_eq] at hxg
    obtain ⟨rfl, rfl⟩ := hxg
    obtain ⟨hc, hpend, hsaved⟩ := reloadTeams_frame hr p gr.desc.yard (s.regain x.grid x.gngx gr x p)
    refine ⟨_, exec_gangRestore hg hx hmay hp, fun hmem => ?_, fun y hy => ?_, hc, fun e he hph j hj => reloadTeams_ops hr p _ _ hj e he hph,
      fun j tm seats hj i g y hgi hy => ⟨_, reloadTeams_group hr p _ _ hn hj hgi hy, rfl, fun old hold hbase => ?_⟩⟩
    · rw [hpend, pending_regain] at hmem
      exact absurd rfl (of_decide_eq_true (List.mem_filter.mp hmem).2)
    · rw [hsaved, saved_regain] at hy
      have hk := (List.mem_filter.mp hy).2
      intro hc
      simp [hc.1, hc.2] at hk
    · show (teamMoves x p gr.desc.yard j).sh.place g.sgs.base = tm.shBase
      have hlo : (teamMoves x p gr.desc.yard j).sh.lo = g.sgs.base := by
        rw [hbase, teamMoves, hold]
      have hdst : (teamMoves x p gr.desc.yard j).sh.dst = tm.shBase := by
        rw [teamMoves, hj]
        rfl
      rw [← hlo, place_base, hdst]
  · intro put
    refine ⟨fun hout => ⟨switchCtx_other hc (by rw [hout]; decide), ?_⟩, fun hout => ⟨switchCtx_other hc (by rw [hout]; decide), ?_⟩,
      fun hs => ?_, fun hs => ?_⟩
    · show s.switchCtx n false = _
      rw [← hout]
      exact switchCtx_same hc
    · show s.switchCtx n true = _
      rw [← hout]
      exact switchCtx_same hc
    · rw [exec_contextTeardown hc, hs]
      rfl
    · exact ⟨_, by rw [exec_contextTeardown hc, if_pos hs]; rfl, dropCtx_none _ n⟩

end Sys2Proof.Machine
end

section
/-! SUPPORT. The stacks' controllers and the sensors (O49). -/

namespace Sys2Proof.Machine

/-! ### Controllers -/

theorem stackCtl_setStack (s : State) (n : Nat) (c : StackCtl) : (s.setStack n c).stackCtl n = c := by
  show (sfind (sput s.sweep.ctls n c) n).getD _ = c
  rw [sfind_sput_same]
  rfl

theorem stackAwake_eq_true {s : State} {n : Nat} (h : n < 12 ∧ s.stackUsed n = true ∧ (s.stackCtl n).asleep = false) :
    s.stackAwake n = true := by
  obtain ⟨hn, hu, ha⟩ := h
  rw [State.stackAwake, hu, ha, decide_eq_true hn]
  rfl

/-- Without a registration no row takes a function. -/
theorem touchRow_none {s : State} (h : s.sweep.regs = []) (row : Nat) : touchRow s row = s := by
  rw [touchRow, h]
  rfl

theorem refreshRow_none {s : State} (h : s.sweep.regs = []) (row : Nat) : refreshRow s row = s := by
  rw [refreshRow, h]
  rfl

theorem foldl_fixed {σ β : Type} {f : σ → β → σ} {s : σ} (h : ∀ b, f s b = s) (l : List β) : l.foldl f s = s :=
  foldl_keeps (fun u => u = s) f l s rfl fun u b hu => by rw [hu, h]

theorem exec_refreshSlot {s : State} {n : Nat} (ha : s.stackAwake n = true) (hr : s.sweep.regs = []) :
    exec (.refreshSlot n) s = .next (s.setStack n (if (s.stackCtl n).bank < 15 then
      { s.stackCtl n with bank := (s.stackCtl n).bank + 1 } else (s.stackCtl n).nextPeriod)) := by
  show execRefreshSlot n s = _
  rw [execRefreshSlot, if_neg (by rw [ha]; decide)]
  dsimp only
  rw [foldl_fixed]
  exact fun ch => refreshRow_none hr _

/-! ### The patrol scrub -/

/-- The row that the scrub of a pseudo-channel reads next. -/
def State.scrubNext (s : State) (n ch : Nat) : Nat :=
  globalRow n ch (sget 0 (s.stackCtl n).scrubRow ch % 16) (sget 0 (s.stackCtl n).scrubRow ch / 16 % bankRows)

theorem rowStack_globalRow {n ch bank row : Nat} (hn : n < 12) (hc : ch < 64) (hb : bank < 16) : rowStack (globalRow n ch bank row) = n := by
  rw [rowStack, globalRow]
  omega

/-- An error in a line of a row, counted once for the HBM and once for the scrub (R465). -/
def State.scrubError (s : State) (row : Nat) (e : Nat × Bool) : State := (s.hbmError (row * 16 + e.1) e.2 0).countError levelScrub e.2

theorem exec_patrolScrub {s : State} {n ch : Nat} (ha : s.stackAwake n = true) (hc : ch < 64) (found : List (Nat × Bool)) :
    exec (.patrolScrub n ⟨ch, found⟩) s =
      let row := s.scrubNext n ch
      let u := touchRow ((found.filter fun e => e.1 < 16).foldl (fun s e => s.scrubError row e) s) row
      .next (u.setStack n { u.stackCtl n with scrubRow := sput (u.stackCtl n).scrubRow ch (sget 0 (s.stackCtl n).scrubRow ch + 1) }) := by
  have hn : ¬ ((!s.stackAwake n) = true ∨ 64 ≤ ch) := by
    rw [ha]
    simpa using hc
  show execPatrolScrub n ⟨ch, found⟩ s = _
  rw [execPatrolScrub]
  exact if_neg hn

theorem patrolScrub_clean {s : State} {n ch : Nat} (ha : s.stackAwake n = true) (hc : ch < 64) (hr : s.sweep.regs = []) :
    exec (.patrolScrub n ⟨ch, []⟩) s = .next (s.setStack n { s.stackCtl n with
      scrubRow := sput (s.stackCtl n).scrubRow ch (sget 0 (s.stackCtl n).scrubRow ch + 1) }) := by
  rw [exec_patrolScrub ha hc]
  dsimp only [List.filter_nil, List.foldl_nil]
  rw [touchRow_none hr]

theorem noteError_sweep (s : State) (level : Nat) (fatal : Bool) (unit ctx : Nat) :
    (s.noteError level fatal unit ctx).sweep = s.sweep ∧ (s.noteError level fatal unit ctx).mem = s.mem
      ∧ (s.noteError level fatal unit ctx).cur = s.cur := by
  cases fatal <;> exact ⟨rfl, rfl, rfl⟩

theorem countError_sweep (s : State) (level : Nat) (fatal : Bool) :
    (s.countError level fatal).sweep = s.sweep ∧ (s.countError level fatal).mem = s.mem ∧ (s.countError level fatal).cur = s.cur := by
  cases fatal <;> exact ⟨rfl, rfl, rfl⟩

/-- The errors that a row has shown once another one is found. -/
def State.nextErrs (s : State) (row : Nat) (fatal : Bool) : List Nat × Bool :=
  if fatal then ((s.rowErrors row).1, true) else (s.wall :: (s.rowErrors row).1, (s.rowErrors row).2)

theorem noteRow_eq {s : State} {row n : Nat} (h : rowStack row = n) (fatal : Bool) :
    s.noteRow row fatal = s.setStack n { s.stackCtl n with rowErrs := sput (s.stackCtl n).rowErrs row (s.nextErrs row fatal) } := by
  subst h
  rfl

/-- What an error in a line changes beside the counters. -/
theorem scrubError_frame {s : State} {row n i : Nat} (h : rowStack row = n) (hi : i < 16) (fatal : Bool) :
    (s.scrubError row (i, fatal)).sweep = (s.setStack n { s.stackCtl n with
        rowErrs := sput (s.stackCtl n).rowErrs row (s.nextErrs row fatal) }).sweep
      ∧ (s.scrubError row (i, fatal)).cur = s.cur
      ∧ (s.scrubError row (i, fatal)).mem =
        if fatal then { s.mem with hbmPsn := sput s.mem.hbmPsn (row * 16 + i) true } else s.mem := by
  have hline : (row * 16 + i) / 16 = row := by omega
  obtain ⟨hsw, hmem, hcur⟩ := noteError_sweep (s.noteRow row fatal) levelHbm fatal (64 * (row * 16 + i)) 0
  obtain ⟨csw, cmem, ccur⟩ := countError_sweep (s.hbmError (row * 16 + i) fatal 0) levelScrub fatal
  rw [noteRow_eq h] at hsw hmem hcur
  have hh : s.hbmError (row * 16 + i) fatal 0 =
      let u := (s.noteRow row fatal).noteError levelHbm fatal (64 * (row * 16 + i)) 0
      if fatal then { u with mem := { u.mem with hbmPsn := sput u.mem.hbmPsn (row * 16 + i) true } } else u := by
    rw [State.hbmError, hline]
  rw [hh, noteRow_eq h] at csw cmem ccur
  have hs : s.scrubError row (i, fatal) = (s.hbmError (row * 16 + i) fatal 0).countError levelScrub fatal := rfl
  rw [hs, hh, noteRow_eq h]
  refine ⟨csw.trans ?_, ccur.trans ?_, cmem.trans ?_⟩
  · cases fatal <;> exact hsw
  · cases fatal <;> exact hcur
  · cases fatal
    · exact hmem
    · exact congrArg (fun m : Memories => { m with hbmPsn := sput m.hbmPsn (row * 16 + i) true }) hmem

theorem corr_scrubError (s : State) (row i : Nat) : sget 0 (s.scrubError row (i, false)).mgmt.corr levelHbm
    = min (2 ^ 32 - 1) (sget 0 s.mgmt.corr levelHbm + 1) := by
  show sget 0 (sput (sput s.mgmt.corr levelHbm _) levelScrub _) levelHbm = _
  rw [sget_sput, if_neg (by decide), sget_sput, if_pos rfl] <;> rfl

/-- A row that has shown an error which cannot be corrected is due for repair. -/
theorem repairDue_of_errs {s : State} {row n : Nat} {ts : List Nat} (h : rowStack row = n)
    (he : sfind (s.stackCtl n).rowErrs row = some (ts, true)) : s.repairDue row = true := by
  subst h
  have hb : (s.rowErrors row).2 = true := by
    show (sget ([], false) (s.stackCtl (rowStack row)).rowErrs row).2 = true
    rw [sget, he]
    rfl
  rw [State.repairDue, hb]
  rfl

/-- A scrub that finds an error in a line. -/
theorem patrolScrub_finds {s : State} {n ch i : Nat} (hn : n < 12) (ha : s.stackAwake n = true) (hc : ch < 64) (hi : i < 16)
    (hr : s.sweep.regs = []) (fatal : Bool) :
    let row := s.scrubNext n ch
    ∃ t, exec (.patrolScrub n ⟨ch, [(i, fatal)]⟩) s = .next t
      ∧ (fatal = true → sfind t.mem.hbmPsn (row * 16 + i) = some true ∧ t.repairDue row = true)
      ∧ (fatal = false → t.mem = s.mem ∧ sget 0 t.mgmt.corr 0 = min (2 ^ 32 - 1) (sget 0 s.mgmt.corr 0 + 1))
      ∧ t.mem.hbm = s.mem.hbm ∧ t.cur = s.cur
      ∧ sget 0 (t.stackCtl n).scrubRow ch = sget 0 (s.stackCtl n).scrubRow ch + 1 := by
  intro row
  have hrow : rowStack row = n := rowStack_globalRow hn hc (Nat.mod_lt _ (by decide))
  obtain ⟨hsw, hcur, hmem⟩ := scrubError_frame (s := s) hrow hi fatal
  have hcorr := corr_scrubError s row i
  have hstack : (s.scrubError row (i, fatal)).stackCtl n
      = { s.stackCtl n with rowErrs := sput (s.stackCtl n).rowErrs row (s.nextErrs row fatal) } := by
    rw [State.stackCtl, hsw]
    exact stackCtl_setStack s n _
  have hregs : (s.scrubError row (i, fatal)).sweep.regs = [] := by
    rw [hsw]
    exact hr
  have hx : exec (.patrolScrub n ⟨ch, [(i, fatal)]⟩) s = .next ((s.scrubError row (i, fatal)).setStack n
      { (s.scrubError row (i, fatal)).stackCtl n with
        scrubRow := sput ((s.scrubError row (i, fatal)).stackCtl n).scrubRow ch (sget 0 (s.stackCtl n).scrubRow ch + 1) }) := by
    have hf : [(i, fatal)].filter (fun e => e.1 < 16) = [(i, fatal)] :=
      List.filter_eq_self.mpr fun e he => by rw [List.mem_singleton.mp he]; exact decide_eq_true hi
    rw [exec_patrolScrub ha hc, hf]
    dsimp only [List.foldl_cons, List.foldl_nil]
    rw [touchRow_none hregs]
  refine ⟨_, hx, fun hf => ⟨?_, ?_⟩, fun hf => ⟨?_, ?_⟩, ?_, hcur, ?_⟩
  · subst hf
    show sfind (s.scrubError row (i, true)).mem.hbmPsn _ = _
    rw [hmem]
    exact sfind_sput_same _ _ _
  · subst hf
    refine repairDue_of_errs hrow (ts := (s.rowErrors row).1) ?_
    rw [stackCtl_setStack, hstack]
    exact sfind_sput_same _ _ _
  · subst hf
    exact hmem
  · subst hf
    exact hcorr
  · show (s.scrubError row (i, fatal)).mem.hbm = _
    rw [hmem]
    cases fatal <;> rfl
  · rw [stackCtl_setStack, sget_sput, if_pos rfl]

/-! ### Sensors -/

theorem exec_stackSensorSample {s : State} {n : Nat} (hn : n < 12) (hu : s.stackUsed n = true) (temp : Int) :
    exec (.stackSensorSample n temp) s =
      let c := s.stackCtl n
      let c := if c.asleep then { c with cool := if temp < 90 then c.cool + 1 else 0 }
        else if 95 < temp ∧ !c.closing then s.notice n c else c
      let u := s.setStack n { c with temp := temp, change := c.change || c.hot != decide (85 < temp) }
      .next (if 110 < temp then u.trip else u) := by
  show execStackSensorSample n temp s = _
  rw [execStackSensorSample]
  refine if_neg ?_
  rintro (h | h)
  · omega
  · rw [hu] at h
    exact absurd h (by decide)

theorem stackUsed_trip (s : State) (k : Nat) : s.trip.stackUsed k = false := Nat.zero_testBit _

theorem exec_dieSensorSample {s : State} {n : Nat} (hn : n < 5) (hm : s.mgmt.mode ≠ 2) {temp : Int} (ht : temp ≤ 110) :
    exec (.dieSensorSample n temp) s =
      let hot := s.leave.hot.filter (· ≠ n)
      let u : State := { s with mgmt := { s.mgmt with temps := sput s.mgmt.temps n temp } }
      .next (if 100 < temp then u.setHot (hot ++ [n]) else if temp < 95 then u.setHot hot else u) := by
  show execDieSensorSample n temp s = _
  rw [execDieSensorSample, if_neg (by omega)]
  exact congrArg _ (if_neg (by omega))

/-! ### Self-refresh -/

theorem exec_selfRefreshEntry (s : State) (n : Nat) : exec (.selfRefreshEntry n) s =
    if s.stackAwake n = true ∧ (s.stackCtl n).closing = true ∧ s.drained (s.stackCtl n) = true then
      .next (s.setStack n { s.stackCtl n with
        asleep := true, closing := false, drain := [], cool := 0, since := s.now, hot := true, change := false })
    else .fault .notEnabled := by
  show execSelfRefreshEntry n s = _
  rw [execSelfRefreshEntry]
  dsimp only
  cases s.stackAwake n <;> cases (s.stackCtl n).closing <;> cases s.drained (s.stackCtl n) <;> rfl

theorem drained_iff {s : State} {c : StackCtl} :
    s.drained c = true ↔ ∀ i ∈ c.drain, ∀ op, sfind s.ops i = some op → op.underway = false := by
  rw [State.drained, List.all_eq_true]
  refine forall_congr' fun i => imp_congr_right fun _ => ?_
  cases sfind s.ops i with
  | none => simp
  | some op => simp

theorem exec_selfRefreshExit {s : State} {n : Nat} (ha : (s.stackCtl n).asleep = true) (hc : 10 ≤ (s.stackCtl n).cool)
    (hu : s.stackUsed n = true) :
    exec (.selfRefreshExit n) s =
      let c := s.stackCtl n
      let u := s.setStack n { c with asleep := false, cool := 0 }
      let regs := u.sweep.regs.map fun e => (e.1, e.2.extend n c.since u.now)
      let due := (regs.filter fun e => e.2.phase = .armed && !e.2.desc.rep && e.2.stacks.contains n).map fun e => SweepDue.flag e.1
      .next (State.resumeDemands { u with sweep := { u.sweep with regs := regs, due := u.sweep.due ++ due } } n) := by
  show execSelfRefreshExit n s = _
  rw [execSelfRefreshExit]
  refine if_neg ?_
  rintro (h | h | h)
  · rw [ha] at h
    exact absurd h (by decide)
  · omega
  · rw [hu] at h
    exact absurd h (by decide)

theorem selfRefreshExit_waits {s : State} {n : Nat} (hc : (s.stackCtl n).cool < 10) :
    exec (.selfRefreshExit n) s = .fault .notEnabled := by
  show execSelfRefreshExit n s = _
  rw [execSelfRefreshExit]
  exact if_pos (.inr (.inl hc))

theorem ctls_applyReg (s : State) (key : Nat) (r : SweepReg) (row : Nat) : (applyReg s key r row).sweep.ctls = s.sweep.ctls := by
  rw [applyReg]
  dsimp only
  split
  · rfl
  · unfold transformRow
    dsimp only
    split <;> rfl

theorem ctls_touchRow (s : State) (row : Nat) : (touchRow s row).sweep.ctls = s.sweep.ctls :=
  foldl_keeps (fun u : State => u.sweep.ctls = s.sweep.ctls) _ _ s rfl fun u _ hu => (ctls_applyReg u _ _ _).trans hu

theorem ctls_demandSweep (s : State) (r : SweepReg) : (s.demandSweep r).sweep.ctls = s.sweep.ctls :=
  foldl_keeps (fun u : State => u.sweep.ctls = s.sweep.ctls) _ _ s rfl fun u _ hu => (ctls_touchRow u _).trans hu

theorem ctls_resumeDemands (s : State) (n : Nat) : (s.resumeDemands n).sweep.ctls = s.sweep.ctls := by
  refine foldl_keeps (fun u : State => u.sweep.ctls = s.sweep.ctls) _ _ s rfl fun u e hu => ?_
  split
  · split
    · split
      · exact (ctls_demandSweep u _).trans hu
      · exact hu
    · exact hu
  · exact hu

/-- Without a registration no demand waits. -/
theorem resumeDemands_none {s : State} (h : s.sweep.regs = []) (n : Nat) : s.resumeDemands n = s := by
  refine foldl_fixed (fun e => ?_) _
  split
  · split
    · next hf =>
      rw [h] at hf
      cases hf
    · rfl
  · rfl

theorem selfRefreshExit_wakes {s : State} {n : Nat} (ha : (s.stackCtl n).asleep = true) (hc : 10 ≤ (s.stackCtl n).cool)
    (hu : s.stackUsed n = true) :
    ∃ t, exec (.selfRefreshExit n) s = .next t ∧ t.stackCtl n = { s.stackCtl n with asleep := false, cool := 0 }
      ∧ (s.sweep.regs = [] → t = s.setStack n { s.stackCtl n with asleep := false, cool := 0 }) := by
  refine ⟨_, exec_selfRefreshExit ha hc hu, ?_, fun hr => ?_⟩
  · rw [State.stackCtl, ctls_resumeDemands]
    exact stackCtl_setStack s n _
  · have hregs : (s.setStack n { s.stackCtl n with asleep := false, cool := 0 }).sweep.regs = [] := hr
    rw [resumeDemands_none]
    · simp only [hregs, List.map_nil, List.filter_nil, List.append_nil]
      rw [← hregs]
    · simp only [hregs, List.map_nil]

/-! ### Row repair -/

/-- A row's bank in its stack (R362). -/
def bankOf (row : Nat) : Nat := row / 16 % 64 * 16 + row % 16

theorem bank_bits (row : Nat) : bits row 9 4 * 16 + bits row 3 0 = bankOf row := by
  simp [bits, bankOf]

theorem rowRepair_rests {s : State} {row : Nat} (h : s.repairDue row = false) : exec (.rowRepair row) s = .fault .notEnabled := by
  show execRowRepair row s = _
  rw [execRowRepair]
  exact if_pos (.inr (.inr (by rw [h]; rfl)))

theorem exec_rowRepair {s : State} {row n : Nat} (hr : row < Config.regions * 2 ^ 20) (hn : rowStack row = n)
    (ha : s.stackAwake n = true) (hd : s.repairDue row = true) :
    exec (.rowRepair row) s =
      let c := { s.stackCtl n with rowErrs := sdel (s.stackCtl n).rowErrs row }
      let used := sget 0 (s.stackCtl n).spares (bankOf row)
      if used < 32 then .next (s.setStack n { c with spares := sput c.spares (bankOf row) (used + 1) })
      else .next ((s.setStack n c).logLine (leBytes 8 row)) := by
  subst hn
  show execRowRepair row s = _
  rw [execRowRepair]
  dsimp only
  rw [bank_bits]
  refine if_neg ?_
  rintro (h | h | h)
  · omega
  · rw [ha] at h
    exact absurd h (by decide)
  · rw [hd] at h
    exact absurd h (by decide)

/-- Settles O49: each step of a controller by its equation; an error that a scrub finds by what it leaves of the row's state. -/
theorem stackControllers : Obligations.StackControllers := by
  unfold Obligations.StackControllers
  intro n ch row temp s c set awake bank used mended scrub scrubbed
  refine ⟨?_, ?_, ?_, ?_, ?_, ?_, ?_, ?_, ?_⟩
  · intro haw hr
    have ha := stackAwake_eq_true haw
    refine ⟨exec_refreshSlot ha hr, fun hc => ⟨patrolScrub_clean ha hc hr, fun i fatal hi => ?_⟩⟩
    obtain ⟨t, hx, hfatal, hmild, hhbm, hcur, hscrub⟩ := patrolScrub_finds haw.1 ha hc hi hr fatal
    refine ⟨t, hx, hfatal, hmild, fun loc => ?_, hcur, hscrub⟩
    rw [State.dramByte, hhbm]
    rfl
  · intro hn hu told
    have hx := exec_stackSensorSample hn hu temp
    refine ⟨fun ht => ?_, fun ht => ⟨_, hx.trans (congrArg _ (if_pos ht)), rfl, rfl, stackUsed_trip _⟩⟩
    refine hx.trans ((congrArg _ (if_neg (by omega))).trans ?_)
    refine congrArg (fun c => Host.Outcome.next (s.setStack n c)) ?_
    by_cases hs : c.asleep = true
    · rw [if_pos hs, if_pos hs]
    · rw [if_neg hs, if_neg hs]
      by_cases hw : 95 < temp ∧ c.closing = false
      · rw [if_pos (by simpa using hw), if_pos hw]
        rfl
      · rw [if_neg (by simpa using hw), if_neg hw]
  · intro haw hcl hd
    exact (exec_selfRefreshEntry s n).trans (if_pos ⟨stackAwake_eq_true haw, hcl, drained_iff.mpr hd⟩)
  · intro i op hi hop hu
    refine (exec_selfRefreshEntry s n).trans (if_neg fun h => ?_)
    exact Bool.false_ne_true ((drained_iff.mp h.2.2 i hi op hop).symm.trans hu)
  · intro hcl
    exact (exec_selfRefreshEntry s n).trans (if_neg fun h => Bool.false_ne_true (hcl.symm.trans h.2.1))
  · exact fun _ hc => selfRefreshExit_waits hc
  · exact fun ha hc hu => selfRefreshExit_wakes ha hc hu
  · intro haw hrow hn
    have ha := stackAwake_eq_true haw
    exact ⟨rowRepair_rests, fun hd hl => (exec_rowRepair hrow hn ha hd).trans (if_pos hl),
      fun hd hl => (exec_rowRepair hrow hn ha hd).trans (if_neg (Nat.not_lt.mpr hl))⟩
  · intro hn ht hm
    refine ⟨_, exec_dieSensorSample hn hm ht, ?_, fun hh => ?_, fun hl => ?_, fun hl hh => ?_⟩
    · split_ifs <;> exact sfind_sput_same _ _ _
    · rw [if_pos hh]
      exact List.mem_append_right _ (List.mem_singleton.mpr rfl)
    · rw [if_neg (by omega), if_pos hl]
      exact fun hmem => absurd rfl (of_decide_eq_true (List.mem_filter.mp hmem).2)
    · rw [if_neg (by omega), if_neg (by omega)]

end Sys2Proof.Machine
end

section
/-! SUPPORT. Two registrations under one handle (O50). The write of the flag of the one that arms activates a row of the other one,
whose application takes the place of both in the table: the arm point then reports to the `swarm` of the other one. -/

namespace Sys2Proof.Machine

/-- A region of 1 KiB with its flag at 64 KiB. -/
def twinDesc : SweepDesc := ⟨0x400000, 1024, 4, 5, false, 3, 0, 0x10000, false⟩

/-- The `swarm` of the registration that arms: it has its flag's granule, where the flag stands at its own address. -/
def twinSwarm : Op :=
  { newOp State.reset twoQueues 0x340 5 [] (.swarm 3 twinDesc 0) with phase := .running, xl := [⟨1, 0x10000, 0, true, true⟩] }

/-- The registration that arms, on no row. -/
def twinReg : SweepReg :=
  { hdl := 1, ctx := 0, grid := 0, op := 5, gid := 1, place := 0, pc := 0, seq := 0, core := 0, loc := 0, desc := twinDesc,
    blocks := [], rows := [], attrs := [], entries := [], app := [], rnd := [], phase := .installing, installed := [],
    badRow := false, failed := [], order := 0, armedAt := 0, ext := [] }

/-- The row in which the flag stands. -/
def twinRow : Nat := State.reset.dramLoc 0x10000 / 1024

/-- An armed registration of the operation 6 that covers that row, and that row is poisoned. -/
def twinState : State :=
  { State.reset with
    ops := [(5, twinSwarm)], mem := { State.reset.mem with hbmPsn := [(twinRow * 16, true)] },
    sweep := { State.reset.sweep with regs := [(1, twinReg), (1, { twinReg with op := 6, rows := [twinRow], phase := .armed })] } }

/-- The state in which the arm point writes the flag. -/
def twinWritten : State := twinState.writeLocal .s twinReg.core (twinReg.loc + 28) (leBytes 4 twinReg.hdl)

theorem twin_translates : twinWritten.opTranslate twinReg.op twinReg.desc.flag .write = (.ok 0x10000 0 true true, twinWritten) := rfl

theorem twin_writes : (twinWritten.writeSweepFlag
    { twinReg with phase := .armed, order := twinState.sweep.nextOrder, armedAt := twinState.now }).isSome = true := by
  decide +kernel

theorem twin_left : (opLeft 5 (exec (.sweepArmPoint 1) twinState)).map (·.phase) = some .running := by decide +kernel

/-- Refutes O50: the statement speaks of tables in which two registrations stand under one handle (no step makes one), and there the
`swarm` of the registration that arms goes on running. -/
theorem not_sweepRegistrations : ¬ Obligations.SweepRegistrations := by
  unfold Obligations.SweepRegistrations
  intro h
  obtain ⟨-, -, harm, -⟩ := h 1 twinState twinReg rfl
  obtain ⟨v, hv⟩ := Option.isSome_iff_exists.mp twin_writes
  obtain ⟨t, r', q, hexec, -, -, -, -, -, hq, hphase, -⟩ := harm rfl (fun n hn => absurd hn List.not_mem_nil) rfl _ _ _ _ _ v
    twin_translates hv twinSwarm 3 twinDesc 0 rfl rfl
  have hq : sfind t.ops 5 = some q := hq
  have hleft := twin_left
  rw [hexec, opLeft, hq, Option.map_some, hphase] at hleft
  exact absurd hleft (by decide)

end Sys2Proof.Machine
end

section
/-! SUPPORT. The head of the side queue at its unit (O51). -/

namespace Sys2Proof.Machine

/-- What the side unit does with the command that is handed over: none while it cannot go on. -/
def State.sideRun (s : State) (id : Nat) (op : Op) : Option State :=
  match op.work with
  | .swarm dst d loc => s.swarmStart id op dst d loc
  | .sweep fn dst hdl => s.sweepRun id op fn dst hdl
  | .shedj dst card stack => s.shedjRun id op dst card stack
  | .cbs dst crib m => some (s.cbsRun id op dst crib m)
  | .cbr dst crib loc => some (s.cbrRun id op dst crib loc)
  | .cbw dst crib _ => some (s.cbwRun id op dst crib)
  | _ => none

theorem exec_sideQueueHandover {s : State} {core id : Nat} {op : Op}
    (h : s.ops.find? (fun e => e.2.core = core && e.2.queue = 5 && s.canStart e.1 e.2) = some (id, op)) :
    exec (.sideQueueHandover core) s = match (s.trace id 1 0).sideRun id op with | some t => .next t | none => notNow := by
  show execSideQueueHandover core s = _
  rw [execSideQueueHandover, h] <;> rfl

section
variable {s : State} {core id : Nat} {op : Op}
  (h : s.ops.find? (fun e => e.2.core = core && e.2.queue = 5 && s.canStart e.1 e.2) = some (id, op))
include h

theorem handover_runs {t : State} (hr : (s.trace id 1 0).sideRun id op = some t) :
    exec (.sideQueueHandover core) s = .next t := by
  rw [exec_sideQueueHandover h, hr]

theorem handover_waits (hr : (s.trace id 1 0).sideRun id op = none) : exec (.sideQueueHandover core) s = .fault .notEnabled := by
  rw [exec_sideQueueHandover h, hr]
  rfl

end

/-! ### Commands on a handle -/

section
variable {u : State} {id : Nat} {op : Op} {fn d hdl : Nat}

theorem sweepRun_unknown (hn : sfind u.sweep.regs (sweepKey op.ctx hdl) = none) :
    u.sweepRun id op fn d hdl = some (if fn = 3 then u.report id d 0 0 else u.report id d 8 8) := by
  rw [State.sweepRun, hn]

variable {r : SweepReg} (hr : sfind u.sweep.regs (sweepKey op.ctx hdl) = some r)
include hr

theorem sweepRun_installing (hp : r.phase = .installing) :
    u.sweepRun id op fn d hdl = some (if fn = 3 then u.report id d 0 0 else u.report id d 8 8) := by
  rw [State.sweepRun, hr]
  exact if_pos hp

theorem sweepRun_state : u.sweepRun id op 3 d hdl = some (u.report id d 0 r.stateCode) := by
  by_cases hp : r.phase = .installing
  · rw [sweepRun_installing hr hp, SweepReg.stateCode, hp]
    rfl
  · rw [State.sweepRun, hr]
    exact if_neg hp

theorem sweepRun_request (hp : r.phase ≠ .installing) : u.sweepRun id op 1 d hdl =
    if r.desc.rep ∨ r.phase = .cancelled then some (u.report id d 8 8)
    else if r.phase ≠ .armed then some (u.report id d 0 0)
    else some ((u.modOp id fun op => { op with phase := .running }).demandSweep r) := by
  rw [State.sweepRun, hr]
  exact if_neg hp

theorem sweepRun_cancel (hp : r.phase ≠ .installing) : u.sweepRun id op 2 d hdl =
    if r.phase = .cancelled then some (u.report id d 8 8)
    else if r.phase ≠ .armed then some (u.report id d 0 0)
    else if r.stacks.any fun st => (u.stackCtl st).asleep then none
    else some (((u.cancelSweep (sweepKey op.ctx hdl) r).sweepDue).report id d 0 0) := by
  rw [State.sweepRun, hr]
  exact if_neg hp

/-- A request or a cancellation of a registration that is not there, or not yet or no longer. -/
theorem sweepRun_refused (hf : fn = 1 ∨ fn = 2) (hp : r.phase = .installing ∨ r.phase = .cancelled) :
    u.sweepRun id op fn d hdl = some (u.report id d 8 8) := by
  by_cases hi : r.phase = .installing
  · rw [sweepRun_installing hr hi, if_neg (by omega)]
  · have hc := hp.resolve_left hi
    rcases hf with rfl | rfl
    · rw [sweepRun_request hr hi, if_pos (.inr hc)]
    · rw [sweepRun_cancel hr hi, if_pos hc]

theorem sweepRun_repeated (hp : r.desc.rep = true) : u.sweepRun id op 1 d hdl = some (u.report id d 8 8) := by
  by_cases hi : r.phase = .installing
  · exact sweepRun_refused hr (.inl rfl) (.inl hi)
  · rw [sweepRun_request hr hi, if_pos (.inl hp)]

/-- A registration that has ended by itself has nothing left to request or to cancel. -/
theorem sweepRun_over (hp : r.phase = .complete ∨ r.phase = .failed) (hf : fn = 2 ∨ fn = 1 ∧ r.desc.rep = false) :
    u.sweepRun id op fn d hdl = some (u.report id d 0 0) := by
  have hi : r.phase ≠ .installing := by rcases hp with e | e <;> rw [e] <;> decide
  have hc : r.phase ≠ .cancelled := by rcases hp with e | e <;> rw [e] <;> decide
  have ha : r.phase ≠ .armed := by rcases hp with e | e <;> rw [e] <;> decide
  rcases hf with rfl | ⟨rfl, hrep⟩
  · rw [sweepRun_cancel hr hi, if_neg hc, if_pos ha]
  · rw [sweepRun_request hr hi, if_neg (by rw [hrep]; exact fun e => e.elim (fun e => by cases e) hc), if_pos ha]

theorem sweepRun_demand (hp : r.phase = .armed) (hrep : r.desc.rep = false) :
    u.sweepRun id op 1 d hdl = some ((u.modOp id fun op => { op with phase := .running }).demandSweep r) := by
  rw [sweepRun_request hr (by rw [hp]; decide), if_neg (by rw [hrep, hp]; decide), if_neg (by rw [hp]; decide)]

theorem sweepRun_asleep (hp : r.phase = .armed) (hz : ∃ x ∈ r.rows, (u.stackCtl (rowStack x)).asleep = true) :
    u.sweepRun id op 2 d hdl = none := by
  obtain ⟨x, hx, hs⟩ := hz
  rw [sweepRun_cancel hr (by rw [hp]; decide), if_neg (by rw [hp]; decide), if_neg (by rw [hp]; decide)]
  exact if_pos (List.any_eq_true.2 ⟨rowStack x, List.mem_eraseDups.2 (List.mem_map_of_mem hx), hs⟩)

theorem sweepRun_cancelled (hp : r.phase = .armed) (hz : ∀ x ∈ r.rows, (u.stackCtl (rowStack x)).asleep = false) :
    u.sweepRun id op 2 d hdl = some (((u.cancelSweep (sweepKey op.ctx hdl) r).sweepDue).report id d 0 0) := by
  have hn : ¬ (r.stacks.any fun st => (u.stackCtl st).asleep) = true := by
    rw [List.any_eq_true]
    rintro ⟨st, hst, hs⟩
    obtain ⟨x, hx, rfl⟩ := List.mem_map.1 (List.mem_eraseDups.1 hst)
    rw [hz x hx] at hs
    cases hs
  rw [sweepRun_cancel hr (by rw [hp]; decide), if_neg (by rw [hp]; decide), if_neg (by rw [hp]; decide), if_neg hn]

end

theorem mem_demandRows {s : State} {r : SweepReg} {x : Nat} : x ∈ s.demandRows r ↔
    x ∈ r.rows ∧ sget false r.app x = false ∧ (s.stackCtl (rowStack x)).shut = false := by
  rw [State.demandRows, List.mem_mergeSort, List.mem_filter, Bool.and_eq_true, Bool.not_eq_true', Bool.not_eq_true']

theorem demandRows_sorted (s : State) (r : SweepReg) : (s.demandRows r).Pairwise (· ≤ ·) := by
  have hs := List.pairwise_mergeSort (le := fun a b : Nat => decide (a ≤ b))
    (fun a b c hab hbc => decide_eq_true (Nat.le_trans (of_decide_eq_true hab) (of_decide_eq_true hbc)))
    (fun a b => by rcases Nat.le_total a b with e | e <;> simp [e])
    (r.rows.filter fun x => !sget false r.app x && !(s.stackCtl (rowStack x)).shut)
  exact hs.imp fun e => of_decide_eq_true e

/-- A cancelled registration's flag holds 2, or has bit 63 where the registration is REP (R381). -/
theorem flagValue_cancelled_once {s : State} {r : SweepReg} (hp : r.phase = .cancelled) (hrep : r.desc.rep = false) :
    s.flagValue r % 2 ^ 32 = 2 := by
  rw [State.flagValue, hrep, hp]
  show (2 + s.extension r * 2 ^ 32) % 2 ^ 32 = 2
  omega

theorem flagValue_cancelled_rep {s : State} {r : SweepReg} (hp : r.phase = .cancelled) (hrep : r.desc.rep = true) :
    (s.flagValue r).testBit 63 = true := by
  rw [State.flagValue, hrep, hp]
  show Nat.testBit (r.rounds % 2 ^ 48 + (if r.badRow then 2 ^ 62 else 0) + 2 ^ 63) 63 = true
  rw [Nat.testBit_eq_decide_div_mod_eq]
  split <;> simp only [decide_eq_true_eq] <;> omega

/-- The cancelled registration stands in the place of the armed one. -/
def State.cancelled (s : State) (key : Nat) (r : SweepReg) : State :=
  { s with sweep := { s.sweep with regs := sput s.sweep.regs key { r with phase := .cancelled } } }

/-- With nothing due before, a cancellation's own flag is what is written, or what stays due. -/
theorem sweepDue_cancelSweep {s : State} (hd : s.sweep.due = []) (key : Nat) (r : SweepReg) :
    (s.cancelSweep key r).sweepDue =
      match (s.cancelled key r).writeSweepFlag { r with phase := .cancelled } with
      | some w => w
      | none => { s.cancelled key r with sweep := { (s.cancelled key r).sweep with due := [SweepDue.flag key] } } := by
  have hc : s.cancelSweep key r = { s.cancelled key r with sweep := { (s.cancelled key r).sweep with due := [SweepDue.flag key] } } := by
    rw [State.cancelSweep, hd]
    rfl
  have hv : { s.cancelled key r with sweep := { (s.cancelled key r).sweep with due := [] } } = s.cancelled key r := by
    rw [State.cancelled, ← hd]
  have hk : sfind (s.cancelled key r).sweep.regs key = some { r with phase := .cancelled } := sfind_sput_same _ _ _
  have hw : (s.cancelled key r).writeDue (.flag key) = (s.cancelled key r).writeSweepFlag { r with phase := .cancelled } := by
    rw [State.writeDue, hk]
  rw [hc]
  show drainDue [.flag key] { s.cancelled key r with sweep := { (s.cancelled key r).sweep with due := [] } } = _
  rw [hv, drainDue, hw]
  cases (s.cancelled key r).writeSweepFlag { r with phase := .cancelled } with
  | some w => rfl
  | none =>
    show { s.cancelled key r with sweep := { (s.cancelled key r).sweep with due := s.sweep.due ++ [SweepDue.flag key] } } = _
    rw [hd]
    rfl

section
variable {u : State} {id : Nat} {op : Op} {d hdl : Nat} {r : SweepReg}
  (hr : sfind u.sweep.regs (sweepKey op.ctx hdl) = some r) (hp : r.phase = .armed)
  (hz : ∀ x ∈ r.rows, (u.stackCtl (rowStack x)).asleep = false) (hd : u.sweep.due = [])
include hr hp hz hd

theorem sweepRun_cancelled_written {w : State}
    (hw : (u.cancelled (sweepKey op.ctx hdl) r).writeSweepFlag { r with phase := .cancelled } = some w) :
    u.sweepRun id op 2 d hdl = some (w.report id d 0 0) := by
  rw [sweepRun_cancelled hr hp hz, sweepDue_cancelSweep hd, hw]

theorem sweepRun_cancelled_due
    (hw : (u.cancelled (sweepKey op.ctx hdl) r).writeSweepFlag { r with phase := .cancelled } = none) :
    u.sweepRun id op 2 d hdl = some (State.report { u.cancelled (sweepKey op.ctx hdl) r with
      sweep := { (u.cancelled (sweepKey op.ctx hdl) r).sweep with due := [SweepDue.flag (sweepKey op.ctx hdl)] } } id d 0 0) := by
  rw [sweepRun_cancelled hr hp hz, sweepDue_cancelSweep hd, hw]

end

/-! ### Cribs -/

theorem openStep_without_episode {s : State} {crib : Nat} (h : s.episodeOf crib = none) : s.openStep crib = s := by
  rw [State.openStep, h]

section
variable {u : State} {id : Nat} {op : Op} {d crib : Nat} {c : Crib}

theorem cbsRun_unknown {m : Bytes} (hc : u.cribFor op.ctx crib = none) : u.cbsRun id op d crib m = u.report id d 13 13 := by
  rw [State.cbsRun, hc]

theorem cbsRun_eq {m : Bytes} (hc : u.cribFor op.ctx crib = some c) : u.cbsRun id op d crib m =
    if c.closed then u.report id d 8 8 else if 16 ≤ c.out.length then u.report id d 12 12
    else ((u.setCrib crib { c with out := c.out ++ [leBytes 4 c.seqOut ++ m.drop 4], seqOut := (c.seqOut + 1) % 2 ^ 32,
                                   headAt := if c.out.isEmpty then u.now else c.headAt }).openStep crib).report id d 0 0 := by
  rw [State.cbsRun, hc]

theorem cbrRun_unknown {loc : Nat} (hc : u.cribFor op.ctx crib = none) : u.cbrRun id op d crib loc = u.report id d 13 13 := by
  rw [State.cbrRun, hc]
  dsimp only [Option.isSome]
  rw [if_neg (by decide), hc]

/-- A head that can be delivered, or no head at all, leaves nothing to drop. -/
theorem dropLost_of_good_head (hc : ∀ c, sfind u.pad.cribs crib = some c → c.inb.dropWhile (·.isEmpty) = c.inb) :
    u.dropLost crib = u := by
  rw [State.dropLost]
  split
  · rfl
  · next c hf =>
    dsimp only
    rw [hc c hf]
    exact if_pos rfl

theorem cribFor_eq_some (hc : u.cribFor op.ctx crib = some c) : sfind u.pad.cribs crib = some c := by
  rw [State.cribFor] at hc
  split at hc
  · next c' hf =>
    split at hc
    · rw [hf, ← hc]
    · cases hc
  · cases hc

theorem cbrRun_eq {loc : Nat} (hc : u.cribFor op.ctx crib = some c) (hg : c.inb.dropWhile (·.isEmpty) = c.inb) :
    u.cbrRun id op d crib loc = match c.inb with
      | [] => u.report id d 7 7
      | m :: t => ((u.setCrib crib { c with inb := t, closed := c.closed && msgKind m != 8 }).writeLocal .s op.core loc m).report id d 0 0 := by
  have hl : u.dropLost crib = u := dropLost_of_good_head fun c' hf => by
    obtain rfl : c = c' := Option.some.inj ((cribFor_eq_some hc).symm.trans hf)
    exact hg
  rw [State.cbrRun]
  dsimp only
  rw [hc, if_pos (by rfl), hl, hc] <;> rfl

theorem cbwRun_unknown (hc : u.cribFor op.ctx crib = none) : u.cbwRun id op d crib = u.report id d 13 13 := by
  rw [State.cbwRun, hc]

theorem cbwRun_eq (hc : u.cribFor op.ctx crib = some c) : u.cbwRun id op d crib =
    if !c.inb.isEmpty then u.report id d 0 0 else u.modOp id fun op => { op with phase := .running, since := u.now } := by
  rw [State.cbwRun, hc]

end

/-! ### Job cards -/

/-- A card at the end of the queue of its stack. -/
def State.queueCard (s : State) (stack : Nat) (c : ShedCard) : State :=
  { s with shed := { s.shed with queues := sput s.shed.queues stack ((sfind s.shed.queues stack).getD [] ++ [c]) } }

section
variable {u v : State} {id : Nat} {op : Op} {d card stack : Nat} {x : Got} (hread : u.opRead id .g card 128 = (.ok x, v))
include hread

theorem shedjRun_eq : u.shedjRun id op d card stack =
    if x.psn then some (v.report id d 2 2)
    else if 12 ≤ stack ∨ !v.stackUsed stack ∨ !cardOk x.bytes then some (v.report id d 4 4)
    else if 64 ≤ ((sfind v.shed.queues stack).getD []).length then some (v.report id d 12 12)
    else some (((v.queueCard stack ⟨op.ctx, op.grid, op.gid, op.place, op.pc, op.seq, op.core, x.bytes⟩).modGrid
        op.grid fun g => { g with jobs := g.jobs + 1 }).report id d 0 0) := by
  rw [State.shedjRun, hread]
  rfl

end

/-- Which cards are refused at their unit. -/
theorem card_refused_iff {s : State} {stack : Nat} {b : Bytes} : (12 ≤ stack ∨ (!s.stackUsed stack) = true ∨ (!cardOk b) = true) ↔
    ¬ (stack < 12 ∧ s.stackUsed stack = true ∧ cardOk b = true) := by
  cases s.stackUsed stack <;> cases cardOk b <;> simp

/-! ### The obligation -/

section
variable {s : State} {core id : Nat} {op : Op}
  (h : s.ops.find? (fun e => e.2.core = core && e.2.queue = 5 && s.canStart e.1 e.2) = some (id, op))
include h

theorem handover_sweep {fn d hdl : Nat} {t : State} (hw : op.work = .sweep fn d hdl)
    (hr : (s.trace id 1 0).sweepRun id op fn d hdl = some t) : exec (.sideQueueHandover core) s = .next t :=
  handover_runs h (by rw [State.sideRun, hw]; exact hr)

theorem handover_sweep_waits {fn d hdl : Nat} (hw : op.work = .sweep fn d hdl)
    (hr : (s.trace id 1 0).sweepRun id op fn d hdl = none) : exec (.sideQueueHandover core) s = .fault .notEnabled :=
  handover_waits h (by rw [State.sideRun, hw]; exact hr)

theorem handover_cbs {d crib : Nat} {m : Bytes} {t : State} (hw : op.work = .cbs d crib m)
    (hr : (s.trace id 1 0).cbsRun id op d crib m = t) : exec (.sideQueueHandover core) s = .next t :=
  handover_runs h (by rw [State.sideRun, hw]; exact congrArg some hr)

theorem handover_cbr {d crib loc : Nat} {t : State} (hw : op.work = .cbr d crib loc)
    (hr : (s.trace id 1 0).cbrRun id op d crib loc = t) : exec (.sideQueueHandover core) s = .next t :=
  handover_runs h (by rw [State.sideRun, hw]; exact congrArg some hr)

theorem handover_cbw {d crib limit : Nat} {t : State} (hw : op.work = .cbw d crib limit)
    (hr : (s.trace id 1 0).cbwRun id op d crib = t) : exec (.sideQueueHandover core) s = .next t :=
  handover_runs h (by rw [State.sideRun, hw]; exact congrArg some hr)

theorem handover_shedj {d card stack : Nat} {t : State} (hw : op.work = .shedj d card stack)
    (hr : (s.trace id 1 0).shedjRun id op d card stack = some t) : exec (.sideQueueHandover core) s = .next t :=
  handover_runs h (by rw [State.sideRun, hw]; exact hr)

end

/-- Settles O51: the equation of each function of the side unit, read at each outcome that the statement names. -/
theorem sideQueueHandover : Obligations.SideQueueHandover := by
  unfold Obligations.SideQueueHandover
  intro core id s op h u rep code
  refine ⟨fun d hdl hw => ⟨fun hn => ?_, fun r hr => ?_⟩, fun fn d hdl hf hw => ⟨fun hn => ?_, fun r hr => ?_⟩,
    fun d crib m hw => ⟨fun hn => ?_, fun c hc => ?_⟩, fun d crib loc hw => ⟨fun hn => ?_, fun c hc => ?_⟩,
    fun d crib limit hw => ⟨fun hn => ?_, fun c hc => ?_⟩, fun d card stack x v hw hread => ?_⟩
  · exact handover_sweep h hw ((sweepRun_unknown hn).trans (congrArg some (if_pos rfl)))
  · exact handover_sweep h hw (sweepRun_state hr)
  · exact handover_sweep h hw ((sweepRun_unknown hn).trans (congrArg some (if_neg (by omega))))
  · refine ⟨fun hp => handover_sweep h hw (sweepRun_refused hr hf hp), ?_, ?_, ?_, ?_, ?_⟩
    · rintro rfl hrep
      exact handover_sweep h hw (sweepRun_repeated hr hrep)
    · intro hp hrep
      exact handover_sweep h hw (sweepRun_over hr hp (by tauto))
    · rintro hp rfl hrep
      exact ⟨(u.modOp id fun op => { op with phase := .running }).demandRows r, demandRows_sorted _ r,
        fun x => mem_demandRows, handover_sweep h hw (sweepRun_demand hr hp hrep)⟩
    · rintro hp rfl hz
      exact handover_sweep_waits h hw (sweepRun_asleep hr hp hz)
    · rintro hp rfl hz hd gone v
      exact ⟨fun hrep => flagValue_cancelled_once (s := v) (r := gone) rfl hrep,
        fun hrep => flagValue_cancelled_rep (s := v) (r := gone) rfl hrep,
        fun w hwr => handover_sweep h hw (sweepRun_cancelled_written hr hp hz hd hwr),
        fun hwr => handover_sweep h hw (sweepRun_cancelled_due hr hp hz hd hwr)⟩
  · exact handover_cbs h hw (cbsRun_unknown hn)
  · refine ⟨fun hcl => handover_cbs h hw ((cbsRun_eq hc).trans (if_pos hcl)),
      fun hcl hl => handover_cbs h hw ((cbsRun_eq hc).trans ((if_neg (by rw [hcl]; decide)).trans (if_pos hl))), fun hcl hl he => ?_⟩
    have hrun := (cbsRun_eq (id := id) (d := d) (m := m) hc).trans
      ((if_neg (by rw [hcl]; decide)).trans (if_neg (Nat.not_le.2 hl)))
    rw [openStep_without_episode (by exact he)] at hrun
    exact handover_cbs h hw hrun
  · exact handover_cbr h hw (cbrRun_unknown hn)
  · refine ⟨fun hi => ?_, fun m rest hi hm => ?_⟩
    · have hrun := cbrRun_eq (id := id) (d := d) (loc := loc) hc (by rw [hi]; rfl)
      rw [hi] at hrun
      exact handover_cbr h hw hrun
    · have hrun := cbrRun_eq (id := id) (d := d) (loc := loc) hc (by
        rw [hi]
        exact List.dropWhile_cons_of_neg (by rw [List.isEmpty_iff]; exact hm))
      rw [hi] at hrun
      have hk : (msgKind m != 8) = decide (msgKind m ≠ 8) := by rw [Bool.eq_iff_iff, bne_iff_ne, decide_eq_true_iff]
      rw [← hk]
      exact handover_cbr h hw hrun
  · exact handover_cbw h hw (cbwRun_unknown hn)
  · refine ⟨fun hi => handover_cbw h hw ((cbwRun_eq hc).trans (if_pos ?_)),
      fun hi => handover_cbw h hw ((cbwRun_eq hc).trans (if_neg ?_))⟩
    · rw [Bool.not_eq_true', List.isEmpty_eq_false_iff]
      exact hi
    · rw [hi]
      decide
  · intro q ok done
    have hrun := shedjRun_eq (op := op) (d := d) (stack := stack) hread
    refine ⟨fun hp => handover_shedj h hw (hrun.trans ?_), fun hp hok => handover_shedj h hw (hrun.trans ?_),
      fun hp hok hl => handover_shedj h hw (hrun.trans ?_), fun hp hok hl => handover_shedj h hw (hrun.trans ?_)⟩
    · exact if_pos hp
    · rw [if_neg (by rw [hp]; decide), if_pos (card_refused_iff.2 hok)]
      rfl
    · rw [if_neg (by rw [hp]; decide), if_neg (fun e => card_refused_iff.1 e hok), if_pos hl]
      rfl
    · rw [if_neg (by rw [hp]; decide), if_neg (fun e => card_refused_iff.1 e hok), if_neg (Nat.not_le.2 hl)]
      rfl

end Sys2Proof.Machine
end

section
/-! SUPPORT. The jobs of the Sheds (O52). -/

namespace Sys2Proof.Machine

/-! ### What a trace record of a job leaves as it was -/

/-- The Sheds, the leave and the jobs that the grids count are kept. -/
structure KeepsJobs (s u : State) : Prop where
  shed : u.shed = s.shed
  leave : u.leave = s.leave
  jobs : ∀ n gr, s.gridOf n = some gr → ∃ gr', u.gridOf n = some gr' ∧ gr'.jobs = gr.jobs

theorem KeepsJobs.refl (s : State) : KeepsJobs s s := ⟨rfl, rfl, fun _ gr h => ⟨gr, h, rfl⟩⟩

theorem KeepsJobs.trans {s u v : State} (h : KeepsJobs s u) (k : KeepsJobs u v) : KeepsJobs s v := by
  refine ⟨k.shed.trans h.shed, k.leave.trans h.leave, fun n gr hgr => ?_⟩
  obtain ⟨gr', hgr', hj⟩ := h.jobs n gr hgr
  obtain ⟨gr'', hgr'', hj'⟩ := k.jobs n gr' hgr'
  exact ⟨gr'', hgr'', hj'.trans hj⟩

theorem keepsJobs_of_accesses {s u : State} (h : Accesses s u) : KeepsJobs s u :=
  ⟨(congrArg State.shed h.frame).trans rfl, (congrArg State.leave h.frame).trans rfl,
    fun n gr hgr => ⟨gr, (congrArg (fun l : LaunchState => sfind l.grids n) h.launch).trans hgr, rfl⟩⟩

theorem gridOf_modGrid (s : State) (n k : Nat) (f : Grid → Grid) :
    (s.modGrid n f).gridOf k = if k = n then (s.gridOf k).map f else s.gridOf k := sfind_supd _ _ _ _

theorem keepsJobs_modGrid (s : State) (n : Nat) {f : Grid → Grid} (hf : ∀ g, (f g).jobs = g.jobs) : KeepsJobs s (s.modGrid n f) := by
  refine ⟨rfl, rfl, fun k gr hgr => ?_⟩
  rw [gridOf_modGrid, hgr]
  split
  · exact ⟨f gr, rfl, hf gr⟩
  · exact ⟨gr, rfl, rfl⟩

theorem keepsJobs_dropDie (s : State) (die : Nat) : KeepsJobs s (s.dropDie die) := ⟨rfl, rfl, fun _ gr h => ⟨gr, h, rfl⟩⟩

theorem keepsJobs_traceRec {s : State} (hm : s.mon = []) (grid : Nat) (rec : Bytes) : KeepsJobs s (s.traceRec grid rec) := by
  rw [State.traceRec]
  split
  · exact .refl s
  · next gr hgr =>
    have hw := accesses_writeVa hm (outside gr.ctx) (gr.tbuf + gr.tused) rec
    dsimp only
    split
    · exact .refl s
    · split
      · exact keepsJobs_modGrid _ _ fun _ => rfl
      · split
        · next hx =>
          rw [hx] at hw
          exact (keepsJobs_of_accesses hw).trans (keepsJobs_modGrid _ _ fun _ => rfl)
        · next hx =>
          rw [hx] at hw
          exact (keepsJobs_of_accesses hw).trans (keepsJobs_modGrid _ _ fun _ => rfl)

/-- No record is kept where the grid keeps no trace (R430). -/
theorem traceRec_of_quiet {s : State} {grid : Nat} (h : ∀ gr, s.gridOf grid = some gr → gr.tlen = 0) (rec : Bytes) :
    s.traceRec grid rec = s := by
  rw [State.traceRec]
  split
  · rfl
  · next gr hgr => exact if_pos (h gr hgr)

/-! ### The limit of `cbw` -/

theorem exec_cbwTimeout {s : State} {id : Nat} {op : Op} {d crib limit : Nat} (h : sfind s.ops id = some op) (hw : op.work = .cbw d crib limit) :
    exec (.cbwTimeout id) s =
      if op.phase = .running ∧ limit ≠ 0 ∧ op.since + limit ≤ s.now then .next (s.report id d 15 15) else notNow := by
  show execCbwTimeout id s = _
  rw [execCbwTimeout, h]
  dsimp only
  rw [hw]

/-! ### Start and leave -/

theorem mem_queueLeave {s : State} {id i : Nat} : i ∈ (s.queueLeave id).leave.waiting ↔ i = id ∨ i ∈ s.leave.waiting := by
  obtain ⟨l, r, hl, hu, -⟩ := queueLeave_eq s id
  rw [hu, hl]
  simp only [List.mem_append, List.mem_cons]
  tauto

/-- A job that has just been taken. -/
def ShedJob.fresh (id : Nat) (c : ShedCard) (now : Nat) : ShedJob := ⟨id, c, .leave, now, 0, 0, 0, 0, [], []⟩

/-- The oldest card of a stack stands on a core. -/
def State.takeCard (s : State) (stack key : Nat) (c : ShedCard) (rest : List ShedCard) : State :=
  State.setShedJob { s with nextId := s.nextId + 1, shed := { s.shed with queues := sput s.shed.queues stack rest } } key
    (.fresh s.nextId c s.now)

theorem keepsJobs_startJob {s : State} (hm : s.mon = []) (stack key : Nat) (c : ShedCard) (rest : List ShedCard) :
    KeepsJobs (s.takeCard stack key c rest) (((s.takeCard stack key c rest).dropDie (stack / 3)).traceJob key (.fresh s.nextId c s.now) 1 0) :=
  (keepsJobs_dropDie _ _).trans (keepsJobs_traceRec (s := (s.takeCard stack key c rest).dropDie (stack / 3)) hm _ _)

theorem exec_shedJobStart {s : State} {stack core : Nat} (hs : stack < 12) (hc : core < 8) (hu : s.stackUsed stack = true)
    (hr : sget false s.shed.retired (shedKey stack core) = false) (hj : sfind s.shed.jobs (shedKey stack core) = none)
    {c : ShedCard} {rest : List ShedCard} (hq : sfind s.shed.queues stack = some (c :: rest)) :
    exec (.shedJobStart stack core) s = .next (((((s.takeCard stack (shedKey stack core) c rest).dropDie (stack / 3)).traceJob
      (shedKey stack core) (.fresh s.nextId c s.now) 1 0)).queueLeave s.nextId) := by
  have hn : ¬ (12 ≤ stack ∨ 8 ≤ core ∨ (sfind s.shed.jobs (shedKey stack core)).isSome = true
      ∨ sget false s.shed.retired (shedKey stack core) = true ∨ (!s.stackUsed stack) = true) := by
    rw [hj, hr, hu]
    rintro (h | h | h | h | h)
    · omega
    · omega
    all_goals cases h
  show execShedJobStart stack core s = _
  rw [execShedJobStart]
  dsimp only
  rw [if_neg hn, hq]
  rfl

theorem supd_of_absent {α : Type} {m : Sparse α} {k : Nat} (h : sfind m k = none) (f : α → α) : supd m k f = m := by
  induction m with
  | nil => rfl
  | cons e t ih =>
    rw [sfind] at h
    split at h
    · cases h
    · next hk =>
      rw [supd, List.map_cons, if_neg fun hek : e.1 = k => hk hek.symm]
      exact congrArg (e :: ·) (ih h)

section
variable {s : State} {j : ShedJob} {k : Nat} (ho : sfind s.ops j.id = none)
  (hj : s.shed.jobs.find? (fun e => e.2.id = j.id) = some (k, j)) (hh : s.leave.waiting.head? = some j.id)
include ho hj hh

theorem canGrant_job : s.canGrant j.id (s.asks j.id) = (decide ((937 : Int) ≤ s.leave.free) && decide (j.since < s.now)) := by
  have hany : s.shed.jobs.any (fun e => e.2.id = j.id) = true := by
    exact List.any_eq_true.2 ⟨(k, j), List.mem_of_find?_eq_some hj, decide_eq_true rfl⟩
  have hasks : s.asks j.id = 937 := by
    rw [State.asks, ho]
    exact if_pos hany
  have hasked : s.askedAt j.id = some j.since := by
    rw [State.askedAt, ho, hj] <;> rfl
  have htake : s.leave.waiting.takeWhile (· ≠ j.id) = [] := by
    obtain ⟨l, hl⟩ := List.head?_eq_some_iff.1 hh
    rw [hl]
    exact List.takeWhile_cons_of_neg (by simp)
  have hhead (b : Bool) : (decide (j.id = j.id) || b) = true := by rw [decide_eq_true rfl, Bool.true_or]
  rw [State.canGrant, hasks, hasked, htake, hh]
  dsimp only
  rw [hhead, Bool.and_true]
  exact Bool.and_true _

theorem grant_job (hq : ∀ gr, s.gridOf j.card.grid = some gr → gr.tlen = 0) (hf : 937 ≤ s.leave.free) (ht : j.since < s.now) :
    exec (.leaveGrant j.id) s = .next ((s.takeLeave j.id 937).setShedJob k { j with phase := .running, grant := 937 }) := by
  have hin : s.leave.waiting.contains j.id = true := by simpa using List.mem_of_mem_head? hh
  have hg : s.canGrant j.id (s.asks j.id) = true := by
    rw [canGrant_job ho hj hh, decide_eq_true hf, decide_eq_true ht]
    rfl
  rw [exec_leaveGrant, execLeaveGrant, hin, hg, if_neg (by decide), ho]
  dsimp only
  rw [State.shedJobOf, hj]
  exact congrArg Host.Outcome.next (traceRec_of_quiet (by exact hq) _)

theorem grant_job_refused (h : s.leave.free < 937 ∨ s.now ≤ j.since) : exec (.leaveGrant j.id) s = .fault .notEnabled := by
  rw [exec_leaveGrant, execLeaveGrant]
  refine if_pos (.inr ?_)
  rw [canGrant_job ho hj hh, Bool.not_eq_true', Bool.and_eq_false_iff, decide_eq_false_iff_not, decide_eq_false_iff_not]
  omega

end

/-! ### A turn of a running job -/

section
variable {s : State} {stack core : Nat} {j : ShedJob} (hc : core < 8) (hj : sfind s.shed.jobs (shedKey stack core) = some j)
  (hp : j.phase = .running)
include hc hj hp

theorem exec_shedJobEnd : exec (.shedJobEnd stack core) s =
    if j.status = 0 ∧ j.progress < (cardFields j.card.bytes).count then
      match s.jobElem stack j (cardFields j.card.bytes) with
      | some (j, s) => .next (s.setShedJob (shedKey stack core) j)
      | none => notNow
    else
      match s.jobFlag stack j (cardFields j.card.bytes) j.status with
      | some s => .next ((s.traceJob (shedKey stack core) j 5 j.status).freeJob (shedKey stack core) j)
      | none => notNow := by
  show execShedJobEnd stack core s = _
  rw [execShedJobEnd]
  dsimp only
  rw [hj]
  exact if_neg (by rw [hp]; simp; omega)

theorem shedJobEnd_elem {t : State} {j' : ShedJob} (hs : j.status = 0) (hlt : j.progress < (cardFields j.card.bytes).count)
    (he : s.jobElem stack j (cardFields j.card.bytes) = some (j', t)) :
    exec (.shedJobEnd stack core) s = .next (t.setShedJob (shedKey stack core) j') := by
  rw [exec_shedJobEnd hc hj hp, if_pos ⟨hs, hlt⟩, he]

theorem shedJobEnd_over {v : State} (hs : j.status ≠ 0 ∨ (cardFields j.card.bytes).count ≤ j.progress)
    (hv : s.jobFlag stack j (cardFields j.card.bytes) j.status = some v) :
    exec (.shedJobEnd stack core) s = .next ((v.traceJob (shedKey stack core) j 5 j.status).freeJob (shedKey stack core) j) := by
  rw [exec_shedJobEnd hc hj hp, if_neg (by omega), hv]

end

section
variable {s : State} {stack : Nat} {j : ShedJob} {c : CardFields}

theorem jobElem_of_read_fail {st va : Nat} {u : State}
    (hr : readSources stack j j.progress ((List.range c.n).map c.source) s = (.error (.fail st va), u)) :
    s.jobElem stack j c = some ({ j with status := st, faddr := va }, u) := by
  rw [State.jobElem]
  dsimp only
  rw [hr]

section
variable {xs : List Nat} {u : State} (hr : readSources stack j j.progress ((List.range c.n).map c.source) s = (.ok xs, u))
include hr

theorem jobElem_of_place_fail {st va : Nat} {v : State} (hp : u.jobPlace stack j (c.dst + 4 * j.progress) .write = (.fail st va, v)) :
    s.jobElem stack j c = some ({ j with status := st, faddr := va }, v) := by
  rw [State.jobElem]
  dsimp only
  rw [hr]
  dsimp only
  rw [hp]

theorem jobElem_of_ok {p : Place} {v : State} (hp : u.jobPlace stack j (c.dst + 4 * j.progress) .write = (.ok p, v)) :
    s.jobElem stack j c = some ({ j with progress := j.progress + 1 },
      v.writePa (j.agent stack) p.attr p.pa (leBytes 4 (c.result xs))) := by
  rw [State.jobElem]
  dsimp only
  rw [hr]
  dsimp only
  rw [hp]

end
end

/-- A job that is over frees its core and its leave, and its grid counts one job less. -/
theorem freeJob_frees {s v : State} (h : KeepsJobs v s) (key : Nat) (j : ShedJob) :
    sfind (s.freeJob key j).shed.jobs key = none ∧ (s.freeJob key j).leave.free = v.leave.free + j.grant
      ∧ ∀ gr, v.gridOf j.card.grid = some gr → ∃ gr', (s.freeJob key j).gridOf j.card.grid = some gr' ∧ gr'.jobs = gr.jobs - 1 := by
  refine ⟨(sfind_sdel _ _ _).trans (if_pos rfl), ?_, fun gr hgr => ?_⟩
  · show s.leave.free + _ = _
    rw [h.leave]
  · obtain ⟨gr', hgr', hjobs⟩ := h.jobs _ gr hgr
    refine ⟨{ gr' with jobs := gr'.jobs - 1 }, ?_, by rw [hjobs]⟩
    show (s.modGrid j.card.grid fun g => { g with jobs := g.jobs - 1 }).gridOf j.card.grid = _
    rw [gridOf_modGrid, if_pos rfl, hgr']
    rfl

/-! ### The elements of `rsum` and `rcopy` -/

/-- The sum of two words, as `rsum` over `I32` takes it. -/
def wordSum (x y : Nat) : Nat := (x + y) % 2 ^ 32

theorem length_shedPairs (op : Nat → Nat → Nat) (l : List Nat) : (shedPairs op l).length = (l.length + 1) / 2 := by
  induction l using shedPairs.induct with
  | case1 x y t ih =>
    rw [shedPairs, List.length_cons, ih, List.length_cons, List.length_cons]
    omega
  | case2 l hl =>
    rw [shedPairs]
    · rcases l with - | ⟨x, - | ⟨y, t⟩⟩
      · rfl
      · show 1 = (1 + 1) / 2
        rfl
      · exact absurd rfl (hl x y t)
    · exact hl

/-- A level of the tree keeps the sum modulo 2^32, and words stay words. -/
theorem shedPairs_wordSum (l : List Nat) : (shedPairs wordSum l).sum % 2 ^ 32 = l.sum % 2 ^ 32
    ∧ ((∀ x ∈ l, x < 2 ^ 32) → ∀ x ∈ shedPairs wordSum l, x < 2 ^ 32) := by
  induction l using shedPairs.induct with
  | case1 x y t ih =>
    obtain ⟨hsum, hlt⟩ := ih
    rw [shedPairs]
    refine ⟨?_, fun h z hz => ?_⟩
    · simp only [List.sum_cons, wordSum]
      omega
    · rcases List.mem_cons.1 hz with rfl | hz
      · exact Nat.mod_lt _ (by decide)
      · exact hlt (fun w hw => h w (List.mem_cons_of_mem _ (List.mem_cons_of_mem _ hw))) z hz
  | case2 l hl =>
    rw [shedPairs]
    · exact ⟨rfl, id⟩
    · exact hl

theorem treeSum_wordSum (n : Nat) {l : List Nat} (h1 : 1 ≤ l.length) (hn : l.length ≤ 2 ^ n) (hl : ∀ x ∈ l, x < 2 ^ 32) :
    treeSum wordSum n l = l.sum % 2 ^ 32 := by
  induction n generalizing l with
  | zero =>
    obtain ⟨x, rfl⟩ := List.length_eq_one_iff.1 (by omega : l.length = 1)
    rw [List.sum_singleton, Nat.mod_eq_of_lt (hl x List.mem_cons_self)]
    rfl
  | succ n ih =>
    obtain ⟨hsum, hlt⟩ := shedPairs_wordSum l
    have hlen := length_shedPairs wordSum l
    rw [treeSum, ih (by omega) (by omega) (hlt hl), hsum]

theorem shedAdd_i32 {c : CardFields} (h : c.fmt = 5) : shedAdd c.fmt = wordSum := by
  funext x y
  rw [shedAdd, h]
  exact if_pos rfl

/-- Settles O52: each turn of a Shed by the equation of its step; the sum of `rsum` by levels of its tree, each of which keeps it
modulo 2^32. -/
theorem shedJobs : Obligations.ShedJobs := by
  unfold Obligations.ShedJobs
  intro stack core s key
  refine ⟨fun id op d crib limit h hw hp hl => ⟨fun hle => ?_, fun hlt => ?_⟩, fun hs hc hu hr hj c rest hq hm _ hid => ?_,
    fun j k ho hj hh hq => ⟨fun hf ht => ?_, grant_job_refused ho hj hh⟩, fun j hc hj hp hst => ?_, fun j v hc hj hp => ?_,
    fun c xs hx => ⟨?_, fun hf h1 hn => ?_, ?_⟩⟩
  · exact (exec_cbwTimeout h hw).trans (if_pos ⟨hp, hl, hle⟩)
  · exact (exec_cbwTimeout h hw).trans (if_neg fun e => absurd e.2.2 (Nat.not_le.2 hlt))
  · obtain ⟨t, ht, hk⟩ : ∃ t, exec (.shedJobStart stack core) s = .next (t.queueLeave s.nextId)
        ∧ KeepsJobs (s.takeCard stack key c rest) t :=
      ⟨_, exec_shedJobStart hs hc hu hr hj hq, keepsJobs_startJob hm _ _ _ _⟩
    have hqueue : sfind (s.takeCard stack key c rest).shed.queues stack = some rest := sfind_sput_same _ _ _
    have hjob : sfind (s.takeCard stack key c rest).shed.jobs key = some (.fresh s.nextId c s.now) := sfind_sput_same _ _ _
    have hfree : (s.takeCard stack key c rest).leave = s.leave := rfl
    rw [← hk.shed] at hqueue hjob
    rw [← hk.leave] at hfree
    refine ⟨_, _, ht, hqueue, hjob, rfl, rfl, rfl, rfl, rfl, rfl, (congrArg LeavePool.free hfree :), fun i => ?_⟩
    rw [mem_queueLeave, hfree]
  · refine ⟨_, grant_job ho hj hh hq hf ht, sfind_sput_same _ _ _, rfl, ?_, rfl, supd_of_absent ho fun op => { op with grant := 937 }, rfl⟩
    show j.id ∉ s.leave.waiting.filter (· ≠ j.id)
    simp
  · intro c hlt put read
    refine ⟨fun st va u hr => shedJobEnd_elem hc hj hp hst hlt (jobElem_of_read_fail hr), fun xs u hr => ?_⟩
    exact ⟨fun st va v hpl => shedJobEnd_elem hc hj hp hst hlt (jobElem_of_place_fail hr hpl),
      fun p v hpl => shedJobEnd_elem hc hj hp hst hlt (jobElem_of_ok hr hpl)⟩
  · intro c hs hv hm _
    exact ⟨_, shedJobEnd_over hc hj hp hs hv, freeJob_frees (keepsJobs_traceRec hm _ _) key j⟩
  · rintro x rfl
    rfl
  · rw [CardFields.result, shedAdd_i32 hf]
    exact treeSum_wordSum 4 h1 hn hx
  · rintro x y hf rfl
    show treeSum (shedAdd c.fmt) 4 [x, y] = _
    rw [hf]
    rfl

end Sys2Proof.Machine
end

section
/-! SUPPORT. The attention engines: hand-off, headers, blocks and the end of a run (O53). -/

namespace Sys2Proof.Machine

/-! ### Hand-off and leave -/

/-- A run as it goes on an engine: the one that is saved, or a new one. -/
def State.attnResume (s : State) (id kv : Nat) : AttnRun :=
  match sfind s.attn.saved id with
  | some r => { r with blocks := 0 }
  | none => ⟨id, [], [], kv, 0, 0, false⟩

theorem attnResume_eq (s : State) (id kv : Nat) : s.attnResume id kv =
    ((sfind s.attn.saved id).map fun r => { r with blocks := 0 }).getD ⟨id, [], [], kv, 0, 0, false⟩ := by
  rw [State.attnResume]
  cases sfind s.attn.saved id <;> rfl

/-- The run stands on the engine, and the core has had its turn. -/
def State.seated (s : State) (die n c id kv : Nat) : State :=
  { s with attn := ⟨sput s.attn.engines (engKey die n) (s.attnResume id kv), sdel s.attn.saved id, sput s.attn.last die c⟩ }

theorem exec_attnEngineHandoff {s : State} {die c n id : Nat} {op : Op} {d : Nat} {sg : Nat} {desc : AttnDesc} (hdie : die < 4)
    (hc : ((List.range Config.coresPerDie).map fun i => (sget (Config.coresPerDie - 1) s.attn.last die + 1 + i) % Config.coresPerDie).find?
      (fun c => (s.attnReady (die * Config.coresPerDie + c)).isSome) = some c)
    (hid : s.attnReady (die * Config.coresPerDie + c) = some id) (h : sfind s.ops id = some op) (hw : op.work = .attn d sg desc)
    (hn : (List.range 16).find? (fun n => (sfind s.attn.engines (die * 16 + n)).isNone) = some n)
    (hq : ∀ gr, s.gridOf op.grid = some gr → gr.tlen = 0) :
    exec (.attnEngineHandoff die) s = .next ((s.seated die n c id desc.kv).waitLeave id) := by
  have hquiet (k : Nat) : (s.seated die n c id desc.kv).trace id k 0 = s.seated die n c id desc.kv :=
    trace_of_quiet (fun op' h' gr hgr => by
      obtain rfl : op = op' := Option.some.inj (h.symm.trans h')
      exact hq gr hgr) k 0
  show execAttnEngineHandoff die s = _
  rw [execAttnEngineHandoff]
  dsimp only
  rw [if_neg (by omega), hc, show (List.range 16).find? (fun n => (sfind s.attn.engines (engKey die n)).isNone) = some n from hn]
  dsimp only
  rw [hid]
  dsimp only
  rw [h]
  dsimp only
  rw [hw]
  exact congrArg (fun u : State => Host.Outcome.next (u.waitLeave id)) (hquiet _)

section
variable {s : State} {id : Nat} {op : Op} (h : sfind s.ops id = some op)
include h

theorem grant_refused (hr : s.leave.free < op.leave ∨ s.now ≤ op.since) : exec (.leaveGrant id) s = .fault .notEnabled := by
  rw [exec_leaveGrant, execLeaveGrant]
  refine if_pos (.inr ?_)
  rw [State.canGrant, asks_of_op h, askedAt_of_op h, Bool.not_eq_true', Bool.and_eq_false_iff, Bool.and_eq_false_iff, Bool.and_eq_false_iff]
  refine .inl (.inl ?_)
  rw [decide_eq_false_iff_not, decide_eq_false_iff_not]
  omega

variable {d sg : Nat} {desc : AttnDesc} (hw : op.work = .attn d sg desc)
include hw

omit h in
theorem leave_attn : op.leave = 4687 := by rw [Op.leave, hw]

theorem runWork_attn : s.runWork id = some (s.running id) := by
  simp only [State.runWork, sfind_modOp h, hw]
  rfl

end

/-! ### The rows that write -/

/-- A row's output, where it has one to write. -/
def writeOutput (id : Nat) (d : AttnDesc) (i : Nat) (w : AttnRow) (s : State) : AttnRow × State :=
  match w.phase with
  | .output =>
    match s.attnWrite id (d.out + d.dh * i * (if d.ob then 2 else 4)) (w.outBytes d) with
    | (.ok _, s) => ({ w with phase := .status 0 }, s)
    | (.fail _ _ _, s) => ({ w with phase := .status 1 }, s)
    | _ => (w, s)
  | _ => (w, s)

/-- A row's status byte, where it is due. -/
def writeStatus (id : Nat) (d : AttnDesc) (i : Nat) (w : AttnRow) (s : State) : AttnRow × State :=
  match w.phase with
  | .status st =>
    match s.attnWrite id (d.rs + i) (leBytes 1 st) with
    | (.ok _, s) => ({ w with phase := .over st }, s)
    | (.fail _ _ _, s) => ({ w with phase := .over st }, s)
    | _ => (w, s)
  | _ => (w, s)

theorem writeRows_cons (id : Nat) (d : AttnDesc) (i : Nat) (w : AttnRow) (t : List AttnRow) (s : State) :
    (writeRows id d i (w :: t) s).1 =
      (writeStatus id d i (writeOutput id d i w s).1 (writeOutput id d i w s).2).1
        :: (writeRows id d (i + 1) t (writeStatus id d i (writeOutput id d i w s).1 (writeOutput id d i w s).2).2).1 := rfl

theorem writeOutput_not_running {id : Nat} {d : AttnDesc} {i : Nat} {w : AttnRow} {s : State} (h : w.phase ≠ .running) :
    (writeOutput id d i w s).1.phase ≠ .running := by
  rw [writeOutput]
  split
  · split
    · exact RowPhase.noConfusion
    · exact RowPhase.noConfusion
    · exact h
  · exact h

theorem writeStatus_not_running {id : Nat} {d : AttnDesc} {i : Nat} {w : AttnRow} {s : State} (h : w.phase ≠ .running) :
    (writeStatus id d i w s).1.phase ≠ .running := by
  rw [writeStatus]
  split
  · split
    · exact RowPhase.noConfusion
    · exact RowPhase.noConfusion
    · exact h
  · exact h

/-- Rows that take no tokens any more take none after they have written. -/
theorem writeRows_not_running (id : Nat) (d : AttnDesc) (i : Nat) (l : List AttnRow) (s : State) (h : ∀ w ∈ l, w.phase ≠ .running) :
    ∀ w ∈ (writeRows id d i l s).1, w.phase ≠ .running := by
  induction l generalizing i s with
  | nil => exact fun w hw => absurd hw (List.not_mem_nil)
  | cons v t ih =>
    intro w hw
    rw [writeRows_cons] at hw
    rcases List.mem_cons.1 hw with rfl | hw
    · exact writeStatus_not_running (writeOutput_not_running (h v List.mem_cons_self))
    · exact ih (i + 1) _ (fun x hx => h x (List.mem_cons_of_mem _ hx)) w hw

/-- The rows that an engine holds after they have written. -/
theorem attnSettle_rows (s : State) (key : Nat) (r : AttnRun) (dst : Nat) (d : AttnDesc) :
    (sfind (s.attnSettle key r dst d).attn.engines key).map (·.rows) = some (writeRows r.op d 0 r.rows s).1 := by
  have hset (u : State) : (sfind (u.setEngine key { r with rows := (writeRows r.op d 0 r.rows s).1 }).attn.engines key).map (·.rows)
      = some (writeRows r.op d 0 r.rows s).1 := by
    rw [State.setEngine]
    dsimp only
    rw [sfind_sput_same]
    rfl
  rw [State.attnSettle]
  dsimp only
  split
  · exact hset (writeRows r.op d 0 r.rows s).2
  · exact hset (writeRows r.op d 0 r.rows s).2

/-! ### What a step does to a run -/

section
variable (r : AttnRun) (d : AttnDesc) (p : RowPhase) (n : Nat) (rows : List AttnRow)

theorem settle_op : (r.settle p).op = r.op := rfl

theorem endRows_op : (r.endRows d).op = r.op := by
  rw [AttnRun.endRows]
  split <;> rfl

theorem endRows_window : (r.endRows d).window = r.window := by
  rw [AttnRun.endRows]
  split <;> rfl

theorem consume_op : (r.consume d n rows).op = r.op := endRows_op _ _

theorem consume_window : (r.consume d n rows).window = r.window.drop 1 := endRows_window _ _

variable {p}

theorem settle_not_running (hp : p ≠ .running) : ∀ w ∈ (r.settle p).rows, w.phase ≠ .running := by
  intro w hw
  obtain ⟨v, -, rfl⟩ := List.mem_map.1 hw
  by_cases hv : v.phase = .running
  · rw [if_pos hv]
    exact hp
  · rw [if_neg hv]
    exact hv

theorem consume_not_running (h : d.limit ≤ r.p + n ∨ (r.window.length ≤ 1 ∧ r.next = 0)) :
    ∀ w ∈ (r.consume d n rows).rows, w.phase ≠ .running := by
  rw [AttnRun.consume, AttnRun.endRows, if_pos]
  · exact settle_not_running _ RowPhase.noConfusion
  · refine h.imp_right fun ⟨hl, hn⟩ => ⟨?_, hn⟩
    rw [List.isEmpty_iff, List.drop_eq_nil_iff]
    exact hl

end

/-! ### The score array -/

/-- The next step of a run that takes tokens. -/
def State.attnNext (s : State) (r : AttnRun) (d : AttnDesc) : Option (AttnRun × Nat × State) :=
  match r.window with
  | b :: _ => s.attnBlock r d b
  | [] => if r.next = 0 then some (r.endRows d, 0, s) else none

theorem attnStart_of_started {r : AttnRun} (hst : r.started = true) (s : State) (d : AttnDesc) : s.attnStart r d = some (r, s) := if_pos hst

section
variable {s : State} {key : Nat} {r : AttnRun} {op : Op} {d : Nat} {sg : Nat} {desc : AttnDesc}
  (he : sfind s.attn.engines key = some r) (h : sfind s.ops r.op = some op) (hw : op.work = .attn d sg desc)
  (hp : op.phase = .running) (hst : r.started = true)
include he h hw hp hst

theorem attnHeaderArrival_runs {r' : AttnRun} {u : State} (hh : s.attnHeader r op desc = some (r', u)) :
    exec (.attnHeaderArrival key) s = .next (u.setEngine key r') := by
  show execAttnHeaderArrival key s = _
  rw [execAttnHeaderArrival, he]
  dsimp only
  rw [h]
  dsimp only
  rw [hw, hp]
  dsimp only
  rw [attnStart_of_started hst]
  dsimp only
  rw [hh]

theorem attnHeaderArrival_waits (hh : s.attnHeader r op desc = none) : exec (.attnHeaderArrival key) s = .fault .notEnabled := by
  show execAttnHeaderArrival key s = _
  rw [execAttnHeaderArrival, he]
  dsimp only
  rw [h]
  dsimp only
  rw [hw, hp]
  dsimp only
  rw [attnStart_of_started hst]
  dsimp only
  rw [hh]
  rfl

variable (hr : r.running = true)
include hr

theorem exec_attnBlockProcess : exec (.attnBlockProcess key) s =
    match s.attnNext r desc with
    | none => notNow
    | some (r', fl, u) =>
      if (sfind ((u.tallyUp r'.op desc.site 1 (endEvents fl r.rows r'.rows)).attnSettle key r' d desc).attn.engines key).map (·.rows)
          = some r.rows ∧ r'.window = r.window then notNow
      else .next ((u.tallyUp r'.op desc.site 1 (endEvents fl r.rows r'.rows)).attnSettle key r' d desc) := by
  show execAttnBlockProcess key s = _
  rw [execAttnBlockProcess, he]
  dsimp only
  rw [h]
  dsimp only
  rw [hw, hp]
  dsimp only
  rw [attnStart_of_started hst]
  dsimp only
  rw [hr, if_neg (by decide)] <;> rfl

theorem attnBlockProcess_waits (hn : s.attnNext r desc = none) : exec (.attnBlockProcess key) s = .fault .notEnabled := by
  rw [exec_attnBlockProcess he h hw hp hst hr, hn]
  rfl

/-- A step that takes a block, or after which no row takes tokens, goes on. -/
theorem attnBlockProcess_runs {r' : AttnRun} {fl : Nat} {u : State} (hn : s.attnNext r desc = some (r', fl, u)) (ho : r'.op = r.op)
    (hnew : r'.window ≠ r.window ∨ ∀ w ∈ r'.rows, w.phase ≠ .running) :
    exec (.attnBlockProcess key) s = .next ((u.tallyUp r.op desc.site 1 (endEvents fl r.rows r'.rows)).attnSettle key r' d desc) := by
  rw [exec_attnBlockProcess he h hw hp hst hr, hn]
  dsimp only
  rw [ho, if_neg]
  rintro ⟨hrows, hwin⟩
  have hall := hnew.resolve_left (not_not.2 hwin)
  rw [attnSettle_rows, Option.some_inj] at hrows
  obtain ⟨w, hmem, hrun⟩ := List.any_eq_true.1 hr
  rw [← hrows] at hmem
  exact writeRows_not_running _ _ _ _ _ hall w hmem (of_decide_eq_true hrun)

end

/-- The payload of a block: the prefetched one, or what memory holds now. -/
def State.blockPayload (s : State) (r : AttnRun) (d : AttnDesc) (b : AttnBlock) (n : Nat) : Option (AttnPay × State) :=
  match b.pay with
  | some x => some (x, s)
  | none => s.attnPayload r.op d b n

theorem blockPayload_eq {s w : State} {r : AttnRun} {d : AttnDesc} {b : AttnBlock} {n : Nat} {x : AttnPay}
    (hx : b.pay = some x ∧ w = s ∨ b.pay = none ∧ s.attnPayload r.op d b n = some (x, w)) : s.blockPayload r d b n = some (x, w) := by
  rw [State.blockPayload]
  rcases hx with ⟨hp, rfl⟩ | ⟨hp, hl⟩
  · rw [hp]
  · rw [hp]
    exact hl

section
variable {s : State} {r : AttnRun} {d : AttnDesc} {b : AttnBlock} {rest : List AttnBlock} (hwin : r.window = b :: rest)
include hwin

theorem attnNext_block : s.attnNext r d = s.attnBlock r d b := by rw [State.attnNext, hwin]

theorem consume_window_ne (n : Nat) (rows : List AttnRow) : (r.consume d n rows).window ≠ r.window := by
  rw [consume_window, hwin, List.drop_one, List.tail_cons]
  exact (List.cons_ne_self b rest).symm

theorem attnNext_unreadable {st : Nat} (hb : b.unreadable = some st) : s.attnNext r d = some (r.settle (.status st), 0, s) := by
  rw [attnNext_block hwin, State.attnBlock, hb]

variable (hu : b.unreadable = none)
include hu

theorem attnNext_broken (hb : b.broken = true) : s.attnNext r d = some (r.settle (.status 11), 0, s) := by
  rw [attnNext_block hwin, State.attnBlock, hu]
  exact if_pos hb

variable (hb : b.broken = false)
include hb

theorem attnNext_readable : s.attnNext r d =
    if !r.needed d r.p (min b.count (d.limit - r.p)) then some (r.consume d (min b.count (d.limit - r.p)) r.rows, 0, s)
    else match s.blockPayload r d b (min b.count (d.limit - r.p)) with
      | none => none
      | some (.bad st, s) => some (r.consume d (min b.count (d.limit - r.p)) (r.rows.zipIdx.map fun e =>
          if r.needs d (min b.count (d.limit - r.p)) e then { e.1 with phase := RowPhase.status st } else e.1), 0, s)
      | some (.rows k v, s) =>
        let outs := r.rows.zipIdx.map fun e =>
          if e.1.phase = .running then AttnRow.takeAll d e.2 (tokenRows d.dh (min b.count (d.limit - r.p)) k v) r.p (e.1, 0) else (e.1, 0)
        some (r.consume d (min b.count (d.limit - r.p)) (outs.map (·.1)), (outs.map (·.2)).sum, s) := by
  rw [attnNext_block hwin, State.attnBlock, hu]
  dsimp only
  rw [hb, if_neg (by decide)] <;> rfl

theorem attnNext_unneeded (hn : r.needed d r.p (min b.count (d.limit - r.p)) = false) :
    s.attnNext r d = some (r.consume d (min b.count (d.limit - r.p)) r.rows, 0, s) := by
  rw [attnNext_readable hwin hu hb, hn]
  rfl

theorem attnNext_payload {x : AttnPay} {w : State} (hn : r.needed d r.p (min b.count (d.limit - r.p)) = true)
    (hx : b.pay = some x ∧ w = s ∨ b.pay = none ∧ s.attnPayload r.op d b (min b.count (d.limit - r.p)) = some (x, w)) :
    s.attnNext r d = match x with
      | .bad st => some (r.consume d (min b.count (d.limit - r.p)) (r.rows.zipIdx.map fun e =>
          if r.needs d (min b.count (d.limit - r.p)) e then { e.1 with phase := RowPhase.status st } else e.1), 0, w)
      | .rows k v =>
        let outs := r.rows.zipIdx.map fun e =>
          if e.1.phase = .running then AttnRow.takeAll d e.2 (tokenRows d.dh (min b.count (d.limit - r.p)) k v) r.p (e.1, 0) else (e.1, 0)
        some (r.consume d (min b.count (d.limit - r.p)) (outs.map (·.1)), (outs.map (·.2)).sum, w) := by
  rw [attnNext_readable hwin hu hb, hn, if_neg (by decide), blockPayload_eq hx]
  cases x <;> rfl

end

/-! ### The prefetcher -/

section
variable {s : State} {r : AttnRun} {op : Op} {d : AttnDesc}

theorem attnHeader_idle (hr : r.running = false) : s.attnHeader r op d = none := by
  rw [State.attnHeader]
  exact if_pos (.inr (.inr (by rw [hr]; rfl)))

/-- A header that has arrived, as the window takes it. -/
def AttnRun.block (r : AttnRun) (d : AttnDesc) (h : KvHead) : AttnBlock :=
  ⟨r.next, h.count, h.cap, h.succ, h.ver = 0 || h.hdh ≠ d.dh || h.cap < h.count, none, none⟩

/-- The position at which the block that arrives will be taken. -/
def AttnRun.ahead (r : AttnRun) (d : AttnDesc) : Nat := r.window.foldl (fun p b => p + min b.count (d.limit - p)) r.p

variable {x : Got} {v : State} (hn : r.next ≠ 0) (hl : r.window.length < 5) (hr : r.running = true)
  (hx : s.opRead r.op .g r.next 256 = (.ok x, v))
include hn hl hr hx

theorem attnHeader_eq : s.attnHeader r op d =
    if x.psn then some ({ r with window := r.window ++ [⟨r.next, 0, 0, 0, false, some 2, none⟩], next := 0 }, v)
    else
      let e := (v.dropDie (dieOfCore op.core)).prefetch r d (r.block d (kvHead x.bytes))
      some ({ r with window := r.window ++ [e.1], next := (kvHead x.bytes).succ }, e.2) := by
  rw [State.attnHeader, if_neg (by rw [hr]; rintro (e | e | e); exacts [hn e, absurd hl (Nat.not_lt.2 e), by cases e])]
  dsimp only
  rw [State.attnRead, hx]
  rfl

end

section
variable {s : State} {r : AttnRun} {d : AttnDesc} {b : AttnBlock}

theorem prefetch_eq : s.prefetch r d b =
    if b.broken || !r.needed d (r.ahead d) (min b.count (d.limit - r.ahead d)) then (b, s)
    else match s.attnPayload r.op d b (min b.count (d.limit - r.ahead d)) with
      | some (x, s) => ({ b with pay := some x }, s)
      | none => (b, s) := rfl

theorem prefetch_unneeded (h : b.broken = true ∨ r.needed d (r.ahead d) (min b.count (d.limit - r.ahead d)) = false) :
    s.prefetch r d b = (b, s) := by
  rw [prefetch_eq]
  refine if_pos ?_
  rcases h with h | h
  · rw [h, Bool.true_or]
  · rw [h, Bool.not_false, Bool.or_true]

theorem prefetch_payload (hb : b.broken = false) (h : r.needed d (r.ahead d) (min b.count (d.limit - r.ahead d)) = true)
    {x : AttnPay} {w : State} (hx : s.attnPayload r.op d b (min b.count (d.limit - r.ahead d)) = some (x, w)) :
    s.prefetch r d b = ({ b with pay := some x }, w) := by
  rw [prefetch_eq, if_neg (by rw [hb, h]; decide), hx]

theorem attnPayload_of_ok {id n : Nat} {k l : Got} {u w : State}
    (hk : s.opRead id .g (b.va + 256) (2 * d.dh * n) = (.ok k, u))
    (hl : u.opRead id .g (b.va + 256 + 2 * d.dh * b.cap) (2 * d.dh * n) = (.ok l, w)) :
    s.attnPayload id d b n = some (if k.psn || l.psn then .bad 2 else .rows k.bytes l.bytes, w) := by
  rw [State.attnPayload, State.attnRead, show kvRow b.va d.dh 0 = b.va + 256 from rfl, hk]
  dsimp only
  rw [State.attnRead, show kvRow b.va d.dh b.cap = b.va + 256 + 2 * d.dh * b.cap from rfl, hl]

end

/-- Settles O53: each turn by the equation of its step; a turn of the score array is never idle, for it takes a block or leaves no
row that takes tokens. -/
theorem attentionRuns : Obligations.AttentionRuns := by
  unfold Obligations.AttentionRuns
  intro s
  refine ⟨?_, ?_, ?_⟩
  · intro die c n id op d sg desc hdie cpd last hc hid h hw hn hq run
    have hwait := sfind_modOp (s := s.seated die n c id desc.kv) h fun op => { op with phase := .leave, since := s.now }
    obtain ⟨l, r, hl, hu, -⟩ := queueLeave_eq ((s.seated die n c id desc.kv).modOp id fun op => { op with phase := .leave, since := s.now }) id
    refine ⟨_, { op with phase := .leave, since := s.now }, exec_attnEngineHandoff hdie hc hid h hw hn hq,
      (sfind_sput_same _ _ _).trans (congrArg some (attnResume_eq s id desc.kv)),
      (sfind_sdel _ _ _).trans (if_pos rfl), sfind_sput_same _ _ _, hwait, rfl, rfl, rfl, fun i => ?_⟩
    exact mem_queueLeave
  · intro id op d sg desc h hw hm hp hhead hq
    have hleave := leave_attn hw
    refine ⟨fun hf ht => ?_, fun hr => grant_refused h (by rw [hleave]; exact hr)⟩
    have htake := sfind_modOp (s := { s with leave := { s.leave with
      free := s.leave.free - op.leave, waiting := s.leave.waiting.filter (· ≠ id) } }) h fun q => { q with grant := op.leave }
    refine ⟨_, _, grant_runs h hm hq hhead (by rw [hleave]; exact hf) ht (runWork_attn htake hw), ?_, ?_,
      sfind_modOp htake fun op => { op with phase := .running }, rfl, hleave, rfl⟩
    · show s.leave.free - (op.leave : Int) = _
      rw [hleave]
      rfl
    · show id ∉ s.leave.waiting.filter (· ≠ id)
      simp
  · intro key r op d sg desc he h hw hp hst
    refine ⟨fun hn hl hr x v hx => ?_, fun hr => attnHeaderArrival_waits he h hw hp hst (attnHeader_idle hr), fun hr _ => ?_,
      fun n rows hend => consume_not_running r desc n rows hend⟩
    · intro hd broken b p n v' put
      have heq := attnHeader_eq (op := op) (d := desc) hn hl hr hx
      refine ⟨fun hpsn => ⟨fun hno => ?_, fun hb hneed k l y u w hk hv hy => ?_⟩, fun hpsn => ?_⟩
      · have hpre := prefetch_unneeded (s := v.dropDie (dieOfCore op.core)) (r := r) (d := desc) (b := r.block desc (kvHead x.bytes)) hno
        rw [if_neg (by rw [hpsn]; decide), hpre] at heq
        exact attnHeaderArrival_runs he h hw hp hst heq
      · have hpre := prefetch_payload (s := v.dropDie (dieOfCore op.core)) (r := r) (d := desc) (b := r.block desc (kvHead x.bytes))
          hb hneed (attnPayload_of_ok hk hv)
        rw [← hy] at hpre
        rw [if_neg (by rw [hpsn]; decide), hpre] at heq
        exact attnHeaderArrival_runs he h hw hp hst heq
      · rw [if_pos hpsn] at heq
        exact attnHeaderArrival_runs he h hw hp hst heq
    · intro after
      refine ⟨fun b rest hwin => ⟨fun st hb => ?_, fun hu hb => ?_, fun hu hb => ?_⟩, fun hwin hnext => ?_, fun hwin hnext => ?_⟩
      · exact attnBlockProcess_runs he h hw hp hst hr (attnNext_unreadable hwin hb) rfl (.inr (settle_not_running r RowPhase.noConfusion))
      · exact attnBlockProcess_runs he h hw hp hst hr (attnNext_broken hwin hu hb) rfl (.inr (settle_not_running r RowPhase.noConfusion))
      · intro n need
        refine ⟨fun hneed => ?_, fun st w hneed hx => ?_, fun k v x y w hneed hx hxs hy => ?_⟩
        · exact attnBlockProcess_runs he h hw hp hst hr (attnNext_unneeded hwin hu hb hneed) (consume_op _ _ _ _)
            (.inl (consume_window_ne hwin _ _))
        · exact attnBlockProcess_runs he h hw hp hst hr (attnNext_payload hwin hu hb hneed hx) (consume_op _ _ _ _)
            (.inl (consume_window_ne hwin _ _))
        · have hnext := attnNext_payload hwin hu hb hneed hx
          dsimp only at hnext
          rw [← hxs, ← hy] at hnext
          exact attnBlockProcess_runs he h hw hp hst hr hnext (consume_op _ _ _ _) (.inl (consume_window_ne hwin _ _))
      · have hstep : s.attnNext r desc = some (r.settle .output, 0, s) := by
          rw [State.attnNext, hwin]
          dsimp only
          rw [if_pos hnext, AttnRun.endRows, if_pos (.inr ⟨by rw [hwin]; rfl, hnext⟩)]
        exact attnBlockProcess_runs he h hw hp hst hr hstep rfl (.inr (settle_not_running r RowPhase.noConfusion))
      · refine attnBlockProcess_waits he h hw hp hst hr ?_
        rw [State.attnNext, hwin]
        exact if_neg hnext

end Sys2Proof.Machine
end

section
/-! SUPPORT. An episode at an address past its memory, while the head of its Crib is uncorrectable (O54): the lost head is met
first, and kills the episode for the reason 5. -/

namespace Sys2Proof.Machine

/-- A Crib whose one outbound entry is uncorrectable. -/
def lostCrib : Crib :=
  { ctx := 0, wmax := 0, frames := [], out := [[]], inb := [], seqOut := 1, seqIn := 0, epno := 0, closed := false, headAt := 0, image := none }

/-- Its episode, whose pc is the first address past the local memory. -/
def strayEpisode : Episode := { newEpisode 0 [] [] with pc := 0x80000 }

/-- The episode runs on core 0. -/
def strayState : State := { State.reset with pad := { State.reset.pad with cribs := [(0, lostCrib)], eps := [(0, strayEpisode)] } }

/-- The next instruction of the hart is the kill for the lost head. -/
theorem stray_hartStep : strayState.hartStep 0 = .next (strayState.killEpisode 0 strayEpisode 5) := rfl

/-- The two kills leave different records in the Crib. -/
theorem stray_kills_differ : strayState.killEpisode 0 strayEpisode 5 ≠ strayState.killEpisode 0 strayEpisode 2 := fun h =>
  absurd (congrArg (fun u : State => (sfind u.pad.cribs 0).map (·.inb)) h) (by decide +kernel)

/-- So the access fault at its pc is no step of its own. -/
theorem stray_waits : exec (.episodeFaultKill 0 2) strayState = .fault .notEnabled := by
  show execEpisodeFaultKill 0 2 strayState = _
  rw [execEpisodeFaultKill, show sfind strayState.pad.eps 0 = some strayEpisode from rfl]
  dsimp only
  rw [if_neg (by decide), stray_hartStep]
  exact if_neg stray_kills_differ

/-- Refutes O54: a pc past the local memory kills the episode only where the head of its Crib is not uncorrectable, which the
statement does not ask. -/
theorem not_episodesOfThePaddock : ¬ Obligations.EpisodesOfThePaddock := by
  unfold Obligations.EpisodesOfThePaddock
  intro h
  obtain ⟨-, -, hruns⟩ := h 0 0 strayState lostCrib rfl
  obtain ⟨-, -, -, -, -, -, -, -, hfault, -⟩ := hruns strayEpisode rfl rfl
  obtain ⟨t, -, hexec, -⟩ := hfault rfl (by decide)
  rw [stray_waits] at hexec
  cases hexec

end Sys2Proof.Machine
end

section
/-! SUPPORT. A stopped group that is listed under another number than its own (O55). -/

namespace Sys2Proof.Machine

/-- A stopped group of number 2 with one path for all its lanes. -/
def steppedGroup : Group :=
  { Group.vacant with gid := 2, stopped := true, exited := 0, slot0 := { Group.vacant.slot0 with valid := true, mask := BitVec.allOnes 64, park := none } }

/-- It stands in the list of groups under the number 1, in a context that has granted the port its groups. -/
def steppedState : State :=
  { State.reset with others := [(1, steppedGroup)], xlate := { State.reset.xlate with ctxs := [(0, ⟨0, [], true, false⟩)] } }

theorem stepped_stoppedGroup : steppedState.stoppedGroup 0 1 = some steppedGroup := rfl

theorem stepped_offer : steppedState.stepOffer steppedGroup = some false := rfl

/-- What the last message to the outside carries. -/
def lastData (o : Out) : Option (Option Output) := match o with | .next t => some t.outbox.getLast? | _ => none

/-- STEP answers with the group's own number. -/
theorem step_stepped : lastData (exec (.step 0 1 (BitVec.allOnes 64) 1) steppedState) = some (some (.port 0 [2])) := by decide +kernel

/-- Refutes O55: STEP finds a group under the number of its entry and answers with its own, and the statement speaks of states in which
they differ (no step makes one): for the group of number 2 under the entry 1 the answer names 2. -/
theorem not_debugStops : ¬ Obligations.DebugStops := by
  unfold Obligations.DebugStops
  intro h
  obtain ⟨-, -, -, hport⟩ := h 0 1 steppedState
  obtain ⟨-, -, -, -, hstep, -⟩ := hport (by decide)
  obtain ⟨-, hoffer⟩ := hstep steppedGroup (BitVec.allOnes 64) 1 stepped_stoppedGroup
  obtain ⟨-, hgo⟩ := hoffer false stepped_offer
  obtain ⟨hwhole, -⟩ := hgo (by decide) (by decide) (by decide) (by decide)
  have hdata := step_stepped
  rw [hwhole (by decide)] at hdata
  exact absurd hdata (by decide +kernel)

end Sys2Proof.Machine
end

section
/-! SUPPORT. What a write keeps whatever its waits are, and the debug port's accesses (O56). -/

namespace Sys2Proof.Machine

/-! ### Writes with waits -/

/-- A relation that accesses and the end of a wait keep. -/
structure WakeClosed (R : State → State → Prop) : Prop extends AccessClosed R where
  wake : ∀ (s : State) (e : MonEntry), R s (s.wakeWaiter e)
  shared : ∀ (s : State) (m : Mem) (p : Sparse Bool), R s { s with mem := { s.mem with shared := m, sharedPsn := p } }
  yard : ∀ (s : State) (m : Mem) (p : Sparse Bool), R s { s with mem := { s.mem with yard := m, yardPsn := p } }

namespace WakeClosed

variable {R : State → State → Prop} (h : WakeClosed R)

include h

theorem wakeRange (s : State) (sp : Space) (unit lo len : Nat) : R s (s.wakeRange sp unit lo len) := by
  rw [State.wakeRange]
  split
  · exact h.refl s
  · refine h.toAccessClosed.foldl (fun u b => ?_) _ s
    rw [State.wakeBlock]
    split
    · exact h.refl u
    · refine h.trans ?_ (h.toAccessClosed.foldl h.wake _ _)
      split
      · exact h.toAccessClosed.dropLines u _ _
      · exact h.refl u

theorem writeFrame (s : State) (ag : Agent) (attr pa : Nat) (b : Bytes) : R s (s.writeFrame ag attr pa b) := by
  rw [State.writeFrame]
  exact h.trans (h.trans (h.toAccessClosed.promote s ag pa b.length) (h.activate _ _))
    (h.trans (h.dram _ _ _) (h.trans (h.toAccessClosed.dropLines _ _ _) (h.wakeRange _ _ _ _ _)))

theorem writePa (s : State) (ag : Agent) (attr pa : Nat) (b : Bytes) : R s (s.writePa ag attr pa b) := by
  have hs := h.toAccessClosed.sendBursts s ag true pa b.length
  rw [State.writePa]
  split
  · exact h.trans hs (h.toAccessClosed.foldl (fun u d => h.writeFrame u _ _ _ _) _ _)
  · exact h.trans hs (h.writeFrame _ _ _ _ _)

theorem writeVa (s : State) (ag : Agent) (va : Nat) (b : Bytes) : R s (s.writeVa ag va b).2 := by
  have hp := h.toAccessClosed.writePlaces ag (granuleParts va b.length) s
  unfold State.writeVa
  split
  · next l u hw =>
    rw [hw] at hp
    exact foldl_keeps (fun a : State × Bytes => R s a.1) _ _ _ hp fun a p ha => h.trans ha (h.writePa _ _ _ _ _)
  · next hw =>
    rw [hw] at hp
    exact hp

theorem kWrite (s : State) (g : Group) (off : Nat) (b : Bytes) : R s (s.kWrite g off b).2 := by
  have hw := h.writeVa s g.agent (g.sgk.base + off) b
  unfold State.kWrite
  split
  · split
    · next hu =>
      rw [hu] at hw
      exact hw
    · next hu =>
      rw [hu] at hw
      exact hw
  · exact h.refl s

theorem writeLocal (s : State) (sp : Space) (unit off : Nat) (b : Bytes) : R s (s.writeLocal sp unit off b) := by
  unfold State.writeLocal
  split
  · exact h.trans (h.shared s _ _) (h.wakeRange _ _ _ _ _)
  · exact h.trans (h.yard s _ _) (h.wakeRange _ _ _ _ _)

end WakeClosed

/-! ### The management state -/

/-- The management state, with the mode of the device, is as it was. -/
def SameMgmt (s u : State) : Prop := u.mgmt = s.mgmt

theorem modGroup_mgmt (s : State) (gid : Nat) (f : Group → Group) : (s.modGroup gid f).mgmt = s.mgmt := by
  rw [State.modGroup]
  split
  · rfl
  · split <;> rfl

theorem endOp_mgmt (s : State) (id : Nat) : (s.endOp id).mgmt = s.mgmt := by
  rw [State.endOp]
  split
  · rfl
  · next op _ =>
    exact foldl_keeps (fun u : State => u.mgmt = s.mgmt) _ _ _ (modGroup_mgmt _ _ _) fun _ _ hu => hu

theorem endWait_mgmt (s : State) (id code : Nat) : (s.endWait id code).mgmt = s.mgmt := by
  rw [State.endWait]
  split
  · split
    · exact endOp_mgmt _ id
    · rfl
  · rfl

theorem wakeWaiter_mgmt (s : State) (e : MonEntry) : (s.wakeWaiter e).mgmt = s.mgmt := by
  rw [State.wakeWaiter]
  split
  · split
    · refine (endWait_mgmt _ _ _).trans ?_
      rw [State.acquireAt]
      split <;> rfl
    · rfl
  · rfl

theorem sameMgmt_closed : WakeClosed SameMgmt where
  refl _ := rfl
  trans h k := Eq.trans k h
  tlb _ _ := rfl
  port _ _ _ := rfl
  cached _ _ _ := rfl
  dram _ _ _ := rfl
  activate s locs := (accesses_activate s locs).mgmt
  wake := wakeWaiter_mgmt
  shared _ _ _ := rfl
  yard _ _ _ := rfl

/-! ### Answers of the port -/

theorem answer_running {s : State} (h : s.mgmt.mode ≠ 2) (code : Nat) (data : List Nat) :
    s.answer code data = .next { s with outbox := s.outbox ++ [.port code data] } := if_neg h

theorem answer_stopped {s : State} (h : s.mgmt.mode = 2) (code : Nat) (data : List Nat) : s.answer code data = .fault .notEnabled := if_pos h

/-- An answer of a state whose mode is that of the first one. -/
theorem answer_of_sameMgmt {s u : State} (hu : SameMgmt s u) (h : s.mgmt.mode ≠ 2) (code : Nat) (data : List Nat) :
    u.answer code data = .next { u with outbox := u.outbox ++ [.port code data] } :=
  answer_running (by rw [show u.mgmt = s.mgmt from hu]; exact h) code data

theorem no_answer_of_sameMgmt {s u : State} (hu : SameMgmt s u) (h : s.mgmt.mode = 2) (code : Nat) (data : List Nat) :
    u.answer code data = .fault .notEnabled :=
  answer_stopped (by rw [show u.mgmt = s.mgmt from hu]; exact h) code data

/-! ### Registers -/

section
variable {s : State} {ctx gid : Nat} {reg : PortReg}

theorem regRead_refused (h : s.stoppedGroup ctx gid = none) : exec (.portRegRead ctx gid reg) s = s.refuse := by
  show execPortRegRead ctx gid reg s = _
  rw [execPortRegRead, h]

theorem regWrite_refused {mask : LaneMask} {v : Nat} (h : s.stoppedGroup ctx gid = none) :
    exec (.portRegWrite ctx gid reg mask v) s = s.refuse := by
  show execPortRegWrite ctx gid reg mask v s = _
  rw [execPortRegWrite, h]

variable {g : Group} (h : s.stoppedGroup ctx gid = some g)
include h

theorem regRead_eq : exec (.portRegRead ctx gid reg) s =
    if portInRange g reg then s.answer portValue [portValueOf s g reg] else s.refuse := by
  show execPortRegRead ctx gid reg s = _
  rw [execPortRegRead, h]

theorem regWrite_out_of_range {mask : LaneMask} {v : Nat} (hin : portInRange g reg = false) :
    exec (.portRegWrite ctx gid reg mask v) s = s.refuse := by
  show execPortRegWrite ctx gid reg mask v s = _
  rw [execPortRegWrite, h]
  dsimp only
  rw [hin]
  rfl

variable (hin : portInRange g reg = true)
include hin

/-- A write to a register that an operation will write is the operation's to make. -/
theorem regWrite_deferred {mask : LaneMask} {v : Nat} {r : RegRef} {id : Nat} {op : Op} (hp : portPending reg = some r)
    (hf : (s.opsOf gid).find? (fun e => e.2.dests.contains r) = some (id, op)) :
    exec (.portRegWrite ctx gid reg mask v) s = s.deferWrite id op ⟨r, mask, BitVec.ofNat 64 v⟩ := by
  show execPortRegWrite ctx gid reg mask v s = _
  rw [execPortRegWrite, h]
  dsimp only
  rw [hin, if_neg (by decide), hp]
  dsimp only [Option.bind]
  rw [hf]

theorem regWrite_put {mask : LaneMask} {v : Nat}
    (hf : ∀ r, portPending reg = some r → (s.opsOf gid).find? (fun e => e.2.dests.contains r) = none) :
    exec (.portRegWrite ctx gid reg mask v) s =
      match portPut g reg mask v with
      | none => s.refuse
      | some g' => if !portMovesPaths reg || s.pathsOk g' then (s.modGroup gid fun _ => g').answer portOk [] else s.refuse := by
  show execPortRegWrite ctx gid reg mask v s = _
  rw [execPortRegWrite, h]
  dsimp only
  rw [hin, if_neg (by decide)]
  cases hp : portPending reg with
  | none => rfl
  | some r =>
    dsimp only [Option.bind]
    rw [hf r hp] <;> rfl

end

/-- The two writes go to the same register and lanes. -/
def Deferred.same (d e : Deferred) : Bool := e.reg = d.reg && (!d.reg.carriesMask || e.mask = d.mask)

/-- A write that waits for its operation, in the place of an earlier one to the same register and lanes. -/
def State.deferring (s : State) (id : Nat) (d : Deferred) : State :=
  s.modOp id fun op => { op with deferred := op.deferred.filter (fun e => !d.same e) ++ [d] }

theorem deferWrite_eq (s : State) (id : Nat) (op : Op) (d : Deferred) : ∃ u : State,
    s.deferWrite id op d = u.answer portDeferred (op.gid :: regNumber d.reg) ∧ SameMgmt s u
      ∧ u.ops = (s.deferring id d).ops ∧ u.cur = s.cur ∧ u.others = s.others ∧ u.mem = s.mem := by
  rw [State.deferWrite]
  dsimp only
  split
  · exact ⟨_, rfl, rfl, rfl, rfl, rfl, rfl⟩
  · exact ⟨_, rfl, rfl, rfl, rfl, rfl, rfl⟩

theorem portPut_vector (g : Group) (n : Nat) (mask : LaneMask) (v : Nat) :
    portPut g (.v n 0) mask v = some (g.writeV n mask fun _ => BitVec.ofNat 32 v) := rfl

/-! ### Memory -/

section
variable {s : State} {ctx gid : Nat} {addr len : Nat} {data : Bytes}

theorem memRead_ungranted (h : s.granted ctx = false) : exec (.portMemRead ctx gid .g addr len) s = s.refuse := by
  show execPortMemRead ctx gid .g addr len s = _
  rw [execPortMemRead, if_pos rfl, h]
  rfl

theorem memWrite_ungranted (h : s.granted ctx = false) : exec (.portMemWrite ctx gid .g addr data) s = s.refuse := by
  show execPortMemWrite ctx gid .g addr data s = _
  rw [execPortMemWrite, if_pos rfl, h]
  rfl

theorem memRead_granted (h : s.granted ctx = true) : exec (.portMemRead ctx gid .g addr len) s =
    match s.readVa (outside ctx) addr len with
    | (.ok x, s) => s.answer portValue ((if x.psn then 1 else 0) :: x.bytes.map (·.toNat))
    | (.fault va f, s) => s.answer portFault [va, faultNo f] := by
  show execPortMemRead ctx gid .g addr len s = _
  rw [execPortMemRead, if_pos rfl, h, if_neg (by decide)] <;> rfl

theorem memWrite_granted (h : s.granted ctx = true) : exec (.portMemWrite ctx gid .g addr data) s =
    match s.writeVa (outside ctx) addr data with
    | (.ok _, s) => s.answer portOk []
    | (.fault va f, s) => s.answer portFault [va, faultNo f] := by
  show execPortMemWrite ctx gid .g addr data s = _
  rw [execPortMemWrite, if_pos rfl, h, if_neg (by decide)] <;> rfl

theorem memRead_local {sp : Space} (h : sp ≠ .g) : exec (.portMemRead ctx gid sp addr len) s =
    s.portLocal ctx gid sp addr len fun unit at_ =>
      s.answer portValue ((if (s.readLocal sp unit at_ len).psn then 1 else 0) :: (s.readLocal sp unit at_ len).bytes.map (·.toNat)) := if_neg h

theorem memWrite_local {sp : Space} (h : sp ≠ .g) : exec (.portMemWrite ctx gid sp addr data) s =
    s.portLocal ctx gid sp addr data.length fun unit at_ => (s.writeLocal sp unit at_ data).answer portOk [] := if_neg h

/-- An access to a window is refused, or made. -/
theorem portLocal_cases (sp : Space) (go : Nat → Nat → Out) :
    s.portLocal ctx gid sp addr len go = s.refuse ∨ ∃ unit at_, s.portLocal ctx gid sp addr len go = go unit at_ := by
  rw [State.portLocal]
  split
  · exact .inl rfl
  · split
    · split
      · exact .inr ⟨_, _, rfl⟩
      · exact .inl rfl
    · exact .inl rfl

theorem portLocal_shared {g : Group} (h : s.stoppedGroup ctx gid = some g) (hr : g.resident = true) (hl : addr + len ≤ g.sgs.limit)
    (go : Nat → Nat → Out) : s.portLocal ctx gid .s addr len go = go g.coreNo (g.sgs.base + addr) := by
  rw [State.portLocal, h]
  dsimp only
  rw [portWindow, if_pos ⟨.inl rfl, hl⟩]
  dsimp only
  rw [hr]
  rfl

end

/-! ### The port of a device that has stopped -/

section
variable {s : State} (h : s.mgmt.mode = 2) (ctx gid : Nat)
include h

theorem regRead_stopped (reg : PortReg) : exec (.portRegRead ctx gid reg) s = .fault .notEnabled := by
  cases hg : s.stoppedGroup ctx gid with
  | none => exact (regRead_refused hg).trans (answer_stopped h _ _)
  | some g =>
    rw [regRead_eq hg]
    split
    · exact answer_stopped h _ _
    · exact answer_stopped h _ _

theorem regWrite_stopped (reg : PortReg) (mask : LaneMask) (v : Nat) : exec (.portRegWrite ctx gid reg mask v) s = .fault .notEnabled := by
  cases hg : s.stoppedGroup ctx gid with
  | none => exact (regWrite_refused hg).trans (answer_stopped h _ _)
  | some g =>
    cases hin : portInRange g reg with
    | false => exact (regWrite_out_of_range hg hin).trans (answer_stopped h _ _)
    | true =>
      by_cases hf : ∀ r, portPending reg = some r → (s.opsOf gid).find? (fun e => e.2.dests.contains r) = none
      · rw [regWrite_put hg hin hf]
        split
        · exact answer_stopped h _ _
        · split
          · exact no_answer_of_sameMgmt (modGroup_mgmt s gid _) h _ _
          · exact answer_stopped h _ _
      · push Not at hf
        obtain ⟨r, hr, hsome⟩ := hf
        obtain ⟨⟨id, op⟩, hop⟩ := Option.ne_none_iff_exists'.1 hsome
        obtain ⟨u, hu, hm, -⟩ := deferWrite_eq s id op ⟨r, mask, BitVec.ofNat 64 v⟩
        rw [regWrite_deferred hg hin hr hop, hu]
        exact no_answer_of_sameMgmt hm h _ _

theorem memRead_stopped (sp : Space) (addr len : Nat) : exec (.portMemRead ctx gid sp addr len) s = .fault .notEnabled := by
  by_cases hs : sp = .g
  · subst hs
    cases hg : s.granted ctx with
    | false => exact (memRead_ungranted hg).trans (answer_stopped h _ _)
    | true =>
      have hm := (accesses_readVa s (outside ctx) addr len).mgmt
      rw [memRead_granted hg]
      split
      · next hx =>
        rw [hx] at hm
        exact no_answer_of_sameMgmt hm h _ _
      · next hx =>
        rw [hx] at hm
        exact no_answer_of_sameMgmt hm h _ _
  · rw [memRead_local hs]
    rcases portLocal_cases (s := s) (ctx := ctx) (gid := gid) (addr := addr) (len := len) sp _ with e | ⟨unit, at_, e⟩
    · rw [e]
      exact answer_stopped h _ _
    · rw [e]
      exact answer_stopped h _ _

theorem memWrite_stopped (sp : Space) (addr : Nat) (data : Bytes) : exec (.portMemWrite ctx gid sp addr data) s = .fault .notEnabled := by
  by_cases hs : sp = .g
  · subst hs
    cases hg : s.granted ctx with
    | false => exact (memWrite_ungranted hg).trans (answer_stopped h _ _)
    | true =>
      have hm := sameMgmt_closed.writeVa s (outside ctx) addr data
      rw [memWrite_granted hg]
      split
      · next hx =>
        rw [hx] at hm
        exact no_answer_of_sameMgmt hm h _ _
      · next hx =>
        rw [hx] at hm
        exact no_answer_of_sameMgmt hm h _ _
  · rw [memWrite_local hs]
    rcases portLocal_cases (s := s) (ctx := ctx) (gid := gid) (addr := addr) (len := data.length) sp _ with e | ⟨unit, at_, e⟩
    · rw [e]
      exact answer_stopped h _ _
    · rw [e]
      exact no_answer_of_sameMgmt (sameMgmt_closed.writeLocal s sp unit at_ data) h _ _

end

/-- Settles O56: each access by its equation; the mode of the device stays as it is under every access. -/
theorem debugAccess : Obligations.DebugAccess := by
  unfold Obligations.DebugAccess
  intro ctx gid s tell
  refine ⟨fun h reg mask v sp addr n data => ⟨regRead_stopped h _ _ _, regWrite_stopped h _ _ _ _ _, memRead_stopped h _ _ _ _ _,
    memWrite_stopped h _ _ _ _ _⟩, fun h => ⟨fun hg reg mask v => ?_, fun g reg hg => ⟨fun hin => ?_, fun hin => ?_, fun mask v hin => ⟨?_, ?_⟩⟩,
    fun g n l mask v => ?_, fun addr len data => ⟨fun hg => ?_, fun hg => ⟨fun x u hx => ?_, fun va f u hx => ?_⟩,
      fun hg => ⟨fun x u hx => ?_, fun va f u hx => ?_⟩, fun g hg hr hl => ?_⟩⟩⟩
  · exact ⟨(regRead_refused hg).trans (answer_running h _ _), (regWrite_refused hg).trans (answer_running h _ _)⟩
  · exact (regRead_eq hg).trans ((if_pos hin).trans (answer_running h _ _))
  · exact (regRead_eq hg).trans ((if_neg (by rw [hin]; decide)).trans (answer_running h _ _))
  · intro r id op hp hf
    obtain ⟨u, hu, hm, hops, hcur, hoth, hmem⟩ := deferWrite_eq s id op ⟨r, mask, BitVec.ofNat 64 v⟩
    have hfind (hop : sfind s.ops id = some op) := sfind_modOp hop fun op => { op with deferred := op.deferred.filter (fun e =>
      !Deferred.same ⟨r, mask, BitVec.ofNat 64 v⟩ e) ++ [⟨r, mask, BitVec.ofNat 64 v⟩] }
    refine ⟨_, _, ((regWrite_deferred hg hin hp hf).trans hu).trans (answer_of_sameMgmt hm h _ _), fun hop =>
      ⟨(congrArg (sfind · id) hops).trans (hfind hop), ?_⟩, hcur, hoth, hmem⟩
    exact List.mem_append_right _ List.mem_cons_self
  · intro hf
    have hput := regWrite_put (mask := mask) (v := v) hg hin hf
    refine ⟨fun hn => ?_, fun g' hs => ⟨fun hok => ?_, fun hmv hno => ?_⟩⟩
    · rw [hn] at hput
      exact hput.trans (answer_running h _ _)
    · rw [hs] at hput
      have hb : (!portMovesPaths reg || s.pathsOk g') = true := by
        rcases hok with e | e
        · rw [e]; rfl
        · rw [e, Bool.or_true]
      exact hput.trans ((if_pos hb).trans (answer_of_sameMgmt (modGroup_mgmt s gid _) h _ _))
    · rw [hs] at hput
      exact hput.trans ((if_neg (by rw [hmv, hno]; decide)).trans (answer_running h _ _))
  · exact ⟨_, portPut_vector g n mask v, rfl, fun hl k => Group.readV_writeV g n mask _ k l hl⟩
  · exact ⟨(memRead_ungranted hg).trans (answer_running h _ _), (memWrite_ungranted hg).trans (answer_running h _ _)⟩
  · have hm := (accesses_readVa s (outside ctx) addr len).mgmt
    rw [hx] at hm
    rw [memRead_granted hg, hx]
    exact answer_of_sameMgmt hm h _ _
  · have hm := (accesses_readVa s (outside ctx) addr len).mgmt
    rw [hx] at hm
    rw [memRead_granted hg, hx]
    exact answer_of_sameMgmt hm h _ _
  · have hm := sameMgmt_closed.writeVa s (outside ctx) addr data
    rw [hx] at hm
    rw [memWrite_granted hg, hx]
    exact answer_of_sameMgmt hm h _ _
  · have hm := sameMgmt_closed.writeVa s (outside ctx) addr data
    rw [hx] at hm
    rw [memWrite_granted hg, hx]
    exact answer_of_sameMgmt hm h _ _
  · rw [memRead_local (by decide), portLocal_shared hg hr hl]
    exact answer_running h _ _

end Sys2Proof.Machine
end

section
/-! SUPPORT. The host's window and the fabric port (O57). -/

namespace Sys2Proof.Machine

/-! ### The host's window -/

section
variable {s : State} {pa len : Nat} {data : Bytes} {crc : List Nat}

theorem hostAccess_down (h : s.mgmt.mode = 2) (write : Bool) : exec (.hostBar2Access write pa len ⟨data, crc⟩) s = .fault .notEnabled :=
  if_pos (.inl h)

theorem exec_hostRead (hm : s.mgmt.mode ≠ 2) (hl : len ≠ 0) (hd : isDram (pa + len - 1) = true) :
    exec (.hostBar2Access false pa len ⟨data, crc⟩) s =
      if !s.rangeUsed pa len then .next ((s.logLine (leBytes 1 0 ++ leBytes 8 pa)).emit (.access accessNone []))
      else .next ((s.readPa (outside 0) 0 pa len).2.emit
        (.access (if (s.readPa (outside 0) 0 pa len).1.psn then accessPoison else accessOk) (s.readPa (outside 0) 0 pa len).1.bytes)) := by
  show execHostBar2Access false pa len ⟨data, crc⟩ s = _
  rw [execHostBar2Access]
  have hd' : (!isDram (pa + len - 1)) = false := by rw [hd]; rfl
  exact if_neg (by rintro (e | e | e); exacts [hm e, hl e, Bool.noConfusion (Eq.trans e.symm hd')])

theorem exec_hostWrite (hm : s.mgmt.mode ≠ 2) (hl : data ≠ []) (hd : isDram (pa + data.length - 1) = true) :
    exec (.hostBar2Access true pa len ⟨data, crc⟩) s =
      if !s.rangeUsed pa data.length then .next (s.logLine (leBytes 1 1 ++ leBytes 8 pa))
      else .next (((unitsOf 64 pa data.length).filter fun n => crc.contains (n - pa / 64)).foldl
        (fun u n => u.poisonFlit 0 0 (64 * n)) (s.writePa (outside 0) 0 pa data)) := by
  show execHostBar2Access true pa len ⟨data, crc⟩ s = _
  rw [execHostBar2Access]
  have hd' : (!isDram (pa + data.length - 1)) = false := by rw [hd]; rfl
  exact if_neg (by
    rintro (e | e | e)
    exacts [hm e, hl (List.eq_nil_of_length_eq_zero e), Bool.noConfusion (Eq.trans e.symm hd')])

end

theorem poisonPa_mgmt (s : State) (attr pa n : Nat) : (s.poisonPa attr pa n).mgmt = s.mgmt := by
  rw [State.poisonPa]
  dsimp only
  split
  · exact foldl_keeps (fun u : State => u.mgmt = s.mgmt) _ _ _ rfl fun _ _ hu => hu
  · rfl

/-! ### Accesses of a peer -/

theorem remoteAccess_not_refused {s : State} {access : RemoteAccess} (hu : s.rangeUsed (remoteRange access).1 (remoteRange access).2 = true)
    (ha : access.attr ≠ 2 ∨ s.mgmt.dies = 15) :
    ¬ ((!s.rangeUsed (remoteRange access).1 (remoteRange access).2) = true ∨ (access.attr = 2 ∧ s.mgmt.dies ≠ 15)) := by
  rw [hu]
  rintro (e | ⟨e, f⟩)
  · cases e
  · exact ha.elim (fun h => h e) f

section
variable {s : State} {access : RemoteAccess} (hup : s.fabric.up = true) (hm : s.mgmt.mode ≠ 2) (hn : (remoteRange access).2 ≠ 0)
include hup hm hn

theorem exec_remoteAccess : exec (.fabricRemoteAccess access) s =
    if !s.rangeUsed (remoteRange access).1 (remoteRange access).2 ∨ (access.attr = 2 ∧ s.mgmt.dies ≠ 15) then
      .next (s.emit (.access accessNone []))
    else match access with
      | .read pa attr n => .next (((s.readPa (outside 0) attr pa n).2.burstsOf n).emit
          (.access (if (s.readPa (outside 0) attr pa n).1.psn then accessPoison else accessOk) (s.readPa (outside 0) attr pa n).1.bytes))
      | .write pa attr b => .next (((s.writePa (outside 0) attr pa b).burstsOf 1).emit (.access accessOk []))
      | .atomic pa attr cas aop wide x y =>
        if pa % (remoteRange access).2 ≠ 0 ∨ 13 ≤ aop then notNow
        else .next ((s.remoteAtomic pa attr cas aop wide x y).burstsOf (remoteRange access).2) := by
  show execFabricRemoteAccess access s = _
  rw [execFabricRemoteAccess]
  dsimp only
  rw [if_neg (by rw [hup]; rintro (e | e | e); exacts [absurd e (by decide), hm e, hn e])]
  cases access <;> rfl

theorem remoteAccess_refused (h : s.rangeUsed (remoteRange access).1 (remoteRange access).2 = false ∨ (access.attr = 2 ∧ s.mgmt.dies ≠ 15)) :
    exec (.fabricRemoteAccess access) s = .next (s.emit (.access accessNone [])) := by
  rw [exec_remoteAccess hup hm hn]
  exact if_pos (h.imp_left fun e => by rw [e]; rfl)

end

/-- An exchange of a word gives back what stood there. -/
theorem remoteAtomic_exchange {s u : State} {pa x : Nat} {v : Got} (hv : s.readPa (outside 0) 0 pa 4 = (v, u)) (hp : v.psn = false) :
    s.remoteAtomic pa 0 false 11 false x 0 = (u.writePa (outside 0) 0 pa (leBytes 4 x)).emit (.access accessOk (leBytes 4 (ofLe v.bytes))) := by
  rw [State.remoteAtomic]
  dsimp only
  rw [show s.readPa (outside 0) 0 pa (if false = true then 8 else 4) = (v, u) from hv]
  dsimp only
  rw [hp]
  rfl

/-! ### What a burst that is sent changes -/

/-- The next burst enters the replay buffer of a lane. -/
def State.sendOn (s : State) (k : Nat) : State :=
  State.emit { s with fabric := { s.fabric with
      sendSeq := s.fabric.sendSeq + 1, waiting := s.fabric.waiting - 1,
      lanes := sput s.fabric.lanes k { s.fabric.lane k with replay := (s.fabric.lane k).replay ++ [s.fabric.sendSeq] } } }
    (.fabric 3 [s.fabric.sendSeq, k])

/-- What each burst that is sent keeps, all of them keep: each goes to a lane of the map, while some wait. -/
theorem pump_keeps (P : State → Prop) (hP : ∀ s k, P s → 0 < s.fabric.waiting → k ∈ s.laneMap → P (s.sendOn k)) (n : Nat) {s : State}
    (hs : P s) : P (s.pump n) := by
  induction n generalizing s with
  | zero => exact hs
  | succ n ih =>
    rw [State.pump]
    dsimp only
    split
    · exact hs
    · next hgo =>
      rw [not_or, not_or] at hgo
      obtain ⟨hw, hmap, -⟩ := hgo
      have hne : s.fabric.map ≠ [] := fun e => hmap (by rw [e]; rfl)
      have hlt : s.fabric.sendSeq % s.fabric.map.length < s.fabric.map.length := Nat.mod_lt _ (List.length_pos_iff.2 hne)
      refine ih (hP s _ hs (Nat.pos_of_ne_zero hw) ?_)
      rw [State.laneMap, List.getD_eq_getElem _ _ hlt]
      exact List.getElem_mem hlt

theorem fabricLane_sendOn (s : State) (k n : Nat) : (s.sendOn k).fabricLane n =
    if n = k then { s.fabricLane k with replay := (s.fabricLane k).replay ++ [s.fabric.sendSeq] } else s.fabricLane n := by
  show (sfind (sput s.fabric.lanes k _) n).getD FabricLane.fresh = _
  rw [sfind_sput]
  split <;> rfl

theorem mem_laneMap {s : State} {k : Nat} : k ∈ s.laneMap ↔ k < 72 ∧ (s.fabricLane k).active = true := by
  rw [State.laneMap, FabricState.map, List.mem_filter, List.mem_range]
  rfl

/-! ### Bursts that arrive -/

/-- The number is in no replay buffer, no release waits for it, and no later burst takes it. -/
structure State.Acked (s : State) (seq recv : Nat) (early : Sparse Bytes) : Prop where
  lanes : ∀ n, seq ∉ (s.fabricLane n).replay
  writes : ∀ w ∈ s.fabric.writes, seq ∉ w.open_
  sent : s.fabric.waiting = 0 ∨ seq < s.fabric.sendSeq
  recvSeq : s.fabric.recvSeq = recv
  early : s.fabric.early = early

theorem acked_sendOn {s : State} {seq recv k : Nat} {early : Sparse Bytes} (h : s.Acked seq recv early) (hw : 0 < s.fabric.waiting) :
    (s.sendOn k).Acked seq recv early := by
  have hlt : seq < s.fabric.sendSeq := h.sent.resolve_left (by omega)
  refine ⟨fun n => ?_, h.writes, .inr (Nat.lt_succ_of_lt hlt), h.recvSeq, h.early⟩
  rw [fabricLane_sendOn]
  split
  · rw [List.mem_append, List.mem_singleton]
    rintro (e | e)
    · exact h.lanes k e
    · omega
  · exact h.lanes n

/-- The state without a burst that has arrived. -/
def State.dropBurst (s : State) (seq : Nat) : State :=
  { s with fabric := { s.fabric with
    replays := sdel s.fabric.replays seq,
    lanes := s.fabric.lanes.map fun e => (e.1, { e.2 with replay := e.2.replay.filter (· ≠ seq) }),
    writes := s.fabric.writes.map fun w => { w with open_ := w.open_.filter (· ≠ seq) } } }

theorem fabricLane_filtered (s : State) (p : Nat → Bool) (n : Nat) :
    (sfind (s.fabric.lanes.map fun e => (e.1, { e.2 with replay := e.2.replay.filter p })) n).getD FabricLane.fresh
      = { s.fabricLane n with replay := (s.fabricLane n).replay.filter p } := by
  rw [sfind_map, State.fabricLane, FabricState.lane]
  · cases sfind s.fabric.lanes n <;> rfl
  · exact fun _ => rfl

theorem acked_dropBurst {s : State} {seq : Nat} (h : s.fabric.waiting = 0 ∨ seq < s.fabric.sendSeq) :
    (s.dropBurst seq).Acked seq s.fabric.recvSeq s.fabric.early := by
  refine ⟨fun n => ?_, fun w hw => ?_, h, rfl, rfl⟩
  · rw [show (s.dropBurst seq).fabricLane n = _ from fabricLane_filtered s _ n]
    simp
  · obtain ⟨w', -, rfl⟩ := List.mem_map.1 hw
    simp

theorem acked_ackBurst {s : State} {seq : Nat} (h : s.fabric.waiting = 0 ∨ seq < s.fabric.sendSeq) :
    (s.ackBurst seq).Acked seq s.fabric.recvSeq s.fabric.early :=
  pump_keeps (fun u => u.Acked seq s.fabric.recvSeq s.fabric.early) (fun _ _ hu hw _ => acked_sendOn hu hw) s.fabric.waiting
    (acked_dropBurst h)

section
variable {s : State} (hup : s.fabric.up = true)
include hup

theorem exec_burstReceive_own {seq : Nat} {data : Bytes} : exec (.burstReceive (.own seq) data) s =
    if (List.range fabricLanes).any fun n => s.keeps n seq then .next (s.ackBurst seq) else notNow := by
  show execBurstReceive (.own seq) data s = _
  rw [execBurstReceive, hup]
  rfl

theorem exec_burstReceive_peer {seq : Nat} {data : Bytes} : exec (.burstReceive (.peer seq) data) s =
    if seq < s.fabric.recvSeq then notNow
    else .next (deliverBursts (sput s.fabric.early seq data).length
      { s with fabric := { s.fabric with early := sput s.fabric.early seq data, asked := sdel s.fabric.asked seq } }) := by
  show execBurstReceive (.peer seq) data s = _
  rw [execBurstReceive, hup]
  rfl

end

/-- The only early burst is delivered where its number is the next one. -/
theorem deliver_one {s : State} {seq : Nat} {data : Bytes} (he : s.fabric.early = [(seq, data)]) : deliverBursts 1 s =
    if seq = s.fabric.recvSeq then { s with
      fabric := { s.fabric with recvSeq := s.fabric.recvSeq + 1, early := [] },
      outbox := s.outbox ++ [.fabric 0 (seq :: data.map (·.toNat))] }
    else s := by
  rw [deliverBursts]
  dsimp only
  rw [he, sfind]
  by_cases hq : s.fabric.recvSeq = seq
  · have hdel : sdel [(seq, data)] s.fabric.recvSeq = [] := by simp [sdel, hq]
    rw [if_pos hq, if_pos hq.symm, hdel, hq]
    rfl
  · rw [if_neg hq, if_neg fun e => hq e.symm]
    rfl

/-! ### CRC errors -/

/-- The fourth error within a millisecond. -/
def State.fourthError (s : State) (lane : Nat) : Prop := 3 ≤ ((s.fabricLane lane).errors.filter fun t => s.now < t + msCycles).length

theorem fabricLane_setLane (s : State) (n k : Nat) (l : FabricLane) : (s.setLane n l).fabricLane k = if k = n then l else s.fabricLane k := by
  show (sfind (sput s.fabric.lanes n l) k).getD FabricLane.fresh = _
  rw [sfind_sput]
  split <;> rfl

/-- What a CRC error leaves of its lane. -/
theorem laneError_lane (s : State) (lane : Nat) : ((s.laneError lane).fabricLane lane).replay = (s.fabricLane lane).replay
    ∧ ((s.laneError lane).fabricLane lane).active = (s.fabricLane lane).active
    ∧ (((s.laneError lane).fabricLane lane).closing = true ↔
      (s.fabricLane lane).closing = true ∨ (s.fabricLane lane).active = true ∧ s.fourthError lane) := by
  rw [State.laneError, fabricLane_setLane, if_pos rfl]
  refine ⟨rfl, rfl, ?_⟩
  simp only [Bool.or_eq_true, Bool.and_eq_true, decide_eq_true_eq, List.length_cons, State.fourthError]
  constructor <;> rintro (h | ⟨h, k⟩)
  · exact .inl h
  · exact .inr ⟨h, by omega⟩
  · exact .inl h
  · exact .inr ⟨h, by omega⟩

/-- A burst that moves stands in some replay buffer, and no lane opens or closes. -/
theorem moveBurst_lane (s : State) (again lane seq : Nat) (h : seq ∈ (s.fabricLane lane).replay) :
    (∃ k, seq ∈ ((s.moveBurst again seq).fabricLane k).replay)
      ∧ ((s.moveBurst again seq).fabricLane lane).active = (s.fabricLane lane).active
      ∧ ((s.moveBurst again seq).fabricLane lane).closing = (s.fabricLane lane).closing := by
  rw [State.moveBurst]
  dsimp only
  split
  · exact ⟨⟨lane, h⟩, rfl, rfl⟩
  · have hlane (k : Nat) (f : FabricState) (hf : f.lanes = sput (s.fabric.lanes.map fun e =>
        (e.1, { e.2 with replay := e.2.replay.filter (· ≠ seq) })) again { s.fabricLane again with replay := (s.fabricLane again).replay ++ [seq] }) :
        State.fabricLane { s with fabric := f } k = if k = again then { s.fabricLane again with replay := (s.fabricLane again).replay ++ [seq] }
          else { s.fabricLane k with replay := (s.fabricLane k).replay.filter (· ≠ seq) } := by
      rw [State.fabricLane, FabricState.lane, hf, sfind_sput]
      split
      · rfl
      · exact fabricLane_filtered s _ k
    refine ⟨⟨again, ?_⟩, ?_, ?_⟩
    · rw [hlane again _ rfl, if_pos rfl]
      exact List.mem_append_right _ List.mem_cons_self
    · rw [hlane lane _ rfl]
      split
      · next e => rw [e]
      · rfl
    · rw [hlane lane _ rfl]
      split
      · next e => rw [e]
      · rfl

theorem moveBurst_outbox (s : State) (again seq : Nat) : (s.moveBurst again seq).outbox = s.outbox := by
  rw [State.moveBurst]
  dsimp only
  split <;> rfl

/-- The state after a replay is asked for, but for the message. -/
def State.replayed (s : State) (lane seq n : Nat) : State :=
  { (s.laneError lane).moveBurst (s.replayLane lane seq) seq with fabric :=
    { ((s.laneError lane).moveBurst (s.replayLane lane seq) seq).fabric with
      replays := sput ((s.laneError lane).moveBurst (s.replayLane lane seq) seq).fabric.replays seq (n + 1) } }

/-- The state after a burst of the peer's is asked for again, but for the message. -/
def State.askedAgain (s : State) (lane seq n : Nat) : State :=
  { s.laneError lane with fabric := { (s.laneError lane).fabric with asked := sput (s.laneError lane).fabric.asked seq (n + 1) } }

theorem burstCrcFail_own_absent {s : State} {lane seq : Nat} (h : seq ∉ (s.fabricLane lane).replay) :
    exec (.burstCrcFail lane (.own seq)) s = .fault .notEnabled := by
  have hk : s.keeps lane seq = false := by
    rw [State.keeps, ← Bool.not_eq_true, List.contains_iff_mem]
    exact h
  show execBurstCrcFail lane (.own seq) s = _
  rw [execBurstCrcFail]
  split
  · rfl
  · dsimp only
    rw [hk]
    rfl

section
variable {s : State} {lane seq : Nat} (hup : s.fabric.up = true) (hl : lane < 72) (hm : s.laneMap ≠ [])
include hup hl hm

theorem burstCrcFail_own (h : seq ∈ (s.fabricLane lane).replay) : exec (.burstCrcFail lane (.own seq)) s =
    .next (if sget 0 s.fabric.replays seq < 8 then
        (s.replayed lane seq (sget 0 s.fabric.replays seq)).emit (.fabric 4 [seq, s.replayLane lane seq])
      else s.replayed lane seq (sget 0 s.fabric.replays seq)) := by
  have hk : s.keeps lane seq = true := List.contains_iff_mem.2 h
  show execBurstCrcFail lane (.own seq) s = _
  rw [execBurstCrcFail, if_neg]
  · dsimp only
    rw [hk]
    rfl
  · rw [hup]
    rintro (e | e | e)
    exacts [absurd e (by decide), absurd hl (Nat.not_lt.2 e), hm (List.isEmpty_iff.1 e)]

theorem burstCrcFail_peer (h : s.fabric.recvSeq ≤ seq) : exec (.burstCrcFail lane (.peer seq)) s =
    .next (if sget 0 s.fabric.asked seq < 8 then (s.askedAgain lane seq (sget 0 s.fabric.asked seq)).emit (.fabric 1 [seq, lane])
      else s.askedAgain lane seq (sget 0 s.fabric.asked seq)) := by
  show execBurstCrcFail lane (.peer seq) s = _
  rw [execBurstCrcFail, if_neg]
  · exact if_neg (Nat.not_lt.2 h)
  · rw [hup]
    rintro (e | e | e)
    exacts [absurd e (by decide), absurd hl (Nat.not_lt.2 e), hm (List.isEmpty_iff.1 e)]

end

theorem burstCrcFail_peer_late {s : State} {lane seq : Nat} (h : seq < s.fabric.recvSeq) :
    exec (.burstCrcFail lane (.peer seq)) s = .fault .notEnabled := by
  show execBurstCrcFail lane (.peer seq) s = _
  by_cases hc : (!s.fabric.up) = true ∨ fabricLanes ≤ lane ∨ s.laneMap.isEmpty = true
  · exact if_pos hc
  · exact (if_neg hc).trans (if_pos h)

/-- A message that may follow changes nothing else of the port. -/
theorem emit_if (c : Prop) [Decidable c] (s : State) (o : Output) : (if c then s.emit o else s).fabric = s.fabric
    ∧ (if c then s.emit o else s).outbox = if c then s.outbox ++ [o] else s.outbox := by
  split <;> exact ⟨rfl, rfl⟩

/-! ### Repair and link-down -/

/-- A lane out of the map stays as it is, and a repair stays noted. -/
theorem pump_inactive {s : State} {lane : Nat} {l : FabricLane} (h : s.fabricLane lane = l) (hi : l.active = false) (hr : s.fabric.remapped = true)
    (n : Nat) : (s.pump n).fabricLane lane = l ∧ (s.pump n).fabric.remapped = true := by
  refine pump_keeps (fun u => u.fabricLane lane = l ∧ u.fabric.remapped = true) (fun u k ⟨hl, hm⟩ _ hk => ⟨?_, hm⟩) n ⟨h, hr⟩
  rw [fabricLane_sendOn, if_neg]
  · exact hl
  · rintro rfl
    have ha := (mem_laneMap.1 hk).2
    rw [hl, hi] at ha
    cases ha

/-- The lane out of the map. -/
def State.repaired (s : State) (lane : Nat) : State :=
  { s.setLane lane { s.fabricLane lane with active := false, closing := false, errors := [] } with
    fabric := { (s.setLane lane { s.fabricLane lane with active := false, closing := false, errors := [] }).fabric with remapped := true } }

theorem exec_laneRepair {s : State} {lane : Nat} (hup : s.fabric.up = true) (hc : (s.fabricLane lane).closing = true)
    (hr : (s.fabricLane lane).replay = []) (hm : 36 < s.laneMap.length) : ∃ t, exec (.laneRepair lane) s = .next t
      ∧ t.fabricLane lane = { s.fabricLane lane with active := false, closing := false, errors := [] } ∧ t.fabric.remapped = true := by
  have hset := fabricLane_setLane s lane lane { s.fabricLane lane with active := false, closing := false, errors := [] }
  rw [if_pos rfl] at hset
  obtain ⟨hlane, hmap⟩ := pump_inactive (s := s.repaired lane) hset rfl rfl s.fabric.waiting
  refine ⟨(s.repaired lane).pumpFabric.logLine (leBytes 1 lane), ?_, hlane, hmap⟩
  show execLaneRepair lane s = _
  rw [execLaneRepair]
  refine if_neg ?_
  · rw [hup, hc, hr]
    rintro (e | e | e | e)
    exacts [absurd e (by decide), absurd e (by decide), absurd e (by decide), absurd hm (Nat.not_lt.2 e)]

theorem collOut_log (s : State) (b : Bytes) (op : Op) : (s.logLine b).collOut op = s.collOut op := rfl

section
variable {s : State}

/-- What a step of the cut keeps of the rest of the state. -/
theorem cutFabric_keeps (s : State) : s.cutFabric.fabric = s.fabric ∧ s.cutFabric.mgmt = s.mgmt := by
  rw [State.cutFabric]
  refine foldl_keeps (fun u : State => u.fabric = s.fabric ∧ u.mgmt = s.mgmt) _ _ _ ⟨rfl, rfl⟩ fun u e hu => ?_
  split
  · exact hu
  · exact hu

theorem cutFabric_no_collective (h : ∀ e ∈ s.ops, s.collOut e.2 = false) :
    s.cutFabric.ops = s.ops.map fun e => (e.1, s.unlinked e.2) := by
  have hn : s.ops.filter (fun e => s.collOut e.2) = [] := List.filter_eq_nil_iff.2 fun e he => by rw [h e he]; decide
  rw [State.cutFabric, hn]
  rfl

/-- The operation, where it is there, has ended with status 1. -/
def State.cutAt (s : State) (id : Nat) : Prop := ∀ q, sfind s.ops id = some q → q.phase = .ended ∧ q.status = 1

/-- A collective ends where the link fails. -/
def State.cutColl (s : State) (e : Nat × Op) : State :=
  match e.2.work with
  | .coll _ desc _ => s.failWork e.1 1 (collDesc desc).dst
  | _ => s

theorem sfind_failWork (s : State) (id k st fa : Nat) : sfind (s.failWork id st fa).ops k =
    if k = id then (sfind s.ops k).map fun op => { op with phase := .ended, status := st, faddr := fa } else sfind s.ops k :=
  sfind_supd s.ops id k fun op => { op with phase := .ended, status := st, faddr := fa }

theorem cutAt_failWork_self (s : State) (id fa : Nat) : (s.failWork id 1 fa).cutAt id := by
  intro q hq
  rw [sfind_failWork, if_pos rfl] at hq
  obtain ⟨p, -, rfl⟩ := Option.map_eq_some_iff.1 hq
  exact ⟨rfl, rfl⟩

theorem cutAt_cutColl {s : State} {id : Nat} (h : s.cutAt id) (e : Nat × Op) : (s.cutColl e).cutAt id := by
  rw [State.cutColl]
  split
  · by_cases hid : id = e.1
    · rw [hid]
      exact cutAt_failWork_self _ _ _
    · intro q hq
      rw [sfind_failWork, if_neg hid] at hq
      exact h q hq
  · exact h

theorem isSome_cutColl {s : State} {id : Nat} (h : (sfind s.ops id).isSome = true) (e : Nat × Op) :
    (sfind (s.cutColl e).ops id).isSome = true := by
  rw [State.cutColl]
  split
  · rw [sfind_failWork]
    split
    · rwa [Option.isSome_map]
    · exact h
  · exact h

/-- Each of the collectives that are cut ends with 1. -/
theorem cutColl_ends {u : State} {l : List (Nat × Op)} {id : Nat} {op : Op} (hmem : (id, op) ∈ l) {n : Nat} {desc : Bytes} {todo : List Nat}
    (hw : op.work = .coll n desc todo) (hu : (sfind u.ops id).isSome = true) :
    ∃ q, sfind (l.foldl State.cutColl u).ops id = some q ∧ q.phase = .ended ∧ q.status = 1 := by
  have hend : (l.foldl State.cutColl u).cutAt id := by
    refine foldl_establishes (fun v : State => v.cutAt id) _ hmem (fun v => ?_) (fun v e _ hv => cutAt_cutColl hv e) u
    rw [State.cutColl]
    dsimp only
    rw [hw]
    exact cutAt_failWork_self _ _ _
  have hsome : (sfind (l.foldl State.cutColl u).ops id).isSome = true :=
    foldl_keeps (fun v : State => (sfind v.ops id).isSome = true) _ _ _ hu fun v e hv => isSome_cutColl hv e
  obtain ⟨q, hq⟩ := Option.isSome_iff_exists.1 hsome
  exact ⟨q, hq, hend q hq⟩

/-- A collective under way ends with 1. -/
theorem cutFabric_collective {id : Nat} {op : Op} (h : sfind s.ops id = some op) (hc : s.collOut op = true) :
    ∃ q, sfind s.cutFabric.ops id = some q ∧ q.phase = .ended ∧ q.status = 1 := by
  have hwork : ∃ n desc todo, op.work = .coll n desc todo := by
    rw [State.collOut, Bool.and_eq_true] at hc
    obtain ⟨-, hw⟩ := hc
    split at hw
    · next n desc todo hw' => exact ⟨n, desc, todo, hw'⟩
    · cases hw
  obtain ⟨n, desc, todo, hw⟩ := hwork
  refine cutColl_ends (u := { s with ops := s.ops.map fun e => (e.1, s.unlinked e.2) }) (List.mem_filter.2 ⟨mem_of_sfind h, hc⟩) hw ?_
  show (sfind (s.ops.map fun e => (e.1, s.unlinked e.2)) id).isSome = true
  rw [sfind_map, h]
  · rfl
  · exact fun _ => rfl

end

/-- The port after the link has gone down. -/
def FabricState.downed (f : FabricState) : FabricState :=
  { f with up := false, contribs := [], waiting := 0, writes := f.writes.map fun w => { w with open_ := [] },
           reads := f.reads.map fun r => { r with open_ := r.open_.filter (· = 0) } }

theorem exec_linkDown {s : State} {reason seq : Nat} (hup : s.fabric.up = true)
    (h : (reason = 1 ∧ (9 ≤ sget 0 s.fabric.replays seq ∨ 9 ≤ sget 0 s.fabric.asked seq))
      ∨ (reason = 2 ∧ s.laneMap.length ≤ fewestLanes ∧ ((List.range fabricLanes).any fun n => (s.fabricLane n).closing) = true)) :
    exec (.linkDown reason seq) s =
      .next { (s.logLine (leBytes 1 reason ++ s.laneMap.map (BitVec.ofNat 8) ++ leBytes 8 seq)).cutFabric with
        fabric := (s.logLine (leBytes 1 reason ++ s.laneMap.map (BitVec.ofNat 8) ++ leBytes 8 seq)).cutFabric.fabric.downed } := by
  show execLinkDown reason seq s = _
  rw [execLinkDown]
  exact if_neg (by rw [hup]; rintro (e | e); exacts [absurd e (by decide), e h])

/-- The port after training. -/
def FabricState.trained (f : FabricState) (lanes : List Nat) : FabricState :=
  { f with up := true, lanes := (List.range fabricLanes).map fun n => (n, { FabricLane.fresh with active := lanes.contains n }),
           sendSeq := 0, waiting := 0, remapped := false, recvSeq := 0, early := [], replays := [], asked := [] }

theorem sfind_range_map {α : Type} (f : Nat → α) {n k : Nat} (h : k < n) : sfind ((List.range n).map fun i => (i, f i)) k = some (f k) := by
  have hsum : ∀ (m lo : Nat), lo ≤ k → k < lo + m → sfind ((List.range' lo m).map fun i => (i, f i)) k = some (f k) := by
    intro m
    induction m with
    | zero => intro lo h1 h2; omega
    | succ m ih =>
      intro lo h1 h2
      rw [List.range'_succ, List.map_cons, sfind]
      split
      · next e => rw [e]
      · exact ih (lo + 1) (by omega) (by omega)
  rw [List.range_eq_range']
  exact hsum n 0 (Nat.zero_le k) (by omega)

theorem exec_fabricLinkRetrain {s : State} {lanes : List Nat} (hd : s.fabric.up = false) (hm : s.mgmt.mode ≠ 2) :
    exec (.fabricLinkRetrain lanes) s =
      if (lanes.filter (· < 72)).eraseDups.length < 36 then notNow else .next { s with fabric := s.fabric.trained lanes } := by
  show execFabricLinkRetrain lanes s = _
  rw [execFabricLinkRetrain]
  split
  · next h =>
    rw [hd] at h
    exact (if_pos ((h.resolve_left (by decide)).resolve_left hm)).symm
  · next h =>
    exact (if_neg fun e => h (.inr (.inr e))).symm

/-- Settles O57: each event by the equation of its step; what the bursts that are sent meanwhile keep, by `pump_keeps`. -/
theorem hostAndFabric : Obligations.HostAndFabric := by
  unfold Obligations.HostAndFabric
  intro s pa len lane seq data crc answers bytes l logs fourth
  refine ⟨fun hm hl hd => ⟨fun hu => ?_, fun hu x u hx => ?_⟩, fun hm hl hd => ⟨fun hu => ?_, fun hu => ?_⟩,
    fun ctx attr => ⟨rfl, ?_⟩, fun hm write => hostAccess_down hm write, fun hup hm access hn ha hd => ?_, fun hup hm => ⟨?_, ?_, ?_, ?_⟩,
    fun hup => ⟨?_, ?_, ?_, ?_, ?_, burstCrcFail_own_absent, ?_⟩, fun hup hc hr hm => exec_laneRepair hup hc hr hm, fun hm => ?_,
    fun reason hup hreason => ?_, fun hr ha => ?_, fun lanes hd hm => ⟨fun hl => ?_, fun hl => ?_⟩⟩
  · exact (exec_hostRead hm hl hd).trans (if_pos (by rw [hu]; rfl))
  · have h := (exec_hostRead (data := data) (crc := crc) hm hl hd).trans (if_neg (by rw [hu]; decide))
    rw [hx] at h
    exact h
  · exact (exec_hostWrite hm hl hd).trans (if_pos (by rw [hu]; rfl))
  · exact (exec_hostWrite hm hl hd).trans (if_neg (by rw [hu]; decide))
  · show (s.poisonPa attr pa 64).mgmt.log ++ _ = _
    rw [poisonPa_mgmt]
    rfl
  · exact remoteAccess_refused hup hm hn (.inr ⟨ha, hd⟩)
  · intro attr ha hl hu x u hx
    have h := (exec_remoteAccess (access := .read pa attr len) hup hm hl).trans (if_neg
      (remoteAccess_not_refused (access := .read pa attr len) hu ha))
    dsimp only at h
    rw [hx] at h
    exact h
  · intro attr ha hl hu
    have hn : data.length ≠ 0 := fun e => hl (List.eq_nil_of_length_eq_zero e)
    exact (exec_remoteAccess (access := .write pa attr data) hup hm hn).trans (if_neg
      (remoteAccess_not_refused (access := .write pa attr data) hu ha))
  · intro attr hl hu
    exact remoteAccess_refused (access := .read pa attr len) hup hm hl (.inl hu)
  · intro x v u hu hal hv hp
    have hn : (4 : Nat) ≠ 0 := by decide
    have h := (exec_remoteAccess (access := .atomic pa 0 false 11 false x 0) hup hm hn).trans
      (if_neg (remoteAccess_not_refused (access := .atomic pa 0 false 11 false x 0) hu (.inl fun e => absurd e (by decide : (0 : Nat) ≠ 2))))
    dsimp only at h
    rw [if_neg (by rintro (e | e); exacts [e hal, absurd e (by decide)]), remoteAtomic_exchange hv hp] at h
    exact h
  · intro hl hmem hw
    have hk := acked_ackBurst hw
    refine ⟨s.ackBurst seq, (exec_burstReceive_own hup).trans (if_pos ?_), hk.lanes, hk.writes, hk.recvSeq, hk.early⟩
    exact List.any_eq_true.2 ⟨lane, List.mem_range.2 hl, List.contains_iff_mem.2 hmem⟩
  · intro hno
    refine (exec_burstReceive_own hup).trans (if_neg ?_)
    rw [List.any_eq_true]
    rintro ⟨n, hn, hk⟩
    exact hno n (List.mem_range.1 hn) (List.contains_iff_mem.1 hk)
  · intro he hle
    have hexec := (exec_burstReceive_peer (data := data) hup).trans (if_neg (Nat.not_lt.2 hle))
    rw [he] at hexec
    have hd := deliver_one (s := { s with fabric := { s.fabric with early := sput [] seq data, asked := sdel s.fabric.asked seq } }) rfl
    by_cases hq : seq = s.fabric.recvSeq
    · rw [if_pos hq] at hd
      exact ⟨_, hexec.trans (congrArg Host.Outcome.next hd), rfl, rfl, fun _ => ⟨congrArg (· + 1) hq.symm, rfl, rfl⟩, fun h => absurd hq h⟩
    · rw [if_neg hq] at hd
      exact ⟨_, hexec.trans (congrArg Host.Outcome.next hd), rfl, rfl, fun h => absurd h hq, fun _ => ⟨rfl, rfl, rfl⟩⟩
  · exact fun hlt => ⟨(exec_burstReceive_peer hup).trans (if_pos hlt), burstCrcFail_peer_late hlt⟩
  · intro hl hmap hmem n again
    obtain ⟨hreplay, hactive, hclosing⟩ := laneError_lane s lane
    obtain ⟨hsome, hact, hclose⟩ := moveBurst_lane (s.laneError lane) (s.replayLane lane seq) lane seq (by rw [hreplay]; exact hmem)
    have hlane (k : Nat) : (s.replayed lane seq n).fabricLane k = ((s.laneError lane).moveBurst (s.replayLane lane seq) seq).fabricLane k := rfl
    have hout : (s.replayed lane seq n).outbox = s.outbox := moveBurst_outbox _ _ _
    refine ⟨_, burstCrcFail_own hup hl hmap hmem, ?_⟩
    obtain ⟨hfab, hmsg⟩ := emit_if (sget 0 s.fabric.replays seq < 8) (s.replayed lane seq n) (.fabric 4 [seq, s.replayLane lane seq])
    have hat (k : Nat) : State.fabricLane (if sget 0 s.fabric.replays seq < 8 then (s.replayed lane seq n).emit
        (.fabric 4 [seq, s.replayLane lane seq]) else s.replayed lane seq n) k = (s.replayed lane seq n).fabricLane k :=
      congrArg (fun f : FabricState => f.lane k) hfab
    refine ⟨(congrArg (fun f : FabricState => sget 0 f.replays seq) hfab).trans ((sget_sput _ _ _ _ _).trans (if_pos rfl)), ?_, ?_, ?_, ?_⟩
    · obtain ⟨k, hk⟩ := hsome
      exact ⟨k, by rw [hat, hlane]; exact hk⟩
    · rw [hat, hlane, hact, hactive]
    · rw [hat, hlane, hclose, hclosing]
      rfl
    · have hagain : s.replayLane lane seq = again := by
        rw [State.replayLane]
        exact if_congr (or_congr_right (Bool.not_eq_true' _).to_iff) rfl rfl
      rw [hmsg, hout, hagain]
  · intro hl hmap hle n
    obtain ⟨hreplay, -, hclosing⟩ := laneError_lane s lane
    refine ⟨_, burstCrcFail_peer hup hl hmap hle, ?_⟩
    obtain ⟨hfab, hmsg⟩ := emit_if (sget 0 s.fabric.asked seq < 8) (s.askedAgain lane seq n) (.fabric 1 [seq, lane])
    have hat (k : Nat) : State.fabricLane (if sget 0 s.fabric.asked seq < 8 then (s.askedAgain lane seq n).emit
        (.fabric 1 [seq, lane]) else s.askedAgain lane seq n) k = (s.laneError lane).fabricLane k :=
      (congrArg (fun f : FabricState => f.lane k) hfab).trans rfl
    refine ⟨(congrArg (fun f : FabricState => sget 0 f.asked seq) hfab).trans ((sget_sput _ _ _ _ _).trans (if_pos rfl)),
      (congrArg FabricState.replays hfab).trans rfl, ?_, ?_, hmsg⟩
    · rw [hat, hreplay]
    · rw [hat, hclosing]
      rfl
  · exact if_pos (.inr (.inr (.inr hm)))
  · intro v
    obtain ⟨hfab, hmgmt⟩ := cutFabric_keeps v
    refine ⟨_, exec_linkDown hup (hreason.imp_right fun ⟨h2, hm, hl, hc⟩ => ⟨h2, hm, List.any_eq_true.2 ⟨lane, List.mem_range.2 hl, hc⟩⟩),
      rfl, rfl, rfl, fun w hw => ?_, fun r hr k hk => ?_, hmgmt, fun hno => cutFabric_no_collective (s := v) hno,
      fun id op h hc => cutFabric_collective (s := v) h hc⟩
    · obtain ⟨w', -, rfl⟩ := List.mem_map.1 hw
      rfl
    · obtain ⟨r', -, rfl⟩ := List.mem_map.1 hr
      exact of_decide_eq_true (List.mem_filter.1 hk).2
  · refine if_pos (.inr ?_)
    rintro (⟨-, e | e⟩ | ⟨e, -⟩)
    · exact absurd e (Nat.not_le.2 hr)
    · exact absurd e (Nat.not_le.2 ha)
    · exact absurd e (by decide)
  · have hn : ¬ (lanes.filter (· < 72)).eraseDups.length < 36 := Nat.not_lt.2 hl
    refine ⟨_, (exec_fabricLinkRetrain hd hm).trans (if_neg hn), rfl, rfl, rfl, rfl, rfl, rfl, fun n hlt => ?_⟩
    exact congrArg (fun o : Option FabricLane => (o.getD FabricLane.fresh).active) (sfind_range_map _ hlt)
  · exact (exec_fabricLinkRetrain hd hm).trans (if_pos hl)

end Sys2Proof.Machine
end

section
/-! SUPPORT. Collectives and the NVMe initiator (O58). -/

namespace Sys2Proof.Machine

/-! ### A collective's start and its pieces -/

section
variable {s : State} {id : Nat} {op : Op} {at_ : Nat} {desc : Bytes} {todo : List Nat} (h : sfind s.ops id = some op)
  (hp : op.phase = .running) (hw : op.work = .coll at_ desc todo)
include h hp hw

theorem copyUnitWrite_coll : exec (.copyUnitWrite id) s =
    if op.progress = 0 then (match s.collStart id desc with | some s => .next s | none => notNow) else s.collStep id desc todo := by
  rw [exec_copyUnitWrite, execCopyUnitWrite, h]
  dsimp only
  rw [if_neg (not_not.2 hp), hw] <;> rfl

theorem copyUnitWrite_coll_start {t : State} (h0 : op.progress = 0) (hs : s.collStart id desc = some t) :
    exec (.copyUnitWrite id) s = .next t := by
  rw [copyUnitWrite_coll h hp hw, if_pos h0, hs]

theorem copyUnitWrite_coll_step (h0 : 0 < op.progress) : exec (.copyUnitWrite id) s = s.collStep id desc todo :=
  (copyUnitWrite_coll h hp hw).trans (if_neg (by omega))

end

/-- A fault of the descriptor ends the command with 4. -/
theorem collStart_bad {s : State} {id : Nat} {desc : Bytes} (h : sfind s.fabric.comms (collDesc desc).comm = none ∨ (collDesc desc).bad = true) :
    s.collStart id desc = some (s.endWork id 4) := by
  rw [State.collStart]
  split
  · rfl
  · next c hc => exact if_pos (.inl (h.resolve_left (by rw [hc]; exact Option.some_ne_none c)))

/-- The member's own chunk of a reduction is folded. -/
def CollDesc.folds (d : CollDesc) (rank c : Nat) : Bool := d.cop ≠ 2 && d.cop ≠ 4 && c = rank

theorem folds_eq_true {d : CollDesc} {rank c : Nat} : d.folds rank c = true ↔ d.cop ≠ 2 ∧ d.cop ≠ 4 ∧ c = rank := by
  simp [CollDesc.folds, and_assoc]

/-- The parts that a piece takes. -/
def State.partsOf (s : State) (d : CollDesc) (m rank c : Nat) : List Contribution :=
  (if d.folds rank c then List.range m else [if d.cop = 4 then d.root else c]).filterMap fun r => s.contribution d.comm c r

/-- The bytes of a piece from its parts. -/
def CollDesc.pieceOf (d : CollDesc) (m rank c : Nat) (parts : List Contribution) : Bytes :=
  if d.folds rank c then ((List.range (d.start m (c + 1) - d.start m c)).map (foldAt d (parts.map (·.bytes)))).flatten
  else (parts.map (·.bytes)).flatten

/-- Where every part has arrived, the piece is made of the parts. -/
theorem pieceBytes_of_isSome {s : State} {d : CollDesc} {m rank c : Nat} (h : (s.pieceBytes d m rank c).isSome = true) :
    s.pieceBytes d m rank c = some (s.partsOf d m rank c, d.pieceOf m rank c (s.partsOf d m rank c)) := by
  rw [State.pieceBytes] at h ⊢
  rw [State.partsOf, CollDesc.pieceOf]
  by_cases hf : d.cop ≠ 2 ∧ d.cop ≠ 4 ∧ c = rank
  · rw [if_pos (folds_eq_true.2 hf), if_pos (folds_eq_true.2 hf)]
    rw [if_pos hf] at h ⊢
    dsimp only at h ⊢
    split at h
    · next hl => exact if_pos hl
    · cases h
  · rw [if_neg (fun e => hf (folds_eq_true.1 e)), if_neg (fun e => hf (folds_eq_true.1 e))]
    rw [if_neg hf] at h ⊢
    obtain ⟨x, hx⟩ := Option.isSome_iff_exists.1 (by rwa [Option.isSome_map] at h)
    rw [hx]
    simp [hx]

theorem place_eq (d : CollDesc) (m c : Nat) : d.place m c = if d.cop = 2 then d.count * c else if d.cop = 4 then 0 else d.start m c := by
  rw [CollDesc.place]
  split
  · next h => rw [if_pos h]
  · next h => rw [if_neg (by rw [h]; decide), if_pos h]
  · next h2 h4 => rw [if_neg h2, if_neg h4]

/-- What the use of a piece's parts keeps, and the parts sent on. -/
structure KeepsMemOps (s u : State) : Prop where
  mem : u.mem = s.mem
  ops : u.ops = s.ops

theorem keepsMemOps_use (s : State) (comm c : Nat) (l : List Contribution) :
    KeepsMemOps s (l.foldl (fun s x => s.useContribution comm c x.rank) s) :=
  foldl_keeps (fun u : State => KeepsMemOps s u) _ _ _ ⟨rfl, rfl⟩ fun _ _ hu => ⟨hu.mem, hu.ops⟩

theorem keepsMemOps_burstsOf (s : State) (n : Nat) : KeepsMemOps s (s.burstsOf n) :=
  pump_keeps (fun u => KeepsMemOps s u) (fun _ _ hu _ _ => ⟨hu.mem, hu.ops⟩) _ ⟨rfl, rfl⟩

theorem keepsMemOps_sendParts (s : State) (comm c rank : Nat) (b : Bytes) (l : List Nat) :
    KeepsMemOps s (l.foldl (fun s q => s.sendPart comm q c rank b) s) :=
  foldl_keeps (fun u : State => KeepsMemOps s u) _ _ _ ⟨rfl, rfl⟩ fun u _ hu =>
    ⟨(keepsMemOps_burstsOf u b.length).mem.trans hu.mem, (keepsMemOps_burstsOf u b.length).ops.trans hu.ops⟩

/-- The state after a piece has been written: its parts are used, and sent on where the members gather them. -/
def State.pieceUsed (s : State) (d : CollDesc) (cm : Communicator) (c : Nat) (used : List Contribution) (b : Bytes) : State :=
  let s := used.foldl (fun s x => s.useContribution d.comm c x.rank) s
  if d.cop < 2 ∧ c = cm.rank then ((List.range cm.members).filter (· ≠ cm.rank)).foldl (fun s q => s.sendPart d.comm q c cm.rank b) s else s

theorem keepsMemOps_pieceUsed (s : State) (d : CollDesc) (cm : Communicator) (c : Nat) (used : List Contribution) (b : Bytes) :
    KeepsMemOps s (s.pieceUsed d cm c used b) := by
  have hu := keepsMemOps_use s d.comm c used
  rw [State.pieceUsed]
  split
  · have hs := keepsMemOps_sendParts (used.foldl (fun s x => s.useContribution d.comm c x.rank) s) d.comm c cm.rank b
      ((List.range cm.members).filter (· ≠ cm.rank))
    exact ⟨hs.mem.trans hu.mem, hs.ops.trans hu.ops⟩
  · exact hu

theorem all_agree {d : CollDesc} {parts : List Contribution} (h : ∀ x ∈ parts, (collDesc x.desc).agrees d = true) :
    ¬ (parts.any fun x => !(collDesc x.desc).agrees d) = true := by
  rw [List.any_eq_true]
  rintro ⟨x, hx, hno⟩
  rw [h x hx] at hno
  cases hno

section
variable {s : State} {id : Nat} {desc : Bytes} {todo : List Nat} {cm : Communicator} {c : Nat}
  (hf : sfind s.fabric.comms (collDesc desc).comm = some cm)
  (hc : todo.find? (fun c => (s.pieceBytes (collDesc desc) cm.members cm.rank c).isSome) = some c)
include hf hc

theorem collStep_eq : s.collStep id desc todo =
    let d := collDesc desc
    let parts := s.partsOf d cm.members cm.rank c
    let b := d.pieceOf cm.members cm.rank c parts
    if parts.any fun x => !(collDesc x.desc).agrees d then .next (s.endWork id 5)
    else match s.opWrite id .g (d.dst + collBytes d.cfmt * d.place cm.members c) b false with
      | (.fail st va _, s) => .next (s.failWork id st va)
      | (.ok _, s) => .next ((s.pieceUsed d cm c parts b).modOp id fun op =>
          { op with phase := if (todo.erase c).isEmpty then .ended else op.phase, done := op.done + b.length,
                    work := match op.work with | .coll a b _ => .coll a b (todo.erase c) | w => w })
      | _ => notNow := by
  have hsome := pieceBytes_of_isSome (List.find?_some (p := fun c => (s.pieceBytes (collDesc desc) cm.members cm.rank c).isSome) hc)
  rw [State.collStep]
  dsimp only
  rw [hf]
  dsimp only
  rw [hc]
  dsimp only
  rw [hsome] <;> rfl

theorem collStep_mismatch (h : ∃ x ∈ s.partsOf (collDesc desc) cm.members cm.rank c, (collDesc x.desc).agrees (collDesc desc) = false) :
    s.collStep id desc todo = .next (s.endWork id 5) := by
  obtain ⟨x, hx, hno⟩ := h
  exact (collStep_eq hf hc).trans (if_pos (List.any_eq_true.2 ⟨x, hx, by rw [hno]; rfl⟩))

variable (h : ∀ x ∈ s.partsOf (collDesc desc) cm.members cm.rank c, (collDesc x.desc).agrees (collDesc desc) = true)
include h

theorem collStep_fail {st va : Nat} {rep : Bool} {u : State}
    (hw : s.opWrite id .g ((collDesc desc).dst + collBytes (collDesc desc).cfmt * (collDesc desc).place cm.members c)
      ((collDesc desc).pieceOf cm.members cm.rank c (s.partsOf (collDesc desc) cm.members cm.rank c)) false = (.fail st va rep, u)) :
    s.collStep id desc todo = .next (u.failWork id st va) := by
  rw [collStep_eq hf hc]
  dsimp only
  rw [if_neg (all_agree h), hw]

theorem collStep_ok {x : Got} {u : State}
    (hw : s.opWrite id .g ((collDesc desc).dst + collBytes (collDesc desc).cfmt * (collDesc desc).place cm.members c)
      ((collDesc desc).pieceOf cm.members cm.rank c (s.partsOf (collDesc desc) cm.members cm.rank c)) false = (.ok x, u)) :
    ∃ t, s.collStep id desc todo = .next t ∧ t.mem = u.mem
      ∧ ∀ q, sfind u.ops id = some q → ∃ q', sfind t.ops id = some q'
        ∧ q'.done = q.done + ((collDesc desc).pieceOf cm.members cm.rank c (s.partsOf (collDesc desc) cm.members cm.rank c)).length
        ∧ q'.phase = if todo.erase c = [] then .ended else q.phase := by
  have hk := keepsMemOps_pieceUsed u (collDesc desc) cm c (s.partsOf (collDesc desc) cm.members cm.rank c)
    ((collDesc desc).pieceOf cm.members cm.rank c (s.partsOf (collDesc desc) cm.members cm.rank c))
  have heq := collStep_eq (id := id) hf hc
  dsimp only at heq
  rw [if_neg (all_agree h), hw] at heq
  refine ⟨_, heq, hk.mem, fun q hq => ⟨_, sfind_modOp (by rw [hk.ops]; exact hq) _, rfl, ?_⟩⟩
  dsimp only
  simp only [List.isEmpty_iff]

end

/-! ### The folds -/

theorem fieldAt_word_lt (b : Bytes) (off : Nat) : fieldAt b off 4 < 2 ^ 32 := by
  have hl := ofLe_lt ((b.drop off).take 4)
  have hlen : ((b.drop off).take 4).length ≤ 4 := by rw [List.length_take]; exact Nat.min_le_left _ _
  exact Nat.lt_of_lt_of_le hl (Nat.pow_le_pow_right (by decide) (by omega))

/-- The fold of the words of the parts. -/
theorem ofLe_foldAt {d : CollDesc} (hd : d.cfmt ≠ 2) (b : Bytes) (t : List Bytes) (i : Nat) :
    ofLe (foldAt d (b :: t) i) = (t.map fun b => fieldAt b (4 * i) 4).foldl (foldElem d.cop d.cfmt) (fieldAt b (4 * i) 4) % 2 ^ 32 := by
  have hn : collBytes d.cfmt = 4 := if_neg hd
  rw [foldAt]
  dsimp only
  simp only [hn, if_neg hd, List.map_cons]
  rw [ofLe_leBytes]

theorem foldl_wordSum (l : List Nat) (x : Nat) : l.foldl (fun x y => (x + y) % 2 ^ 32) x % 2 ^ 32 = (x + l.sum) % 2 ^ 32 := by
  induction l generalizing x with
  | nil => rfl
  | cons y t ih =>
    rw [List.foldl_cons, ih, List.sum_cons]
    omega

/-- The larger of two words as integers. -/
def wordMax (x y : Nat) : Nat := if sext x 32 < sext y 32 then y else x

/-- The fold takes the largest word, and one that is there. -/
theorem foldl_wordMax (l : List Nat) (x : Nat) : (∀ y ∈ x :: l, sext y 32 ≤ sext (l.foldl wordMax x) 32) ∧ l.foldl wordMax x ∈ x :: l := by
  induction l generalizing x with
  | nil => exact ⟨fun y hy => by rw [List.mem_singleton.1 hy]; exact le_refl _, List.mem_cons_self⟩
  | cons z t ih =>
    obtain ⟨hle, hmem⟩ := ih (wordMax x z)
    rw [List.foldl_cons]
    have hmax : sext x 32 ≤ sext (wordMax x z) 32 ∧ sext z 32 ≤ sext (wordMax x z) 32 ∧ (wordMax x z = x ∨ wordMax x z = z) := by
      rw [wordMax]
      split
      · next hlt => exact ⟨le_of_lt hlt, le_refl _, .inr rfl⟩
      · next hnl => exact ⟨le_refl _, not_lt.1 hnl, .inl rfl⟩
    obtain ⟨hx, hz, hone⟩ := hmax
    have htop := hle _ List.mem_cons_self
    refine ⟨fun y hy => ?_, ?_⟩
    · rcases List.mem_cons.1 hy with rfl | hy
      · exact hx.trans htop
      · rcases List.mem_cons.1 hy with rfl | hy
        · exact hz.trans htop
        · exact hle y (List.mem_cons_of_mem _ hy)
    · rcases List.mem_cons.1 hmem with e | hm
      · rw [e]
        rcases hone with o | o <;> rw [o] <;> simp
      · exact List.mem_cons_of_mem _ (List.mem_cons_of_mem _ hm)

section
variable {d : CollDesc} (b : Bytes) (t : List Bytes) (i : Nat)

theorem foldAt_sum (h5 : d.cfmt = 5) (h1 : d.cop ≠ 1) :
    ofLe (foldAt d (b :: t) i) = ((b :: t).map fun b => fieldAt b (4 * i) 4).sum % 2 ^ 32 := by
  have hf : foldElem d.cop d.cfmt = fun x y => (x + y) % 2 ^ 32 := by
    funext x y
    rw [foldElem, if_pos h5, if_neg h1]
  rw [ofLe_foldAt (by rw [h5]; decide), hf, foldl_wordSum, List.map_cons, List.sum_cons]

theorem foldAt_max (h5 : d.cfmt = 5) (h1 : d.cop = 1) :
    (∀ x ∈ b :: t, sext (fieldAt x (4 * i) 4) 32 ≤ sext (ofLe (foldAt d (b :: t) i)) 32)
      ∧ ∃ x ∈ b :: t, ofLe (foldAt d (b :: t) i) = fieldAt x (4 * i) 4 := by
  have hf : foldElem d.cop d.cfmt = wordMax := by
    funext x y
    rw [foldElem, if_pos h5, if_pos h1]
    rfl
  obtain ⟨hle, hmem⟩ := foldl_wordMax (t.map fun b => fieldAt b (4 * i) 4) (fieldAt b (4 * i) 4)
  rw [← List.map_cons (f := fun b => fieldAt b (4 * i) 4)] at hle hmem
  obtain ⟨y, hy, hval⟩ := List.mem_map.1 hmem
  have hr : ofLe (foldAt d (b :: t) i) = fieldAt y (4 * i) 4 := by
    rw [ofLe_foldAt (by rw [h5]; decide), hf, ← hval, Nat.mod_eq_of_lt (fieldAt_word_lt _ _)]
  refine ⟨fun x hx => ?_, y, hy, hr⟩
  rw [hr]
  have := hle _ (List.mem_map_of_mem (f := fun b => fieldAt b (4 * i) 4) hx)
  rwa [← hval] at this

theorem foldAt_three (x y z : Bytes) (h0 : d.cfmt = 0) (h1 : d.cop ≠ 1) : ofLe (foldAt d [x, y, z] i)
    = (faddRn (faddRn (BitVec.ofNat 32 (fieldAt x (4 * i) 4)) (BitVec.ofNat 32 (fieldAt y (4 * i) 4))) (BitVec.ofNat 32 (fieldAt z (4 * i) 4))).toNat := by
  have hf : foldElem d.cop d.cfmt = fun x y => (faddRn (BitVec.ofNat 32 x) (BitVec.ofNat 32 y)).toNat := by
    funext x y
    rw [foldElem, if_neg (by rw [h0]; decide), if_neg h1]
  rw [ofLe_foldAt (by rw [h0]; decide), hf]
  dsimp only [List.map, List.foldl]
  rw [BitVec.ofNat_toNat, BitVec.setWidth_eq, Nat.mod_eq_of_lt (BitVec.isLt _)]

end

/-! ### Parts that arrive, and the end of a communicator -/

section
variable {s : State} {comm chunk rank : Nat} {desc : Bytes} {c : Communicator} (hc : sfind s.fabric.comms comm = some c)
include hc

theorem collContribution_refused (h : c.members ≤ rank ∨ rank = c.rank) (part : Option Bytes) :
    exec (.collContribution comm chunk rank desc part) s = .fault .notEnabled := by
  show execCollContribution comm chunk rank desc part s = _
  rw [execCollContribution, hc]
  exact if_pos (.inr h)

variable (hup : s.fabric.up = true) (hr : rank < c.members) (hne : rank ≠ c.rank)
include hup hr hne

theorem collContribution_some (data : Bytes) : exec (.collContribution comm chunk rank desc (some data)) s
    = .next { s with fabric := { s.fabric with contribs := s.fabric.contribs ++ [⟨comm, chunk, rank, desc, data⟩] } } := by
  show execCollContribution comm chunk rank desc (some data) s = _
  rw [execCollContribution, hc]
  exact if_neg (by rw [hup]; rintro (e | e | e); exacts [absurd e (by decide), absurd hr (Nat.not_lt.2 e), hne e])

theorem collContribution_none : exec (.collContribution comm chunk rank desc none) s
    = .next ((s.ops.filter fun e => s.collNeeds comm rank c e.2).foldl State.cutColl s) := by
  show execCollContribution comm chunk rank desc none s = _
  rw [execCollContribution, hc]
  exact if_neg (by rw [hup]; rintro (e | e | e); exacts [absurd e (by decide), absurd hr (Nat.not_lt.2 e), hne e])

end

theorem cutColl_mem (s : State) (e : Nat × Op) : (s.cutColl e).mem = s.mem := by
  rw [State.cutColl]
  split <;> rfl

/-- What waits for a member whose link has failed ends with 1. -/
theorem collNeeds_ends {s : State} {comm rank id : Nat} {c : Communicator} {op : Op} (h : sfind s.ops id = some op)
    (hn : s.collNeeds comm rank c op = true) :
    ∃ q, sfind ((s.ops.filter fun e => s.collNeeds comm rank c e.2).foldl State.cutColl s).ops id = some q ∧ q.phase = .ended ∧ q.status = 1 := by
  have hwork : ∃ n desc todo, op.work = .coll n desc todo := by
    rw [State.collNeeds, Bool.and_eq_true] at hn
    obtain ⟨-, hw⟩ := hn
    split at hw
    · next n desc todo hw' => exact ⟨n, desc, todo, hw'⟩
    · cases hw
  obtain ⟨n, desc, todo, hw⟩ := hwork
  exact cutColl_ends (List.mem_filter.2 ⟨mem_of_sfind h, hn⟩) hw (by rw [h]; rfl)

theorem exec_communicatorDestroy {s : State} {comm : Nat} {c : Communicator} (hc : sfind s.fabric.comms comm = some c) (hm : s.mgmt.mode ≠ 2) :
    ∃ t, exec (.communicatorDestroy comm) s = .next t ∧ sfind t.fabric.comms comm = none ∧ ∀ x ∈ t.fabric.contribs, x.comm ≠ comm := by
  show ∃ t, execCommunicatorDestroy comm s = _ ∧ _
  rw [execCommunicatorDestroy, if_neg (by rw [hc]; rintro (e | e); exacts [Bool.noConfusion e, hm e])]
  exact ⟨_, rfl, (sfind_sdel _ _ _).trans (if_pos rfl), fun x hx => of_decide_eq_true (List.mem_filter.1 hx).2⟩

/-! ### The NVMe initiator -/

/-- The state once a request has been carried out. -/
def State.nvmeTaken (s : State) (pair : Nat) (p : NvmePair) (f : NvmeFields) (st n : Nat) : State :=
  { s with nvme := ⟨sput s.nvme.pairs pair { p with taken := p.taken + 1 }, s.nvme.reqs ++ [⟨pair, p.taken, p.ctx, f.tag, st, n⟩]⟩ }

section
variable {s u : State} {pair : Nat} {p : NvmePair} {f : NvmeFields} {data : Bytes} {failed : List Nat}
  (h : s.nvmeNext pair = some (p, f, u))
include h

theorem nvmeRequest_bad (hf : f.ok = false) (media : Bool) :
    exec (.nvmeRequest pair data ⟨media, failed⟩) s = .next (((List.range 4).foldl State.dropDie u).nvmeTaken pair p f 4 0) := by
  show execNvmeRequest pair data ⟨media, failed⟩ s = _
  rw [execNvmeRequest]
  dsimp only
  rw [h]
  dsimp only
  rw [if_neg (by rw [hf]; exact fun e => absurd e.1 (by decide)), hf]
  rfl

variable (hf : f.ok = true)
include hf

theorem nvmeRequest_waits {media : Bool}
    (hd : if media then 4096 * f.nlb ≤ data.length ∨ data.length % 4096 ≠ 0 else data.length ≠ 4096 * f.nlb) :
    exec (.nvmeRequest pair data ⟨media, failed⟩) s = .fault .notEnabled := by
  show execNvmeRequest pair data ⟨media, failed⟩ s = _
  rw [execNvmeRequest]
  dsimp only
  rw [h]
  exact if_pos ⟨hf, hd⟩

theorem nvmeRequest_runs {media bad : Bool} {n : Nat} {x : State}
    (hd : ¬ if media then 4096 * f.nlb ≤ data.length ∨ data.length % 4096 ≠ 0 else data.length ≠ 4096 * f.nlb)
    (hw : writeBlocksTo p.ctx (data.length / 4096) f.dst data (((List.range 4).foldl State.dropDie u).emit (.flash p.ns f.lba f.nlb)) = (n, bad, x)) :
    exec (.nvmeRequest pair data ⟨media, failed⟩) s = .next ((x.poisonLines p.ctx f.dst (failed.filter (· < 64 * n))).nvmeTaken pair p f
      (if bad then 1 else if media then 2 else if f.op = 2 ∧ !f.checks data then 3 else 0) n) := by
  show execNvmeRequest pair data ⟨media, failed⟩ s = _
  rw [execNvmeRequest]
  dsimp only
  rw [h]
  dsimp only
  rw [if_neg fun e => hd e.2, hf]
  simp only [if_true, Bool.not_true, Bool.false_eq_true, if_false]
  rw [hw]
  rfl

end

theorem exec_nvmeCompletion {s u : State} {pair : Nat} {p : NvmePair} {r : NvmeReq} {q : NvmeHead} (hp : sfind s.nvme.pairs pair = some p)
    (hr : s.nvmeDone pair = some r) (hq : s.nvmeHead p.ctx p.header = some (q, u)) :
    exec (.nvmeCompletion pair) s =
      let v := u.outWrite p.ctx (q.cq + 16 * (q.ctail % q.nent)) (leBytes 8 r.tag ++ leBytes 1 r.status ++ leBytes 3 0 ++ leBytes 4 r.written)
      let w := (v.order .rel .dev 0).outWrite p.ctx (p.header + 40) (leBytes 8 (q.ctail + 1))
      .next { w with nvme := { w.nvme with reqs := w.nvme.reqs.erase r } } := by
  show execNvmeCompletion pair s = _
  rw [execNvmeCompletion, hp, hr]
  dsimp only
  rw [hq]

/-- Settles O58: each turn by the equation of its step, the folds by induction on the parts. -/
theorem collectivesAndNvme : Obligations.CollectivesAndNvme := by
  unfold Obligations.CollectivesAndNvme
  intro s comm chunk rank pair desc data
  refine ⟨fun id op at_ todo h hp hw => ⟨fun h0 hbad => ?_, fun cm c hf h0 hc => ?_⟩, fun d parts i hne => ?_, fun c hc => ⟨fun hup hr hn => ?_,
    fun h part => collContribution_refused hc h part, fun hm => exec_communicatorDestroy hc hm⟩, fun p f u failed h => ?_, fun p r q u hp hr hq => ?_⟩
  · exact copyUnitWrite_coll_start h hp hw h0 (collStart_bad (hbad.imp_right And.left))
  · have hstep := copyUnitWrite_coll_step h hp hw h0
    intro folds from_ parts first n place b
    have hplace : (collDesc desc).place cm.members c = place := place_eq _ _ _
    refine ⟨fun hno => hstep.trans (collStep_mismatch hf hc hno), fun hok => ⟨fun st va rep u hwr => ?_, fun x u hwr => ?_⟩⟩
    · rw [← hplace] at hwr
      exact hstep.trans (collStep_fail hf hc hok hwr)
    · rw [← hplace] at hwr
      obtain ⟨t, ht, hmem, hops⟩ := collStep_ok hf hc hok hwr
      exact ⟨t, hstep.trans ht, hmem, hops⟩
  · obtain ⟨b, t, rfl⟩ := List.exists_cons_of_ne_nil hne
    refine ⟨foldAt_sum b t i, foldAt_max b t i, fun x y z h0 h1 hl => ?_⟩
    rw [hl]
    exact foldAt_three i x y z h0 h1
  · refine ⟨collContribution_some hc hup hr hn data, _, collContribution_none hc hup hr hn, ?_, fun id op h hneed => collNeeds_ends h hneed⟩
    exact foldl_keeps (fun u : State => u.mem = s.mem) _ _ _ rfl fun u e hu => (cutColl_mem u e).trans hu
  · intro v w done lines
    refine ⟨fun hf media => nvmeRequest_bad h hf media, fun hf hl => ⟨fun n bad x hx => ?_, nvmeRequest_waits (media := true) h hf (.inl hl.ge)⟩,
      fun hf k hk hl => ⟨fun n bad x hx => ?_, nvmeRequest_waits (media := false) h hf ?_⟩⟩
    · have hrun := nvmeRequest_runs (failed := failed) (media := false) (bad := bad) (n := n) (x := x) h hf (not_not.2 hl)
        (by rw [hl, Nat.mul_div_cancel_left _ (by decide)]; exact hx)
      simp only [Bool.not_eq_true', Bool.false_eq_true, if_false] at hrun
      exact hrun
    · refine nvmeRequest_runs (media := true) h hf ?_ (by rw [hl, Nat.mul_div_cancel_left _ (by decide)]; exact hx)
      show ¬ (4096 * f.nlb ≤ data.length ∨ data.length % 4096 ≠ 0)
      omega
    · show data.length ≠ 4096 * f.nlb
      omega
  · exact exec_nvmeCompletion hp hr hq

end Sys2Proof.Machine
end

section
/-! SUPPORT. Stall samples: the queue of a slice, what it drops, and the next sample of a grid (O59). -/

namespace Sys2Proof.Machine

/-! ### Records that enter a queue -/

/-- The queue of a slice. -/
def State.sampleQueue (s : State) (key : Nat) : List Sample := (sfind s.prof.queues key).getD []

/-- Records have been pushed into a queue of 16: what fits stands in it, the rest is counted, and nothing else has changed. -/
structure Sampled (key : Nat) (s t : State) (l : List Sample) : Prop where
  queue : t.sampleQueue key = (s.sampleQueue key ++ l).take 16
  drops : ∀ n, (t.gridOf n).map (·.sdrop)
    = (s.gridOf n).map fun g => g.sdrop + ((s.sampleQueue key ++ l).drop 16).countP fun x => x.grid = n
  cur : t.cur = s.cur
  others : t.others = s.others
  mem : t.mem = s.mem

theorem sampled_nil {key : Nat} {s : State} (h : (s.sampleQueue key).length ≤ 16) : Sampled key s s [] := by
  refine ⟨?_, fun n => ?_, rfl, rfl, rfl⟩
  · rw [List.append_nil, List.take_of_length_le h]
  · rw [List.append_nil, List.drop_of_length_le h]
    rfl

theorem sampled_push {key : Nat} {s t : State} {l : List Sample} (h : Sampled key s t l) (x : Sample) :
    Sampled key s (t.pushSample key x) (l ++ [x]) := by
  have hlen : (t.sampleQueue key).length = min 16 (s.sampleQueue key ++ l).length := by rw [h.queue, List.length_take]
  rw [State.pushSample]
  dsimp only
  by_cases hfull : 16 ≤ ((sfind t.prof.queues key).getD []).length
  · have hle : 16 ≤ (s.sampleQueue key ++ l).length := by
      rw [show ((sfind t.prof.queues key).getD []).length = _ from hlen] at hfull
      omega
    rw [if_pos hfull]
    refine ⟨?_, fun n => ?_, h.cur, h.others, h.mem⟩
    · rw [← List.append_assoc, List.take_append_of_le_length hle]
      exact h.queue
    · rw [← List.append_assoc, List.drop_append_of_le_length hle, List.countP_append, gridOf_modGrid]
      have hd := h.drops n
      by_cases hn : n = x.grid
      · rw [if_pos hn, Option.map_map]
        have hone : List.countP (fun y : Sample => decide (y.grid = n)) [x] = 1 := by simp [hn]
        rw [hone]
        have := congrArg (Option.map (· + 1)) hd
        rw [Option.map_map, Option.map_map] at this
        exact this
      · have hzero : List.countP (fun y : Sample => decide (y.grid = n)) [x] = 0 := by simp [Ne.symm hn]
        rw [if_neg hn, hzero]
        exact hd
  · have hlt : (s.sampleQueue key ++ l).length < 16 := by
      rw [show ((sfind t.prof.queues key).getD []).length = _ from hlen] at hfull
      omega
    have hq := h.queue
    rw [List.take_of_length_le hlt.le] at hq
    rw [if_neg hfull]
    refine ⟨?_, fun n => ?_, h.cur, h.others, h.mem⟩
    · show (sfind (sput t.prof.queues key _) key).getD [] = _
      rw [sfind_sput_same, ← List.append_assoc, List.take_of_length_le (by rw [List.length_append]; exact hlt)]
      exact congrArg (· ++ [x]) hq
    · have hd := h.drops n
      rw [List.drop_of_length_le hlt.le] at hd
      rw [← List.append_assoc, List.drop_of_length_le (by rw [List.length_append]; exact hlt)]
      exact hd

theorem sampled_pushAll {key : Nat} {s t : State} {l : List Sample} (h : Sampled key s t l) (m : List Sample) :
    Sampled key s (m.foldl (fun t x => t.pushSample key x) t) (l ++ m) := by
  induction m generalizing t l with
  | nil => rwa [List.append_nil]
  | cons x m ih =>
    have := ih (sampled_push h x)
    rwa [List.append_assoc] at this

theorem sampled_takeAll {key core slice : Nat} {s₀ s t : State} {l : List Sample} (h : Sampled key s t l) (due : List (Nat × Nat)) :
    Sampled key s (due.foldl (fun t x => t.takeSample key x (s₀.sampleOn core slice x)) t) (l ++ due.flatMap (s₀.sampleOn core slice)) := by
  induction due generalizing t l with
  | nil => rwa [List.flatMap_nil, List.append_nil]
  | cons x m ih =>
    have hp := sampled_pushAll h (s₀.sampleOn core slice x)
    have := ih (t := t.takeSample key x (s₀.sampleOn core slice x)) ⟨hp.queue, hp.drops, hp.cur, hp.others, hp.mem⟩
    rwa [List.append_assoc, ← List.flatMap_cons] at this

/-! ### The next sample -/

theorem pushAll_next (key : Nat) (s : State) (m : List Sample) : (m.foldl (fun t x => t.pushSample key x) s).prof.next = s.prof.next :=
  foldl_keeps (fun t : State => t.prof.next = s.prof.next) _ _ _ rfl fun t x ht => by
    rw [State.pushSample]
    dsimp only
    split
    · exact ht
    · exact ht

theorem nextSample_takeSample (s : State) (key : Nat) (x : Nat × Nat) (l : List Sample) (n : Nat) :
    (s.takeSample key x l).nextSample n key = if n = x.1 then x.2 + 1 else s.nextSample n key := by
  rw [State.nextSample, State.takeSample]
  dsimp only
  rw [pushAll_next, List.find?_append]
  by_cases hn : n = x.1
  · have hnone : (s.prof.next.filter fun e => !(e.1 = x.1 && e.2.1 = key)).find? (fun e => e.1 = n && e.2.1 = key) = none := by
      rw [List.find?_eq_none]
      intro e he
      have hno := (List.mem_filter.1 he).2
      rw [hn]
      simpa [← not_and_or] using hno
    rw [if_pos hn, hnone, hn]
    simp
  · have hsame : (s.prof.next.filter fun e => !(e.1 = x.1 && e.2.1 = key)).find? (fun e => e.1 = n && e.2.1 = key)
        = s.prof.next.find? (fun e => e.1 = n && e.2.1 = key) := by
      rw [List.find?_filter]
      congr 1
      funext e
      by_cases he : e.1 = n
      · simp [he, hn]
      · simp [he]
    have hnew : [(x.1, key, x.2 + 1)].find? (fun e => e.1 = n && e.2.1 = key) = none := by simp [Ne.symm hn]
    rw [if_neg hn, hsame, hnew, Option.or_none, State.nextSample]

/-- Samples of one grid that are due have one number. -/
theorem dueSamples_number {s : State} {key : Nat} {x : Nat × Nat} (h : x ∈ s.dueSamples key) : x.2 = s.nextSample x.1 key := by
  obtain ⟨e, -, he⟩ := List.mem_filterMap.1 h
  dsimp only at he
  split at he
  · split at he
    · obtain rfl := Option.some.inj he
      rfl
    · cases he
  · cases he

theorem nextSample_takeAll {s : State} {key core slice : Nat} {x : Nat × Nat} (h : x ∈ s.dueSamples key) :
    ((s.dueSamples key).foldl (fun t x => t.takeSample key x (s.sampleOn core slice x)) s).nextSample x.1 key = x.2 + 1 := by
  refine foldl_establishes (fun t : State => t.nextSample x.1 key = x.2 + 1) _ h (fun t => ?_) (fun t y hy ht => ?_) s
  · rw [nextSample_takeSample, if_pos rfl]
  · rw [nextSample_takeSample]
    split
    · next hxy => rw [dueSamples_number h, dueSamples_number hy, hxy]
    · exact ht

/-! ### The steps -/

theorem exec_stallSample_none {core slice : Nat} {s : State} (h : s.dueSamples (sliceKey core slice) = []) :
    exec (.stallSample core slice) s = .fault .notEnabled := by
  show execStallSample core slice s = _
  rw [execStallSample, h]
  rfl

theorem exec_stallSample {core slice : Nat} {s : State} (h : s.dueSamples (sliceKey core slice) ≠ []) : exec (.stallSample core slice) s =
    .next ((s.dueSamples (sliceKey core slice)).foldl (fun t x => t.takeSample (sliceKey core slice) x (s.sampleOn core slice x)) s) := by
  show execStallSample core slice s = _
  rw [execStallSample]
  split
  · next hn => exact absurd hn h
  · rfl

/-- The oldest record leaves the queue of its slice. -/
def State.popSample (s : State) (key : Nat) (rest : List Sample) : State :=
  { s with prof := { s.prof with queues := sput s.prof.queues key rest } }

theorem exec_sampleDrain_empty {core slice : Nat} {s : State} (h : s.sampleQueue (sliceKey core slice) = []) :
    exec (.sampleDrain core slice) s = .fault .notEnabled := by
  show execSampleDrain core slice s = _
  rw [execSampleDrain]
  dsimp only
  rw [show (sfind s.prof.queues (sliceKey core slice)).getD [] = [] from h]
  rfl

section
variable {core slice : Nat} {s : State} {x : Sample} {rest : List Sample} {gr : Grid}
  (h : s.sampleQueue (sliceKey core slice) = x :: rest) (hg : s.gridOf x.grid = some gr)
include h hg

theorem exec_sampleDrain : exec (.sampleDrain core slice) s =
    if gr.slen < gr.sused + 16 then
      .next ((s.popSample (sliceKey core slice) rest).modGrid x.grid fun g => { g with sdrop := g.sdrop + 1 })
    else match (s.popSample (sliceKey core slice) rest).writeVa (outside gr.ctx) (gr.sbuf + gr.sused) x.bytes with
      | (.ok _, s) => .next (s.modGrid x.grid fun g => { g with sused := g.sused + 16 })
      | (.fault _ _, s) => .next (s.modGrid x.grid fun g => { g with sdrop := g.sdrop + 1 }) := by
  show execSampleDrain core slice s = _
  rw [execSampleDrain]
  dsimp only
  rw [show (sfind s.prof.queues (sliceKey core slice)).getD [] = x :: rest from h]
  dsimp only
  rw [show State.gridOf { s with prof := { s.prof with queues := sput s.prof.queues (sliceKey core slice) rest } } x.grid = some gr from hg] <;> rfl

end

/-- Settles O59: the samples that are due enter the queue one record after the other. -/
theorem stallSampling : Obligations.StallSampling := by
  unfold Obligations.StallSampling
  intro core slice s key q due groups all
  refine ⟨exec_stallSample_none, fun hne hq => ?_, exec_sampleDrain_empty, fun x rest gr h hg => ⟨fun hlt => ?_, fun hle => ⟨fun y v hw => ?_, fun a f v hw => ?_⟩⟩⟩
  · have hs := sampled_takeAll (s₀ := s) (core := core) (slice := slice) (sampled_nil (key := key) hq) due
    exact ⟨_, exec_stallSample hne, hs.queue, hs.drops, fun x hx => nextSample_takeAll hx, hs.cur, hs.others, hs.mem⟩
  · exact (exec_sampleDrain h hg).trans (if_pos hlt)
  · have heq := (exec_sampleDrain h hg).trans (if_neg (Nat.not_lt.2 hle))
    rw [show (s.popSample (sliceKey core slice) rest).writeVa _ _ _ = (.ok y, v) from hw] at heq
    exact heq
  · have heq := (exec_sampleDrain h hg).trans (if_neg (Nat.not_lt.2 hle))
    rw [show (s.popSample (sliceKey core slice) rest).writeVa _ _ _ = (.fault a f, v) from hw] at heq
    exact heq

end Sys2Proof.Machine
end

section
/-! SUPPORT. Starts, firmware images, measurements and the registers that system software writes (O60). -/

namespace Sys2Proof.Machine

/-! ### The stage at which a start fails -/

theorem find_stage (p : Nat → Bool) : [1, 2, 3, 4, 5, 6].find? p =
    if p 1 then some 1 else if p 2 then some 2 else if p 3 then some 3 else if p 4 then some 4 else if p 5 then some 5
    else if p 6 then some 6 else none := by
  simp only [List.find?]
  cases p 1 <;> cases p 2 <;> cases p 3 <;> cases p 4 <;> cases p 5 <;> cases p 6 <;> rfl

/-- A stage fails by itself or is said to fail. -/
def stageEnds (minimal : Bool) (image : FwImage) (failed : Option StartFailure) (dies k : Nat) : Bool :=
  failed = some (.stage k) || stageFails minimal image dies k

section
variable {minimal : Bool} {image : FwImage} {dies : Nat}

theorem firstFailure_trip (n : Nat) : firstFailure minimal image (some (.trip n)) dies =
    match [1, 2, 3, 4, 5, 6].find? (stageEnds minimal image (some (.trip n)) dies) with
    | some k => if k ≤ n then some (.stage k) else some (.trip n)
    | none => some (.trip n) := by
  unfold firstFailure
  change (match some (StartFailure.trip n), [1, 2, 3, 4, 5, 6].find? (stageEnds minimal image (some (.trip n)) dies) with
    | some (.trip n), some k => if k ≤ n then some (StartFailure.stage k) else some (StartFailure.trip n)
    | some (.trip n), none => some (StartFailure.trip n)
    | _, k => k.map StartFailure.stage) = _
  cases [1, 2, 3, 4, 5, 6].find? (stageEnds minimal image (some (.trip n)) dies) with
  | none => rfl
  | some k => rfl

theorem firstFailure_stage (c : Nat) : firstFailure minimal image (some (.stage c)) dies =
    ([1, 2, 3, 4, 5, 6].find? (stageEnds minimal image (some (.stage c)) dies)).map .stage := rfl

theorem firstFailure_none : firstFailure minimal image none dies =
    ([1, 2, 3, 4, 5, 6].find? (stageEnds minimal image none dies)).map .stage := rfl

theorem stageEnds_none (k : Nat) : stageEnds minimal image none dies k = stageFails minimal image dies k := rfl

theorem stageEnds_stage (c k : Nat) : stageEnds minimal image (some (.stage c)) dies k = (decide (c = k) || stageFails minimal image dies k) := by
  simp [stageEnds]

/-- The stage that ends a start which is said to fail at stage c. -/
theorem firstFailure_at {c : Nat} (h1 : 1 ≤ c) (h6 : c ≤ 6) : firstFailure minimal image (some (.stage c)) dies =
    some (.stage (if c = 1 ∨ stageFails minimal image dies 1 = true then 1 else if c < 4 then c
      else if c = 4 ∨ stageFails minimal image dies 4 = true then 4 else if c = 5 ∨ stageFails minimal image dies 5 = true then 5 else 6)) := by
  have f2 : stageFails minimal image dies 2 = false := rfl
  have f3 : stageFails minimal image dies 3 = false := rfl
  have f6 : stageFails minimal image dies 6 = false := rfl
  rw [firstFailure_stage, find_stage]
  simp only [stageEnds_stage, f2, f3, f6, Bool.or_false, Bool.or_eq_true, decide_eq_true_eq]
  by_cases e1 : c = 1 ∨ stageFails minimal image dies 1 = true
  · rw [if_pos e1, if_pos e1]
    rfl
  have hc1 : c ≠ 1 := fun e => e1 (.inl e)
  rw [if_neg e1, if_neg e1]
  by_cases h4 : c < 4
  · obtain rfl | rfl : c = 2 ∨ c = 3 := by omega
    · rfl
    · rfl
  rw [if_neg (by omega), if_neg (by omega), if_neg h4]
  by_cases e4 : c = 4 ∨ stageFails minimal image dies 4 = true
  · rw [if_pos e4, if_pos e4]
    rfl
  have hc4 : c ≠ 4 := fun e => e4 (.inl e)
  rw [if_neg e4, if_neg e4]
  by_cases e5 : c = 5 ∨ stageFails minimal image dies 5 = true
  · rw [if_pos e5, if_pos e5]
    rfl
  have hc5 : c ≠ 5 := fun e => e5 (.inl e)
  rw [if_neg e5, if_neg e5, if_pos (by omega)]
  rfl

/-- A start that is not said to fail ends at the first stage that fails by itself. -/
theorem firstFailure_self : firstFailure minimal image none dies =
    if stageFails minimal image dies 1 = true then some (.stage 1) else if stageFails minimal image dies 4 = true then some (.stage 4)
    else if stageFails minimal image dies 5 = true then some (.stage 5) else none := by
  have f2 : stageFails minimal image dies 2 = false := rfl
  have f3 : stageFails minimal image dies 3 = false := rfl
  have f6 : stageFails minimal image dies 6 = false := rfl
  rw [firstFailure_none, find_stage]
  simp only [stageEnds_none, f2, f3, f6, Bool.false_eq_true, if_false]
  split_ifs <;> rfl

/-- A trip ends a start, unless a stage before it has failed. -/
theorem firstFailure_of_trip (n : Nat) : firstFailure minimal image (some (.trip n)) dies = some (.trip n)
    ∨ ∃ k, 1 ≤ k ∧ k ≤ n ∧ k ≤ 6 ∧ firstFailure minimal image (some (.trip n)) dies = some (.stage k) := by
  rw [firstFailure_trip]
  split
  · next k hk =>
    have hmem := List.mem_of_find?_eq_some hk
    simp only [List.mem_cons, List.not_mem_nil, or_false] at hmem
    split
    · next hle => exact .inr ⟨k, by omega, hle, by omega, rfl⟩
    · exact .inl rfl
  · exact .inl rfl

end

/-! ### The outcome of a start -/

/-- A start fails with the failure that comes first, or the device is up. -/
theorem startResult_cases (minimal : Bool) (image : FwImage) (failed : Option StartFailure) (dies : Nat) :
    (∃ c, firstFailure minimal image failed dies = some c ∧ startResult minimal image failed dies = ⟨2, 0, some c⟩)
      ∨ (firstFailure minimal image failed dies = none
        ∧ startResult minimal image failed dies = if minimal then ⟨1, 2 ^ (lowestDie dies).getD 0, none⟩ else ⟨0, 15, none⟩) := by
  rw [startResult]
  cases firstFailure minimal image failed dies with
  | some c => exact .inl ⟨c, rfl, rfl⟩
  | none => exact .inr ⟨rfl, rfl⟩

theorem startResult_of_some {minimal : Bool} {image : FwImage} {failed : Option StartFailure} {dies : Nat} {c : StartFailure}
    (h : firstFailure minimal image failed dies = some c) : startResult minimal image failed dies = ⟨2, 0, some c⟩ := by
  rw [startResult, h]

theorem startResult_of_none {minimal : Bool} {image : FwImage} {failed : Option StartFailure} {dies : Nat}
    (h : firstFailure minimal image failed dies = none) :
    startResult minimal image failed dies = if minimal then ⟨1, 2 ^ (lowestDie dies).getD 0, none⟩ else ⟨0, 15, none⟩ := by
  rw [startResult, h]

theorem startResult_up {minimal : Bool} {image : FwImage} {failed : Option StartFailure} {dies : Nat}
    (h : (startResult minimal image failed dies).mode ≠ 2) : (startResult minimal image failed dies).failed = none := by
  rcases startResult_cases minimal image failed dies with ⟨c, -, hr⟩ | ⟨-, hr⟩
  · rw [hr] at h
    exact absurd rfl h
  · rw [hr]
    split <;> rfl

theorem startResult_down {minimal : Bool} {image : FwImage} {failed : Option StartFailure} {dies : Nat}
    (h : (startResult minimal image failed dies).mode = 2) :
    ∃ c, firstFailure minimal image failed dies = some c ∧ startResult minimal image failed dies = ⟨2, 0, some c⟩ := by
  refine (startResult_cases minimal image failed dies).resolve_right fun ⟨_, hr⟩ => ?_
  rw [hr] at h
  split at h <;> cases h

/-- The failures that a start may be said to have. -/
def startKnown : StartFailure → Prop
  | .stage c => 1 ≤ c ∧ c ≤ 6
  | .trip n => n ≤ 5

/-- A start that is said to fail fails. -/
theorem firstFailure_of_failed {minimal : Bool} {image : FwImage} {dies : Nat} {f : StartFailure} (h : startKnown f) :
    firstFailure minimal image (some f) dies ≠ none := by
  cases f with
  | stage c =>
    obtain ⟨h1, h6⟩ := h
    rw [firstFailure_at h1 h6]
    exact Option.some_ne_none _
  | trip n =>
    rcases firstFailure_of_trip (minimal := minimal) (image := image) (dies := dies) n with e | ⟨k, -, -, -, e⟩ <;> rw [e] <;>
      exact Option.some_ne_none _

/-- Stage 1 has run, but where a trip comes before it. -/
theorem stagesRun_pos {minimal : Bool} {image : FwImage} {failed : Option StartFailure} {dies : Nat} (hk : ∀ f, failed = some f → startKnown f)
    (ht : failed ≠ some (.trip 0)) : 1 ≤ stagesRun (startResult minimal image failed dies).failed := by
  rcases startResult_cases minimal image failed dies with ⟨c, hF, hr⟩ | ⟨-, hr⟩
  · rw [hr]
    match failed with
    | none =>
      rw [firstFailure_self] at hF
      split_ifs at hF <;> cases hF <;> decide
    | some (.stage k) =>
      obtain ⟨h1, h6⟩ := hk _ rfl
      rw [firstFailure_at h1 h6] at hF
      cases hF
      show 1 ≤ if _ then 1 else _
      split_ifs <;> omega
    | some (.trip n) =>
      have hn : n ≠ 0 := fun e => ht (by rw [e])
      rcases firstFailure_of_trip (minimal := minimal) (image := image) (dies := dies) n with e | ⟨k, h1, -, -, e⟩
      · rw [e] at hF
        cases hF
        exact Nat.pos_of_ne_zero hn
      · rw [e] at hF
        cases hF
        exact h1
  · have hf : (startResult minimal image failed dies).failed = none := by
      rw [hr]
      split <;> rfl
    rw [hf]
    decide

/-- The state after a start with an outcome. -/
def State.started (s : State) (r : StartResult) (began : Nat) : State :=
  { State.reset with
    agenda := s.agenda, steps := s.steps, free := s.free, outbox := s.outbox, mgmt := s.mgmt.start r began s.wall,
    shed := { State.reset.shed with retired := s.shed.retired }, pad := { State.reset.pad with retired := s.pad.retired },
    sweep := { State.reset.sweep with ctls := keepSpares s.sweep.ctls }, fabric := { State.reset.fabric with up := r.mode ≠ 2 } }

/-- Failed starts that the management has counted. -/
def MgmtState.began (m : MgmtState) : Nat := if m.mmexit then 0 else m.nvCount

theorem exec_deviceStart {s : State} {failed : Option StartFailure} {dies : Nat} (h : ∀ f, failed = some f → startKnown f) :
    exec (.deviceStart failed dies) s =
      .next (s.started (startResult (3 ≤ s.mgmt.began) s.mgmt.image failed dies) s.mgmt.began) := by
  show execDeviceStart failed dies s = _
  unfold execDeviceStart
  refine if_neg ?_
  match failed with
  | none => decide
  | some (.stage c) =>
    obtain ⟨h1, h6⟩ := h _ rfl
    simp [h1, h6]
  | some (.trip n) =>
    have hn : n ≤ 5 := h _ rfl
    simp [hn]

/-! ### What verifies -/

/-- A signature of an image's part is good. -/
def goodPart (d g : Bytes) : Bool := d.length = 48 && g.length = 96 && Config.verifies d g

/-- An image's part holds, as the statement puts it. -/
def FwImage.good (i : FwImage) (part : FwParts → Bytes) : Bool :=
  match i.signed with
  | none => true
  | some (d, g) => goodPart (part d) (part g)

theorem holds_eq_good (i : FwImage) (part : FwParts → Bytes) : i.holds part = i.good part := by
  rw [FwImage.holds, FwImage.good]
  rcases i.signed with - | ⟨d, g⟩
  · rfl
  · rfl

/-- The self-test lets the start go on. -/
def testedOk (began dies : Nat) : Bool := if began < 3 then dies % 16 = 15 else (List.range 4).any fun n => dies.testBit n

section
variable {image : FwImage} {began dies : Nat}

theorem stageFails_one : stageFails (3 ≤ began) image dies 1 = true ↔ image.good (·.groom) = false := by
  rw [← holds_eq_good]
  exact Bool.not_eq_true' _ ▸ Iff.rfl

theorem stageFails_four : stageFails (3 ≤ began) image dies 4 = true ↔ testedOk began dies = false := by
  rw [testedOk]
  by_cases hb : began < 3
  · rw [if_pos hb, stageFails, decide_eq_false (Nat.not_le.2 hb), if_neg (by decide), decide_eq_true_iff, decide_eq_false_iff_not]
  · rw [if_neg hb, stageFails, decide_eq_true (Nat.le_of_not_lt hb), if_pos rfl, lowestDie, Option.isNone_iff_eq_none, List.find?_eq_none,
      List.any_eq_false]

theorem stageFails_five : stageFails (3 ≤ began) image dies 5 = true ↔
    image.good (·.shed) = false ∨ (began < 3 ∧ image.good (·.monitor) = false) := by
  rw [← holds_eq_good, ← holds_eq_good, stageFails, Bool.or_eq_true, Bool.and_eq_true, Bool.not_eq_true', Bool.not_eq_true', Bool.not_eq_true',
    decide_eq_false_iff_not, Nat.not_le]

end

/-! ### What a start leaves -/

section
variable (m : MgmtState) (r : StartResult) (began wall : Nat)

theorem start_lastf_of_failure {c : StartFailure} (h : r.failed = some c) : (m.start r began wall).lastf.head? = some (startCode c) := by
  rw [MgmtState.start]
  dsimp only
  rw [h]
  rfl

theorem start_nvCount_of_failure {c : StartFailure} (h : r.failed = some c) : (m.start r began wall).nvCount = began + 1 := by
  rw [MgmtState.start]
  dsimp only
  rw [h]
  rfl

theorem start_nvCount_of_up (h : r.failed = none) : (m.start r began wall).nvCount = 0 := by
  rw [MgmtState.start]
  dsimp only
  rw [h]
  rfl

/-- A new image runs from the start on that ends well. -/
theorem start_images_swapped (hf : m.fresh = true) (h : r.failed = none) :
    (m.start r began wall).active = m.other ∧ (m.start r began wall).other = m.active := by
  have hb : (m.fresh && (decide (r.failed = some (.stage 1)) || decide (r.failed = some (.stage 5)))) = false := by
    rw [h, hf]
    decide
  have himg : m.image = m.other := by rw [MgmtState.image, hf]; rfl
  rw [MgmtState.start]
  dsimp only
  rw [hb, himg, hf]
  exact ⟨rfl, rfl⟩

/-- The images stay where none is new, and where the new one's start has failed at stage 1 or 5. -/
theorem start_images_kept (h : m.fresh = false ∨ r.failed = some (.stage 1) ∨ r.failed = some (.stage 5)) :
    (m.start r began wall).active = m.active ∧ (m.start r began wall).other = m.other := by
  rw [MgmtState.start]
  dsimp only
  cases hf : m.fresh with
  | false =>
    have himg : m.image = m.active := by rw [MgmtState.image, hf]; rfl
    rw [himg]
    exact ⟨rfl, rfl⟩
  | true =>
    have himg : m.image = m.other := by rw [MgmtState.image, hf]; rfl
    have hr := h.resolve_left (by rw [hf]; decide)
    have hb : (decide (r.failed = some (.stage 1)) || decide (r.failed = some (.stage 5))) = true := by
      rw [Bool.or_eq_true, decide_eq_true_iff, decide_eq_true_iff]
      exact hr
    rw [hb, himg]
    exact ⟨rfl, rfl⟩

theorem start_measurements : (m.start r began wall).measurements.length = 4
    ∧ (m.start r began wall).measurements.getD 3 [] = (m.start r began wall).boot := ⟨rfl, rfl⟩

/-- The digest of an image's part, where its stage has run. -/
theorem start_measurement_groom {d g : FwParts} (hs : m.image.signed = some (d, g)) (h : 1 ≤ stagesRun r.failed) :
    (m.start r began wall).measurements.getD 0 [] = d.groom := by
  show imageDigest 1 (if 1 ≤ stagesRun r.failed then m.image.signed.map fun x => x.1.groom else some (leBytes 48 0)) = _
  rw [if_pos h, hs]
  rfl

theorem start_measurement_shed {d g : FwParts} (hs : m.image.signed = some (d, g)) (h : 5 ≤ stagesRun r.failed) :
    (m.start r began wall).measurements.getD 1 [] = d.shed := by
  show imageDigest 2 (if 5 ≤ stagesRun r.failed then m.image.signed.map fun x => x.1.shed else some (leBytes 48 0)) = _
  rw [if_pos h, hs]
  rfl

theorem start_measurement_monitor {d g : FwParts} (hs : m.image.signed = some (d, g)) (h : 5 ≤ stagesRun r.failed) (hb : began < 3) :
    (m.start r began wall).measurements.getD 2 [] = d.monitor := by
  show imageDigest 3 (if decide (3 ≤ began) = true then some (leBytes 48 0)
    else if 5 ≤ stagesRun r.failed then m.image.signed.map fun x => x.1.monitor else some (leBytes 48 0)) = _
  rw [if_neg (by rw [decide_eq_true_iff]; omega), if_pos h, hs]
  rfl

theorem start_measurement_minimal (hb : 3 ≤ began) : (m.start r began wall).measurements.getD 2 [] = leBytes 48 0 := by
  show imageDigest 3 (if decide (3 ≤ began) = true then some (leBytes 48 0)
    else if 5 ≤ stagesRun r.failed then m.image.signed.map fun x => x.1.monitor else some (leBytes 48 0)) = _
  rw [if_pos (decide_eq_true hb)]
  rfl

end

/-- The lowest die that passes stage 4. -/
theorem lowestDie_of_first {dies n : Nat} (hn : n < 4) (ht : dies.testBit n = true) (hm : ∀ m < n, dies.testBit m = false) :
    lowestDie dies = some n := by
  rw [lowestDie, List.find?_eq_some_iff_append]
  refine ⟨ht, List.range n, (List.range' (n + 1) (3 - n)), ?_, fun m hmem => by rw [hm m (List.mem_range.1 hmem)]; rfl⟩
  rw [List.range_eq_range', List.range_eq_range', ← List.range'_succ, show 3 - n + 1 = 4 - n by omega]
  have := List.range'_append_1 (s := 0) (m := n) (n := 4 - n)
  rw [Nat.zero_add, show n + (4 - n) = 4 by omega] at this
  exact this.symm

/-! ### Images and registers -/

theorem exec_firmwareImageWrite (s : State) (digests signatures : FwParts) (version : Nat) :
    exec (.firmwareImageWrite digests version signatures) s = .next
      (if goodPart digests.groom signatures.groom && goodPart digests.shed signatures.shed && goodPart digests.monitor signatures.monitor
        then State.emit { s with mgmt := { s.mgmt with other := ⟨some (digests, signatures), version % 65536⟩, fresh := true } } (.access accessOk [])
        else s.emit (.access accessNone [])) := by
  show execFirmwareImageWrite digests version signatures s = _
  rw [execFirmwareImageWrite]
  dsimp only
  rw [holds_eq_good, holds_eq_good, holds_eq_good]
  exact (apply_ite Host.Outcome.next _ _ _).symm

theorem ctx_known {s : State} {ctx : Nat} {c : Ctx} (h : sfind s.xlate.ctxs ctx = some c) : ¬ (!(sfind s.xlate.ctxs ctx).isSome) = true := by
  rw [h]
  exact Bool.noConfusion

section
variable {s : State} (ht : s.mgmt.tripped = false) (hm : s.mgmt.mode ≠ 2)
include ht hm

/-- A register is written where the device has not stopped. -/
theorem registerWrite_running : ¬ (s.mgmt.tripped = true ∨ s.mgmt.mode = 2) := by
  rw [ht]
  rintro (e | e)
  exacts [absurd e (by decide), hm e]

theorem write_bar0 (off v : Nat) : exec (.registerWrite (.bar0 off v)) s = if off = 0x10 ∧ v = 1 then .next s.setMmexit else .next s :=
  if_neg (registerWrite_running ht hm)

theorem write_ctxRoot (ctx root : Nat) : exec (.registerWrite (.ctxRoot ctx root)) s = s.setRoot ctx root :=
  if_neg (registerWrite_running ht hm)

theorem write_debugGrant_unknown {ctx : Nat} (h : sfind s.xlate.ctxs ctx = none) (on : Bool) :
    exec (.registerWrite (.debugGrant ctx on)) s = .fault .notEnabled :=
  (if_neg (registerWrite_running ht hm)).trans (if_pos (congrArg (fun o : Option Ctx => !o.isSome) h))

theorem write_communicator {n members rank : Nat} (h : rank < members) : exec (.registerWrite (.communicator n members rank)) s
    = .next { s with fabric := { s.fabric with comms := sput s.fabric.comms n ⟨members, rank⟩ } } :=
  (if_neg (registerWrite_running ht hm)).trans (if_neg (Nat.not_le.2 h))

variable {ctx : Nat} {c : Ctx} (h : sfind s.xlate.ctxs ctx = some c)
include h

theorem write_pager {n header : Nat} (h1 : 1 ≤ n) (h2 : n ≤ 2047) (ha : header % 64 = 0) : exec (.registerWrite (.pager ctx n header)) s
    = .next (s.modCtx ctx fun c => { c with pagers := sput c.pagers n header }) := by
  refine (if_neg (registerWrite_running ht hm)).trans (if_neg ?_)
  rintro (e | e | e | e)
  exacts [ctx_known h e, by omega, by omega, e ha]

theorem write_debugGrant (on : Bool) : exec (.registerWrite (.debugGrant ctx on)) s = .next (s.modCtx ctx fun c => { c with debugGrant := on }) :=
  (if_neg (registerWrite_running ht hm)).trans (if_neg (ctx_known h))

theorem write_launchQueue {n header : Nat} (hn : n < 1024) (ha : header % 64 = 0) : exec (.registerWrite (.launchQueue n ctx header)) s
    = .next { s with launch := { s.launch with
        queues := sput s.launch.queues n ⟨ctx, header, [], s.launch.nextReg, []⟩, nextReg := s.launch.nextReg + 1 } } := by
  refine (if_neg (registerWrite_running ht hm)).trans (if_neg ?_)
  rintro (e | e | e)
  exacts [ctx_known h e, by omega, e ha]

theorem write_nvmePair {n ns header : Nat} (hn : n < 64) (ha : header % 64 = 0) : exec (.registerWrite (.nvmePair n ctx ns header)) s
    = .next { s with nvme := { s.nvme with pairs := sput s.nvme.pairs n ⟨ctx, ns, header, 0⟩ } } := by
  refine (if_neg (registerWrite_running ht hm)).trans (if_neg ?_)
  rintro (e | e | e)
  exacts [ctx_known h e, by omega, e ha]

theorem write_cribAssign {n : Nat} {frames : List Nat} (h0 : s.mgmt.mode = 0) (hc : sfind s.pad.cribs n = none) (hn : n < 2048)
    (hw : frames.length * 65536 ≤ 2 ^ 28) : exec (.registerWrite (.cribAssign n ctx (frames.length * 65536) frames)) s
      = .next (s.setCrib n ⟨ctx, frames.length * 65536, frames, [], [], 0, 0, 0, false, s.now, none⟩) := by
  refine (if_neg (registerWrite_running ht hm)).trans (if_neg ?_)
  rw [h0, hc, h]
  rintro (e | e | e | e | e | e | e)
  exacts [absurd e (by decide), Bool.noConfusion e, Bool.noConfusion e, by omega, by omega, e rfl, by omega]

end

theorem setRoot_new {s : State} {ctx root : Nat} (hc : ctx < 65536) (ha : root % 2 ^ 21 = 0) (h : sfind s.xlate.ctxs ctx = none) :
    s.setRoot ctx root = .next { s with xlate := { s.xlate with ctxs := sput s.xlate.ctxs ctx ⟨root, [], false, false⟩ } } := by
  rw [State.setRoot, if_neg (by rintro (e | e); exacts [by omega, e ha]), h]

theorem setRoot_known {s : State} {ctx root : Nat} {c : Ctx} (hc : ctx < 65536) (ha : root % 2 ^ 21 = 0) (h : sfind s.xlate.ctxs ctx = some c) :
    s.setRoot ctx root = .next (s.modCtx ctx fun c => { c with root := root }) := by
  rw [State.setRoot, if_neg (by rintro (e | e); exacts [by omega, e ha]), h]

/-- A change of one context. -/
theorem modCtx_changes (s : State) (ctx : Nat) (f : Ctx → Ctx) : (∀ k, sfind (s.modCtx ctx f).xlate.ctxs k
    = if k = ctx then (sfind s.xlate.ctxs k).map f else sfind s.xlate.ctxs k) ∧ (s.modCtx ctx f).mem = s.mem ∧ (s.modCtx ctx f).cur = s.cur :=
  ⟨fun _ => sfind_supd _ _ _ _, rfl, rfl⟩

/-- Settles O60: a start by the stage at which it fails first, and each register by its equation. -/
theorem startsImagesAndRegisters : Obligations.StartsImagesAndRegisters := by
  unfold Obligations.StartsImagesAndRegisters
  refine ⟨fun s failed dies digests signatures version => ?_, fun s ctx n a b ns on ht hm => ?_⟩
  · intro began image good holds tested
    have h1 := stageFails_one (image := s.mgmt.image) (began := began) (dies := dies)
    have h4 := stageFails_four (image := s.mgmt.image) (began := began) (dies := dies)
    have h5 := stageFails_five (image := s.mgmt.image) (began := began) (dies := dies)
    refine ⟨?_, ?_, fun hstage htrip => ?_, rfl, exec_firmwareImageWrite s digests signatures version, rfl⟩
    · rintro c rfl hc
      refine if_pos ?_
      rcases hc with rfl | hc
      · rfl
      · simp [Nat.not_le.2 hc]
    · rintro n rfl hn
      refine if_pos ?_
      simp [Nat.not_le.2 hn]
    · have hknown : ∀ f, failed = some f → startKnown f := by
        rintro (c | n) rfl
        · exact hstage c rfl
        · exact htrip n rfl
      let r := startResult (3 ≤ began) s.mgmt.image failed dies
      have fails {c : StartFailure} (hF : firstFailure (3 ≤ began) s.mgmt.image failed dies = some c) :
          (s.started r began).mgmt.mode = 2 ∧ (s.started r began).mgmt.lastf.head? = some (startCode c) := by
        have hr := startResult_of_some hF
        exact ⟨congrArg StartResult.mode hr, start_lastf_of_failure _ _ _ _ (congrArg StartResult.failed hr)⟩
      have up (hF : firstFailure (3 ≤ began) s.mgmt.image failed dies = none) : r = _ := startResult_of_none hF
      refine ⟨s.started r began, exec_deviceStart hknown, rfl, rfl, rfl, rfl, rfl, rfl, fun hm => ?_, fun hf => ?_, fun c hc => ?_,
        fun ht => ?_, fun hf hg => ?_, fun hf hg ht => ?_, fun hf hg ht hs => ?_, fun hf hg ht hs => ⟨fun hb hmon => ?_, fun hb n hn hbit hlow => ?_⟩,
        fun hfr hm => ?_, fun h => ?_, rfl, (start_measurements _ _ _ _).1, (start_measurements _ _ _ _).2,
        fun d g hs ht => start_measurement_groom _ _ _ _ hs (stagesRun_pos hknown ht), fun d g hs hm => ?_,
        fun hb => start_measurement_minimal _ _ _ _ hb⟩
      · obtain ⟨c, -, hr⟩ := startResult_down (minimal := 3 ≤ began) (image := s.mgmt.image) (failed := failed) (dies := dies) hm
        exact ⟨decide_eq_false (not_not.2 hm), congrArg StartResult.dies hr, start_nvCount_of_failure _ _ _ _ (congrArg StartResult.failed hr)⟩
      · obtain ⟨f, rfl⟩ := Option.ne_none_iff_exists'.1 hf
        obtain ⟨c, hc⟩ := Option.ne_none_iff_exists'.1
          (firstFailure_of_failed (minimal := 3 ≤ began) (image := s.mgmt.image) (dies := dies) (hknown f rfl))
        exact (fails hc).1
      · subst hc
        obtain ⟨hc1, hc6⟩ := hstage c rfl
        refine (fails (firstFailure_at hc1 hc6)).2.trans (congrArg some ?_)
        exact if_congr (or_congr_right h1) rfl (if_congr Iff.rfl rfl (if_congr (or_congr_right h4) rfl (if_congr (or_congr_right h5) rfl rfl)))
      · subst ht
        refine (fails ((firstFailure_of_trip 0).resolve_right ?_)).2
        rintro ⟨k, hk1, hk0, -⟩
        omega
      · subst hf
        exact fails (firstFailure_self.trans (if_pos (h1.2 hg)))
      · subst hf
        have hn1 : ¬ stageFails (3 ≤ began) s.mgmt.image dies 1 = true := fun e => Bool.noConfusion (hg.symm.trans (h1.1 e))
        exact fails (firstFailure_self.trans ((if_neg hn1).trans (if_pos (h4.2 ht))))
      · subst hf
        have hn1 : ¬ stageFails (3 ≤ began) s.mgmt.image dies 1 = true := fun e => Bool.noConfusion (hg.symm.trans (h1.1 e))
        have hn4 : ¬ stageFails (3 ≤ began) s.mgmt.image dies 4 = true := fun e => Bool.noConfusion (ht.symm.trans (h4.1 e))
        exact fails (firstFailure_self.trans ((if_neg hn1).trans ((if_neg hn4).trans (if_pos (h5.2 hs)))))
      · subst hf
        have hn1 : ¬ stageFails (3 ≤ began) s.mgmt.image dies 1 = true := fun e => Bool.noConfusion (hg.symm.trans (h1.1 e))
        have hn4 : ¬ stageFails (3 ≤ began) s.mgmt.image dies 4 = true := fun e => Bool.noConfusion (ht.symm.trans (h4.1 e))
        have hn5 : ¬ stageFails (3 ≤ began) s.mgmt.image dies 5 = true := fun e =>
          (h5.1 e).elim (fun e => Bool.noConfusion (hs.symm.trans e)) fun e => Bool.noConfusion (hmon.symm.trans e.2)
        have hr := up (firstFailure_self.trans ((if_neg hn1).trans ((if_neg hn4).trans (if_neg hn5))))
        rw [if_neg (by rw [decide_eq_true_iff]; omega)] at hr
        exact ⟨congrArg StartResult.mode hr, congrArg StartResult.dies hr, start_nvCount_of_up _ _ _ _ (congrArg StartResult.failed hr),
          decide_eq_true (by rw [show r.mode = 0 from congrArg StartResult.mode hr]; decide)⟩
      · subst hf
        have hn1 : ¬ stageFails (3 ≤ began) s.mgmt.image dies 1 = true := fun e => Bool.noConfusion (hg.symm.trans (h1.1 e))
        have hn4 : ¬ stageFails (3 ≤ began) s.mgmt.image dies 4 = true := fun e => Bool.noConfusion (ht.symm.trans (h4.1 e))
        have hn5 : ¬ stageFails (3 ≤ began) s.mgmt.image dies 5 = true := fun e =>
          (h5.1 e).elim (fun e => Bool.noConfusion (hs.symm.trans e)) fun e => absurd e.1 (Nat.not_lt.2 hb)
        have hr := up (firstFailure_self.trans ((if_neg hn1).trans ((if_neg hn4).trans (if_neg hn5))))
        rw [if_pos (decide_eq_true hb), lowestDie_of_first hn hbit hlow] at hr
        exact ⟨congrArg StartResult.mode hr, congrArg StartResult.dies hr, start_nvCount_of_up _ _ _ _ (congrArg StartResult.failed hr)⟩
      · exact start_images_swapped _ _ _ _ hfr (startResult_up hm)
      · refine start_images_kept _ _ _ _ (h.imp_right fun ⟨hm, hhead⟩ => ?_)
        obtain ⟨c, -, hr⟩ := startResult_down (minimal := 3 ≤ began) (image := s.mgmt.image) (failed := failed) (dies := dies) hm
        have hfail : r.failed = some c := congrArg StartResult.failed hr
        rw [show (s.started r began).mgmt.lastf.head? = some (startCode c) from start_lastf_of_failure _ _ _ _ hfail, Option.some_inj,
          Option.some_inj] at hhead
        rcases c with k | k
        · rcases hhead with rfl | rfl
          · exact .inl hfail
          · exact .inr hfail
        · have h7 : startCode (.trip k) = 7 := rfl
          rw [h7] at hhead
          omega
      · have hfail : r.failed = none := startResult_up hm
        have hrun : 5 ≤ stagesRun r.failed := by rw [hfail]; decide
        exact ⟨start_measurement_shed _ _ _ _ hs hrun, fun hb => start_measurement_monitor _ _ _ _ hs hrun hb⟩
  · refine ⟨fun off v => ⟨fun h => (write_bar0 ht hm off v).trans (if_pos h), fun h => (write_bar0 ht hm off v).trans (if_neg h)⟩,
      fun hc ha h => (write_ctxRoot ht hm ctx a).trans (setRoot_new hc ha h), fun ha => (write_ctxRoot ht hm ctx a).trans (if_pos (.inr ha)),
      fun h => write_debugGrant_unknown ht hm h on, fun c h => ⟨fun hc ha => ?_, fun h1 h2 ha => ?_, ?_, fun hn ha => write_launchQueue ht hm h hn ha,
        fun hn ha => write_nvmePair ht hm h hn ha, fun hb => write_communicator ht hm hb, fun frames h0 hc hn hlen hmax => ?_⟩⟩
    · exact ⟨_, (write_ctxRoot ht hm ctx a).trans (setRoot_known hc ha h), modCtx_changes s ctx _⟩
    · exact ⟨_, write_pager ht hm h h1 h2 ha, modCtx_changes s ctx _⟩
    · exact ⟨_, write_debugGrant ht hm h on, modCtx_changes s ctx _⟩
    · subst hlen
      exact ⟨_, _, write_cribAssign ht hm h h0 hc hn hmax, sfind_sput_same _ _ _, rfl, rfl, rfl, rfl, rfl⟩

end Sys2Proof.Machine
end

section
/-! SUPPORT. Memory stays canonical under the operations on the state, the translation of addresses and the fetch of lines. -/

namespace Sys2Proof.Machine

variable {s : State}

/-- The memory of a state stands in its canonical form, as a predicate that no check unfolds. -/
structure State.Canon (s : State) : Prop where
  wf : s.memOk

theorem State.canon_iff : s.Canon ↔ s.mem.wf = true := ⟨fun h => h.wf, fun h => ⟨h⟩⟩

/-- The state that an answer goes on to has its memory in canonical form. -/
def Out.Canon : Out → Prop
  | .next t => t.Canon
  | .fault _ => True
  | .refused _ => True

/-- The state that may be there has its memory in canonical form. -/
def OptionCanon : Option State → Prop
  | some t => t.Canon
  | none => True

/-- The state of a success has its memory in canonical form. -/
def ExceptCanon {ε α : Type} : Except ε (α × State) → Prop
  | .ok p => p.2.Canon
  | .error _ => True

theorem canon_foldl {β : Type} {f : State → β → State} (hf : ∀ (u : State) (b : β), u.Canon → (f u b).Canon) (l : List β)
    (h : s.Canon) : (l.foldl f s).Canon := foldl_keeps State.Canon f l s h hf

section
variable {α ε : Type} {a : α} {t : State}

theorem canon_of_snd {p : α × State} (e : p = (a, t)) (h : p.2.Canon) : t.Canon := by
  rw [e] at h
  exact h

theorem OptionCanon.of_some {o : Option State} (h : OptionCanon o) (e : o = some t) : t.Canon := by
  rw [e] at h
  exact h

theorem OptionCanon.getD {o : Option State} (h : OptionCanon o) (ht : t.Canon) : (o.getD t).Canon := by
  cases o with
  | none => exact ht
  | some u => exact h

theorem OptionCanon.of_map {β : Type} {o : Option β} {g : β → State} {b : β} (h : OptionCanon (o.map g)) (e : o = some b) :
    (g b).Canon := by
  rw [e] at h
  exact h

theorem OptionCanon.bind {o : Option State} {f : State → Option State} (h : OptionCanon o)
    (hf : ∀ u : State, u.Canon → OptionCanon (f u)) : OptionCanon (o.bind f) := by
  cases o with
  | none => trivial
  | some u => exact hf u h

theorem ExceptCanon.of_ok {r : Except ε (α × State)} (h : ExceptCanon r) (e : r = .ok (a, t)) : t.Canon := by
  rw [e] at h
  exact h

/-- A computation goes on from a success, whose state has its memory in canonical form. -/
theorem ExceptCanon.bind {β : Type} {r : Except ε (α × State)} {f : α × State → Except ε (β × State)} (h : ExceptCanon r)
    (hf : ∀ p : α × State, p.2.Canon → ExceptCanon (f p)) : ExceptCanon (r >>= f) := by
  cases r with
  | ok p => exact hf p h
  | error _ => trivial

end

/-! ### What the laws of memory say of it -/

theorem canon_dropStale (h : s.Canon) : s.dropStale.Canon := ⟨memOk_dropStale h.wf⟩
theorem canon_dropDie (die : Nat) (h : s.Canon) : (s.dropDie die).Canon := ⟨memOk_dropDie _ h.wf⟩
theorem canon_dropLines (p : Nat → Bool) (l : List Nat) (h : s.Canon) : (s.dropLines p l).Canon := ⟨memOk_dropLines _ _ h.wf⟩
theorem canon_releaseAt (ord : Ord) (scope : Scope) (h : s.Canon) : (s.releaseAt ord scope).Canon := ⟨memOk_releaseAt _ _ h.wf⟩
theorem canon_acquireAt (ord : Ord) (scope : Scope) (die : Nat) (h : s.Canon) :
    (s.acquireAt ord scope die).Canon := ⟨memOk_acquireAt _ _ _ h.wf⟩
theorem canon_order (ord : Ord) (scope : Scope) (die : Nat) (h : s.Canon) :
    (s.order ord scope die).Canon := ⟨memOk_order _ _ _ h.wf⟩
theorem canon_wakeWaiter (e : MonEntry) (h : s.Canon) : (s.wakeWaiter e).Canon := ⟨memOk_wakeWaiter _ h.wf⟩
theorem canon_wakeRange (sp : Space) (unit lo len : Nat) (h : s.Canon) :
    (s.wakeRange sp unit lo len).Canon := ⟨memOk_wakeRange _ _ _ _ h.wf⟩
theorem canon_sendBursts (ag : Agent) (write : Bool) (pa n : Nat) (h : s.Canon) :
    (s.sendBursts ag write pa n).Canon := ⟨memOk_sendBursts _ _ _ _ h.wf⟩
theorem canon_promote (ag : Agent) (pa n : Nat) (h : s.Canon) : (s.promote ag pa n).Canon := ⟨memOk_promote _ _ _ h.wf⟩
theorem canon_transformRow (row attr : Nat) (d : SweepDesc) (h : s.Canon) :
    (transformRow s row attr d).Canon := ⟨memOk_transformRow _ _ _ h.wf⟩
theorem canon_applyReg (key : Nat) (r : SweepReg) (row : Nat) (h : s.Canon) :
    (applyReg s key r row).Canon := ⟨memOk_applyReg _ _ _ h.wf⟩
theorem canon_touchRow (row : Nat) (h : s.Canon) : (touchRow s row).Canon := ⟨memOk_touchRow _ h.wf⟩
theorem canon_refreshRow (row : Nat) (h : s.Canon) : (refreshRow s row).Canon := ⟨memOk_refreshRow _ h.wf⟩
theorem canon_touchRows (rows : List Nat) (h : s.Canon) : (touchRows s rows).Canon := ⟨memOk_touchRows _ h.wf⟩
theorem canon_noteShut (locs : List Nat) (h : s.Canon) : (s.noteShut locs).Canon := ⟨memOk_noteShut _ h.wf⟩
theorem canon_activate (locs : List Nat) (h : s.Canon) : (s.activate locs).Canon := ⟨memOk_activate _ h.wf⟩
theorem canon_fillRbuf (die line : Nat) (h : s.Canon) : (s.fillRbuf die line).Canon := ⟨memOk_fillRbuf _ _ h.wf⟩
theorem canon_readPa (ag : Agent) (attr pa n : Nat) (h : s.Canon) : (s.readPa ag attr pa n).2.Canon :=
  ⟨memOk_readPa _ _ _ _ h.wf⟩
theorem canon_writeFrame (ag : Agent) (attr pa : Nat) (b : Bytes) (h : s.Canon) :
    (s.writeFrame ag attr pa b).Canon := ⟨memOk_writeFrame _ _ _ _ h.wf⟩
theorem canon_writePa (ag : Agent) (attr pa : Nat) (b : Bytes) (h : s.Canon) :
    (s.writePa ag attr pa b).Canon := ⟨memOk_writePa _ _ _ _ h.wf⟩
theorem canon_poisonPa (attr pa n : Nat) (h : s.Canon) : (s.poisonPa attr pa n).Canon := ⟨memOk_poisonPa _ _ _ h.wf⟩
theorem canon_writeLocal (sp : Space) (unit off : Nat) (b : Bytes) (h : s.Canon) :
    (s.writeLocal sp unit off b).Canon := ⟨memOk_writeLocal _ _ _ _ h.wf⟩
theorem canon_poisonLocal (sp : Space) (unit off n : Nat) (h : s.Canon) :
    (s.poisonLocal sp unit off n).Canon := ⟨memOk_poisonLocal _ _ _ _ h.wf⟩
theorem canon_clearShared (core base n : Nat) (h : s.Canon) : (s.clearShared core base n).Canon :=
  ⟨memOk_clearShared _ _ _ h.wf⟩
theorem canon_clearYard (die base n : Nat) (h : s.Canon) : (s.clearYard die base n).Canon := ⟨memOk_clearYard _ _ _ h.wf⟩
theorem canon_reloadShared (t : Team) (l : Mem × Sparse Bool) (h : s.Canon) :
    (s.reloadShared t l).Canon := ⟨memOk_reloadShared _ _ h.wf⟩
theorem canon_reloadYard (die base n : Nat) (l : Mem × Sparse Bool) (h : s.Canon) :
    (s.reloadYard die base n l).Canon := ⟨memOk_reloadYard _ _ _ _ h.wf⟩
theorem canon_activateFrames (frames : List Nat) (h : s.Canon) : (s.activateFrames frames).Canon :=
  ⟨memOk_activateFrames _ h.wf⟩
theorem canon_scrubFrames (frames : List Nat) (h : s.Canon) : (s.scrubFrames frames).Canon := ⟨memOk_scrubFrames _ h.wf⟩
theorem canon_holdBlock (core pa : Nat) (h : s.Canon) : (s.holdBlock core pa).Canon := ⟨memOk_holdBlock _ _ h.wf⟩
theorem canon_switchMatrix (region : Nat) (image : Bytes) (h : s.Canon) :
    (s.switchMatrix region image).Canon := ⟨memOk_switchMatrix _ _ h.wf⟩

/-! ### Operations on the state -/

theorem canon_modGroup (gid : Nat) (f : Group → Group) (h : s.Canon) :
    (s.modGroup gid f).Canon := ⟨by rw [State.memOk, modGroup_mem]; exact h.wf⟩
theorem canon_modCur (f : Group → Group) (h : s.Canon) : (s.modCur f).Canon := ⟨h.wf⟩
theorem canon_focus (gid : Nat) (h : s.Canon) : (s.focus gid).Canon := by
  unfold State.focus
  split
  · exact h
  · split
    · exact h
    · exact ⟨h.wf⟩
theorem canon_modOp (id : Nat) (f : Op → Op) (h : s.Canon) : (s.modOp id f).Canon := ⟨h.wf⟩
theorem canon_drawByte (h : s.Canon) : (s.drawByte).2.Canon := by
  grind [State.drawByte, State.canon_iff]
theorem canon_drawBytes (n : Nat) (h : s.Canon) : (State.drawBytes n s).2.Canon := by
  induction n generalizing s with
  | zero => exact h
  | succ n ih => grind [State.drawBytes, canon_drawByte]
theorem canon_emit (o : Output) (h : s.Canon) : (s.emit o).Canon := ⟨h.wf⟩
theorem canon_logLine (b : Bytes) (h : s.Canon) : (s.logLine b).Canon := ⟨h.wf⟩
theorem canon_countError (level : Nat) (fatal : Bool) (h : s.Canon) : (s.countError level fatal).Canon := by
  unfold State.countError
  dsimp only
  split <;> exact ⟨h.wf⟩
theorem canon_logError (level unit ctx : Nat) (h : s.Canon) : (s.logError level unit ctx).Canon := canon_logLine _ h
theorem canon_noteError (level : Nat) (fatal : Bool) (unit ctx : Nat) (h : s.Canon) :
    (s.noteError level fatal unit ctx).Canon := by
  grind [State.noteError, canon_countError, canon_logError]
theorem canon_writeResult (o : Fields) (f : Nat → Word) (h : s.Canon) : (writeResult s o f).Canon := by
  grind [writeResult, canon_modCur]
theorem canon_writeAddr (o : Fields) (x : DWord) (h : s.Canon) : (writeAddr s o x).Canon := by
  grind [writeAddr, canon_modCur]
theorem canon_endOp (id : Nat) (h : s.Canon) : (s.endOp id).Canon := ⟨by rw [State.memOk, endOp_mem]; exact h.wf⟩
theorem canon_endWait (id code : Nat) (h : s.Canon) : (s.endWait id code).Canon :=
  ⟨by rw [State.memOk, endWait_mem]; exact h.wf⟩
theorem canon_dropRow (row : Nat) (h : s.Canon) : (s.dropRow row).Canon := ⟨memOk_filterRbuf _ h.wf⟩
theorem canon_pumpFabric (h : s.Canon) : s.pumpFabric.Canon := ⟨(accesses_pump _ _).memOk h.wf⟩
theorem canon_burstsOf (n : Nat) (h : s.Canon) : (s.burstsOf n).Canon := ⟨(accesses_burstsOf s n).memOk h.wf⟩
theorem canon_sendReads (gid key : Nat) (ord : Ord) (scope : Scope) (h : s.Canon) : (s.sendReads gid key ord scope).Canon := by
  have he := canon_emit .zeroRead h
  have hf (l : List Nat) : (l.foldl (fun s d => (s.burstsOf 1).emit (.fabric 5 [d])) (s.emit .zeroRead)).Canon :=
    foldl_keeps State.Canon _ _ _ he fun _ _ hs => canon_emit _ (canon_burstsOf _ hs)
  unfold State.sendReads
  split
  · exact ⟨(hf _).wf⟩
  · exact h
theorem canon_endReads (key : Nat) (h : s.Canon) : (s.endReads key).Canon := ⟨h.wf⟩
theorem canon_setTlb (core : Nat) (t : Tlb) (h : s.Canon) : (s.setTlb core t).Canon := ⟨h.wf⟩
theorem canon_readPte (pa : Nat) (h : s.Canon) : (s.readPte pa).2.Canon := ⟨(accesses_readPte s pa).memOk h.wf⟩
theorem canon_walkFrom (core : Option Nat) (ctx va level table : Nat) (h : s.Canon) :
    (walkFrom core ctx va level table s).2.Canon :=
  ⟨(accesses_walkFrom core ctx va level table s).memOk h.wf⟩
theorem canon_translate (core : Option Nat) (ctx va : Nat) (k : Acc) (h : s.Canon) :
    (s.translate core ctx va k).2.Canon := ⟨(accesses_translate s core ctx va k).memOk h.wf⟩
theorem canon_readVa (ag : Agent) (va n : Nat) (h : s.Canon) :
    (s.readVa ag va n).2.Canon := ⟨(accesses_readVa s ag va n).memOk h.wf⟩
theorem canon_writePlaces (ag : Agent) (parts : List (Nat × Nat)) (h : s.Canon) :
    (writePlaces ag parts s).2.Canon := ⟨(accesses_writePlaces ag parts s).memOk h.wf⟩
theorem canon_writeVa (ag : Agent) (va : Nat) (b : Bytes) (h : s.Canon) : (s.writeVa ag va b).2.Canon := by
  have hp := canon_writePlaces ag (granuleParts va b.length) h
  unfold State.writeVa
  split <;> rename_i e <;> rw [e] at hp
  · exact foldl_keeps (fun a : State × Bytes => a.1.Canon) _ _ _ hp fun _ _ hs => canon_writePa _ _ _ _ hs
  · exact hp
theorem canon_setIbuf (core : Nat) (l : List IbufLine) (h : s.Canon) : (s.setIbuf core l).Canon := ⟨h.wf⟩
theorem canon_ibufEnter (core : Nat) (e : IbufLine) (h : s.Canon) : (s.ibufEnter core e).Canon := canon_setIbuf _ _ h
theorem canon_fetchLine (g : Group) (line : Nat) (h : s.Canon) :
    (s.fetchLine g line).2.Canon := ⟨(accesses_fetchLine s g line).memOk h.wf⟩
theorem canon_checkTarget (g : Group) (t : DWord) (h : s.Canon) :
    (s.checkTarget g t).2.Canon := ⟨(accesses_checkTarget s g t).memOk h.wf⟩
theorem canon_checkTransfer (t : DWord) (h : s.Canon) : (s.checkTransfer t).2.Canon := ⟨(accesses_checkTransfer s t).memOk h.wf⟩

end Sys2Proof.Machine
end

section
/-! SUPPORT. Memory stays canonical under the device's own records, traps, moves of paths and control instructions. -/

namespace Sys2Proof.Machine

variable {s : State}

theorem canon_kRead (g : Group) (off n : Nat) (h : s.Canon) : (s.kRead g off n).2.Canon :=
  ⟨(accesses_kRead s g off n).memOk h.wf⟩
theorem canon_kWrite (g : Group) (off : Nat) (b : Bytes) (h : s.Canon) : (s.kWrite g off b).2.Canon := by
  grind [State.kWrite, canon_writeVa]
theorem canon_modGrid (n : Nat) (f : Grid → Grid) (h : s.Canon) : (s.modGrid n f).Canon := ⟨h.wf⟩
theorem canon_recWrite (n off : Nat) (b : Bytes) (h : s.Canon) : (s.recWrite n off b).Canon := by
  grind [State.recWrite, canon_writeVa]
theorem canon_addOrphan (n : Nat) (rec : Bytes) (h : s.Canon) : (s.addOrphan n rec).Canon := by
  grind [State.addOrphan, canon_releaseAt, canon_recWrite, canon_modGrid]
theorem canon_addFailure (n : Nat) (entry : Bytes) (h : s.Canon) : (s.addFailure n entry).Canon := by
  grind [State.addFailure, canon_recWrite, canon_modGrid]
theorem canon_count (grid : Nat) (evs : List (Nat × Nat × List Nat)) (h : s.Canon) : (s.count grid evs).Canon := by
  unfold State.count
  split
  · exact h
  · exact ⟨h.wf⟩
theorem canon_spilledBytes (g : Group) (n : Nat) (h : s.Canon) :
    (spilledBytes g n s).2.2.Canon := ⟨(accesses_spilledBytes g n s).memOk h.wf⟩
theorem canon_partnerGone (g : Group) (h : s.Canon) : (s.partnerGone g).Canon := by
  unfold State.partnerGone
  dsimp only
  split
  · exact ⟨h.wf⟩
  · exact h
theorem canon_endGroupOf (gid : Nat) (e : EndInfo) (h : s.Canon) : (s.endGroupOf gid e).Canon := by
  grind [State.endGroupOf, canon_spilledBytes, canon_addFailure, canon_modGroup, canon_partnerGone]
theorem canon_endGroup (e : EndInfo) (h : s.Canon) : (s.endGroup e).Canon := canon_endGroupOf _ _ h
theorem canon_recordWritable (g : Group) (h : s.Canon) :
    (s.recordWritable g).2.Canon := ⟨(accesses_recordWritable s g).memOk h.wf⟩
theorem canon_writeRecord (t : TrapInfo) (h : s.Canon) : (s.writeRecord t).Canon := by
  have h0 := canon_kWrite s.cur 0 (trapHeader s s.cur t) h
  delta State.writeRecord
  dsimp only
  refine foldl_keeps State.Canon _ _ _ h0 fun u f hs => ?_
  exact canon_kWrite _ _ _ hs
theorem canon_takeTrap (t : TrapInfo) (h : s.Canon) : (s.takeTrap t).Canon := by
  grind [State.takeTrap, canon_endGroup, canon_modCur, canon_partnerGone, canon_recordWritable, canon_writeRecord,
    canon_checkTarget, canon_emit]
theorem canon_trap (code cause : Nat) (lanes : List LaneFault) (xarg : Nat) (h : s.Canon) :
    (s.trap code cause lanes xarg).Canon := canon_takeTrap _ h
theorem canon_trapHere (code cause xarg : Nat) (h : s.Canon) : (s.trapHere code cause xarg).Canon := canon_takeTrap _ h
theorem canon_trapTarget (e : Nat × Nat) (target : DWord) (h : s.Canon) : (s.trapTarget e target).Canon :=
  canon_trapHere _ _ _ h
theorem canon_trapEntry (code cause step test slot : Nat) (h : s.Canon) :
    (s.trapEntry code cause step test slot).Canon := canon_takeTrap _ h
theorem canon_topPath (h : s.Canon) : (s.topPath).2.Canon := by
  grind [State.topPath, Out.Canon, canon_kRead]
theorem canon_popPaths (n : Nat) (h : s.Canon) : (popPaths n s).Canon := by
  induction n generalizing s with
  | zero => exact h
  | succ n ih => grind [popPaths, canon_topPath, canon_endGroup, canon_modCur]
theorem canon_popPath (h : s.Canon) : s.popPath.Canon := canon_popPaths _ h
theorem canon_settleSlots (n : Nat) (h : s.Canon) : (settleSlots n s).Canon := by
  induction n generalizing s with
  | zero => exact h
  | succ n ih => grind [settleSlots, canon_modCur, canon_popPath]
theorem canon_enterLine (pc : DWord) (h : s.Canon) : (s.enterLine pc).Canon := by
  grind [State.enterLine, canon_settleSlots, canon_modCur]
theorem canon_advance (h : s.Canon) : s.advance.Canon := by
  grind [State.advance, canon_modCur, canon_enterLine]
theorem canon_transfer (t : DWord) (before : State → State) (hb : ∀ u : State, u.Canon → (before u).Canon) (h : s.Canon) :
    (s.transfer t before).Canon := by
  grind [State.transfer, canon_checkTransfer, canon_trapTarget, canon_enterLine]
theorem canon_pushPath (pc : DWord) (m : LaneMask) (h : s.Canon) : (s.pushPath pc m).2.Canon := by
  have hw (off : Nat) (b : Bytes) := canon_kWrite s.cur off b h
  unfold State.pushPath
  dsimp only
  split
  next e =>
    dsimp only
    exact canon_modCur _ (canon_of_snd e (hw _ _))
  next e => exact canon_of_snd e (hw _ _)
theorem canon_dropSlot (h : s.Canon) : s.dropSlot.Canon := by
  grind [State.dropSlot, canon_settleSlots, canon_modCur, canon_popPath]
theorem canon_refillSlots (n : Nat) (h : s.Canon) : (refillSlots n s).Canon := by
  induction n generalizing s with
  | zero => exact h
  | succ n ih => grind [refillSlots, canon_topPath, canon_settleSlots, canon_popPath]
theorem canon_refillGroup (gid : Nat) (h : s.Canon) : (s.refillGroup gid).Canon := by
  grind [State.refillGroup, canon_refillSlots, canon_focus, canon_modCur]
theorem canon_hold (r : Stall) (h : s.Canon) : (s.hold r).Canon := canon_modCur _ h
theorem canon_pathTransfer (o : Fields) (t : DWord) (before : State → State) (hb : ∀ u : State, u.Canon → (before u).Canon)
    (h : s.Canon) : (s.pathTransfer o t before).Canon := by
  grind [State.pathTransfer, canon_transfer, canon_advance]
theorem canon_linkWrite (o : Fields) (link : DWord) (h : s.Canon) : (linkWrite o link s).Canon := by
  grind [linkWrite, canon_modCur]
theorem canon_execBr (o : Fields) (h : s.Canon) : (execBr o s).Canon := canon_pathTransfer _ _ _ (fun _ => id) h
theorem canon_execBrx (o : Fields) (h : s.Canon) : (execBrx o s).Canon := canon_pathTransfer _ _ _ (fun _ => id) h
theorem canon_execCall (o : Fields) (h : s.Canon) : (execCall o s).Canon :=
  canon_pathTransfer _ _ _ (fun _ => canon_linkWrite _ _) h
theorem canon_execCallx (o : Fields) (h : s.Canon) : (execCallx o s).Canon :=
  canon_pathTransfer _ _ _ (fun _ => canon_linkWrite _ _) h
theorem canon_execRet (o : Fields) (h : s.Canon) : (execRet o s).Canon := canon_pathTransfer _ _ _ (fun _ => id) h
theorem canon_split (target next : DWord) (T F : LaneMask) (h : s.Canon) : (s.split target next T F).Canon := by
  grind [State.split, canon_modCur, canon_enterLine, canon_trapHere, canon_pushPath]
theorem canon_execBrd (o : Fields) (h : s.Canon) : (execBrd o s).Canon := by
  grind [execBrd, Out.Canon, canon_advance, canon_transfer, canon_checkTransfer, canon_trapTarget, canon_checkTarget, canon_split]
theorem canon_structured (m : LaneMask) (f : Nat → Nat → Nat) (target : Option DWord) (h : s.Canon) :
    (s.structured m f target).Canon := by
  grind [State.structured, canon_trap, canon_modCur, canon_advance, canon_transfer]
theorem canon_execIf (o : Fields) (h : s.Canon) : (execIf o s).Canon := by
  grind [execIf, Out.Canon, canon_structured]
theorem canon_execElse (o : Fields) (h : s.Canon) : (execElse o s).Canon := by
  grind [execElse, Out.Canon, canon_structured]
theorem canon_execLoop (o : Fields) (h : s.Canon) : (execLoop o s).Canon := by
  grind [execLoop, Out.Canon, canon_structured]
theorem canon_execEndl (o : Fields) (h : s.Canon) : (execEndl o s).Canon := by
  grind [execEndl, Out.Canon, canon_transfer, canon_modCur, canon_advance]
theorem canon_execExit (o : Fields) (h : s.Canon) : (execExit o s).Canon := by
  grind [execExit, Out.Canon, canon_modCur, canon_partnerGone, canon_dropSlot, canon_advance]
theorem canon_execYield (wf : BitVec 12) (o : Fields) (h : s.Canon) : (execYield wf o s).Canon := by
  grind [execYield, Out.Canon, canon_advance, canon_checkTransfer, canon_trapTarget, canon_enterLine, canon_modCur]
theorem canon_execEbrk (o : Fields) (h : s.Canon) : (execEbrk o s).Canon := by
  grind [execEbrk, Out.Canon, canon_trap, canon_advance]
theorem canon_execGrow (o : Fields) (h : s.Canon) : (execGrow o s).Canon := by
  grind [execGrow, Out.Canon, canon_advance, canon_modCur, canon_trapHere, canon_hold]
theorem canon_execShrink (o : Fields) (h : s.Canon) : (execShrink o s).Canon := by
  grind [execShrink, Out.Canon, canon_advance, canon_trap, canon_modCur]
theorem canon_laneStep (o : Fields) (f : Nat → Word) (h : s.Canon) : (laneStep s o f).Canon := by
  grind [laneStep, Out.Canon, canon_writeResult, canon_advance]

end Sys2Proof.Machine
end

section
/-! SUPPORT. Memory stays canonical under the lane instructions of classes 0x1 to 0x5. -/

namespace Sys2Proof.Machine

variable {s : State}

theorem canon_lane1 (o : Fields) (f : Word → Word) (h : s.Canon) : (lane1 s o f).Canon := canon_laneStep _ _ h
theorem canon_lane2 (o : Fields) (f : Word → Word → Word) (h : s.Canon) : (lane2 s o f).Canon := canon_laneStep _ _ h
theorem canon_lane3 (o : Fields) (f : Word → Word → Word → Word) (h : s.Canon) : (lane3 s o f).Canon := canon_laneStep _ _ h
theorem canon_execAadd (m : LaneMod) (o : Fields) (h : s.Canon) : (execAadd m o s).Canon := by
  grind [execAadd, Out.Canon, canon_writeAddr, canon_advance]
theorem canon_execAidx (m : LaneMod) (o : Fields) (h : s.Canon) : (execAidx m o s).Canon := by
  grind [execAidx, Out.Canon, canon_modCur, canon_advance]
theorem canon_execSel (m : LaneMod) (o : Fields) (h : s.Canon) : (execSel m o s).Canon := by
  grind [execSel, Out.Canon, canon_lane3]
theorem canon_execAmov (m : LaneMod) (o : Fields) (h : s.Canon) : (execAmov m o s).Canon := by
  grind [execAmov, Out.Canon, canon_modCur, canon_advance, canon_writeAddr]
theorem canon_writeStale (m : CrossMod) (eff x : LaneMask) (h : s.Canon) : (writeStale m eff x s).Canon := by
  grind [writeStale, canon_modCur]
theorem canon_execVote (m : CrossMod) (o : Fields) (h : s.Canon) : (execVote m o s).Canon := by
  grind [execVote, Out.Canon, canon_writeAddr, canon_writeResult, canon_writeStale, canon_advance]
theorem canon_execShfl (m : CrossMod) (o : Fields) (h : s.Canon) : (execShfl m o s).Canon := by
  grind [execShfl, Out.Canon, canon_writeStale, canon_writeResult, canon_advance]
theorem canon_execLred (m : CrossMod) (o : Fields) (h : s.Canon) : (execLred m o s).Canon := by
  grind [execLred, Out.Canon, canon_writeResult, canon_advance]
theorem canon_execPset (m : CrossMod) (o : Fields) (h : s.Canon) : (execPset m o s).Canon := by
  grind [execPset, Out.Canon, canon_modCur, canon_advance]
theorem canon_execPerm (m : CrossMod) (o : Fields) (h : s.Canon) : (execPerm m o s).Canon := by
  grind [execPerm, Out.Canon, canon_laneStep]

end Sys2Proof.Machine
end

section
/-! SUPPORT. Memory stays canonical under the issue of operations and local loads and stores. -/

namespace Sys2Proof.Machine

variable {s : State}

theorem canon_addOp (op : Op) (h : s.Canon) : (s.addOp op).Canon := by
  grind [State.addOp, State.canon_iff, canon_modGroup]
theorem canon_issueOp (o : Fields) (opc queue : Nat) (dests : List RegRef) (w : Work) (h : s.Canon) :
    (s.issueOp o opc queue dests w).Canon := canon_addOp _ h
theorem canon_segPlace (sp : Space) (acc : Acc) (off n align : Nat) (h : s.Canon) : (s.segPlace sp acc off n align).2.Canon := by
  grind [State.segPlace, canon_translate]
theorem canon_readPlace (sp : Space) (p : Place) (n : Nat) (h : s.Canon) : (s.readPlace sp p n).2.Canon := by
  grind [State.readPlace, canon_readPa]
theorem canon_writePlace (sp : Space) (p : Place) (b : Bytes) (h : s.Canon) : (s.writePlace sp p b).Canon := by
  grind [State.writePlace, canon_writePa, canon_writeLocal]
theorem canon_wordPlaces (sp : Space) (acc : Acc) (n align : Nat) (l : List Nat) (h : s.Canon) :
    (wordPlaces sp acc n align l s).2.Canon := by
  induction l generalizing s with
  | nil => exact h
  | cons off l ih =>
    have hp := canon_segPlace sp acc off n align h
    have hl := ih hp
    clear ih
    grind [wordPlaces]
theorem canon_checkLanes (sp : Space) (acc : Acc) (n align size kind : Nat) (l : List LaneWords) (h : s.Canon) :
    (checkLanes sp acc n align size kind l s).2.2.Canon := by
  induction l generalizing s with
  | nil => exact h
  | cons x l ih => grind [checkLanes, canon_wordPlaces]
theorem canon_laneTrap (bad : List LaneFault) (h : s.Canon) : (s.laneTrap bad).Canon := by
  grind [State.laneTrap, canon_trap, canon_foldl]
theorem canon_finish (bad : List LaneFault) (h : s.Canon) : (s.finish bad).Canon := by
  grind [State.finish, canon_advance, canon_laneTrap]
theorem canon_readWords (sp : Space) (n : Nat) (l : List Place) (h : s.Canon) : (readWords sp n l s).2.2.Canon := by
  induction l generalizing s with
  | nil => exact h
  | cons x l ih => grind [readWords, canon_readPlace]
theorem canon_readLanes (sp : Space) (n : Nat) (l : List (Nat × List Nat × List Place)) (h : s.Canon) :
    (readLanes sp n l s).2.2.Canon := by
  induction l generalizing s with
  | nil => exact h
  | cons x l ih => grind [readLanes, canon_readWords]
theorem canon_loadOp (o : Fields) (opc : Nat) (sp : Space) (n : Nat) (dests : List RegRef) (lanes : List LaneWords)
    (put : Nat → List Nat → List (RegRef × Nat × DWord)) (h : s.Canon) :
    (loadOp s o opc sp n dests lanes put).Canon := by
  grind [loadOp, Out.Canon, canon_checkLanes, canon_hold, canon_readLanes, canon_issueOp, canon_finish]
theorem canon_execLd (m : LocalMod) (o : Fields) (h : s.Canon) : (execLd m o s).Canon := by
  grind [execLd, Out.Canon, canon_advance, canon_loadOp]
theorem canon_writeWords (sp : Space) (l : List Place) (bs : List Bytes) (h : s.Canon) : (writeWords sp l bs s).Canon := by
  induction l generalizing s bs with
  | nil => exact h
  | cons p l ih =>
    cases bs with
    | nil => exact h
    | cons b bs => exact ih bs (canon_writePlace sp p b h)
theorem canon_storeOp (sp : Space) (n : Nat) (lanes : List LaneWords) (data : Nat → List Bytes) (h : s.Canon) :
    (storeOp s sp n lanes data).Canon := by
  have hc := canon_checkLanes sp .write n n n 1 lanes h
  unfold storeOp
  dsimp only
  split
  · exact canon_hold _ hc
  · exact canon_finish _ (foldl_keeps State.Canon _ _ _ hc fun _ _ hs => canon_writeWords _ _ _ hs)
theorem canon_execSt (m : LocalMod) (o : Fields) (h : s.Canon) : (execSt m o s).Canon := by
  grind [execSt, Out.Canon, canon_storeOp]
theorem canon_execLdb (m : LocalMod) (o : Fields) (h : s.Canon) : (execLdb m o s).Canon := by
  grind [execLdb, Out.Canon, canon_advance, canon_loadOp]
theorem canon_notNow : notNow.Canon := trivial

end Sys2Proof.Machine
end

section
/-! SUPPORT. Memory stays canonical under what all commands share, and under barriers and fences. -/

namespace Sys2Proof.Machine

variable {s : State}

theorem canon_traceRec (grid : Nat) (rec : Bytes) (h : s.Canon) : (s.traceRec grid rec).Canon := by
  grind [State.traceRec, canon_modGrid, canon_writeVa]
theorem canon_trace (id kind aux : Nat) (h : s.Canon) : (s.trace id kind aux).Canon := by
  grind [State.trace, canon_traceRec]
theorem canon_traceAll (id kind aux : Nat) (h : s.Canon) : (s.traceAll id kind aux).Canon :=
  foldl_keeps State.Canon _ _ _ h fun _ _ hs => canon_trace _ _ _ hs
theorem canon_tellQueue (core q : Nat) (h : s.Canon) : (s.tellQueue core q).Canon := by
  grind [State.tellQueue, OptionCanon, State.canon_iff, canon_emit]
theorem canon_tellQueues (h : s.Canon) : s.tellQueues.Canon := by
  refine foldl_keeps State.Canon _ _ _ h fun u e hu => ?_
  split
  · exact hu
  · exact foldl_keeps State.Canon _ _ _ hu fun v q hv => canon_tellQueue _ _ hv
theorem canon_takeLeave (id amount : Nat) (h : s.Canon) : (s.takeLeave id amount).Canon := by
  grind [State.takeLeave, State.canon_iff, canon_modOp]
theorem canon_returnLeave (id : Nat) (h : s.Canon) : (s.returnLeave id).Canon := by
  grind [State.returnLeave, State.canon_iff, canon_modOp]
theorem canon_queueLeave (id : Nat) (h : s.Canon) : (s.queueLeave id).Canon := ⟨h.wf⟩
theorem canon_waitLeave (id : Nat) (h : s.Canon) : (s.waitLeave id).Canon := by
  grind [State.waitLeave, canon_modOp, canon_queueLeave]
theorem canon_opTranslate (id va : Nat) (acc : Acc) (h : s.Canon) : (s.opTranslate id va acc).2.Canon := by
  grind [State.opTranslate, canon_translate, canon_modOp]
theorem canon_lookUp (id : Nat) (acc : Acc) (l : List Nat) (h : s.Canon) : (State.lookUp id acc l s).2.Canon := by
  induction l generalizing s with
  | nil => exact h
  | cons x l ih => grind [State.lookUp, canon_opTranslate]
theorem canon_opPlaces (id : Nat) (acc : Acc) (l : List (Nat × Nat)) (h : s.Canon) : (State.opPlaces id acc l s).2.Canon := by
  induction l generalizing s with
  | nil => exact h
  | cons x l ih => grind [State.opPlaces, canon_opTranslate]
theorem canon_opRead (id : Nat) (sp : Space) (at_ n : Nat) (h : s.Canon) : (s.opRead id sp at_ n).2.Canon := by
  have hp := canon_opPlaces id .read (granuleParts at_ n) h
  unfold State.opRead
  dsimp only
  split
  · split <;> rename_i e <;> rw [e] at hp
    · exact hp
    · exact foldl_keeps (fun a : Got × State => a.2.Canon) _ _ _ hp fun a p ha => canon_readPa _ _ _ _ ha
  · exact h
theorem canon_opWrite (id : Nat) (sp : Space) (at_ : Nat) (b : Bytes) (psn : Bool) (h : s.Canon) :
    (s.opWrite id sp at_ b psn).2.Canon := by
  have hp := canon_opPlaces id .write (granuleParts at_ b.length) h
  unfold State.opWrite
  dsimp only
  split
  · split <;> rename_i e <;> rw [e] at hp
    · exact hp
    · refine foldl_keeps (fun a : State × Bytes => a.1.Canon) _ _ _ hp fun a p ha => ?_
      have hw := canon_writePa (s.opAgent id) p.1.attr p.1.pa (a.2.take p.2) ha
      dsimp only
      split
      · exact canon_poisonPa _ _ _ hw
      · exact hw
  · have hw := canon_writeLocal sp (spaceUnit sp ((s.opAgent id).core.getD 0)) at_ b h
    split
    · exact canon_poisonLocal _ _ _ _ hw
    · exact hw
theorem canon_tallyUp (id site kind : Nat) (counts : List Nat) (h : s.Canon) :
    (s.tallyUp id site kind counts).Canon := canon_modOp _ _ h
theorem canon_dropTurned (gid key : Nat) (h : s.Canon) : (s.dropTurned gid key).Canon := by
  unfold State.dropTurned
  split
  · exact h
  split
  · exact h
  split
  · exact h
  split
  · exact h
  dsimp only
  split
  · exact canon_modGroup _ _ h
  split
  · split
    · exact canon_count _ _ (canon_modGroup _ _ h)
    · exact canon_tallyUp _ _ _ _ (canon_modGroup _ _ h)
  · exact canon_count _ _ (canon_modGroup _ _ h)
theorem canon_dropTurnedAll (gid : Nat) (h : s.Canon) : (s.dropTurnedAll gid).Canon := by
  unfold State.dropTurnedAll
  split
  · exact h
  · exact foldl_keeps State.Canon _ _ _ h fun _ _ hs => canon_dropTurned _ _ hs
theorem canon_placeRecord (g : Group) (idx id : Nat) (op : Op) (h : s.Canon) : (s.placeRecord g idx id op).Canon := by
  grind [State.placeRecord, canon_kWrite, canon_modGroup, canon_endOp, canon_addOrphan, canon_endGroupOf]
theorem canon_completeOp (id : Nat) (h : s.Canon) : (s.completeOp id).Canon := by
  grind [State.completeOp, canon_dropTurnedAll, canon_returnLeave, canon_count, canon_trace, canon_addOrphan, canon_endOp,
    canon_placeRecord, canon_modOp, canon_modGroup]
theorem canon_retryHeld (gid : Nat) (h : s.Canon) : (s.retryHeld gid).Canon := by
  grind [State.retryHeld, canon_modGroup, canon_placeRecord]
theorem canon_endWork (id status : Nat) (h : s.Canon) : (s.endWork id status).Canon := canon_modOp _ _ h
theorem canon_failWork (id status faddr : Nat) (h : s.Canon) : (s.failWork id status faddr).Canon := canon_modOp _ _ h
theorem canon_execFence (m : FenceMod) (o : Fields) (h : s.Canon) : (execFence m o s).Canon := by
  grind [execFence, Out.Canon, canon_advance, canon_hold, canon_sendReads, canon_order, canon_endReads]
theorem canon_arrive (gang : Bool) (h : s.Canon) : (arrive gang s).Canon := by
  unfold arrive
  dsimp only
  generalize (if gang = true then BarState.gang else BarState.team) = me
  split
  · exact canon_advance (canon_modCur _ (foldl_keeps State.Canon _ _ _ (canon_modCur _ h) fun _ _ hs => canon_modGroup _ _ hs))
  · exact canon_hold _ (canon_modCur _ h)
theorem canon_barStep (gang : Bool) (h : s.Canon) : (barStep gang s).Canon := by
  grind [barStep, canon_trap, canon_modCur, canon_advance, canon_hold, canon_arrive, canon_order]
theorem canon_phbarSet (core at_ : Nat) (b : Phbar) (h : s.Canon) : (s.phbarSet core at_ b).Canon := canon_writeLocal _ _ _ _ h
theorem canon_phbarSeen (core at_ : Nat) (b : Phbar) (h : s.Canon) : (s.phbarSeen core at_ b).Canon := by
  grind [State.phbarSeen, canon_phbarSet]
theorem canon_phbarStep (o : Fields) (f : Nat → Nat → State → State)
    (hf : ∀ (core at_ : Nat) (u : State), u.Canon → (f core at_ u).Canon) (h : s.Canon) : (phbarStep s o f).Canon := by
  grind [phbarStep, Out.Canon, canon_trap, canon_advance, canon_hold]
theorem canon_phbarRead (o : Fields) (f : Nat → Nat → Phbar → State → State)
    (hf : ∀ (core at_ : Nat) (b : Phbar) (u : State), u.Canon → (f core at_ b u).Canon) (h : s.Canon) : (phbarRead s o f).Canon
      := by
  refine canon_phbarStep _ _ (fun core at_ u hu => ?_) h
  generalize u.phbarAt core at_ = b
  cases b with
  | none => exact canon_trap _ _ _ _ hu
  | some b => exact hf _ _ _ _ hu
theorem canon_execPhbarInit (o : Fields) (h : s.Canon) : (execPhbarInit o s).Canon := by
  grind [execPhbarInit, Out.Canon, canon_phbarStep, canon_trap, canon_writeLocal, canon_advance]
theorem canon_execPhbarArr (o : Fields) (h : s.Canon) : (execPhbarArr o s).Canon := by
  grind [execPhbarArr, Out.Canon, canon_phbarRead, canon_phbarSet, canon_advance, canon_hold]
theorem canon_execPhbarQuit (o : Fields) (h : s.Canon) : (execPhbarQuit o s).Canon := by
  grind [execPhbarQuit, Out.Canon, canon_phbarRead, canon_trap, canon_phbarSet, canon_advance, canon_hold]
theorem canon_execPhbarWait (o : Fields) (h : s.Canon) : (execPhbarWait o s).Canon := by
  grind [execPhbarWait, Out.Canon, canon_phbarRead, canon_phbarSeen, canon_advance, canon_hold]
theorem canon_execPhbarTest (o : Fields) (h : s.Canon) : (execPhbarTest o s).Canon := by
  grind [execPhbarTest, Out.Canon, canon_phbarRead, canon_writeResult, canon_phbarSeen, canon_advance]
theorem canon_execPhbarGen (o : Fields) (h : s.Canon) : (execPhbarGen o s).Canon := by
  grind [execPhbarGen, Out.Canon, canon_phbarRead, canon_writeResult, canon_phbarSeen, canon_advance]
theorem canon_execQfence (o : Fields) (h : s.Canon) : (execQfence o s).Canon := by
  grind [execQfence, Out.Canon, State.canon_iff, canon_advance]

end Sys2Proof.Machine
end

section
/-! SUPPORT. Memory stays canonical under copies, gathers, scatters and fills. -/

namespace Sys2Proof.Machine

variable {s : State}

theorem canon_countIn (bar : Option Nat) (n : Nat) (h : s.Canon) : OptionCanon (s.countIn bar n) := by
  cases bar with
  | none => exact h
  | some at_ =>
    rw [State.countIn]
    rcases s.phbarAt s.cur.coreNo at_ with _ | b
    · trivial
    · exact canon_phbarSet _ _ _ h
theorem canon_copyIssue (o : Fields) (opc : Nat) (ends : List (Space × Nat)) (n : Nat) (work : Option Nat → Work) (h : s.Canon) :
    (copyIssue s o opc ends n work).Canon := by
  grind [copyIssue, Out.Canon, OptionCanon, canon_advance, canon_trap, canon_countIn, canon_issueOp, canon_trace, canon_endWork]
theorem canon_gatherIssue (o : Fields) (opc : Nat) (sp : Space) (n kind : Nat) (bar : Option Nat)
    (work : List LaneOp → Option Nat → Work) (h : s.Canon) :
    (gatherIssue s o opc sp n kind bar work).Canon := by
  grind [gatherIssue, Out.Canon, OptionCanon, canon_advance, canon_trap, canon_finish, canon_countIn, canon_issueOp]
theorem canon_execColl (m : CopyMod) (o : Fields) (h : s.Canon) : (execColl m o s).Canon := by
  grind [execColl, Out.Canon, canon_advance, canon_trap, canon_issueOp]
theorem canon_payBack (id : Nat) (bar : Option Nat) (n : Nat) (failed : Bool) (h : s.Canon) :
    (s.payBack id bar n failed).2.Canon := by
  cases bar with
  | none => exact h
  | some at_ =>
    rcases ho : sfind s.ops id with _ | op
    · rw [State.payBack.eq_2 _ _ _ _ _ (by rw [ho]; simp)]
      exact h
    · rw [State.payBack.eq_1 _ _ _ _ _ _ ho]
      rcases s.phbarAt op.core at_ with _ | b
      · exact h
      · exact canon_phbarSet _ _ _ h
theorem canon_failCopy (id : Nat) (bar : Option Nat) (left status faddr : Nat) (h : s.Canon) :
    (s.failCopy id bar left status faddr).Canon := by
  grind [State.failCopy, canon_payBack, canon_failWork]
theorem canon_copyUnit (id : Nat) (bar : Option Nat) (ds : Space) (dst src left : Nat) (data : Got) (h : s.Canon) :
    (s.copyUnit id bar ds dst src left data).Canon := by
  rw [State.copyUnit]
  have hd : (if data.psn = true then s.drawBytes data.bytes.length else (data.bytes, s)).2.Canon := by
    split
    · exact canon_drawBytes _ h
    · exact h
  generalize (if data.psn = true then s.drawBytes data.bytes.length else (data.bytes, s)) = p at hd ⊢
  obtain ⟨bytes, s'⟩ := p
  have hw := canon_opWrite id ds dst bytes data.psn hd
  dsimp only at hw ⊢
  generalize s'.opWrite id ds dst bytes data.psn = p at hw ⊢
  obtain ⟨r, u⟩ := p
  cases r with
  | ok _ =>
    have hp := canon_payBack id bar data.bytes.length false hw
    dsimp only at hp ⊢
    generalize u.payBack id bar data.bytes.length false = p at hp ⊢
    split
    · exact canon_failCopy _ _ _ _ _ (canon_modOp _ _ hp)
    split
    · exact canon_modOp _ _ (canon_modOp _ _ hp)
    · exact canon_modOp _ _ hp
  | fail st va _ => exact canon_failCopy _ _ _ _ _ hw
  | miss _ _ => trivial
theorem canon_lookParts (id : Nat) (l : List (Nat × Acc)) (h : s.Canon) : (State.lookParts id l s).2.Canon := by
  induction l generalizing s with
  | nil => exact h
  | cons x l ih => grind [State.lookParts, canon_opPlaces]
theorem canon_nextLane (id : Nat) (bar : Option Nat) (n total : Nat) (stop : Bool) (h : s.Canon) :
    (s.nextLane id bar n total stop).Canon := by
  grind [State.nextLane, canon_modOp, canon_payBack]
theorem canon_laneUnit (id : Nat) (bar : Option Nat) (ss ds : Space) (l : LaneOp) (src dst n total : Nat) (h : s.Canon) :
    (s.laneUnit id bar ss ds l src dst n total).Canon := by
  have failed (u : State) (f : Op → Op) (hu : u.Canon) :
      (((u.modOp id f).payBack id bar n true).2.nextLane id bar n total false).Canon :=
    canon_nextLane _ _ _ _ _ (canon_payBack _ _ _ _ (canon_modOp _ _ hu))
  rw [State.laneUnit]
  have hr := canon_opRead id ss src n h
  generalize s.opRead id ss src n = p at hr ⊢
  obtain ⟨r, v⟩ := p
  cases r with
  | ok x =>
    have hd : (if x.psn = true then v.drawBytes n else (x.bytes, v)).2.Canon := by
      split
      · exact canon_drawBytes _ hr
      · exact hr
    dsimp only
    generalize (if x.psn = true then v.drawBytes n else (x.bytes, v)) = p at hd ⊢
    obtain ⟨bytes, v'⟩ := p
    have hw := canon_opWrite id ds dst bytes x.psn hd
    dsimp only at hw ⊢
    generalize v'.opWrite id ds dst bytes x.psn = p at hw ⊢
    obtain ⟨r, u⟩ := p
    cases r with
    | ok _ =>
      have hp := canon_payBack id bar n x.psn hw
      dsimp only at hp ⊢
      generalize u.payBack id bar n x.psn = p at hp ⊢
      exact canon_nextLane _ _ _ _ _ (canon_modOp _ _ hp)
    | fail st va _ => exact failed _ _ hw
    | miss _ _ => trivial
  | fail st va _ => exact failed _ _ hr
  | miss _ _ => trivial
theorem canon_useContribution (comm chunk rank : Nat) (h : s.Canon) : (s.useContribution comm chunk rank).Canon := ⟨h.wf⟩
theorem canon_sendPart (comm member chunk rank : Nat) (b : Bytes) (h : s.Canon) :
    (s.sendPart comm member chunk rank b).Canon := by
  grind [State.sendPart, canon_burstsOf, canon_emit]
theorem canon_spread (d : CollDesc) (desc b : Bytes) (m rank : Nat) (h : s.Canon) : (s.spread d desc b m rank).Canon := by
  have hs (f : State → Nat → State) (hf : ∀ (u : State) (q : Nat), u.Canon → (f u q).Canon) (l : List Nat) (u : State)
      (hu : u.Canon) : (l.foldl f u).Canon := foldl_keeps State.Canon _ _ _ hu hf
  unfold State.spread
  dsimp only
  split
  · exact hs _ (fun _ _ => canon_sendPart _ _ _ _ _) _ _ ⟨h.wf⟩
  · split
    · exact hs _ (fun _ _ => canon_sendPart _ _ _ _ _) _ _ ⟨h.wf⟩
    · exact h
  · exact hs _ (fun _ _ => canon_sendPart _ _ _ _ _) _ _ ⟨h.wf⟩
theorem canon_collStart (id : Nat) (desc : Bytes) (h : s.Canon) : OptionCanon (s.collStart id desc) := by
  grind [State.collStart, OptionCanon, canon_endWork, canon_failWork, canon_opRead, canon_count, canon_spread, canon_modOp]
theorem canon_collStep (id : Nat) (desc : Bytes) (todo : List Nat) (h : s.Canon) : (s.collStep id desc todo).Canon := by
  unfold State.collStep
  dsimp only
  split
  · trivial
  split
  · trivial
  split
  · trivial
  split
  · exact canon_endWork _ _ h
  split
  next e => exact canon_failWork _ _ _ (canon_of_snd e (canon_opWrite _ _ _ _ _ h))
  next e =>
    have hw := canon_of_snd e (canon_opWrite _ _ _ _ _ h)
    refine canon_modOp _ _ ?_
    split
    · refine foldl_keeps State.Canon _ _ _ ?_ fun u x hu => canon_sendPart _ _ _ _ _ hu
      exact foldl_keeps State.Canon _ _ _ hw fun u x hu => canon_useContribution _ _ _ hu
    · exact foldl_keeps State.Canon _ _ _ hw fun u x hu => canon_useContribution _ _ _ hu
  next => trivial
theorem canon_execCopyUnitWrite (id : Nat) (h : s.Canon) : (execCopyUnitWrite id s).Canon := by
  unfold execCopyUnitWrite
  dsimp only
  split
  · trivial
  split
  · trivial
  split
  next =>
    split
    next e =>
      have hl := canon_of_snd e (canon_lookParts _ _ h)
      split
      next e => exact canon_copyUnit _ _ _ _ _ _ _ (canon_of_snd e (canon_opRead _ _ _ _ hl))
      next e => exact canon_failCopy _ _ _ _ _ (canon_of_snd e (canon_opRead _ _ _ _ hl))
      next => trivial
    next e => exact canon_failCopy _ _ _ _ _ (canon_of_snd e (canon_lookParts _ _ h))
    next => trivial
  next => exact canon_copyUnit _ _ _ _ _ _ _ h
  next =>
    split
    next e => exact canon_laneUnit _ _ _ _ _ _ _ _ _ (canon_of_snd e (canon_lookUp _ _ _ h))
    next => trivial
  next =>
    split
    next e => exact canon_laneUnit _ _ _ _ _ _ _ _ _ (canon_of_snd e (canon_lookUp _ _ _ h))
    next => trivial
  next =>
    split
    · split
      next e => exact (canon_collStart id _ h).of_some e
      next => trivial
    · exact canon_collStep _ _ _ h
  next => trivial
theorem canon_atomCheck (sp : Space) (a n kind l : Nat) (h : s.Canon) : (s.atomCheck sp a n kind l).2.Canon := by
  grind [State.atomCheck, canon_segPlace]

end Sys2Proof.Machine
end

section
/-! SUPPORT. Memory stays canonical under atomics, waits and wakes. -/

namespace Sys2Proof.Machine

variable {s : State}

theorem canon_atomLanes (sp : Space) (n kind : Nat) (l : List LaneOp) (h : s.Canon) : (atomLanes sp n kind l s).2.2.Canon := by
  induction l generalizing s with
  | nil => exact h
  | cons x l ih => grind [atomLanes, canon_atomCheck]
theorem canon_atomIssue (m : AtomMod) (o : Fields) (opc : Nat) (cas : Bool) (h : s.Canon) : (atomIssue m o opc cas s).Canon := by
  grind [atomIssue, Out.Canon, canon_advance, canon_atomLanes, canon_hold, canon_issueOp, canon_finish]
theorem canon_atomPlace (id : Nat) (wait : Bool) (sp : Space) (loc : Nat) (h : s.Canon) :
    (s.atomPlace id wait sp loc).2.Canon := by
  grind [State.atomPlace, canon_opTranslate]
theorem canon_homeRead (op : Op) (sp : Space) (p : Place) (n : Nat) (h : s.Canon) : (s.homeRead op sp p n).2.Canon := by
  grind [State.homeRead, canon_readPa]
theorem canon_homeWrite (op : Op) (sp : Space) (p : Place) (b : Bytes) (h : s.Canon) : (s.homeWrite op sp p b).Canon := by
  grind [State.homeWrite, canon_writeLocal, canon_writePa]
theorem canon_rmw (id : Nat) (op : Op) (sp : Space) (cas : Bool) (aop n : Nat) (ord : Ord) (scope : Scope) (l : LaneOp)
    (h : s.Canon) :
    (s.rmw id op sp cas aop n ord scope l).2.Canon := by
  grind [State.rmw, canon_atomPlace, canon_sendReads, canon_releaseAt, canon_homeRead, canon_homeWrite, canon_holdBlock,
    canon_acquireAt]
theorem canon_performLanes (id : Nat) (op : Op) (sp : Space) (cas : Bool) (aop n : Nat) (ord : Ord) (scope : Scope) (dst : Dest)
    (l : List LaneOp) (h : s.Canon) :
    (performLanes id op sp cas aop n ord scope dst l s).Canon := by
  induction l generalizing s with
  | nil => exact h
  | cons x l ih => grind [performLanes, canon_rmw, canon_modOp]
theorem canon_execWaitv (m : AtomMod) (o : Fields) (h : s.Canon) : (execWaitv m o s).Canon := by
  grind [execWaitv, Out.Canon, canon_atomCheck, canon_finish, canon_hold, canon_addOp, canon_advance]
theorem canon_performWait (id : Nat) (op : Op) (sp : Space) (x wide : Bool) (ord : Ord) (scope : Scope) (loc at_ : Nat)
    (h : s.Canon) :
    (s.performWait id op sp x wide ord scope loc at_).Canon := by
  grind [State.performWait, Out.Canon, State.canon_iff, canon_modOp, canon_completeOp, canon_atomPlace, canon_notNow,
    canon_homeRead, canon_acquireAt, canon_endWait]
theorem canon_performWake (id : Nat) (op : Op) (sp : Space) (all : Bool) (scope : Scope) (dst loc at_ : Nat) (h : s.Canon) :
    OptionCanon (s.performWake id op sp all scope dst loc at_) := by
  have hp := canon_atomPlace id true sp loc h
  rw [State.performWake]
  split <;> rename_i e <;> try rw [e] at hp
  · exact canon_completeOp _ (canon_modOp _ _ hp)
  · trivial
  · dsimp only
    split
    · split
      · trivial
      · exact canon_sendReads _ _ _ _ hp
    · refine canon_completeOp _ (canon_modOp _ _ ?_)
      exact foldl_keeps State.Canon _ _ _ (canon_endReads _ (canon_releaseAt _ _ hp)) fun _ _ hs => canon_wakeWaiter _ hs
theorem canon_execWake (m : AtomMod) (o : Fields) (h : s.Canon) : (execWake m o s).Canon := by
  rw [execWake]
  split
  next l _ _ _ _ =>
    have ha := canon_atomCheck m.sp (atomAddr s o m.sp l) 4 2 l h
    dsimp only
    split <;> rename_i e <;> rw [e] at ha
    · exact canon_finish _ ha
    · split
      · exact canon_hold _ ha
      · exact canon_advance ((canon_performWake _ _ _ _ _ _ _ _ (canon_addOp _ ha)).getD (canon_addOp _ ha))
  next => exact canon_advance h
theorem canon_execAtomicPerform (id : Nat) (h : s.Canon) : (execAtomicPerform id s).Canon := by
  rw [execAtomicPerform]
  split
  · trivial
  split
  · trivial
  split
  next sp cas aop wide ord scope dst lanes _ =>
    split
    · trivial
    next e =>
      have hl := canon_of_snd e (canon_lookUp _ _ _ h)
      generalize (if wide = true then 8 else 4) = n
      dsimp only
      split
      · split
        · exact canon_completeOp _ (canon_endReads _ (canon_performLanes _ _ _ _ _ _ _ _ _ _ hl))
        · split
          · trivial
          · exact canon_performLanes _ _ _ _ _ _ _ _ _ _ hl
      · trivial
  next => exact canon_performWait _ _ _ _ _ _ _ _ _ h
  next =>
    split
    next e => exact (canon_performWake _ _ _ _ _ _ _ _ h).of_some e
    next => trivial
  next => trivial
theorem canon_execWaitvTimeout (id : Nat) (h : s.Canon) : (execWaitvTimeout id s).Canon := by
  grind [execWaitvTimeout, Out.Canon, canon_endWait, canon_notNow]
theorem canon_handlerPoison (op : Op) (bad : List LaneOp) (h : s.Canon) : OptionCanon (s.handlerPoison op bad) := by
  grind [State.handlerPoison, OptionCanon, canon_endGroupOf]
theorem canon_execLoadReturn (id : Nat) (h : s.Canon) : (execLoadReturn id s).Canon := by
  grind [execLoadReturn, Out.Canon, OptionCanon, canon_notNow, canon_modOp, canon_handlerPoison, canon_endOp, canon_completeOp,
    canon_foldl]

end Sys2Proof.Machine
end

section
/-! SUPPORT. Memory stays canonical under matrix instructions and correcting commands. -/

namespace Sys2Proof.Machine

variable {s : State}

theorem canon_trapDiverge (ring heldId : Option Nat) (h : s.Canon) : (s.trapDiverge ring heldId).Canon := by
  unfold State.trapDiverge
  grind [canon_modCur, canon_endOp, canon_takeTrap]
theorem canon_tileIssue (o : Fields) (quartet : Bool) (name : Nat) (go : Unit → Out) (hg : (go ()).Canon) (h : s.Canon) :
    (tileIssue s o quartet name go).Canon := by
  grind [tileIssue, Out.Canon, canon_advance, canon_trap, canon_trapDiverge, canon_hold]
theorem canon_rename (name i : Nat) (t : Tile) (h : s.Canon) : (s.rename name i t).Canon := by
  grind [State.rename, canon_dropTurned, canon_modCur]
theorem canon_openChain (w : MmaWork) (h : s.Canon) : (s.openChain w).Canon := by
  grind [State.openChain, canon_rename]
theorem canon_execMma (m : MmaMod) (o : Fields) (h : s.Canon) : (execMma m o s).Canon := by
  grind [execMma, Out.Canon, canon_tileIssue, canon_hold, canon_trap, canon_openChain, canon_issueOp, canon_advance]
theorem canon_quartetIssue (o : Fields) (name : Nat) (prep : Unit → Prep Rdv) (h : s.Canon) :
    (quartetIssue s o name prep).Canon := by
  grind [quartetIssue, Out.Canon, canon_trap, canon_split, canon_trapHere, canon_hold, canon_tileIssue, canon_modCur]
theorem canon_execMmq (m : MmaMod) (o : Fields) (h : s.Canon) : (execMmq m o s).Canon := by
  grind [execMmq, Out.Canon, canon_quartetIssue, canon_hold, canon_trap]
theorem canon_execMrd (m : TileMod) (o : Fields) (h : s.Canon) : (execMrd m o s).Canon := by
  grind [execMrd, Out.Canon, canon_tileIssue, canon_trap, canon_issueOp, canon_advance]
theorem canon_execMwr (m : TileMod) (o : Fields) (h : s.Canon) : (execMwr m o s).Canon := by
  grind [execMwr, Out.Canon, canon_tileIssue, canon_trap, canon_hold, canon_rename, canon_issueOp, canon_advance]
theorem canon_execMclr (o : Fields) (h : s.Canon) : (execMclr o s).Canon := by
  grind [execMclr, Out.Canon, canon_tileIssue, canon_modCur, canon_issueOp, canon_advance]
theorem canon_setTile (gid key : Nat) (t : Tile) (h : s.Canon) : (s.setTile gid key t).Canon := canon_modGroup _ _ h
theorem canon_mmaBegin (id : Nat) (op : Op) (w : MmaWork) (h : s.Canon) : (s.mmaBegin id op w).2.Canon := by
  grind [State.mmaBegin, State.canon_iff, canon_tallyUp, canon_setTile, canon_modOp]
theorem canon_mmaSteps (id : Nat) (op : Op) (w : MmaWork) (upto : Nat) (h : s.Canon) : (s.mmaSteps id op w upto).Canon := by
  grind [State.mmaSteps, canon_setTile, canon_tallyUp, canon_modOp]
theorem canon_mrdRun (id : Nat) (op : Op) (tile : Option Nat) (fmt : Fmt) (rnd : Rnd) (sat : Bool) (sp : Space) (dst : Nat)
    (h : s.Canon) :
    (s.mrdRun id op tile fmt rnd sat sp dst).Canon := by
  unfold State.mrdRun
  grind [canon_writeLocal, canon_endWork, canon_setTile]
theorem canon_mwrRun (id : Nat) (op : Op) (tile : Nat) (sp : Space) (src : Nat) (h : s.Canon) :
    (s.mwrRun id op tile sp src).Canon := by
  grind [State.mwrRun, Out.Canon, State.canon_iff, canon_endWork, canon_setTile]
theorem canon_takeBuild (w : CorWork) (h : s.Canon) : (s.takeBuild w).Canon := by
  grind [State.takeBuild, canon_dropTurned]
theorem canon_execCor (m : CorMod) (o : Fields) (h : s.Canon) : (execCor m o s).Canon := by
  grind [execCor, Out.Canon, canon_tileIssue, canon_hold, canon_trap, canon_takeBuild, canon_issueOp, canon_advance]
theorem canon_execCorq (m : CorMod) (o : Fields) (h : s.Canon) : (execCorq m o s).Canon := by
  grind [execCorq, Out.Canon, canon_quartetIssue, canon_hold, canon_trap]
theorem canon_collectiveIssue (o : Fields) (go : Unit → State) (hg : (go ()).Canon) (h : s.Canon) :
    (collectiveIssue s o go).Canon := by
  grind [collectiveIssue, Out.Canon, canon_advance, canon_trap]
theorem canon_execGram (m : CorMod) (o : Fields) (h : s.Canon) : (execGram m o s).Canon := by
  grind [execGram, Out.Canon, canon_collectiveIssue, canon_issueOp]
theorem canon_execTrsv (m : CorMod) (o : Fields) (h : s.Canon) : (execTrsv m o s).Canon := by
  grind [execTrsv, Out.Canon, canon_collectiveIssue, canon_issueOp]
theorem canon_corBegin (op : Op) (w : CorWork) (h : s.Canon) : (s.corBegin op w).2.Canon := by
  unfold State.corBegin
  grind [OptionCanon, State.canon_iff, canon_setTile]
theorem canon_corVerdict (id : Nat) (t : Tile) (bad : Bool) (h : s.Canon) : (s.corVerdict id t bad).Canon := by
  grind [State.corVerdict, canon_tallyUp, canon_endWork]
theorem canon_updKey (id : Nat) (op : Op) (w : CorWork) (b : Nat) (h : s.Canon) : (s.updKey id op w b).Canon := by
  grind [State.updKey, canon_endWork, canon_setTile, canon_modOp, canon_corVerdict]
theorem canon_updKeys (id : Nat) (w : CorWork) (b n : Nat) (h : s.Canon) : (State.updKeys id w b n s).Canon := by
  induction n generalizing s with
  | zero => exact h
  | succ n ih => grind [State.updKeys, canon_updKey]
theorem canon_corSteps (id : Nat) (op : Op) (w : CorWork) (n : Nat) (h : s.Canon) : (s.corSteps id op w n).Canon := by
  grind [State.corSteps, canon_updKeys, canon_setTile, canon_corVerdict, canon_modOp, canon_endWork]
theorem canon_corBind (op : Op) (w : CorWork) (h : s.Canon) : (s.corBind op w).Canon := by
  grind [State.corBind, canon_modGroup]

end Sys2Proof.Machine
end

section
/-! SUPPORT. Memory stays canonical under attention and key-value commands. -/

namespace Sys2Proof.Machine

variable {s : State}

theorem canon_uniformIssue (o : Fields) (go : Unit → Out) (hg : (go ()).Canon) (h : s.Canon) : (uniformIssue s o go).Canon := by
  grind [uniformIssue, Out.Canon, canon_advance]
theorem canon_execAttn (m : AttnMod) (o : Fields) (h : s.Canon) : (execAttn m o s).Canon := by
  grind [execAttn, Out.Canon, canon_uniformIssue, canon_trap, canon_issueOp, canon_advance]
theorem canon_kvIssue (o : Fields) (fn : Nat) (t : Bool) (dst : Dest) (argAddr : Bool) (arg : Nat) (h : s.Canon) :
    (kvIssue s o fn t dst argAddr arg).Canon := by
  grind [kvIssue, Out.Canon, canon_uniformIssue, canon_trap, canon_issueOp, canon_advance]
theorem canon_kvRead (id va n : Nat) (h : s.Canon) : ExceptCanon (s.kvRead id va n) := by
  grind [State.kvRead, ExceptCanon, canon_opRead]
theorem canon_kvWrite (id va : Nat) (b : Bytes) (h : s.Canon) : ExceptCanon (s.kvWrite id va b) := by
  grind [State.kvWrite, ExceptCanon, canon_opWrite]
theorem canon_kvPayload (id blk : Nat) (hd : KvHead) (h : s.Canon) : ExceptCanon (s.kvPayload id blk hd) := by
  rw [State.kvPayload]
  split
  · exact h
  · exact (canon_kvRead _ _ _ h).bind fun ⟨_, _⟩ hu => (canon_kvRead _ _ _ hu).bind fun ⟨_, _⟩ hv => hv
theorem canon_kvPut (id blk : Nat) (old : Bytes) (hd : KvHead) (h : s.Canon) : ExceptCanon (s.kvPut id blk old hd) :=
  (canon_kvPayload _ _ _ h).bind fun ⟨_, _⟩ hu => canon_kvWrite _ _ _ hu
theorem canon_kvRun (id fn : Nat) (t : Bool) (blk arg : Nat) (h : s.Canon) : ExceptCanon (s.kvRun id fn t blk arg) := by
  rw [State.kvRun.eq_def]
  split
  · refine (canon_kvRead _ _ _ h).bind fun ⟨p, u⟩ hu => ?_
    dsimp only
    split
    · exact hu
    · refine (canon_kvRead _ _ _ hu).bind fun ⟨_, v⟩ hv => ?_
      refine (canon_kvPut _ _ _ _ hv).bind fun ⟨_, w⟩ hw => ?_
      exact (canon_kvWrite _ _ _ hw).bind fun ⟨_, _⟩ hx => hx
  · refine (canon_kvRead _ _ _ h).bind fun ⟨p, u⟩ hu => ?_
    dsimp only
    generalize (if t = true then (kvHead p).cap else (kvHead p).count) = most
    split
    · exact hu
    · exact (canon_kvPut _ _ _ _ hu).bind fun ⟨_, _⟩ hv => hv
  · refine (canon_kvRead _ _ _ h).bind fun ⟨old, u⟩ hu => ?_
    refine (canon_kvRead _ _ _ hu).bind fun ⟨p, v⟩ hv => ?_
    dsimp only
    split
    · exact hv
    split
    · exact hv
    · refine (canon_kvPut _ _ _ _ hv).bind fun ⟨_, w⟩ hw => ?_
      exact (canon_kvWrite _ _ _ hw).bind fun ⟨_, _⟩ hx => hx
  · refine (canon_kvRead _ _ _ h).bind fun ⟨olda, u⟩ hu => ?_
    dsimp only
    split
    · exact hu
    split
    · exact (canon_kvPut _ _ _ _ hu).bind fun ⟨_, _⟩ hv => hv
    · refine (canon_kvRead _ _ _ hu).bind fun ⟨chk, v⟩ hv => ?_
      dsimp only
      split
      · exact hv
      · refine (canon_kvPut _ _ _ _ hv).bind fun ⟨_, w⟩ hw => ?_
        refine (canon_kvRead _ _ _ hw).bind fun ⟨_, x⟩ hx => ?_
        exact (canon_kvPut _ _ _ _ hx).bind fun ⟨_, _⟩ hy => hy
  · refine (canon_kvRead _ _ _ h).bind fun ⟨hdr, u⟩ hu => ?_
    exact (canon_kvPayload _ _ _ hu).bind fun ⟨_, _⟩ hv => hv
theorem canon_kvPerform (id : Nat) (op : Op) (fn : Nat) (t : Bool) (dst : Dest) (blk arg : Nat) (h : s.Canon) :
    OptionCanon (s.kvPerform id op fn t dst blk arg) := by
  grind [State.kvPerform, OptionCanon, ExceptCanon, canon_modOp, canon_order, canon_kvRun]
theorem canon_attnRead (id va n : Nat) (h : s.Canon) : (s.attnRead id va n).2.Canon := canon_opRead _ _ _ _ h
theorem canon_attnWrite (id va : Nat) (b : Bytes) (h : s.Canon) : (s.attnWrite id va b).2.Canon := canon_opWrite _ _ _ _ _ h
theorem canon_readQueries (id : Nat) (d : AttnDesc) (n : Nat) (h : s.Canon) : OptionCanon ((readQueries id d n s).map (·.2)) := by
  induction n generalizing s with
  | zero => exact h
  | succ n ih => grind [readQueries, OptionCanon, canon_attnRead]
theorem canon_setEngine (key : Nat) (r : AttnRun) (h : s.Canon) : (s.setEngine key r).Canon := ⟨h.wf⟩
theorem canon_attnStart (r : AttnRun) (d : AttnDesc) (h : s.Canon) : OptionCanon ((s.attnStart r d).map (·.2)) := by
  have hq := canon_readQueries r.op d d.nq h
  unfold State.attnStart
  split
  · exact h
  · rw [Option.map_map]
    exact hq
theorem canon_attnPayload (id : Nat) (d : AttnDesc) (b : AttnBlock) (n : Nat) (h : s.Canon) :
    OptionCanon ((s.attnPayload id d b n).map (·.2)) := by
  grind [State.attnPayload, OptionCanon, canon_attnRead]
theorem canon_prefetch (r : AttnRun) (d : AttnDesc) (b : AttnBlock) (h : s.Canon) : (s.prefetch r d b).2.Canon := by
  grind [State.prefetch, OptionCanon, canon_count, canon_attnPayload, canon_foldl]
theorem canon_attnHeader (r : AttnRun) (op : Op) (d : AttnDesc) (h : s.Canon) :
    OptionCanon ((s.attnHeader r op d).map (·.2)) := by
  grind [State.attnHeader, OptionCanon, canon_attnRead, canon_count, canon_acquireAt, canon_prefetch]
theorem canon_attnBlock (r : AttnRun) (d : AttnDesc) (b : AttnBlock) (h : s.Canon) :
    OptionCanon ((s.attnBlock r d b).map (·.2.2)) := by
  grind [State.attnBlock, OptionCanon, canon_count, canon_attnPayload]
theorem canon_writeRows (id : Nat) (d : AttnDesc) (n : Nat) (l : List AttnRow) (h : s.Canon) :
    (writeRows id d n l s).2.Canon := by
  induction l generalizing s n with
  | nil => exact h
  | cons w l ih => grind [writeRows, canon_attnWrite]
theorem canon_attnSettle (key : Nat) (r : AttnRun) (dst : Nat) (d : AttnDesc) (h : s.Canon) :
    (s.attnSettle key r dst d).Canon := by
  grind [State.attnSettle, canon_writeRows, canon_setEngine, canon_tallyUp, canon_modOp]
theorem canon_execAttnHeaderArrival (key : Nat) (h : s.Canon) : (execAttnHeaderArrival key s).Canon := by
  rw [execAttnHeaderArrival]
  split
  · trivial
  split
  · trivial
  split
  · split
    · trivial
    next e =>
      have hs := (canon_attnStart _ _ h).of_map e
      split
      next e => exact canon_setEngine _ _ ((canon_attnHeader _ _ _ hs).of_map e)
      next => trivial
  · trivial
theorem canon_execAttnBlockProcess (key : Nat) (h : s.Canon) : (execAttnBlockProcess key s).Canon := by
  rw [execAttnBlockProcess]
  split
  · trivial
  split
  · trivial
  split
  · split
    · trivial
    next r u e =>
      have hu := (canon_attnStart _ _ h).of_map e
      dsimp only
      split
      · trivial
      next v e =>
        have hv : v.Canon := by
          split at e
          · cases e
            exact hu
          · split at e
            · exact (canon_attnBlock _ _ _ hu).of_map e
            · split at e
              · cases e
                exact hu
              · cases e
        split
        · trivial
        · exact canon_attnSettle _ _ _ _ (canon_tallyUp _ _ _ _ hv)
  · trivial
theorem canon_execAttnEngineHandoff (die : Nat) (h : s.Canon) : (execAttnEngineHandoff die s).Canon := by
  unfold execAttnEngineHandoff
  grind [Out.Canon, State.canon_iff, canon_notNow, canon_trace, canon_waitLeave]

end Sys2Proof.Machine
end

section
/-! SUPPORT. Memory stays canonical under sweep, side and Crib commands, and privileged instructions. -/

namespace Sys2Proof.Machine

variable {s : State}

theorem canon_execSwarm (o : Fields) (h : s.Canon) : (execSwarm o s).Canon := by
  grind [execSwarm, Out.Canon, canon_uniformIssue, canon_trap, canon_issueOp, canon_advance]
theorem canon_handleIssue (o : Fields) (fn : Nat) (h : s.Canon) : (handleIssue s o fn).Canon := by
  grind [handleIssue, Out.Canon, canon_uniformIssue, canon_issueOp, canon_advance]
theorem canon_report (id dst status value : Nat) (h : s.Canon) : (s.report id dst status value).Canon := canon_modOp _ _ h
theorem canon_sweepOrphan (r : SweepReg) (status faddr done : Nat) (h : s.Canon) : (s.sweepOrphan r status faddr done).Canon := by
  grind [State.sweepOrphan, canon_addOrphan]
theorem canon_endRequests (r : SweepReg) (h : s.Canon) : (s.endRequests r).Canon := by
  refine canon_foldl (fun u e hu => ?_) _ h
  split
  · exact canon_report _ _ _ _ hu
  · exact hu
theorem canon_writeSweepFlag (r : SweepReg) (h : s.Canon) : OptionCanon (s.writeSweepFlag r) := by
  grind [State.writeSweepFlag, OptionCanon, canon_endRequests, canon_opTranslate, canon_translate, canon_order, canon_writePa,
    canon_sweepOrphan]
theorem canon_writeDue (d : SweepDue) (h : s.Canon) : OptionCanon (s.writeDue d) := by
  cases d with
  | flag k => grind [State.writeDue, OptionCanon, canon_writeSweepFlag]
  | orphan k st fa n => grind [State.writeDue, OptionCanon, canon_sweepOrphan]
theorem canon_drainDue (l : List SweepDue) (h : s.Canon) : (drainDue l s).Canon := by
  induction l generalizing s with
  | nil => exact h
  | cons x l ih => grind [drainDue, OptionCanon, State.canon_iff, canon_writeDue]
theorem canon_sweepDue (h : s.Canon) : s.sweepDue.Canon := by
  grind [State.sweepDue, State.canon_iff, canon_drainDue]
theorem canon_swarmPages (id : Nat) (l : List (Nat × Nat)) (h : s.Canon) : (State.swarmPages id l s).2.Canon := by
  induction l generalizing s with
  | nil => exact h
  | cons x l ih => grind [State.swarmPages, canon_opTranslate]
theorem canon_pageAttr (ctx va : Nat) (h : s.Canon) : (s.pageAttr ctx va).2.Canon := by
  grind [State.pageAttr, OptionCanon, canon_walkFrom]
theorem canon_swarmCheck (id ctx : Nat) (d : SweepDesc) (h : s.Canon) : (s.swarmCheck id ctx d).2.Canon := by
  grind [State.swarmCheck, OptionCanon, Out.Canon, canon_pageAttr, canon_swarmPages]
theorem canon_flushRows (rows : List Nat) (h : s.Canon) : (s.flushRows rows).Canon := by
  have hd (p : Prop) [Decidable p] : (if p then s.dropStale else s).Canon := by
    split
    · exact canon_dropStale h
    · exact h
  obtain ⟨hw⟩ := hd (s.mem.held.any fun e => rows.contains (s.dramLoc (e.1 * 64) / 1024))
  rw [State.memOk, Memories.wf_iff] at hw
  obtain ⟨a, b, c, d, e, f, g, hh, i⟩ := hw
  exact ⟨Memories.wf_iff.2 ⟨a, b, c, d, e, f, g, skeysRise_filter _ _ hh, skeysRise_filter _ _ i⟩⟩
theorem canon_swarmStart (id : Nat) (op : Op) (dst : Nat) (d : SweepDesc) (loc : Nat) (h : s.Canon) :
    OptionCanon (s.swarmStart id op dst d loc) := by
  grind [State.swarmStart, OptionCanon, State.canon_iff, canon_swarmCheck, canon_report, canon_flushRows, canon_modOp]
theorem canon_execSweepInstall (key stack : Nat) (h : s.Canon) : (execSweepInstall key stack s).Canon := by
  grind [execSweepInstall, Out.Canon, State.canon_iff, canon_notNow]
theorem canon_execSweepArmPoint (key : Nat) (h : s.Canon) : (execSweepArmPoint key s).Canon := by
  grind [execSweepArmPoint, Out.Canon, OptionCanon, State.canon_iff, canon_notNow, canon_writeLocal, canon_writeSweepFlag,
    canon_dropDie, canon_order, canon_report]
theorem canon_demandSweep (r : SweepReg) (h : s.Canon) :
    (s.demandSweep r).Canon := canon_foldl (fun _ _ hu => canon_touchRow _ hu) _ h
theorem canon_cancelSweep (key : Nat) (r : SweepReg) (h : s.Canon) : (s.cancelSweep key r).Canon := ⟨h.wf⟩
theorem canon_sweepRun (id : Nat) (op : Op) (fn dst hdl : Nat) (h : s.Canon) : OptionCanon (s.sweepRun id op fn dst hdl) := by
  grind [State.sweepRun, OptionCanon, canon_report, canon_modOp, canon_demandSweep, canon_cancelSweep, canon_sweepDue]
theorem canon_setCrib (n : Nat) (c : Crib) (h : s.Canon) : (s.setCrib n c).Canon := ⟨h.wf⟩
theorem canon_setEpisode (core : Nat) (e : Episode) (h : s.Canon) : (s.setEpisode core e).Canon := ⟨h.wf⟩
theorem canon_openStep (crib : Nat) (h : s.Canon) : (s.openStep crib).Canon := by
  grind [State.openStep, canon_setEpisode]
theorem canon_wakeCrib (crib : Nat) (h : s.Canon) : (s.wakeCrib crib).Canon := by
  unfold State.wakeCrib
  split
  · exact h
  · split
    · exact h
    · refine canon_foldl (fun u e hu => ?_) _ h
      split
      · exact canon_report _ _ _ _ hu
      · exact hu
theorem canon_appendIn (crib : Nat) (m : Bytes) (h : s.Canon) : (s.appendIn crib m).Canon := by
  grind [State.appendIn, canon_setCrib, canon_wakeCrib]
theorem canon_scrubPen (core : Nat) (e : Episode) (h : s.Canon) : (s.scrubPen core e).Canon := by
  grind [State.scrubPen, State.canon_iff, canon_scrubFrames]
theorem canon_killLost (core : Nat) (e : Episode) (reason lost : Nat) (h : s.Canon) : (s.killLost core e reason lost).Canon := by
  grind [State.killLost, canon_scrubPen, canon_setCrib, canon_appendIn]
theorem canon_killEpisode (core : Nat) (e : Episode) (reason : Nat) (h : s.Canon) :
    (s.killEpisode core e reason).Canon := canon_killLost _ _ _ _ h
theorem canon_execShedj (o : Fields) (h : s.Canon) : (execShedj o s).Canon := by
  grind [execShedj, Out.Canon, canon_uniformIssue, canon_trap, canon_issueOp, canon_advance]
theorem canon_execCbs (o : Fields) (h : s.Canon) : (execCbs o s).Canon := by
  grind [execCbs, Out.Canon, canon_uniformIssue, canon_trap, canon_issueOp, canon_advance]
theorem canon_execCbr (o : Fields) (h : s.Canon) : (execCbr o s).Canon := by
  grind [execCbr, Out.Canon, canon_uniformIssue, canon_trap, canon_issueOp, canon_advance]
theorem canon_execCbw (o : Fields) (h : s.Canon) : (execCbw o s).Canon := by
  grind [execCbw, Out.Canon, canon_uniformIssue, canon_issueOp, canon_advance]
theorem canon_shedjRun (id : Nat) (op : Op) (dst card stack : Nat) (h : s.Canon) :
    OptionCanon (s.shedjRun id op dst card stack) := by
  grind [State.shedjRun, OptionCanon, State.canon_iff, canon_opRead, canon_report, canon_modGrid]
theorem canon_cbsRun (id : Nat) (op : Op) (dst crib : Nat) (m : Bytes) (h : s.Canon) : (s.cbsRun id op dst crib m).Canon := by
  grind [State.cbsRun, canon_report, canon_setCrib, canon_openStep]
theorem canon_dropLost (crib : Nat) (h : s.Canon) : (s.dropLost crib).Canon := by
  grind [State.dropLost, canon_setCrib, canon_killLost]
theorem canon_cbrRun (id : Nat) (op : Op) (dst crib loc : Nat) (h : s.Canon) : (s.cbrRun id op dst crib loc).Canon := by
  grind [State.cbrRun, canon_dropLost, canon_report, canon_setCrib, canon_writeLocal]
theorem canon_cbwRun (id : Nat) (op : Op) (dst crib : Nat) (h : s.Canon) : (s.cbwRun id op dst crib).Canon := by
  grind [State.cbwRun, canon_report, canon_modOp]
theorem canon_execCbwTimeout (id : Nat) (h : s.Canon) : (execCbwTimeout id s).Canon := by
  grind [execCbwTimeout, Out.Canon, canon_report, canon_notNow]
theorem canon_execSideQueueHandover (core : Nat) (h : s.Canon) : (execSideQueueHandover core s).Canon := by
  grind [execSideQueueHandover, Out.Canon, OptionCanon, canon_notNow, canon_trace, canon_swarmStart, canon_sweepRun,
    canon_shedjRun, canon_cbsRun, canon_cbrRun, canon_cbwRun]
theorem canon_execSegld (seg : Space) (o : Fields) (h : s.Canon) : (execSegld seg o s).Canon := by
  grind [execSegld, Out.Canon, canon_advance, canon_trap, canon_modCur]
theorem canon_execSrw (reg : CtlReg) (o : Fields) (h : s.Canon) : (execSrw reg o s).Canon := by
  grind [execSrw, Out.Canon, canon_advance, canon_modCur]
theorem stackMasks_succ (k : Nat) (s : State) : stackMasks (k + 1) s =
    match stackMasks k s with
    | (.ok l, s) =>
      match s.kRead s.cur (s.cur.sgk.limit - 16 * (k + 1)) 16 with
      | (.ok x, s) => if x.psn then (.error 3, s) else (.ok (l ++ [BitVec.ofNat 64 (ofLe (x.bytes.drop 8))]), s)
      | (.fault _ f, s) => (.error (pageCause f), s)
    | r => r := by
  delta stackMasks stackMasks._f
  rfl

theorem canon_stackMasks (n : Nat) (h : s.Canon) : (stackMasks n s).2.Canon := by
  induction n with
  | zero => exact h
  | succ n ih =>
    rw [stackMasks_succ]
    split
    next e =>
      have hu := canon_of_snd e ih
      split
      next e =>
        have hr := canon_of_snd e (canon_kRead _ _ _ hu)
        split
        · exact hr
        · exact hr
      next e => exact canon_of_snd e (canon_kRead _ _ _ hu)
    next => exact ih
theorem canon_clearBusy (h : s.Canon) : s.clearBusy.Canon := by
  grind [State.clearBusy, canon_kRead, canon_kWrite]
theorem canon_returnTrap (va : Nat) (h : s.Canon) : (s.returnTrap va).Canon := by
  grind [State.returnTrap, canon_readVa, canon_trap, canon_stackMasks, canon_clearBusy, canon_modCur, canon_retryHeld]
theorem canon_execRte (o : Fields) (h : s.Canon) : (execRte o s).Canon := by
  grind [execRte, Out.Canon, canon_advance, canon_trap, canon_hold, canon_returnTrap]
theorem canon_execMapld (o : Fields) (h : s.Canon) : (execMapld o s).Canon := by
  grind [execMapld, Out.Canon, canon_advance, canon_trap, canon_hold, canon_readVa, canon_switchMatrix, canon_writeResult]
theorem canon_execTlbi (form : TlbForm) (o : Fields) (h : s.Canon) : (execTlbi form o s).Canon := by
  rw [execTlbi]
  split
  · exact canon_advance h
  split
  next k _ =>
    have waits (n : Nat) (t : State) (ht : t.Canon) :
        Out.Canon (if n < xlateUnits then .next (s.hold .sys) else .next t) := by
      split
      · exact canon_hold _ h
      · exact ht
    exact waits _ _ (canon_advance (canon_modCur _ ⟨h.wf⟩))
  next =>
    split
    · exact canon_hold _ h
    · refine canon_hold _ (canon_modCur _ ⟨?_⟩)
      have hw := (canon_order .rel .dev s.cur.die h).wf
      rw [State.memOk, Memories.wf_iff] at hw ⊢
      obtain ⟨a, b, c, d, e, f, g, hh, i⟩ := hw
      exact ⟨a, b, c, d, e, f, g, rfl, i⟩
theorem canon_execShootdownAck (key unit : Nat) (h : s.Canon) : (execShootdownAck key unit s).Canon := by
  grind [execShootdownAck, Out.Canon, State.canon_iff, canon_notNow, canon_setTlb]

end Sys2Proof.Machine
end

section
/-! SUPPORT. Memory stays canonical under line entry, the turn of a group and engine commands. -/

namespace Sys2Proof.Machine

variable {s : State}

theorem canon_trapDeferred (e : RingEntry) (h : s.Canon) : (s.trapDeferred e).Canon := canon_takeTrap _ h
theorem canon_atEntry (h : s.Canon) : s.atEntry.Canon := by
  grind [State.atEntry, canon_modCur, canon_retryHeld]
theorem canon_parityLine (x : LineBits) (h : s.Canon) : (s.parityLine x).2.Canon := by
  grind [State.parityLine, canon_setIbuf, canon_fetchLine, canon_noteError]
theorem canon_enterIbuf (line : Nat) (h : s.Canon) : (s.enterIbuf line).Canon := by
  grind [State.enterIbuf, canon_ibufEnter]
theorem canon_startClause (b : Bool) (x : LineBits) (h : s.Canon) : (s.startClause b x).Canon := by
  grind [State.startClause, canon_modCur, canon_hold]
theorem canon_trapLaunch (cause : Nat) (h : s.Canon) : (s.trapLaunch cause).Canon := by
  grind [State.trapLaunch, canon_modCur, canon_takeTrap]
theorem canon_enterSlot (b : Bool) (x : LineBits) (h : s.Canon) : (s.enterSlot b x).Canon := by
  grind [State.enterSlot, Out.Canon, canon_trapLaunch, canon_modCur, canon_parityLine, canon_trapEntry, canon_enterIbuf,
    canon_startClause]
theorem canon_execClauseStart (h : s.Canon) : (execClauseStart s).Canon := by
  grind [execClauseStart, Out.Canon, canon_notNow, canon_modCur, canon_startClause, canon_atEntry, canon_trapDeferred,
    canon_settleSlots, canon_enterSlot]
theorem canon_execIfetchFill (h : s.Canon) : (execIfetchFill s).Canon := by
  grind [execIfetchFill, Out.Canon, canon_notNow, canon_modCur, canon_trapLaunch, canon_fetchLine, canon_trapEntry]
theorem canon_execYieldResume (h : s.Canon) : (execYieldResume s).Canon := by
  grind [execYieldResume, Out.Canon, canon_notNow, canon_settleSlots, canon_modCur]
theorem canon_noteFirst (g : Group) (h : s.Canon) : (s.noteFirst g).Canon := by
  grind [State.noteFirst, State.canon_iff]
theorem canon_afterIssue (before : Group) (h : s.Canon) : (s.afterIssue before).Canon := by
  grind [State.afterIssue, canon_noteFirst, canon_modCur]
theorem canon_mmaGo (id : Nat) (op : Op) (w : MmaWork) (h : s.Canon) : (s.mmaGo id op w).Canon := by
  grind [State.mmaGo, canon_mmaSteps, canon_mmaBegin, canon_endWork]
theorem canon_corGo (id : Nat) (op : Op) (w : CorWork) (h : s.Canon) : (s.corGo id op w).Canon := by
  grind [State.corGo, OptionCanon, canon_corSteps, canon_corBegin, canon_tallyUp, canon_endWork]
theorem canon_solveRun (id : Nat) (mask : LaneMask) (d : Nat) (rows : List (List Word)) (h : s.Canon) :
    (s.solveRun id mask d rows).Canon := by
  grind [State.solveRun, canon_modOp, canon_endWork]
theorem canon_runWork (id : Nat) (h : s.Canon) : OptionCanon (s.runWork id) := by
  grind [State.runWork, OptionCanon, canon_modOp, canon_mmaGo, canon_mrdRun, canon_mwrRun, canon_endWork, canon_corGo,
    canon_solveRun, canon_kvPerform]
theorem canon_runAll (l : List Nat) (h : s.Canon) : OptionCanon (s.runAll l) := by
  refine foldl_keeps OptionCanon _ _ _ h fun o i ho => ?_
  cases o with
  | none => trivial
  | some u => exact canon_runWork i ho
theorem canon_readDesc (id : Nat) (op : Op) (h : s.Canon) : OptionCanon (s.readDesc id op) := by
  grind [State.readDesc, OptionCanon, canon_opRead, canon_failWork, canon_modOp]
theorem canon_grantLeave (id amount : Nat) (h : s.Canon) : (s.grantLeave id amount).Canon := by
  grind [State.grantLeave, canon_takeLeave, canon_traceAll]
theorem canon_seekLeave (id : Nat) (h : s.Canon) : OptionCanon (s.seekLeave id) := by
  grind [State.seekLeave, OptionCanon, canon_traceAll, canon_runAll, canon_waitLeave]
theorem canon_execEngineCommandStart (id : Nat) (h : s.Canon) : (execEngineCommandStart id s).Canon := by
  grind [execEngineCommandStart, Out.Canon, OptionCanon, canon_notNow, canon_readDesc, canon_traceAll, canon_seekLeave]
theorem canon_setShedJob (key : Nat) (j : ShedJob) (h : s.Canon) : (s.setShedJob key j).Canon := ⟨h.wf⟩
theorem canon_traceJob (key : Nat) (j : ShedJob) (kind aux : Nat) (h : s.Canon) :
    (s.traceJob key j kind aux).Canon := canon_traceRec _ _ h
theorem canon_grantJob (key : Nat) (j : ShedJob) (h : s.Canon) : (s.grantJob key j).Canon := by
  grind [State.grantJob, canon_takeLeave, canon_setShedJob, canon_traceJob]
theorem canon_execLeaveGrant (id : Nat) (h : s.Canon) : (execLeaveGrant id s).Canon := by
  grind [execLeaveGrant, Out.Canon, OptionCanon, canon_notNow, canon_grantLeave, canon_runAll, canon_grantJob]
theorem canon_toGranule (id : Nat) (h : s.Canon) : (s.toGranule id).Canon := by
  grind [State.toGranule, canon_mmaSteps, canon_corSteps]
theorem canon_nextGranule (id : Nat) (h : s.Canon) : (s.nextGranule id).Canon := by
  grind [State.nextGranule, canon_toGranule, canon_foldl]
theorem canon_finishWork (id : Nat) (h : s.Canon) : (s.finishWork id).Canon := by
  grind [State.finishWork, canon_mmaSteps, canon_corSteps]
theorem canon_shareVerdict (id : Nat) (h : s.Canon) : (s.shareVerdict id).Canon := by
  grind [State.shareVerdict, canon_tallyUp, canon_modOp]
theorem canon_commonVerdict (l : List Nat) (h : s.Canon) : (s.commonVerdict l).Canon := by
  grind [State.commonVerdict, canon_shareVerdict, canon_foldl]
theorem canon_bindResult (id : Nat) (h : s.Canon) : (s.bindResult id).Canon := by
  grind [State.bindResult, canon_corBind]
theorem canon_execCommandComplete (id : Nat) (h : s.Canon) : (execCommandComplete id s).Canon := by
  grind [execCommandComplete, Out.Canon, State.canon_iff, canon_notNow, canon_finishWork, canon_commonVerdict,
    canon_bindResult, canon_completeOp, canon_foldl]
theorem canon_leaveRdv (gid : Nat) (issue : State → State) (hi : ∀ u : State, u.Canon → (issue u).Canon) (h : s.Canon) :
    (s.leaveRdv gid issue).Canon :=
  canon_afterIssue _ (canon_advance (hi _ (canon_modCur _ (canon_focus _ h))))
theorem canon_mateUp (l : List Nat) (h : s.Canon) : (s.mateUp l).Canon := by
  grind [State.mateUp, canon_modOp, canon_foldl]
theorem canon_rdvSplit (gs : List Group) (h : s.Canon) : (s.rdvSplit gs).Canon := by
  grind [State.rdvSplit, canon_modGroup, canon_split, canon_foldl]
theorem canon_mmqMeet (l : List (Group × MmaWork × Fields)) (h : s.Canon) : (s.mmqMeet l).Canon := by
  grind [State.mmqMeet, canon_leaveRdv, canon_openChain, canon_modCur, canon_issueOp, canon_mateUp, canon_foldl]
theorem canon_corqMeet (l : List (Group × CorWork × Fields)) (h : s.Canon) : (s.corqMeet l).Canon := by
  grind [State.corqMeet, canon_leaveRdv, canon_takeBuild, canon_modCur, canon_issueOp, canon_mateUp, canon_foldl]
theorem canon_stopQuartet (gs : List Group) (h : s.Canon) : (s.stopQuartet gs).Canon := by
  grind [State.stopQuartet, canon_modGroup, canon_emit, canon_foldl]
theorem canon_execQuartetRendezvous (gid : Nat) (h : s.Canon) : (execQuartetRendezvous gid s).Canon := by
  grind [execQuartetRendezvous, Out.Canon, canon_focus, canon_notNow, canon_stopQuartet, canon_mmqMeet, canon_rdvSplit,
    canon_corqMeet]

end Sys2Proof.Machine
end

section
/-! SUPPORT. Memory stays canonical under the jobs of the Sheds and the work of pagers. -/

namespace Sys2Proof.Machine

variable {s : State}

theorem canon_execShedJobStart (stack core : Nat) (h : s.Canon) : (execShedJobStart stack core s).Canon := by
  grind [execShedJobStart, Out.Canon, State.canon_iff, canon_notNow, canon_setShedJob, canon_dropDie, canon_traceJob,
    canon_queueLeave]
theorem canon_jobTranslate (stack : Nat) (j : ShedJob) (va : Nat) (acc : Acc) (h : s.Canon) :
    (s.jobTranslate stack j va acc).2.Canon := by
  grind [State.jobTranslate, canon_translate]
theorem canon_jobPlace (stack : Nat) (j : ShedJob) (va : Nat) (acc : Acc) (h : s.Canon) :
    (s.jobPlace stack j va acc).2.Canon := by
  grind [State.jobPlace, canon_jobTranslate]
theorem canon_readSources (stack : Nat) (j : ShedJob) (e : Nat) (l : List Nat) (h : s.Canon) :
    (readSources stack j e l s).2.Canon := by
  induction l generalizing s with
  | nil => exact h
  | cons x l ih => grind [readSources, canon_jobPlace, canon_readPa]
theorem canon_jobElem (stack : Nat) (j : ShedJob) (c : CardFields) (h : s.Canon) :
    OptionCanon ((s.jobElem stack j c).map (·.2)) := by
  rw [State.jobElem]
  split
  next e => exact canon_of_snd e (canon_readSources _ _ _ _ h)
  next => trivial
  next e =>
    have hr := canon_of_snd e (canon_readSources _ _ _ _ h)
    split
    next e => exact canon_of_snd e (canon_jobPlace _ _ _ _ hr)
    next => trivial
    next e => exact canon_writePa _ _ _ _ (canon_of_snd e (canon_jobPlace _ _ _ _ hr))
theorem canon_jobOrphan (j : ShedJob) (status faddr : Nat) (h : s.Canon) : (s.jobOrphan j status faddr).Canon := by
  grind [State.jobOrphan, canon_addOrphan]
theorem canon_jobFlag (stack : Nat) (j : ShedJob) (c : CardFields) (status : Nat) (h : s.Canon) :
    OptionCanon (s.jobFlag stack j c status) := by
  grind [State.jobFlag, OptionCanon, canon_jobOrphan, canon_jobTranslate, canon_order, canon_writePa]
theorem canon_freeJob (key : Nat) (j : ShedJob) (h : s.Canon) : (s.freeJob key j).Canon := by
  grind [State.freeJob, State.canon_iff, canon_modGrid]
theorem canon_execShedJobEnd (stack core : Nat) (h : s.Canon) : (execShedJobEnd stack core s).Canon := by
  grind [execShedJobEnd, Out.Canon, OptionCanon, canon_notNow, canon_count, canon_jobElem, canon_setShedJob, canon_jobFlag,
    canon_traceJob, canon_freeJob]
theorem canon_joinUpcall (ctx id src : Nat) (m : Miss) (h : s.Canon) : (s.joinUpcall ctx id src m).Canon := by
  grind [State.joinUpcall, State.canon_iff]
theorem canon_logOp (id : Nat) (op : Op) (h : s.Canon) : (s.logOp id op).Canon := by
  grind [State.logOp, State.canon_iff]
theorem canon_faultOp (id : Nat) (op : Op) (m : Miss) (h : s.Canon) : (s.faultOp id op m).Canon := by
  grind [State.faultOp, canon_modOp, canon_joinUpcall, canon_logOp]
theorem canon_faultJob (key : Nat) (j : ShedJob) (m : Miss) (h : s.Canon) : (s.faultJob key j m).Canon := by
  grind [State.faultJob, State.canon_iff, canon_setShedJob, canon_joinUpcall]
theorem canon_execTranslationFault (id : Nat) (h : s.Canon) : (execTranslationFault id s).Canon := by
  grind [execTranslationFault, Out.Canon, OptionCanon, canon_opTranslate, canon_faultOp, canon_notNow, canon_jobTranslate,
    canon_faultJob]
theorem canon_outRead (ctx va n : Nat) (h : s.Canon) : OptionCanon ((s.outRead ctx va n).map (·.2)) := by
  grind [State.outRead, OptionCanon, canon_readVa]
theorem canon_outWrite (ctx va : Nat) (b : Bytes) (h : s.Canon) : (s.outWrite ctx va b).Canon := canon_writeVa _ _ _ h
theorem canon_pagerQueue (ctx hd : Nat) (h : s.Canon) : OptionCanon ((s.pagerQueue ctx hd).map (·.2)) := by
  grind [State.pagerQueue, OptionCanon, canon_readVa]
theorem canon_setUpcalls (l : List Upcall) (h : s.Canon) : (s.setUpcalls l).Canon := ⟨h.wf⟩
theorem canon_countHeld (ctx hd n old : Nat) (h : s.Canon) : (s.countHeld ctx hd n old).Canon := by
  grind [State.countHeld, canon_outWrite]
theorem canon_execUpcallPost (ctx pager : Nat) (h : s.Canon) : (execUpcallPost ctx pager s).Canon := by
  grind [execUpcallPost, Out.Canon, OptionCanon, canon_pagerQueue, canon_notNow, canon_countHeld, canon_outWrite, canon_order,
    canon_setUpcalls]
theorem canon_replayOp (granule code id : Nat) (h : s.Canon) : (s.replayOp granule code id).Canon := by
  grind [State.replayOp, State.canon_iff, canon_setShedJob, canon_traceJob, canon_queueLeave]
theorem canon_execPagerAnswer (ctx pager : Nat) (h : s.Canon) : (execPagerAnswer ctx pager s).Canon := by
  rw [execPagerAnswer]
  split
  · trivial
  split
  · trivial
  next e =>
    have hq := (canon_pagerQueue _ _ h).of_map e
    split
    · trivial
    · exact canon_foldl (fun _ _ hu => canon_replayOp _ _ _ hu) _ (canon_setUpcalls _ hq)
theorem canon_execReadBufferInvalidation (die line : Nat) (h : s.Canon) : (execReadBufferInvalidation die line s).Canon := by
  rw [execReadBufferInvalidation]
  split
  · split
    · trivial
    · obtain ⟨a, b, c, d, e, f, g, hh, i⟩ := Memories.wf_iff.1 h.wf
      exact ⟨Memories.wf_iff.2 ⟨a, b, c, d, e, f, g, hh, skeysRise_filter _ _ i⟩⟩
  · trivial

end Sys2Proof.Machine
end

section
/-! SUPPORT. Memory stays canonical under launch queues and the ends of grids. -/

namespace Sys2Proof.Machine

variable {s : State}

theorem canon_writeHeader (n : Nat) (gr : Grid) (hd : RecordHead) (h : s.Canon) :
    (s.writeHeader n gr hd).Canon := canon_recWrite _ _ _ (canon_recWrite _ _ _ (canon_recWrite _ _ _ h))
theorem canon_writeCensus (n : Nat) (l : List Census) (h : s.Canon) : (s.writeCensus n l).Canon := canon_recWrite _ _ _ h
theorem canon_complete (ctx cw cv out why : Nat) (irq : Option Nat) (h : s.Canon) : (s.complete ctx cw cv out why irq).Canon := by
  unfold State.complete
  grind [canon_order, canon_outWrite, canon_emit]
theorem canon_closeGrid (n : Nat) (h : s.Canon) : (s.closeGrid n).Canon := by
  grind [State.closeGrid, State.canon_iff, canon_modGrid]
theorem canon_execGridEnd (n : Nat) (h : s.Canon) : (execGridEnd n s).Canon := by
  grind [execGridEnd, Out.Canon, canon_notNow, canon_order, canon_writeCensus, canon_writeHeader, canon_complete, canon_closeGrid]
theorem canon_queueHead (q : LaunchQueue) (h : s.Canon) : OptionCanon ((s.queueHead q).map (·.2)) := by
  grind [State.queueHead, OptionCanon, canon_readVa]
theorem canon_headEntry (n : Nat) (h : s.Canon) : OptionCanon ((s.headEntry n).map (·.2.2.2)) := by
  rw [State.headEntry]
  split
  · trivial
  split
  · trivial
  next e =>
    have hq := (canon_queueHead _ h).of_map e
    split
    · trivial
    split
    · trivial
    next e =>
      have hv := canon_of_snd e (canon_readVa _ _ _ hq)
      dsimp only
      split
      · trivial
      · exact hv
theorem canon_consume (n : Nat) (q : LaunchQueue) (hd : QueueHead) (h : s.Canon) : (s.consume n q hd).Canon := by
  grind [State.consume, State.canon_iff, canon_dropDie, canon_outWrite, canon_foldl]
theorem canon_groomRead (ctx va n : Nat) (h : s.Canon) : OptionCanon ((s.groomRead ctx va n).map (·.2)) := by
  grind [State.groomRead, OptionCanon, canon_readVa]
theorem canon_addGrid (g : Grid) (h : s.Canon) : (s.addGrid g).Canon := ⟨h.wf⟩
theorem canon_refuseEntry (hd : QueueHead) (n : Nat) (e : Entry) (why : Nat) (h : s.Canon) :
    (s.refuseEntry hd n e why).Canon := by
  grind [State.refuseEntry, canon_addGrid, canon_writeHeader, canon_complete]
theorem canon_staleLines (ctx : Nat) (h : s.Canon) : (s.staleLines ctx).Canon := by
  grind [State.staleLines, State.canon_iff]
theorem canon_pend (l : List (Nat × Nat)) (h : s.Canon) : (s.pend l).Canon := ⟨h.wf⟩
theorem canon_acceptLaunch (hd : QueueHead) (n : Nat) (e : Entry) (d : LaunchDesc) (h : s.Canon) :
    (s.acceptLaunch hd n e d).Canon := by
  grind [State.acceptLaunch, State.canon_iff, canon_addGrid, canon_writeHeader, canon_staleLines, canon_order, canon_pend]
theorem canon_execLaunchEntryConsume (n : Nat) (h : s.Canon) : (execLaunchEntryConsume n s).Canon := by
  grind [execLaunchEntryConsume, Out.Canon, OptionCanon, canon_headEntry, canon_notNow, canon_consume, canon_refuseEntry,
    canon_groomRead, canon_acceptLaunch]
theorem canon_noteStamps (h : s.Canon) : s.noteStamps.Canon := by
  grind [State.noteStamps, State.canon_iff]
theorem canon_execLaunchQueueReset (n : Nat) (h : s.Canon) : (execLaunchQueueReset n s).Canon := by
  grind [execLaunchQueueReset, Out.Canon, OptionCanon, canon_notNow, canon_queueHead, canon_headEntry, canon_outWrite,
    canon_foldl]

end Sys2Proof.Machine
end

section
/-! SUPPORT. Memory stays canonical under the load of a file. -/

namespace Sys2Proof.Machine

variable {s : State}

theorem canon_pageOf (ctx va : Nat) (h : s.Canon) : OptionCanon ((s.pageOf ctx va).map (·.2)) := by
  grind [State.pageOf, OptionCanon, canon_walkFrom]
theorem canon_drawFrame (used : List Frame) (size : Nat) (regions : List Nat) (replica : Bool) (h : s.Canon) :
    OptionCanon ((s.drawFrame used size regions replica).map (·.2)) := by
  rw [State.drawFrame]
  split
  · trivial
  · generalize freeFrame _ _ _ _ _ _ = o
    cases o with
    | none => trivial
    | some a => exact ⟨h.wf⟩
/-- One level of the walk that puts a leaf in its place. -/
theorem mapBelow_eq (ctx va target leaf level table : Nat) (s : State) : mapBelow ctx va target leaf level table s =
    if s.unused table || !s.reaches table then none
    else match s.readPte (table + 8 * vaIndex va level) with
    | (none, _) => none
    | (some e, s) =>
      if level = target then
        if bits e 0 0 = 0 then some (s.writePa (outside 0) 0 (table + 8 * vaIndex va level) (leBytes 8 leaf)) else none
      else
        match level with
        | 0 => none
        | l + 1 =>
          if bits e 0 0 = 0 then
            match s.drawFrame (leafFrames target leaf ++ s.framesInUse) (tableAlign (l + 1)) (s.loadRegions false false) false
              with
            | none => none
            | some (t, s) => mapBelow ctx va target leaf l t ((s.writePa (outside 0) 0 t (leBytes (tableAlign (l + 1)) 0)).writePa
                (outside 0) 0 (table + 8 * vaIndex va (l + 1)) (leBytes 8 (1 + t)))
          else if bits e 1 1 = 1 then none
          else mapBelow ctx va target leaf l (bits e 51 8 * 256) s := by
  cases level <;> delta mapBelow mapBelow._f <;> rfl

theorem canon_mapBelow (ctx va target leaf level table : Nat) (h : s.Canon) :
    OptionCanon (mapBelow ctx va target leaf level table s) := by
  induction level using Nat.strongRecOn generalizing table s with
  | ind level ih =>
    rw [mapBelow_eq]
    split
    · trivial
    split
    · trivial
    next e =>
      have hr := canon_of_snd e (canon_readPte _ h)
      split
      · split
        · exact canon_writePa _ _ _ _ hr
        · trivial
      split
      · trivial
      · split
        · split
          · trivial
          next e =>
            have hd := (canon_drawFrame _ _ _ _ hr).of_map e
            exact ih _ (Nat.lt_succ_self _) _ (canon_writePa _ _ _ _ (canon_writePa _ _ _ _ hd))
        · split
          · trivial
          · exact ih _ (Nat.lt_succ_self _) _ hr
theorem canon_mapPage (ctx va attr : Nat) (plan : LoadPlan) (h : s.Canon) : OptionCanon (s.mapPage ctx va attr plan) := by
  grind [State.mapPage, OptionCanon, canon_drawFrame, canon_mapBelow]
/-- One level of the walk that makes a leaf fetchable. -/
theorem fetchable_eq (va level table : Nat) (s : State) : fetchable va level table s =
    match s.readPte (table + 8 * vaIndex va level) with
    | (none, _) => none
    | (some e, s) =>
      if bits e 0 0 = 0 then none
      else if bits e 1 1 = 1 then
        some (s.writePa (outside 0) 0 (table + 8 * vaIndex va level) (leBytes 8 (e - bits e 4 4 * 16 + 16)))
      else match level with
        | 0 => none
        | l + 1 => fetchable va l (bits e 51 8 * 256) s := by
  cases level <;> delta fetchable fetchable._f <;> rfl

theorem canon_fetchable (va level table : Nat) (h : s.Canon) : OptionCanon (fetchable va level table s) := by
  induction level using Nat.strongRecOn generalizing table s with
  | ind level ih =>
    rw [fetchable_eq]
    split
    · trivial
    next e =>
      have hr := canon_of_snd e (canon_readPte _ h)
      split
      · trivial
      split
      · exact canon_writePa _ _ _ _ hr
      split
      · trivial
      · exact ih _ (Nat.lt_succ_self _) _ hr
theorem canon_ensurePage (ctx va attr : Nat) (plan : LoadPlan) (h : s.Canon) :
    OptionCanon ((s.ensurePage ctx va attr plan).map (·.2)) := by
  rw [State.ensurePage]
  split
  next e =>
    have hp := (canon_pageOf _ _ h).of_map e
    split
    · exact hp
    · rw [Option.map_bind]
      refine OptionCanon.bind ?_ fun u hu => canon_pageOf _ _ hu
      generalize sfind _ ctx = o
      cases o with
      | none => trivial
      | some c => exact canon_fetchable _ _ _ hp
  next =>
    rw [Option.map_bind]
    exact (canon_mapPage _ _ _ _ h).bind fun u hu => canon_pageOf _ _ hu
theorem canon_ensurePages (ctx attr : Nat) (plan : LoadPlan) (ok : State → Page → Bool) (l : List Nat) (h : s.Canon) :
    OptionCanon (ensurePages ctx attr plan ok l s) := by
  induction l generalizing s with
  | nil => exact h
  | cons x l ih => grind [ensurePages, OptionCanon, canon_ensurePage]
theorem canon_loadParts (ctx : Nat) (l : List (Nat × Nat)) (b : Bytes) (h : s.Canon) : ExceptCanon (loadParts ctx l b s) := by
  induction l generalizing s b with
  | nil => exact h
  | cons p l ih =>
    rw [loadParts]
    split
    · trivial
    next e => exact ih _ (canon_writePa _ _ _ _ ((canon_pageOf _ _ h).of_map e))
theorem canon_loadWrite (ctx va : Nat) (b : Bytes) (h : s.Canon) : ExceptCanon (s.loadWrite ctx va b) := by
  grind [State.loadWrite, ExceptCanon, canon_loadParts]
theorem canon_imageRead (ctx va n : Nat) (h : s.Canon) : ExceptCanon (s.imageRead ctx va n) := by
  grind [State.imageRead, ExceptCanon, OptionCanon, canon_groomRead]
theorem canon_records (ctx va k n : Nat) (h : s.Canon) : ExceptCanon (s.records ctx va k n) := by
  grind [State.records, ExceptCanon, Out.Canon, canon_imageRead]
theorem canon_mapSection (ctx : Nat) (plan : LoadPlan) (x : Section) (h : s.Canon) : OptionCanon (s.mapSection ctx plan x) := by
  grind [State.mapSection, OptionCanon, canon_ensurePages]
theorem canon_contents (ctx img : Nat) (x : Section) (h : s.Canon) : ExceptCanon (s.contents ctx img x) := by
  grind [State.contents, ExceptCanon, canon_imageRead]
theorem canon_loadSections (ctx img : Nat) (plan : LoadPlan) (l : List Section) (h : s.Canon) :
    ExceptCanon (loadSections ctx img plan l s) := by
  induction l generalizing s with
  | nil => exact h
  | cons x l ih =>
    rw [loadSections]
    split
    · trivial
    next e =>
      refine (canon_contents _ _ _ ((canon_mapSection _ _ _ h).of_some e)).bind fun ⟨_, _⟩ hu => ?_
      exact (canon_loadWrite _ _ _ hu).bind fun ⟨_, _⟩ hv => ih hv
theorem canon_loadBlocks (ctx cap dh : Nat) (plan : LoadPlan) (n va : Nat) (h : s.Canon) :
    ExceptCanon (loadBlocks ctx cap dh plan n va s) := by
  induction n generalizing s va with
  | zero => exact h
  | succ n ih =>
    rw [loadBlocks.eq_def]
    dsimp only
    split
    · trivial
    next e =>
      have hp := (canon_ensurePages _ _ _ _ _ h).of_some e
      split
      next e => exact ih _ ((canon_loadWrite _ _ _ hp).of_ok e)
      next => trivial
theorem canon_loadPool (ctx : Nat) (plan : LoadPlan) (b : Bytes) (h : s.Canon) : ExceptCanon (loadPool ctx plan b s) := by
  grind [loadPool, ExceptCanon, canon_loadBlocks, canon_loadWrite]
theorem canon_loadRegion (ctx : Nat) (plan : LoadPlan) (secs : List Section) (b : Bytes) (h : s.Canon) :
    ExceptCanon (loadRegion ctx plan secs b s) := by
  grind [loadRegion, ExceptCanon, OptionCanon, canon_ensurePages]
theorem canon_loadReloc (ctx value : Nat) (secs : List Section) (r : Bytes) (h : s.Canon) :
    ExceptCanon (loadReloc ctx value secs r s) := by
  rw [loadReloc]
  refine (canon_loadWrite _ _ _ h).bind fun ⟨_, u⟩ hu => ?_
  dsimp only
  split
  · split
    · trivial
    next e => exact canon_loadWrite _ _ _ (canon_readPa _ _ _ _ ((canon_pageOf _ _ hu).of_map e))
  · exact hu
theorem canon_loadRelocs (ctx value sym : Nat) (secs : List Section) (l : List Bytes) (h : s.Canon) :
    ExceptCanon (loadRelocs ctx value sym secs l s) := by
  induction l generalizing s with
  | nil => exact h
  | cons x l ih => grind [loadRelocs, ExceptCanon, canon_loadReloc]
theorem canon_loadCrib (ctx syms : Nat) (secs : List Section) (rels : List Bytes) (b : Bytes) (h : s.Canon) :
    ExceptCanon (loadCrib ctx syms secs rels b s) := by
  grind [loadCrib, ExceptCanon, State.canon_iff, canon_loadWrite, canon_loadRelocs]
theorem canon_loadName (ctx n va : Nat) (h : s.Canon) : ExceptCanon (State.loadName ctx n va s) := by
  induction n generalizing s va with
  | zero => exact h
  | succ n ih =>
    rw [State.loadName]
    split
    · trivial
    next e =>
      have hr := (canon_imageRead _ _ _ h).of_ok e
      split
      · exact hr
      · split
        next e => exact (ih _ hr).of_ok e
        next => trivial
theorem canon_loadSite (ctx strs : Nat) (b : Bytes) (h : s.Canon) : ExceptCanon (loadSite ctx strs b s) := by
  grind [loadSite, ExceptCanon, State.canon_iff, canon_loadName]
theorem canon_loadEach (f : Bytes → State → Except Nat (Unit × State))
    (hf : ∀ (b : Bytes) (u : State), u.Canon → ExceptCanon (f b u)) (l : List Bytes) (h : s.Canon) : ExceptCanon (loadEach f l
      s) := by
  induction l generalizing s with
  | nil => exact h
  | cons b l ih =>
    rw [loadEach]
    split
    next e => exact ih ((hf _ _ h).of_ok e)
    next => trivial
theorem canon_loadEntry (ctx syms strs : Nat) (plan : LoadPlan) (secs : List Section) (rels : List Bytes) (n : Nat)
    {f : Bytes → State → Except Nat (Unit × State)} (hf : loadEntry ctx syms strs plan secs rels n = some f) (b : Bytes)
    (h : s.Canon) : ExceptCanon (f b s) := by
  rw [loadEntry.eq_def] at hf
  split at hf <;> cases hf
  · exact canon_loadPool _ _ _ h
  · exact canon_loadRegion _ _ _ _ h
  · exact canon_loadCrib _ _ _ _ _ h
  · exact canon_loadSite _ _ _ h
theorem canon_loadTables (ctx img : Nat) (entry : Nat → Option (Bytes → State → Except Nat (Unit × State)))
    (he : ∀ n f, entry n = some f → ∀ (b : Bytes) (u : State), u.Canon → ExceptCanon (f b u)) (l : List Table) (h : s.Canon) :
    ExceptCanon (loadTables ctx img entry l s) := by
  induction l generalizing s with
  | nil => exact h
  | cons t l ih =>
    rw [loadTables]
    split
    · exact ih h
    next e =>
      refine (canon_records _ _ _ _ h).bind fun ⟨_, _⟩ hu => ?_
      exact (canon_loadEach _ (he _ _ e) _ hu).bind fun ⟨_, _⟩ hv => ih hv
theorem canon_loadBlocksTable (ctx img : Nat) (l : List Table) (h : s.Canon) : ExceptCanon (loadBlocksTable ctx img l s) := by
  induction l with
  | nil => exact h
  | cons t l ih =>
    rw [loadBlocksTable]
    split
    · exact (canon_records _ _ _ _ h).bind fun ⟨_, _⟩ hu => hu
    · exact ih
theorem canon_loadDescs (ctx img : Nat) (blocks : List (Nat × Bytes)) (l : List Section) (h : s.Canon) :
    ExceptCanon (loadDescs ctx img blocks l s) := by
  induction l generalizing s with
  | nil => exact h
  | cons x l ih =>
    rw [loadDescs]
    split
    · exact ih h
    · refine (canon_contents _ _ _ h).bind fun ⟨_, u⟩ hu => ?_
      dsimp only
      split
      · exact ih ⟨hu.wf⟩
      · trivial
theorem canon_loadFile (ctx img : Nat) (h : s.Canon) : ExceptCanon (s.loadFile ctx img) := by
  rw [State.loadFile]
  refine (canon_imageRead _ _ _ h).bind fun ⟨hd, _⟩ h1 => ?_
  dsimp only
  split
  · trivial
  refine (canon_records _ _ _ _ h1).bind fun ⟨_, _⟩ h2 => ?_
  dsimp only
  split
  · trivial
  refine (canon_records _ _ _ _ h2).bind fun ⟨_, _⟩ h3 => ?_
  refine (canon_records _ _ _ _ h3).bind fun ⟨_, _⟩ h4 => ?_
  refine (canon_loadSections _ _ _ _ h4).bind fun ⟨_, _⟩ h5 => ?_
  refine (canon_loadTables _ _ _ (fun _ _ hf _ _ hu => canon_loadEntry _ _ _ _ _ _ _ hf _ hu) _ h5).bind fun ⟨_, _⟩ h6 => ?_
  exact (canon_loadBlocksTable _ _ _ h6).bind fun ⟨_, _⟩ h7 => canon_loadDescs _ _ _ _ h7
theorem canon_endLoad (hd : QueueHead) (n : Nat) (e : Entry) (h : s.Canon) : (s.endLoad hd n e).Canon := by
  grind [State.endLoad, canon_addGrid, canon_writeHeader, canon_complete]
theorem canon_execFileLoad (n : Nat) (h : s.Canon) : (execFileLoad n s).Canon := by
  grind [execFileLoad, Out.Canon, OptionCanon, ExceptCanon, canon_headEntry, canon_notNow, canon_consume, canon_loadFile,
    canon_refuseEntry, canon_order, canon_endLoad]

end Sys2Proof.Machine
end

section
/-! SUPPORT. Memory stays canonical under the placement, pre-emption and restore of gangs. -/

namespace Sys2Proof.Machine

variable {s : State}

theorem canon_writeBlocks (core base len : Nat) (l : List (Nat × Bytes)) (h : s.Canon) :
    (s.writeBlocks core base len l).Canon := by
  grind [State.writeBlocks, canon_writeLocal, canon_foldl]
theorem canon_placeGroup (g : Group) (h : s.Canon) : (s.placeGroup g).Canon := by
  grind [State.placeGroup, State.canon_iff, canon_kWrite]
theorem canon_placeTeam (grid gngx tign die yBase : Nat) (gr : Grid) (t : Team) (seats : List Seat) (h : s.Canon) :
    (s.placeTeam grid gngx tign die yBase gr t seats).Canon := by
  grind [State.placeTeam, canon_clearShared, canon_writeBlocks, canon_placeGroup, canon_foldl]
theorem canon_enterGang (g : Gang) (h : s.Canon) : (s.enterGang g).Canon := ⟨h.wf⟩
theorem canon_execGangPlace (grid gang : Nat) (h : s.Canon) : (execGangPlace grid gang s).Canon := by
  grind [execGangPlace, Out.Canon, canon_notNow, canon_enterGang, canon_modGrid, canon_clearYard, canon_placeTeam, canon_foldl]
theorem canon_execGrowGrant (core slice : Nat) (h : s.Canon) : (execGrowGrant core slice s).Canon := by
  grind [execGrowGrant, Out.Canon, canon_notNow, canon_modGroup]
theorem canon_execGrowDeny (core : Nat) (h : s.Canon) : (execGrowDeny core s).Canon := by
  grind [execGrowDeny, Out.Canon, canon_notNow, canon_modGroup, canon_foldl]
theorem canon_execWatchdogExpiry (gid : Nat) (h : s.Canon) : (execWatchdogExpiry gid s).Canon := by
  grind [execWatchdogExpiry, Out.Canon, State.canon_iff, canon_notNow, canon_endGroupOf]
theorem canon_orphanHeld (id : Nat) (h : s.Canon) : (s.orphanHeld id).Canon := by
  grind [State.orphanHeld, State.canon_iff, canon_addOrphan]
theorem canon_removeGroup (g : Group) (h : s.Canon) : (s.removeGroup g).Canon := by
  grind [State.removeGroup, State.canon_iff]
theorem canon_execGroupRetire (gid : Nat) (h : s.Canon) : (execGroupRetire gid s).Canon := by
  grind [execGroupRetire, Out.Canon, State.canon_iff, canon_notNow, canon_trace, canon_orphanHeld, canon_removeGroup, canon_foldl]
theorem canon_releaseGang (g : Gang) (h : s.Canon) : (s.releaseGang g).Canon := by
  grind [State.releaseGang, State.canon_iff, canon_modGrid]
theorem canon_execTeamRelease (grid gang team : Nat) (h : s.Canon) : (execTeamRelease grid gang team s).Canon := by
  grind [execTeamRelease, Out.Canon, State.canon_iff, canon_notNow, canon_releaseGang]
theorem canon_cutWait (e : Nat × Op) (h : s.Canon) : (s.cutWait e).Canon := by
  grind [State.cutWait, canon_endWait, canon_report, canon_completeOp]
theorem canon_freeEngine (id : Nat) (h : s.Canon) : (s.freeEngine id).Canon := by
  grind [State.freeEngine, State.canon_iff]
theorem canon_settleOp (e : Nat × Op) (h : s.Canon) : (s.settleOp e).Canon := by
  grind [State.settleOp, canon_returnLeave, canon_freeEngine, canon_modOp, canon_trace]
theorem canon_freeLines (ctx : Nat) (cores : List Nat) (h : s.Canon) : (s.freeLines ctx cores).Canon := by
  grind [State.freeLines, State.canon_iff]
theorem canon_dropGang (grid gang : Nat) (h : s.Canon) : (s.dropGang grid gang).Canon := by
  grind [State.dropGang, State.canon_iff]
theorem canon_takeOff (x : Gang) (h : s.Canon) : (s.takeOff x).Canon := by
  grind [State.takeOff, State.canon_iff, canon_settleOp, canon_dropGang, canon_freeLines, canon_pend, canon_foldl]
theorem canon_markLeaving (grid gang : Nat) (h : s.Canon) : (s.markLeaving grid gang).Canon := by
  grind [State.markLeaving, State.canon_iff]
theorem canon_execPreemptGang (grid gang : Nat) (h : s.Canon) : (execPreemptGang grid gang s).Canon := by
  grind [execPreemptGang, Out.Canon, canon_notNow, canon_cutWait, canon_markLeaving, canon_takeOff, canon_foldl]
theorem canon_reloadOps (grid team core : Nat) (m : Moves) (h : s.Canon) : (s.reloadOps grid team core m).Canon := by
  grind [State.reloadOps, State.canon_iff]
theorem canon_reloadTeam (x : SavedGang) (p : GangSeat) (yard tign : Nat) (t : Team) (seats : List Seat) (h : s.Canon) :
    (s.reloadTeam x p yard tign t seats).Canon := by
  grind [State.reloadTeam, State.canon_iff, canon_reloadShared, canon_reloadOps, canon_refillGroup, canon_foldl]
theorem canon_execGangRestore (grid gang : Nat) (h : s.Canon) : (execGangRestore grid gang s).Canon := by
  grind [execGangRestore, Out.Canon, State.canon_iff, canon_notNow, canon_enterGang, canon_dropDie, canon_reloadYard,
    canon_reloadTeam, canon_foldl]
theorem canon_switchCtx (ctx : Nat) (out : Bool) (h : s.Canon) : (s.switchCtx ctx out).Canon := by
  grind [State.switchCtx, Out.Canon, State.canon_iff, canon_notNow]

end Sys2Proof.Machine
end

section
/-! SUPPORT. Memory stays canonical under Paddock episodes, teardown, storage errors and the stacks' controllers. -/

namespace Sys2Proof.Machine

variable {s : State}

theorem canon_popOut (crib : Nat) (h : s.Canon) : (s.popOut crib).Canon := by
  grind [State.popOut, canon_setCrib]
theorem canon_headBytes (c : Crib) (m : Bytes) (h : s.Canon) : (s.headBytes c m).2.Canon := by
  grind [State.headBytes, canon_drawBytes]
theorem canon_refuseStart (crib : Nat) (c : Crib) (m : Bytes) (cause : Nat) (h : s.Canon) :
    (s.refuseStart crib c m cause).Canon := by
  grind [State.refuseStart, Out.Canon, canon_popOut, canon_appendIn, canon_notNow]
theorem canon_execCribStart (crib : Nat) (h : s.Canon) : (execCribStart crib s).Canon := by
  rw [execCribStart]
  split
  · trivial
  split
  · trivial
  split
  · trivial
  split
  · split
    · exact canon_refuseStart _ _ _ _ h
    split
    · exact canon_refuseStart _ _ _ _ h
    next e =>
      split
      · exact canon_setCrib _ _ ((canon_groomRead _ _ _ h).of_map e)
      · exact canon_refuseStart _ _ _ _ h
  · split
    · trivial
    split
    · trivial
    · exact canon_openStep _ (canon_setEpisode _ _ (canon_setCrib _ _ h))
theorem canon_execWiden (crib : Nat) (h : s.Canon) : (execWiden crib s).Canon := by
  grind [execWiden, Out.Canon, canon_notNow, canon_setEpisode, canon_popOut, canon_openStep]
theorem canon_execCribIdleDiscard (crib : Nat) (h : s.Canon) : (execCribIdleDiscard crib s).Canon := by
  grind [execCribIdleDiscard, Out.Canon, canon_notNow, canon_headBytes, canon_popOut, canon_appendIn]
theorem canon_appendOf (core : Nat) (e : Episode) (h : s.Canon) : (s.appendOf core e).Canon := by
  grind [State.appendOf, canon_setEpisode, canon_appendIn, canon_scrubPen, canon_openStep]
theorem canon_storeTxgo (core : Nat) (h : s.Canon) : (s.storeTxgo core).Canon := by
  grind [State.storeTxgo, Out.Canon, canon_notNow, canon_killEpisode, canon_setEpisode, canon_appendOf]
theorem canon_storeRxpop (core : Nat) (h : s.Canon) : (s.storeRxpop core).Canon := by
  grind [State.storeRxpop, Out.Canon, canon_notNow, canon_killEpisode, canon_setEpisode, canon_popOut, canon_openStep]
theorem canon_execStepBudgetExpiry (core : Nat) (h : s.Canon) : (execStepBudgetExpiry core s).Canon := by
  grind [execStepBudgetExpiry, Out.Canon, canon_notNow, canon_killEpisode]
theorem canon_execPaddockCoreHardError (core : Nat) (h : s.Canon) : (execPaddockCoreHardError core s).Canon := by
  grind [execPaddockCoreHardError, Out.Canon, State.canon_iff, canon_notNow, canon_killEpisode]
theorem canon_storePage (core off : Nat) (data : Bytes) (h : s.Canon) : (s.storePage core off data).Canon := by
  grind [State.storePage, Out.Canon, canon_notNow, canon_setEpisode, canon_storeTxgo, canon_storeRxpop, canon_killEpisode]
theorem canon_abortOp (id : Nat) (h : s.Canon) : (s.abortOp id).Canon := by
  grind [State.abortOp, State.canon_iff, canon_modOp, canon_completeOp, canon_addOrphan]
theorem canon_abortOps (ctx : Nat) (h : s.Canon) : (s.abortOps ctx).Canon := by
  grind [State.abortOps, State.canon_iff, canon_abortOp, canon_foldl]
theorem canon_abortJob (stack : Nat) (j : ShedJob) (h : s.Canon) :
    (s.abortJob stack j).Canon := (canon_jobFlag _ _ _ _ h).getD (canon_jobOrphan _ _ _ h)
theorem canon_abortJobs (ctx : Nat) (h : s.Canon) : (s.abortJobs ctx).Canon := by
  grind [State.abortJobs, State.canon_iff, canon_traceJob, canon_abortJob, canon_freeJob, canon_modGrid, canon_foldl]
theorem canon_abortSweeps (ctx : Nat) (h : s.Canon) : (s.abortSweeps ctx).Canon := by
  grind [State.abortSweeps, State.canon_iff, canon_cancelSweep, canon_sweepDue, canon_foldl]
theorem canon_abortCribs (ctx : Nat) (h : s.Canon) : (s.abortCribs ctx).Canon := by
  grind [State.abortCribs, State.canon_iff, canon_scrubPen, canon_foldl]
theorem canon_abortGrid (n : Nat) (gr : Grid) (h : s.Canon) : (s.abortGrid n gr).Canon := by
  grind [State.abortGrid, canon_writeCensus, canon_writeHeader, canon_complete, canon_closeGrid, canon_modGrid]
theorem canon_dropCtxGangs (ctx : Nat) (h : s.Canon) : (s.dropCtxGangs ctx).Canon := by
  grind [State.dropCtxGangs, State.canon_iff]
theorem canon_dropCtx (ctx : Nat) (h : s.Canon) : (s.dropCtx ctx).Canon := ⟨h.wf⟩
theorem canon_tearDown (ctx : Nat) (h : s.Canon) : (s.tearDown ctx).Canon := by
  grind [State.tearDown, canon_abortOps, canon_abortJobs, canon_abortSweeps, canon_abortCribs, canon_dropCtxGangs,
    canon_abortGrid, canon_dropCtx, canon_foldl]
theorem canon_execContextTeardown (ctx : Nat) (h : s.Canon) : (execContextTeardown ctx s).Canon := by
  grind [execContextTeardown, Out.Canon, canon_notNow, canon_tearDown]
theorem canon_trip (h : s.Canon) : s.trip.Canon := by
  grind [State.trip, State.canon_iff, canon_tearDown, canon_foldl]
theorem canon_setStack (n : Nat) (c : StackCtl) (h : s.Canon) : (s.setStack n c).Canon := ⟨h.wf⟩
theorem canon_noteRow (row : Nat) (fatal : Bool) (h : s.Canon) : (s.noteRow row fatal).Canon := by
  grind [State.noteRow, canon_setStack]
theorem canon_hbmError (line : Nat) (fatal : Bool) (ctx : Nat) (h : s.Canon) : (s.hbmError line fatal ctx).Canon := by
  have hn := canon_noteError levelHbm fatal (64 * line) ctx (canon_noteRow (line / 16) fatal h)
  unfold State.hbmError
  dsimp only
  split
  · obtain ⟨a, b, c, d, e, f, g, hh, i⟩ := Memories.wf_iff.1 hn.wf
    exact ⟨Memories.wf_iff.2 ⟨a, b, c, swf_sput _ _ _ _ (by decide) d, e, f, g, hh, i⟩⟩
  · exact hn
theorem canon_noteCore (core : Nat) (h : s.Canon) : (s.noteCore core).Canon := ⟨h.wf⟩
theorem canon_regError (gid : Nat) (r : RegRef) (fatal : Bool) (h : s.Canon) : (s.regError gid r fatal).Canon := by
  grind [State.regError, canon_noteError, canon_noteCore, canon_endGroupOf]
theorem canon_tileError (gid key : Nat) (fatal : Bool) (h : s.Canon) : (s.tileError gid key fatal).Canon := by
  grind [State.tileError, State.canon_iff, canon_noteError, canon_noteCore, canon_setTile]
theorem canon_cribError (crib : Nat) (out : Bool) (n : Nat) (fatal : Bool) (h : s.Canon) :
    (s.cribError crib out n fatal).Canon := by
  grind [State.cribError, canon_noteError, canon_setCrib]
theorem canon_paddError (core word : Nat) (fatal : Bool) (h : s.Canon) : (s.paddError core word fatal).Canon := by
  grind [State.paddError, canon_noteError, canon_killEpisode]
theorem canon_shedError (stack core : Nat) (h : s.Canon) : (s.shedError stack core).Canon := by
  grind [State.shedError, State.canon_iff, canon_logError, canon_setShedJob]
theorem canon_upset (u : Upset) (h : s.Canon) : (s.upset u).Canon := by
  cases u with
  | hbm line fatal ctx =>
    rw [State.upset]
    split
    · exact canon_hbmError _ _ _ h
    · exact h
  | yard word ctx =>
    obtain ⟨a, b, c, d, e, f, g, hh, i⟩ := Memories.wf_iff.1 (canon_noteError levelYard true word ctx h).wf
    exact ⟨Memories.wf_iff.2 ⟨a, b, c, d, e, swf_sput _ _ _ _ (by decide) f, g, hh, i⟩⟩
  | shared word fatal ctx =>
    have hn := canon_noteError levelShared fatal word ctx h
    rw [State.upset]
    dsimp only
    split
    · obtain ⟨a, b, c, d, e, f, g, hh, i⟩ := Memories.wf_iff.1 hn.wf
      exact ⟨Memories.wf_iff.2 ⟨a, b, c, d, swf_sput _ _ _ _ (by decide) e, f, g, hh, i⟩⟩
    · exact hn
  | reg gid r fatal => exact canon_regError _ _ _ h
  | tile gid key fatal => exact canon_tileError _ _ _ h
  | ibuf core line bit => exact canon_setIbuf _ _ h
  | xlat core list n => exact canon_setTlb _ _ (canon_noteError _ _ _ _ h)
  | padd core word fatal => exact canon_paddError _ _ _ h
  | crib crib out n fatal => exact canon_cribError _ _ _ _ h
  | shed stack core => exact canon_shedError _ _ h
theorem canon_execRefreshSlot (stack : Nat) (h : s.Canon) : (execRefreshSlot stack s).Canon := by
  grind [execRefreshSlot, Out.Canon, canon_notNow, canon_refreshRow, canon_setStack, canon_foldl]
theorem canon_execStackSensorSample (stack : Nat) (temp : Int) (h : s.Canon) : (execStackSensorSample stack temp s).Canon := by
  grind [execStackSensorSample, Out.Canon, canon_notNow, canon_setStack, canon_trip]
theorem canon_execSelfRefreshEntry (stack : Nat) (h : s.Canon) : (execSelfRefreshEntry stack s).Canon := by
  grind [execSelfRefreshEntry, Out.Canon, canon_notNow, canon_setStack]
theorem canon_resumeDemands (stack : Nat) (h : s.Canon) : (s.resumeDemands stack).Canon := by
  grind [State.resumeDemands, canon_demandSweep, canon_foldl]
theorem canon_execSelfRefreshExit (stack : Nat) (h : s.Canon) : (execSelfRefreshExit stack s).Canon := by
  grind [execSelfRefreshExit, Out.Canon, State.canon_iff, canon_notNow, canon_setStack, canon_resumeDemands]
theorem canon_execPatrolScrub (stack : Nat) (scan : ScrubRead) (h : s.Canon) : (execPatrolScrub stack scan s).Canon := by
  grind [execPatrolScrub, Out.Canon, canon_notNow, canon_touchRow, canon_hbmError, canon_countError, canon_setStack, canon_foldl]
theorem canon_execRowRepair (row : Nat) (h : s.Canon) : (execRowRepair row s).Canon := by
  grind [execRowRepair, Out.Canon, canon_notNow, canon_setStack, canon_logLine]

end Sys2Proof.Machine
end

section
/-! SUPPORT. Memory stays canonical under the debug port and the links. -/

namespace Sys2Proof.Machine

variable {s : State}

theorem canon_answer (code : Nat) (data : List Nat) (h : s.Canon) : (s.answer code data).Canon := by
  grind [State.answer, Out.Canon, canon_notNow, canon_emit]
theorem canon_refuse (h : s.Canon) : s.refuse.Canon := canon_answer _ _ h
theorem canon_execBreakpointHit (h : s.Canon) : (execBreakpointHit s).Canon := by
  grind [execBreakpointHit, Out.Canon, canon_notNow, canon_modCur, canon_emit]
theorem canon_execStop (ctx gid : Nat) (h : s.Canon) : (execStop ctx gid s).Canon := by
  grind [execStop, Out.Canon, canon_refuse, canon_answer, canon_modGroup]
theorem canon_execDbiWrite (core n : Nat) (value : BitVec 128) (h : s.Canon) : (execDbiWrite core n value s).Canon := by
  grind [execDbiWrite, Out.Canon, State.canon_iff, canon_refuse, canon_answer]
theorem canon_execQueueStopWrite (core value : Nat) (h : s.Canon) : (execQueueStopWrite core value s).Canon := by
  grind [execQueueStopWrite, Out.Canon, State.canon_iff, canon_refuse, canon_answer, canon_tellQueue, canon_foldl]
theorem canon_stepFrom (g : Group) (h : s.Canon) : (s.stepFrom g).Canon := ⟨h.wf⟩
theorem canon_step (g : Group) (b : Bool) (focus : LaneMask) (n : Nat) (h : s.Canon) : (s.step g b focus n).Canon := by
  grind [State.step, Out.Canon, State.canon_iff, canon_refuse, canon_stepFrom, canon_modCur, canon_pushPath, canon_modGroup,
    canon_answer]
theorem canon_execStep (ctx gid : Nat) (focus : LaneMask) (n : Nat) (h : s.Canon) : (execStep ctx gid focus n s).Canon := by
  grind [execStep, Out.Canon, canon_refuse, canon_step]
theorem canon_execResume (ctx gid : Nat) (h : s.Canon) : (execResume ctx gid s).Canon := by
  grind [execResume, Out.Canon, canon_refuse, canon_modGroup, canon_refillGroup, canon_answer]
theorem canon_execPortRegRead (ctx gid : Nat) (reg : PortReg) (h : s.Canon) : (execPortRegRead ctx gid reg s).Canon := by
  grind [execPortRegRead, Out.Canon, canon_refuse, canon_answer]
theorem canon_deferWrite (id : Nat) (op : Op) (d : Deferred) (h : s.Canon) : (s.deferWrite id op d).Canon := by
  grind [State.deferWrite, Out.Canon, canon_modOp, canon_emit, canon_answer]
theorem canon_execPortRegWrite (ctx gid : Nat) (reg : PortReg) (mask : LaneMask) (value : Nat) (h : s.Canon) :
    (execPortRegWrite ctx gid reg mask value s).Canon := by
  grind [execPortRegWrite, Out.Canon, canon_refuse, canon_deferWrite, canon_modGroup, canon_answer]
theorem canon_portLocal (ctx gid : Nat) (sp : Space) (addr len : Nat) (go : Nat → Nat → Out)
    (hg : ∀ unit at_ : Nat, (go unit at_).Canon) (h : s.Canon) : (s.portLocal ctx gid sp addr len go).Canon := by
  grind [State.portLocal, Out.Canon, canon_refuse]
theorem canon_execPortMemRead (ctx gid : Nat) (sp : Space) (addr len : Nat) (h : s.Canon) :
    (execPortMemRead ctx gid sp addr len s).Canon := by
  grind [execPortMemRead, Out.Canon, canon_answer, canon_refuse, canon_readVa, canon_portLocal]
theorem canon_execPortMemWrite (ctx gid : Nat) (sp : Space) (addr : Nat) (data : Bytes) (h : s.Canon) :
    (execPortMemWrite ctx gid sp addr data s).Canon := by
  grind [execPortMemWrite, Out.Canon, canon_refuse, canon_writeVa, canon_answer, canon_portLocal, canon_writeLocal]
theorem canon_poisonFlit (ctx attr pa : Nat) (h : s.Canon) : (s.poisonFlit ctx attr pa).Canon := by
  grind [State.poisonFlit, canon_poisonPa, canon_logError]
theorem canon_execHostBar2Access (write : Bool) (pa len : Nat) (data : HostData) (h : s.Canon) :
    (execHostBar2Access write pa len data s).Canon := by
  grind [execHostBar2Access, Out.Canon, canon_notNow, canon_logLine, canon_emit, canon_poisonFlit, canon_writePa, canon_readPa,
    canon_foldl]
theorem canon_remoteAtomic (pa attr : Nat) (cas : Bool) (aop : Nat) (wide : Bool) (x y : Nat) (h : s.Canon) :
    (s.remoteAtomic pa attr cas aop wide x y).Canon := by
  grind [State.remoteAtomic, canon_readPa, canon_emit, canon_writePa]
theorem canon_execFabricRemoteAccess (access : RemoteAccess) (h : s.Canon) : (execFabricRemoteAccess access s).Canon := by
  grind [execFabricRemoteAccess, Out.Canon, canon_notNow, canon_emit, canon_readPa, canon_burstsOf, canon_writePa,
    canon_remoteAtomic]
theorem canon_setLane (n : Nat) (l : FabricLane) (h : s.Canon) : (s.setLane n l).Canon := ⟨h.wf⟩
theorem canon_deliverBursts (n : Nat) (h : s.Canon) : (deliverBursts n s).Canon := by
  induction n generalizing s with
  | zero => exact h
  | succ n ih => grind [deliverBursts, State.canon_iff, canon_emit]
theorem canon_ackBurst (seq : Nat) (h : s.Canon) : (s.ackBurst seq).Canon := canon_pumpFabric ⟨h.wf⟩
theorem canon_linkRead (key link : Nat) (h : s.Canon) : (s.linkRead key link).Canon := by
  grind [State.linkRead, Out.Canon, State.canon_iff, canon_notNow]
theorem canon_execBurstReceive (burst : Burst) (data : Bytes) (h : s.Canon) : (execBurstReceive burst data s).Canon := by
  unfold execBurstReceive
  grind [Out.Canon, State.canon_iff, canon_notNow, canon_ackBurst, canon_deliverBursts]
theorem canon_moveBurst (lane seq : Nat) (h : s.Canon) : (s.moveBurst lane seq).Canon := by
  grind [State.moveBurst, State.canon_iff]
theorem canon_laneError (lane : Nat) (h : s.Canon) : (s.laneError lane).Canon := canon_setLane _ _ h
theorem canon_execBurstCrcFail (lane : Nat) (burst : Burst) (h : s.Canon) : (execBurstCrcFail lane burst s).Canon := by
  unfold execBurstCrcFail
  grind [Out.Canon, State.canon_iff, canon_notNow, canon_laneError, canon_moveBurst, canon_emit]
theorem canon_execLaneRepair (lane : Nat) (h : s.Canon) : (execLaneRepair lane s).Canon := by
  unfold execLaneRepair
  grind [Out.Canon, State.canon_iff, canon_notNow, canon_setLane, canon_pumpFabric, canon_logLine]
theorem canon_cutFabric (h : s.Canon) : s.cutFabric.Canon := by
  grind [State.cutFabric, State.canon_iff, canon_failWork, canon_foldl]
theorem canon_execLinkDown (reason seq : Nat) (h : s.Canon) : (execLinkDown reason seq s).Canon := by
  grind [execLinkDown, Out.Canon, State.canon_iff, canon_notNow, canon_logLine, canon_cutFabric]
theorem canon_execFabricLinkRetrain (lanes : List Nat) (h : s.Canon) : (execFabricLinkRetrain lanes s).Canon := by
  grind [execFabricLinkRetrain, Out.Canon, State.canon_iff, canon_notNow]
theorem canon_execCollContribution (comm chunk rank : Nat) (desc : Bytes) (data : Option Bytes) (h : s.Canon) :
    (execCollContribution comm chunk rank desc data s).Canon := by
  grind [execCollContribution, Out.Canon, State.canon_iff, canon_notNow, canon_failWork, canon_foldl]
theorem canon_execCommunicatorDestroy (comm : Nat) (h : s.Canon) : (execCommunicatorDestroy comm s).Canon := by
  grind [execCommunicatorDestroy, Out.Canon, State.canon_iff, canon_notNow, canon_endWork, canon_foldl]

end Sys2Proof.Machine
end

section
/-! SUPPORT. Memory stays canonical under sampling, sensors, starts and management registers. -/

namespace Sys2Proof.Machine

variable {s : State}

theorem canon_nvmeHead (ctx hd : Nat) (h : s.Canon) : OptionCanon ((s.nvmeHead ctx hd).map (·.2)) := by
  grind [State.nvmeHead, OptionCanon, canon_readVa]
theorem canon_writeBlocksTo (ctx n va : Nat) (b : Bytes) (h : s.Canon) : (writeBlocksTo ctx n va b s).2.2.Canon := by
  induction n generalizing s va b with
  | zero => exact h
  | succ n ih =>
    rw [writeBlocksTo]
    split
    next e => exact canon_of_snd e (canon_writeVa _ _ _ h)
    next e => exact ih _ _ (canon_of_snd e (canon_writeVa _ _ _ h))
theorem canon_nvmeNext (pair : Nat) (h : s.Canon) : OptionCanon ((s.nvmeNext pair).map (·.2.2)) := by
  rw [State.nvmeNext]
  split
  · trivial
  split
  · trivial
  next e =>
    have hh := (canon_nvmeHead _ _ h).of_map e
    split
    · trivial
    next e =>
      have hr := canon_of_snd e (canon_readVa _ _ _ hh)
      dsimp only
      split
      · trivial
      · exact hr
theorem canon_poisonLines (ctx va : Nat) (lines : List Nat) (h : s.Canon) : (s.poisonLines ctx va lines).Canon := by
  grind [State.poisonLines, canon_translate, canon_poisonFlit, canon_foldl]
theorem canon_execNvmeRequest (pair : Nat) (data : Bytes) (flaws : FlashFlaws) (h : s.Canon) :
    (execNvmeRequest pair data flaws s).Canon := by
  grind [execNvmeRequest, Out.Canon, OptionCanon, State.canon_iff, canon_nvmeNext, canon_notNow, canon_dropDie, canon_emit,
    canon_writeBlocksTo, canon_poisonLines, canon_foldl]
theorem canon_execNvmeCompletion (pair : Nat) (h : s.Canon) : (execNvmeCompletion pair s).Canon := by
  grind [execNvmeCompletion, Out.Canon, OptionCanon, State.canon_iff, canon_nvmeHead, canon_notNow, canon_outWrite, canon_order]
theorem canon_pushSample (key : Nat) (x : Sample) (h : s.Canon) : (s.pushSample key x).Canon := by
  grind [State.pushSample, State.canon_iff, canon_modGrid]
theorem canon_takeSample (key : Nat) (x : Nat × Nat) (l : List Sample) (h : s.Canon) : (s.takeSample key x l).Canon := by
  grind [State.takeSample, State.canon_iff, canon_pushSample, canon_foldl]
theorem canon_execStallSample (core slice : Nat) (h : s.Canon) : (execStallSample core slice s).Canon := by
  grind [execStallSample, Out.Canon, canon_notNow, canon_takeSample, canon_foldl]
theorem canon_execSampleDrain (core slice : Nat) (h : s.Canon) : (execSampleDrain core slice s).Canon := by
  grind [execSampleDrain, Out.Canon, State.canon_iff, canon_notNow, canon_modGrid, canon_writeVa]
theorem canon_setHot (hot : List Nat) (h : s.Canon) : (s.setHot hot).Canon := by
  grind [State.setHot, State.canon_iff]
theorem canon_execDieSensorSample (unit : Nat) (temp : Int) (h : s.Canon) : (execDieSensorSample unit temp s).Canon := by
  grind [execDieSensorSample, Out.Canon, State.canon_iff, canon_notNow, canon_setHot, canon_trip]
theorem canon_execDeviceStart (failed : Option StartFailure) (dies : Nat) : (execDeviceStart failed dies s).Canon := by
  have fresh (known : Bool) (t : State) (ht : t.mem = Memories.reset) : Out.Canon (if !known then notNow else .next t) := by
    split
    · trivial
    · exact State.Canon.mk (by rw [State.memOk, ht]; exact Memories.wf_reset)
  exact fresh _ _ rfl
theorem canon_setMmexit (h : s.Canon) : s.setMmexit.Canon := ⟨h.wf⟩
theorem canon_execGetMeasurements (h : s.Canon) : (execGetMeasurements s).Canon := by
  grind [execGetMeasurements, Out.Canon, State.canon_iff, canon_emit]
theorem canon_execFirmwareImageWrite (digests : FwParts) (version : Nat) (signatures : FwParts) (h : s.Canon) :
    (execFirmwareImageWrite digests version signatures s).Canon := by
  grind [execFirmwareImageWrite, Out.Canon, State.canon_iff, canon_emit]
theorem canon_modCtx (ctx : Nat) (f : Ctx → Ctx) (h : s.Canon) : (s.modCtx ctx f).Canon := ⟨h.wf⟩
theorem canon_setRoot (ctx root : Nat) (h : s.Canon) : (s.setRoot ctx root).Canon := by
  grind [State.setRoot, Out.Canon, State.canon_iff, canon_notNow, canon_modCtx]
theorem canon_assignCrib (crib ctx wmax : Nat) (frames : List Nat) (h : s.Canon) : (s.assignCrib crib ctx wmax frames).Canon := by
  grind [State.assignCrib, Out.Canon, canon_notNow, canon_setCrib]
theorem canon_execRegisterWrite (reg : DevReg) (h : s.Canon) : (execRegisterWrite reg s).Canon := by
  unfold execRegisterWrite
  dsimp only
  split
  · trivial
  cases reg with
  | bar0 off value =>
    dsimp only
    split
    · exact canon_setMmexit h
    · exact h
  | cribPage core off data => exact canon_storePage _ _ _ h
  | ctxRoot ctx root => exact canon_setRoot _ _ h
  | pager ctx n header =>
    dsimp only
    split
    · trivial
    · exact canon_modCtx _ _ h
  | debugGrant ctx on =>
    dsimp only
    split
    · trivial
    · exact canon_modCtx _ _ h
  | launchQueue n ctx header =>
    dsimp only
    split
    · trivial
    · exact ⟨h.wf⟩
  | nvmePair n ctx ns header =>
    dsimp only
    split
    · trivial
    · exact ⟨h.wf⟩
  | communicator n members rank =>
    dsimp only
    split
    · trivial
    · exact ⟨h.wf⟩
  | cribAssign crib ctx wmax frames => exact canon_assignCrib _ _ _ _ h

end Sys2Proof.Machine
end

section
/-! SUPPORT. Memory stays canonical under an instruction of an episode. -/

namespace Sys2Proof.Machine

variable {s : State}

theorem canon_readPhys (ctx : Nat) (l : List (Nat × Nat)) (b : Bytes) (p : Bool) (h : s.Canon) :
    (s.readPhys ctx l b p).2.2.Canon := by
  induction l generalizing s b p with
  | nil => exact h
  | cons x l ih => exact ih _ _ (canon_readPa _ _ _ _ h)
theorem canon_writePhys (ctx : Nat) (l : List (Nat × Nat)) (b : Bytes) (h : s.Canon) : (s.writePhys ctx l b).Canon := by
  induction l generalizing s b with
  | nil => exact h
  | cons x l ih => exact ih _ (canon_writePa _ _ _ _ h)
theorem canon_penRead (core : Nat) (e : Episode) (a n : Nat) (h : s.Canon) : (s.penRead core e a n).2.Canon := by
  grind [State.penRead, Out.Canon, canon_readPhys]
theorem canon_retireAt (core : Nat) (pc : DWord) (h : s.Canon) : (s.retireAt core pc).Canon := by
  grind [State.retireAt, canon_setEpisode]
theorem canon_penWrite (core : Nat) (e : Episode) (a : Nat) (b : Bytes) (pc : DWord) (h : s.Canon) :
    (s.penWrite core e a b pc).Canon := by
  grind [State.penWrite, Out.Canon, canon_setEpisode, canon_storePage, canon_retireAt, canon_killEpisode, canon_writePhys]
theorem canon_penLoad (core : Nat) (e : Episode) (a n : Nat) (pc : DWord) (put : Nat → Episode) (h : s.Canon) :
    (s.penLoad core e a n pc put).Canon := by
  grind [State.penLoad, Out.Canon, canon_penRead, canon_setEpisode, canon_killEpisode]
theorem canon_hartAmo (core : Nat) (e : Episode) (w : Nat) (pc : DWord) (h : s.Canon) : (s.hartAmo core e w pc).Canon := by
  grind [State.hartAmo, Out.Canon, canon_killEpisode, canon_penLoad, canon_penWrite, canon_setEpisode, canon_penRead]
theorem canon_hartExec (core : Nat) (e : Episode) (w len : Nat) (h : s.Canon) : (s.hartExec core e w len).Canon := by
  grind [State.hartExec, Out.Canon, canon_killEpisode, canon_setEpisode, canon_penLoad, canon_penWrite, canon_hartAmo]
theorem canon_hartStep (core : Nat) (h : s.Canon) : (s.hartStep core).Canon := by
  grind [State.hartStep, Out.Canon, canon_killEpisode, canon_hartExec]
theorem canon_execEpisodeFaultKill (core reason : Nat) (h : s.Canon) : (execEpisodeFaultKill core reason s).Canon := by
  grind [execEpisodeFaultKill, Out.Canon, canon_notNow, canon_hartStep, canon_killEpisode]

end Sys2Proof.Machine
end

section
/-! SUPPORT. Every instruction, every turn and every step keeps memory canonical. -/

namespace Sys2Proof.Machine

variable {s : State}

/-! ### Instructions -/

theorem canon_execCpys (m : CopyMod) (o : Fields) (h : s.Canon) : (execCpys m o s).Canon := by
  unfold execCpys
  exact canon_gatherIssue _ _ _ _ _ _ _ h

theorem canon_exec (i : Instr) (h : s.Canon) : Out.Canon (exec i s) := by
  cases i with
  | nop o => exact (canon_advance h : (execNop o s).Canon)
  | br o => exact canon_execBr o h
  | brd o => exact canon_execBrd o h
  | brx o => exact canon_execBrx o h
  | call o => exact canon_execCall o h
  | callx o => exact canon_execCallx o h
  | ret o => exact canon_execRet o h
  | if_ o => exact canon_execIf o h
  | else_ o => exact canon_execElse o h
  | endif_ o => exact (canon_structured _ _ _ h : (execEndif o s).Canon)
  | loop_ o => exact canon_execLoop o h
  | lbrk lvl o => exact (canon_structured _ _ _ h : (execLbrk lvl o s).Canon)
  | cont lvl o => exact (canon_structured _ _ _ h : (execCont lvl o s).Canon)
  | endl o => exact canon_execEndl o h
  | exit_ o => exact canon_execExit o h
  | yield_ wf o => exact canon_execYield wf o h
  | ebrk o => exact canon_execEbrk o h
  | grow o => exact canon_execGrow o h
  | shrink o => exact canon_execShrink o h
  | add m o => exact (canon_lane2 _ _ h : (execAdd m o s).Canon)
  | sub m o => exact (canon_lane2 _ _ h : (execSub m o s).Canon)
  | mul m o => exact (canon_lane2 _ _ h : (execMul m o s).Canon)
  | mulhi m o => exact (canon_lane2 _ _ h : (execMulhi m o s).Canon)
  | mad m o => exact (canon_lane3 _ _ h : (execMad m o s).Canon)
  | min_ m o => exact (canon_lane2 _ _ h : (execMin m o s).Canon)
  | max_ m o => exact (canon_lane2 _ _ h : (execMax m o s).Canon)
  | abs_ m o => exact (canon_lane1 _ _ h : (execAbs m o s).Canon)
  | neg m o => exact (canon_lane1 _ _ h : (execNeg m o s).Canon)
  | and_ m o => exact (canon_lane2 _ _ h : (execAnd m o s).Canon)
  | or_ m o => exact (canon_lane2 _ _ h : (execOr m o s).Canon)
  | xor_ m o => exact (canon_lane2 _ _ h : (execXor m o s).Canon)
  | not_ m o => exact (canon_lane1 _ _ h : (execNot m o s).Canon)
  | shl m o => exact (canon_lane2 _ _ h : (execShl m o s).Canon)
  | shr m o => exact (canon_lane2 _ _ h : (execShr m o s).Canon)
  | sar m o => exact (canon_lane2 _ _ h : (execSar m o s).Canon)
  | popc m o => exact (canon_lane1 _ _ h : (execPopc m o s).Canon)
  | clz m o => exact (canon_lane1 _ _ h : (execClz m o s).Canon)
  | brev m o => exact (canon_lane1 _ _ h : (execBrev m o s).Canon)
  | bfe m o => exact (canon_lane2 _ _ h : (execBfe m o s).Canon)
  | bfi m o => exact (canon_lane3 _ _ h : (execBfi m o s).Canon)
  | icmp m o => exact (canon_lane2 _ _ h : (execIcmp m o s).Canon)
  | aadd m o => exact canon_execAadd m o h
  | aidx m o => exact canon_execAidx m o h
  | fadd m o => exact (canon_lane2 _ _ h : (execFadd m o s).Canon)
  | fsub m o => exact (canon_lane2 _ _ h : (execFsub m o s).Canon)
  | fmul m o => exact (canon_lane2 _ _ h : (execFmul m o s).Canon)
  | fma m o => exact (canon_lane3 _ _ h : (execFma m o s).Canon)
  | fmin m o => exact (canon_lane2 _ _ h : (execFmin m o s).Canon)
  | fmax m o => exact (canon_lane2 _ _ h : (execFmax m o s).Canon)
  | fabs m o => exact (canon_lane1 _ _ h : (execFabs m o s).Canon)
  | fneg m o => exact (canon_lane1 _ _ h : (execFneg m o s).Canon)
  | fcmp m o => exact (canon_lane2 _ _ h : (execFcmp m o s).Canon)
  | fclass m o => exact (canon_lane2 _ _ h : (execFclass m o s).Canon)
  | frnd m o => exact (canon_lane1 _ _ h : (execFrnd m o s).Canon)
  | hadd2 m o => exact (canon_lane2 _ _ h : (execHadd2 m o s).Canon)
  | hmul2 m o => exact (canon_lane2 _ _ h : (execHmul2 m o s).Canon)
  | hfma2 m o => exact (canon_lane3 _ _ h : (execHfma2 m o s).Canon)
  | hmin2 m o => exact (canon_lane2 _ _ h : (execHmin2 m o s).Canon)
  | hmax2 m o => exact (canon_lane2 _ _ h : (execHmax2 m o s).Canon)
  | hdot2 m o => exact (canon_lane3 _ _ h : (execHdot2 m o s).Canon)
  | mov m o => exact (canon_lane1 _ _ h : (execMov m o s).Canon)
  | cvt m o => exact (canon_lane1 _ _ h : (execCvt m o s).Canon)
  | sel m o => exact canon_execSel m o h
  | plog m o => exact (canon_lane3 _ _ h : (execPlog m o s).Canon)
  | rdl m o => exact (canon_laneStep _ _ h : (execRdl m o s).Canon)
  | amov m o => exact canon_execAmov m o h
  | pack m o => exact (canon_laneStep _ _ h : (execPack m o s).Canon)
  | unpack m o => exact (canon_lane1 _ _ h : (execUnpack m o s).Canon)
  | rcp m o => exact (canon_lane1 _ _ h : (execRcp m o s).Canon)
  | rsqrt m o => exact (canon_lane1 _ _ h : (execRsqrt m o s).Canon)
  | sqrt m o => exact (canon_lane1 _ _ h : (execSqrt m o s).Canon)
  | ex2 m o => exact (canon_lane1 _ _ h : (execEx2 m o s).Canon)
  | lg2 m o => exact (canon_lane1 _ _ h : (execLg2 m o s).Canon)
  | sin m o => exact (canon_lane1 _ _ h : (execSin m o s).Canon)
  | cos m o => exact (canon_lane1 _ _ h : (execCos m o s).Canon)
  | tanh m o => exact (canon_lane1 _ _ h : (execTanh m o s).Canon)
  | exsm m o => exact (canon_lane1 _ _ h : (execExsm m o s).Canon)
  | fdiv m o => exact (canon_lane2 _ _ h : (execFdiv m o s).Canon)
  | vote m o => exact canon_execVote m o h
  | shfl m o => exact canon_execShfl m o h
  | lred m o => exact canon_execLred m o h
  | qx m o => exact (canon_laneStep _ _ h : (execQx m o s).Canon)
  | pset m o => exact canon_execPset m o h
  | perm m o => exact canon_execPerm m o h
  | bcast m o => exact (canon_laneStep _ _ h : (execBcast m o s).Canon)
  | ld m o => exact canon_execLd m o h
  | st m o => exact canon_execSt m o h
  | ldb m o => exact canon_execLdb m o h
  | stb m o => exact (canon_storeOp _ _ _ _ h : (execStb m o s).Canon)
  | cpy m o => exact (canon_copyIssue _ _ _ _ _ h : (execCpy m o s).Canon)
  | cpyg m o => exact (canon_gatherIssue _ _ _ _ _ _ _ h : (execCpyg m o s).Canon)
  | cpys m o => exact canon_execCpys m o h
  | cpyf m o => exact (canon_copyIssue _ _ _ _ _ h : (execCpyf m o s).Canon)
  | coll m o => exact canon_execColl m o h
  | atom m o => exact (canon_atomIssue _ _ _ _ h : (execAtom m o s).Canon)
  | cas m o => exact (canon_atomIssue _ _ _ _ h : (execCas m o s).Canon)
  | waitv m o => exact canon_execWaitv m o h
  | wake m o => exact canon_execWake m o h
  | fence m o => exact canon_execFence m o h
  | bar o => exact (canon_barStep _ h : (execBar o s).Canon)
  | gbar o => exact (canon_barStep _ h : (execGbar o s).Canon)
  | phbarInit o => exact canon_execPhbarInit o h
  | phbarArr o => exact canon_execPhbarArr o h
  | phbarQuit o => exact canon_execPhbarQuit o h
  | phbarWait o => exact canon_execPhbarWait o h
  | phbarTest o => exact canon_execPhbarTest o h
  | phbarGen o => exact canon_execPhbarGen o h
  | qfence o => exact canon_execQfence o h
  | mma m o => exact canon_execMma m o h
  | mmq m o => exact canon_execMmq m o h
  | mrd m o => exact canon_execMrd m o h
  | mwr m o => exact canon_execMwr m o h
  | mclr o => exact canon_execMclr o h
  | cor m o => exact canon_execCor m o h
  | corq m o => exact canon_execCorq m o h
  | gram m o => exact canon_execGram m o h
  | trsv m o => exact canon_execTrsv m o h
  | attn m o => exact canon_execAttn m o h
  | kvalloc m o => exact (canon_kvIssue _ _ _ _ _ _ h : (execKvalloc m o s).Canon)
  | kvcommit m o => exact (canon_kvIssue _ _ _ _ _ _ h : (execKvcommit m o s).Canon)
  | kvrel m o => exact (canon_kvIssue _ _ _ _ _ _ h : (execKvrel m o s).Canon)
  | kvlink m o => exact (canon_kvIssue _ _ _ _ _ _ h : (execKvlink m o s).Canon)
  | kvchk m o => exact (canon_kvIssue _ _ _ _ _ _ h : (execKvchk m o s).Canon)
  | swarm o => exact canon_execSwarm o h
  | swreq o => exact (canon_handleIssue _ _ h : (execSwreq o s).Canon)
  | swcan o => exact (canon_handleIssue _ _ h : (execSwcan o s).Canon)
  | swst o => exact (canon_handleIssue _ _ h : (execSwst o s).Canon)
  | shedj o => exact canon_execShedj o h
  | cbs o => exact canon_execCbs o h
  | cbr o => exact canon_execCbr o h
  | cbw o => exact canon_execCbw o h
  | segld seg o => exact canon_execSegld seg o h
  | rte o => exact canon_execRte o h
  | srw reg o => exact canon_execSrw reg o h
  | mapld o => exact canon_execMapld o h
  | tlbi form o => exact canon_execTlbi form o h
  | clauseStart => exact canon_execClauseStart h
  | ifetchFill => exact canon_execIfetchFill h
  | yieldResume => exact canon_execYieldResume h
  | loadReturn id => exact canon_execLoadReturn id h
  | atomicPerform id => exact canon_execAtomicPerform id h
  | waitvTimeout id => exact canon_execWaitvTimeout id h
  | engineCommandStart id => exact canon_execEngineCommandStart id h
  | copyUnitWrite id => exact canon_execCopyUnitWrite id h
  | commandComplete id => exact canon_execCommandComplete id h
  | quartetRendezvous gid => exact canon_execQuartetRendezvous gid h
  | leaveGrant id => exact canon_execLeaveGrant id h
  | sideQueueHandover core => exact canon_execSideQueueHandover core h
  | attnEngineHandoff die => exact canon_execAttnEngineHandoff die h
  | attnHeaderArrival engine => exact canon_execAttnHeaderArrival engine h
  | attnBlockProcess engine => exact canon_execAttnBlockProcess engine h
  | translationFault id => exact canon_execTranslationFault id h
  | upcallPost ctx pager => exact canon_execUpcallPost ctx pager h
  | pagerAnswer ctx pager => exact canon_execPagerAnswer ctx pager h
  | shootdownAck key unit => exact canon_execShootdownAck key unit h
  | readBufferInvalidation die line => exact canon_execReadBufferInvalidation die line h
  | growGrant core slice => exact canon_execGrowGrant core slice h
  | growDeny core => exact canon_execGrowDeny core h
  | watchdogExpiry gid => exact canon_execWatchdogExpiry gid h
  | groupRetire gid => exact canon_execGroupRetire gid h
  | teamRelease grid gang team => exact canon_execTeamRelease grid gang team h
  | gridEnd grid => exact canon_execGridEnd grid h
  | launchEntryConsume queue => exact canon_execLaunchEntryConsume queue h
  | fileLoad queue => exact canon_execFileLoad queue h
  | gangPlace grid gang => exact canon_execGangPlace grid gang h
  | preemptGang grid gang => exact canon_execPreemptGang grid gang h
  | gangRestore grid gang => exact canon_execGangRestore grid gang h
  | contextSwitch ctx => exact (canon_switchCtx _ _ h : (execContextSwitch ctx s).Canon)
  | contextTeardown ctx => exact canon_execContextTeardown ctx h
  | refreshSlot stack => exact canon_execRefreshSlot stack h
  | sweepInstall key stack => exact canon_execSweepInstall key stack h
  | sweepArmPoint key => exact canon_execSweepArmPoint key h
  | stackSensorSample stack temp => exact canon_execStackSensorSample stack temp h
  | selfRefreshEntry stack => exact canon_execSelfRefreshEntry stack h
  | selfRefreshExit stack => exact canon_execSelfRefreshExit stack h
  | shedJobStart stack core => exact canon_execShedJobStart stack core h
  | shedJobEnd stack core => exact canon_execShedJobEnd stack core h
  | cribStart crib => exact canon_execCribStart crib h
  | widen crib => exact canon_execWiden crib h
  | cribIdleDiscard crib => exact canon_execCribIdleDiscard crib h
  | txgo core => exact (canon_storeTxgo _ h : (execTxgo core s).Canon)
  | rxpop core => exact (canon_storeRxpop _ h : (execRxpop core s).Canon)
  | stepBudgetExpiry core => exact canon_execStepBudgetExpiry core h
  | episodeFaultKill core reason => exact canon_execEpisodeFaultKill core reason h
  | cbwTimeout id => exact canon_execCbwTimeout id h
  | breakpointHit => exact canon_execBreakpointHit h
  | stop ctx gid => exact canon_execStop ctx gid h
  | step ctx gid focus n => exact canon_execStep ctx gid focus n h
  | resume ctx gid => exact canon_execResume ctx gid h
  | portRegRead ctx gid reg => exact canon_execPortRegRead ctx gid reg h
  | portRegWrite ctx gid reg mask value => exact canon_execPortRegWrite ctx gid reg mask value h
  | portMemRead ctx gid sp addr len => exact canon_execPortMemRead ctx gid sp addr len h
  | portMemWrite ctx gid sp addr data => exact canon_execPortMemWrite ctx gid sp addr data h
  | queueStopWrite core value => exact canon_execQueueStopWrite core value h
  | dbiWrite core n value => exact canon_execDbiWrite core n value h
  | registerWrite reg => exact canon_execRegisterWrite reg h
  | hostBar2Access write pa len data => exact canon_execHostBar2Access write pa len data h
  | fabricRemoteAccess access => exact canon_execFabricRemoteAccess access h
  | burstReceive burst data => exact canon_execBurstReceive burst data h
  | burstCrcFail lane burst => exact canon_execBurstCrcFail lane burst h
  | laneRepair lane => exact canon_execLaneRepair lane h
  | linkDown reason seq => exact canon_execLinkDown reason seq h
  | collContribution comm chunk rank desc data => exact canon_execCollContribution comm chunk rank desc data h
  | nvmeRequest pair data flaws => exact canon_execNvmeRequest pair data flaws h
  | nvmeCompletion pair => exact canon_execNvmeCompletion pair h
  | patrolScrub stack scan => exact canon_execPatrolScrub stack scan h
  | rowRepair row => exact canon_execRowRepair row h
  | dieSensorSample unit temp => exact canon_execDieSensorSample unit temp h
  | stallSample core slice => exact canon_execStallSample core slice h
  | sampleDrain core slice => exact canon_execSampleDrain core slice h
  | deviceStart failed dies => exact canon_execDeviceStart failed dies
  | mmexit => exact (canon_setMmexit h : (execMmexit s).Canon)
  | firmwareImageWrite digests version signatures => exact canon_execFirmwareImageWrite digests version signatures h
  | getMeasurements => exact canon_execGetMeasurements h
  | contextLetBack ctx => exact (canon_switchCtx _ _ h : (execContextLetBack ctx s).Canon)
  | fabricLinkRetrain lanes => exact canon_execFabricLinkRetrain lanes h
  | communicatorDestroy comm => exact canon_execCommunicatorDestroy comm h
  | launchQueueReset queue => exact canon_execLaunchQueueReset queue h
  | paddockCoreHardError core => exact canon_execPaddockCoreHardError core h

/-! ### Turns -/

theorem canon_issueOne (i : Instr) (h : s.Canon) : (issueOne i s).Canon := by
  have hi := canon_exec i h
  grind [issueOne, Out.Canon, canon_afterIssue]

theorem canon_issuePair (i j : Instr) (h : s.Canon) : (issuePair i j s).Canon := by
  have hi := canon_exec i h
  have hj : ∀ t : State, t.Canon → Out.Canon (exec j t) := fun t ht => canon_exec j ht
  grind [issuePair, Out.Canon, canon_afterIssue]

theorem canon_halted (h : s.Canon) : s.halted.Canon := canon_emit _ (canon_modCur _ h)

theorem canon_stopOr {r : Out} (h : s.Canon) (hr : r.Canon) : (stopOr s r).Canon := by
  cases r with
  | next t => grind [stopOr, Out.Canon, canon_halted]
  | fault _ => exact hr
  | refused _ => exact hr

theorem canon_turn (h : s.Canon) : (turn s).Canon := by
  unfold turn
  split
  case h_1 i _ =>
    split
    · exact canon_stopOr h (canon_issueOne i h)
    · exact canon_issueOne i h
  case h_2 i j _ => exact canon_issuePair i j h
  case h_3 r _ => exact canon_hold r h
  case h_4 => exact canon_halted h
  case h_5 => exact h

/-! ### Requests to a shut stack (R383, R385) -/

theorem canon_enqueue (arrives : Bool) (t : Turn) (n : Nat) (h : s.Canon) : (s.enqueue arrives t n).Canon := by
  unfold State.enqueue
  dsimp only
  split
  · exact h
  · exact canon_setStack _ _ h

theorem canon_holdTurn (arrives : Bool) (t : Turn) (ns : List Nat) (h : s.Canon) : (s.holdTurn arrives t ns).Canon := by
  have hq := canon_foldl (f := fun s n => State.enqueue s arrives t n) (fun _ _ hu => canon_enqueue _ _ _ hu) ns h
  unfold State.holdTurn
  split
  · exact canon_hold _ (canon_focus _ hq)
  · exact hq
  · dsimp only
    split
    · exact hq
    · exact canon_notNow

theorem canon_gateTurn (arrives : Bool) (t : Turn) {r : Out} (h : s.Canon) (hr : r.Canon) :
    (s.gateTurn arrives t r).Canon := by
  unfold State.gateTurn
  split
  case h_1 u =>
    split
    · exact hr
    · split
      · exact ⟨(hr : u.Canon).wf⟩
      · exact canon_holdTurn _ _ _ h
  case h_2 => exact hr

theorem canon_gate (t : Turn) {r : Out} (h : s.Canon) (hr : r.Canon) : (s.gate t r).Canon := canon_gateTurn true t h hr

theorem canon_refreshStall (gid : Nat) (h : s.Canon) : (s.refreshStall gid).Canon := canon_modGroup _ _ h

theorem canon_refreshSlice (core slice : Nat) (h : s.Canon) : (s.refreshSlice core slice).Canon :=
  canon_foldl (fun _ gid hu => canon_refreshStall gid hu) _ h

theorem canon_device (i : Instr) (h : s.Canon) : (s.device i).Canon := by
  unfold State.device
  split
  · exact canon_exec _ (canon_refreshSlice _ _ h)
  · exact canon_exec _ h

theorem canon_run (t : Turn) (h : s.Canon) : (s.run t).Canon := by
  cases t with
  | issue gid =>
    rw [State.run]
    split
    · exact canon_turn (canon_focus gid h)
    · exact h
  | slice _ _ => exact h
  | hart core => exact canon_hartStep core h
  | event i => exact canon_device i h
  | granule id => exact canon_nextGranule id h
  | upset u => exact canon_upset u h
  | linkRead key link => exact canon_linkRead key link h
  | certificates => exact canon_emit _ h

/-- A turn that waited for a stack, where it is performed or held once more. -/
theorem canon_released (t : Turn) (h : s.Canon) :
    (match s.gateTurn false t (s.run t) with | .next u => u | _ => s).Canon := by
  have hg := canon_gateTurn false t h (canon_run t h)
  split
  case h_1 u e =>
    rw [e] at hg
    exact hg
  case h_2 => exact h

theorem canon_release (n : Nat) (h : s.Canon) : (s.release n).Canon :=
  canon_foldl (fun _ t hu => canon_released t hu) _ (canon_setStack _ _ h)

theorem canon_releaseAll (h : s.Canon) : s.releaseAll.Canon := by
  unfold State.releaseAll
  split
  · exact canon_focus _ (canon_foldl (fun _ n hu => canon_release n hu) _ h)
  · exact h

theorem canon_take (t : Turn) (h : s.Canon) : (s.take t).Canon := by
  have hg := canon_gate t h (canon_run t h)
  unfold State.take
  split
  case h_1 u e =>
    rw [e] at hg
    exact canon_releaseAll hg
  case h_2 => exact hg

/-! ### Steps -/

theorem canon_tick (h : s.Canon) : s.tick.Canon := ⟨(canon_noteStamps (canon_tellQueues (canon_sweepDue h))).wf⟩

theorem canon_act (h : s.Canon) : Out.Canon (act s) := by
  unfold act
  split
  · exact canon_gate _ h (canon_turn h)
  · next rest _ =>
    have hs : State.Canon { s with agenda := rest } := ⟨h.wf⟩
    dsimp only
    split
    · split
      · exact canon_take _ hs
      · exact hs
    · exact canon_take _ hs

/-- Memory stays canonical over one step of the device, whatever stands at the front of its agenda. -/
theorem canon_deviceStep (h : s.Canon) : Out.Canon (step s) := by
  have ha := canon_act h
  unfold step
  split
  case h_1 t e =>
    rw [e] at ha
    exact canon_tick ha
  case h_2 => exact ha

/-- Settles O6: what an instruction or a turn does reaches memory only through the writes that keep it canonical. -/
theorem stepKeepsMemoryCanonical : Obligations.StepKeepsMemoryCanonical := by
  intro s t h e
  have hc := canon_deviceStep ⟨h⟩
  rw [e] at hc
  exact State.Canon.wf hc

end Sys2Proof.Machine
end
